-- ==== Sys2Proof/Word.lean ====
section
/-! DEFINITION. The words of the machine (R10), its sparse tables and the names of the agents that execute steps. -/

namespace Sys2Proof

/-- A byte (R10). -/
abbrev Byte := BitVec 8
/-- A register field of an instruction word (R168). -/
abbrev Field := BitVec 7
/-- A word (R10). -/
abbrev Word32 := BitVec 32
/-- A doubleword (R10). -/
abbrev Word64 := BitVec 64

/-- A sparse table: key and value pairs in strictly rising key order. -/
abbrev SMap (α : Type) := List (Nat × α)

/-- The agents that execute instructions (R143): a vector thread of a workgroup, the Scribe context of a
workgroup, or a control context of the Hearth (R324).
A workgroup is named by its place in `State.wgs`. -/
inductive Agent where
  | vthread (wg tid : Nat)
  | scribe (wg : Nat)
  | control (n : Nat)
  deriving DecidableEq, Repr, Inhabited

end Sys2Proof
end

