-- ==== Sys2Proof/Machine/Sparse.lean ====
section
/-! DEFINITION. Operations on sparse tables, on lists used as sets, and on bit fields of numbers. -/

namespace Sys2Proof

/-- The value at a key, if the table lists it. -/
def SMap.find {α : Type} : SMap α → Nat → Option α
  | [], _ => none
  | (k, v) :: m, x => if k = x then some v else SMap.find m x

/-- The value at a key, or `d` where the table lists none. -/
def SMap.get {α : Type} (d : α) (m : SMap α) (k : Nat) : α := (SMap.find m k).getD d

/-- The table without a key. -/
def SMap.erase {α : Type} : SMap α → Nat → SMap α
  | [], _ => []
  | (k, v) :: m, x => if k = x then m else (k, v) :: SMap.erase m x

/-- The table with a key set, keys kept in rising order. -/
def SMap.put {α : Type} : SMap α → Nat → α → SMap α
  | [], x, y => [(x, y)]
  | (k, v) :: m, x, y =>
    if x < k then (x, y) :: (k, v) :: m
    else if k = x then (x, y) :: m
    else (k, v) :: SMap.put m x y

/-- The table with a key set, where a key holding `d` is not listed: the canonical form. -/
def SMap.putD {α : Type} [DecidableEq α] (d : α) (m : SMap α) (k : Nat) (v : α) : SMap α :=
  if v = d then SMap.erase m k else SMap.put m k v

/-- Insertion into an ascending list without repeats. -/
def insertAsc : List Nat → Nat → List Nat
  | [], x => [x]
  | y :: l, x => if x < y then x :: y :: l else if x = y then y :: l else y :: insertAsc l x

def SMap.keys {α : Type} (m : SMap α) : List Nat := m.map (·.1)

/-- The keys at which two tables read differently. -/
def SMap.diff {α : Type} [DecidableEq α] (d : α) (m n : SMap α) : List Nat :=
  ((SMap.keys m ++ SMap.keys n).foldl insertAsc []).filter fun k => SMap.get d m k != SMap.get d n k

def SMap.vals {α : Type} (m : SMap α) : List α := m.map (·.2)

/-- Strictly rising keys, none holding the default. -/
def SMap.wf {α : Type} [DecidableEq α] (d : α) : SMap α → Bool
  | [] => true
  | [(_, v)] => v ≠ d
  | (k, v) :: (k', v') :: m => v ≠ d && decide (k < k') && SMap.wf d ((k', v') :: m)

/-- Bits [hi:lo] of a number (R11). -/
def bits (x hi lo : Nat) : Nat := (x >>> lo) % 2 ^ (hi + 1 - lo)
/-- Bit n of a number. -/
def bitAt (x n : Nat) : Bool := (x >>> n) % 2 == 1
/-- A number with bits [hi:lo] replaced. -/
def setBits (x hi lo v : Nat) : Nat :=
  x - (bits x hi lo) * 2 ^ lo + (v % 2 ^ (hi + 1 - lo)) * 2 ^ lo
/-- A w-bit number read as two's complement. -/
def toSigned (w x : Nat) : Int := if x % 2 ^ w < 2 ^ (w - 1) then ((x % 2 ^ w : Nat) : Int) else ((x % 2 ^ w : Nat) : Int) - (2 ^ w : Nat)
/-- Sign extension of a w-bit number to n bits. -/
def sextNat (w n x : Nat) : Nat := ((toSigned w x) % (2 ^ n : Nat)).toNat
/-- An integer modulo 2^n. -/
def wrap (n : Nat) (x : Int) : Nat := (x % ((2 ^ n : Nat) : Int)).toNat

/-- A little-endian number from its bytes (R10). -/
def ofBytes : List Byte → Nat
  | [] => 0
  | b :: l => b.toNat + 256 * ofBytes l
/-- The n low bytes of a number, lowest first (R10). -/
def toBytes : Nat → Nat → List Byte
  | 0, _ => []
  | n + 1, x => BitVec.ofNat 8 x :: toBytes n (x / 256)

/-- XOR of the bits of x at lo, lo + step, …, below 52 (R117, R129). -/
def xorFold (x lo step : Nat) : Nat :=
  ((List.range 52).filter (fun k => lo + step * k ≤ 51)).foldl (fun acc k => (acc + (x >>> (lo + step * k)) % 2) % 2) 0

/-- The number of 1 bits among the low n bits. -/
def popCount : Nat → Nat → Nat
  | 0, _ => 0
  | n + 1, x => x % 2 + popCount n (x / 2)

/-- The position of the leading 1 bit plus one, 0 for 0. -/
def bitLen (x : Nat) : Nat := if x = 0 then 0 else x.log2 + 1

def b2n (b : Bool) : Nat := if b then 1 else 0

end Sys2Proof
end

