-- ==== Sys2Proof/Syntax.lean ====
section
/-! DEFINITION. The steps of the part: one constructor for each row of spec/opcode_table.json.
First the 241 instruction words with fields (R167, R172), which they carry, then the 8 without, then the 110 acts of
the units of the part (spec/95) and carry what names the act. -/

namespace Sys2Proof

/-- One step of the part. -/
inductive Instr where
  | block (p : BitVec 12) (l : BitVec 8) (f : BitVec 2) (c : BitVec 1)
  | add (d a b : Field)
  | sub (d a b : Field)
  | and (d a b : Field)
  | or (d a b : Field)
  | xor (d a b : Field)
  | andn (d a b : Field)
  | shl (d a b : Field)
  | shr (d a b : Field)
  | sar (d a b : Field)
  | rotl (d a b : Field)
  | min (d a b : Field)
  | max (d a b : Field)
  | minu (d a b : Field)
  | maxu (d a b : Field)
  | adds (d a b : Field)
  | subs (d a b : Field)
  | mul (d a b : Field)
  | mulh (d a b : Field)
  | mulhu (d a b : Field)
  | mad (d a b : Field)
  | div (d a b : Field)
  | divu (d a b : Field)
  | rem (d a b : Field)
  | remu (d a b : Field)
  | seq (d a b : Field)
  | sne (d a b : Field)
  | slt (d a b : Field)
  | sge (d a b : Field)
  | sltu (d a b : Field)
  | sgeu (d a b : Field)
  | mov (d a : Field)
  | not (d a : Field)
  | neg (d a : Field)
  | abs (d a : Field)
  | clz (d a : Field)
  | ctz (d a : Field)
  | popc (d a : Field)
  | brev (d a : Field)
  | sxb (d a : Field)
  | sxh (d a : Field)
  | zxb (d a : Field)
  | zxh (d a : Field)
  | bswap (d a : Field)
  | sel (d a b : Field)
  | bfx (d a b : Field)
  | bfxu (d a b : Field)
  | bfi (d a b : Field)
  | addi (d a : Field) (i : BitVec 11)
  | andi (d a : Field) (i : BitVec 11)
  | ori (d a : Field) (i : BitVec 11)
  | xori (d a : Field) (i : BitVec 11)
  | shli (d a : Field) (i : BitVec 11)
  | shri (d a : Field) (i : BitVec 11)
  | sari (d a : Field) (i : BitVec 11)
  | slti (d a : Field) (i : BitVec 11)
  | sltui (d a : Field) (i : BitVec 11)
  | muli (d a : Field) (i : BitVec 11)
  | movi (d : Field) (i : BitVec 18)
  | movhi (d : Field) (i : BitVec 18)
  | pcadr (d : Field) (i : BitVec 18)
  | fadd (d a b : Field)
  | fsub (d a b : Field)
  | fmul (d a b : Field)
  | fma (d a b : Field)
  | fnma (d a b : Field)
  | fmin (d a b : Field)
  | fmax (d a b : Field)
  | fminm (d a b : Field)
  | fmaxm (d a b : Field)
  | fcpsgn (d a b : Field)
  | feq (d a b : Field)
  | flt (d a b : Field)
  | fle (d a b : Field)
  | fun (d a b : Field)
  | fclass (d a : Field)
  | fabs (d a : Field)
  | fneg (d a : Field)
  | fsqrt (d a : Field)
  | frcp (d a : Field)
  | frsq (d a : Field)
  | fex2 (d a : Field)
  | flg2 (d a : Field)
  | fsinp (d a : Field)
  | fcosp (d a : Field)
  | ftanh (d a : Field)
  | fflr (d a : Field)
  | fceil (d a : Field)
  | ftrc (d a : Field)
  | frnd (d a : Field)
  | hadd2 (d a b : Field)
  | hsub2 (d a b : Field)
  | hmul2 (d a b : Field)
  | hfma2 (d a b : Field)
  | hmin2 (d a b : Field)
  | hmax2 (d a b : Field)
  | hdot2 (d a b : Field)
  | badd2 (d a b : Field)
  | bsub2 (d a b : Field)
  | bmul2 (d a b : Field)
  | bfma2 (d a b : Field)
  | bmin2 (d a b : Field)
  | bmax2 (d a b : Field)
  | bdot2 (d a b : Field)
  | cvt (s : BitVec 1) (r : BitVec 3) (d a k : Field)
  | dadd (d a b : Field)
  | dsub (d a b : Field)
  | dmul (d a b : Field)
  | dfma (d a b : Field)
  | dmin (d a b : Field)
  | dmax (d a b : Field)
  | deq (d a b : Field)
  | dlt (d a b : Field)
  | dle (d a b : Field)
  | ladd (d a b : Field)
  | lsub (d a b : Field)
  | lmul (d a b : Field)
  | lshl (d a b : Field)
  | lshr (d a b : Field)
  | lsar (d a b : Field)
  | cmake (d a : Field)
  | join (d a : Field)
  | leave (a : Field)
  | csize (d a : Field)
  | bara (a : Field)
  | pbara (b : Field)
  | barw (a : Field)
  | pbarw (b : Field)
  | cradd (d a : Field)
  | crfadd (d a : Field)
  | crmin (d a : Field)
  | crmax (d a : Field)
  | cscan (d a : Field)
  | cfscan (d a : Field)
  | cbcast (d a b : Field)
  | xperm (d a b : Field)
  | cshuf (d a b : Field)
  | send (a b : Field)
  | recv (d b : Field)
  | chpoll (d b : Field)
  | ldb (d a : Field) (i : BitVec 11)
  | ldbu (d a : Field) (i : BitVec 11)
  | ldh (d a : Field) (i : BitVec 11)
  | ldhu (d a : Field) (i : BitVec 11)
  | ldw (d a : Field) (i : BitVec 11)
  | ldd (d a : Field) (i : BitVec 11)
  | ldq (d a : Field) (i : BitVec 11)
  | stb (d a : Field) (i : BitVec 11)
  | sth (d a : Field) (i : BitVec 11)
  | stw (d a : Field) (i : BitVec 11)
  | std (d a : Field) (i : BitVec 11)
  | stq (d a : Field) (i : BitVec 11)
  | ldaq (s z : BitVec 2) (d a : Field)
  | strl (s z : BitVec 2) (d a : Field)
  | fence (k s : BitVec 2)
  | atomAdd (s : BitVec 2) (d a b : Field)
  | atomMin (s : BitVec 2) (d a b : Field)
  | atomMax (s : BitVec 2) (d a b : Field)
  | atomMinu (s : BitVec 2) (d a b : Field)
  | atomMaxu (s : BitVec 2) (d a b : Field)
  | atomAnd (s : BitVec 2) (d a b : Field)
  | atomOr (s : BitVec 2) (d a b : Field)
  | atomXor (s : BitVec 2) (d a b : Field)
  | atomSwap (s : BitVec 2) (d a b : Field)
  | atomCas (s : BitVec 2) (d a b : Field)
  | atomIncw (s : BitVec 2) (d a b : Field)
  | atomFadd (s : BitVec 2) (d a b : Field)
  | atomHadd2 (s : BitVec 2) (d a b : Field)
  | atomLadd (s : BitVec 2) (d a b : Field)
  | atomLcas (s : BitVec 2) (d a b : Field)
  | waitge (d a b : Field)
  | waitne (d a b : Field)
  | waiteq (d a b : Field)
  | ldsub (d a b : Field)
  | ldsubD (d a b : Field)
  | unsub (d b : Field)
  | slotwait (d a b : Field)
  | slotrd (d b : Field)
  | slotst (d b : Field)
  | copy (a b : Field)
  | copyt (a : Field)
  | pref (a : Field)
  | ldel (d a b : Field)
  | ldeli (d a b : Field)
  | stel (d a b : Field)
  | ptload (a b : Field)
  | ptread (d a b : Field)
  | br (o : BitVec 18)
  | bnz (a : Field) (o : BitVec 18)
  | bz (a : Field) (o : BitVec 18)
  | call (a : Field) (o : BitVec 18)
  | jmpr (a : Field)
  | callr (d a : Field)
  | spawn (d a b : Field)
  | launch (d a : Field)
  | setwb (a : Field)
  | grow (d a : Field)
  | shrink (a : Field)
  | rdtime (d : Field)
  | rdcyc (d : Field)
  | rdncyc (d : Field)
  | rdlrw (d a : Field)
  | emitvp (a : Field)
  | blnd (a : Field)
  | depthw (a : Field)
  | rayq (a b : Field)
  | mzero (d : Field)
  | mmd (d a b : Field)
  | mmp (d a b : Field)
  | mstore (d a b : Field)
  | mldw (d a : Field)
  | mstw (d a : Field)
  | mflag (d a : Field)
  | mcomp (a b : Field)
  | mrows (a : Field)
  | mcols (a : Field)
  | tdset (d a : Field)
  | tdget (a b : Field)
  | tdclr (d : Field)
  | trap (i : BitVec 18)
  | brk (i : BitVec 18)
  | csrr (d : Field) (c : BitVec 12)
  | csrw (d : Field) (c : BitVec 12)
  | ptupd (d a : Field)
  | rgnflush (d a : Field)
  | ownxfer (d a b : Field)
  | rgnq (d a : Field)
  | pstep (d a b : Field)
  | wgsave (d a b : Field)
  | wgload (d a b : Field)
  | wgmigr (d a b : Field)
  | wgkill (d a : Field)
  | resume (d a b : Field)
  | thkill (d a : Field)
  | lwopen (d a : Field)
  | lwclose (d a : Field)
  | chbind (d a b : Field)
  | pbset (d a b : Field)
  | dierd (d a : Field)
  | diewr (d a b : Field)
  | linktrn (d a : Field)
  | icinvCore
  | icinvDie
  | icinvDev
  | icinvSys
  | exit
  | discard
  | eret
  | wfi
  | channelSendResume (wg ch : Nat)
  | waitReread (ag : Agent)
  | subscriptionPush (sub : Nat)
  | unsubComplete (sub : Nat)
  | copySlicePerform (op : Nat)
  | copytPerform (op : Nat)
  | rayQueryComplete (q : Nat)
  | matrixOpPerform (cid : Nat)
  | ownxferComplete (form : Nat)
  | relockEnd (die : Nat)
  | larderDigestDone (die : Nat)
  | packageReset
  | bootImageFetch (image : List Byte)
  | fuseMinverRaise (v : Nat)
  | attestationReport (nonce : List Byte) (dest : Nat)
  | ctxcfgWrite (n : Nat) (v : Word64)
  | controlEventTake (n : Nat)
  | etcmpExpiry (n : Nat)
  | faultLogPost (post : Nat)
  | flogTailWrite (log v : Nat)
  | flogConfigWrite (log : Nat) (size : Bool) (v : Word64)
  | bworldWrite (die cg : Nat) (v : Word64)
  | bworldTakeEffect (die block : Nat)
  | lscfgWrite (die cg : Nat) (v : Word64)
  | lscfgAdopt (cid : Nat)
  | accxWrite (die : Nat) (v : Word64)
  | cpyownWrite (die e : Nat) (v : Word64)
  | encownWrite (die e : Nat) (v : Word64)
  | fabctlWrite (v : Word64)
  | rotEntryWrite (i : Nat) (v : Word64)
  | registerWrite (block off : Nat) (v : Word64)
  | qctlWrite (part q : Nat) (v : Word32)
  | queueRecordTake (part q : Nat)
  | deviceLaunchTake (part : Nat)
  | launchDependenceMet (part lid : Nat)
  | dispatcherReport (die : Nat)
  | workgroupRunHandoff (part lid : Nat)
  | workgroupPlace (part lid wid : Nat)
  | launchComplete (part lid : Nat)
  | nibBatchFormation (cid : Nat)
  | fillTimerExpiry (cid baddr : Nat)
  | entryAgeForce (cid baddr : Nat)
  | faultedThreadRecord (cid : Nat)
  | placementRetry (wg tid : Nat)
  | spillReload (cid : Nat)
  | spillSwap (cid : Nat)
  | quantumBoundary (part : Nat)
  | workgroupSave (wg : Nat)
  | workgroupRestore (wg cid : Nat)
  | forwardedItem (cid : Nat)
  | forwardingDrainAck (cid : Nat)
  | cgmaskMemberWrite (part die : Nat) (v : Word64)
  | cgmaskDepartWrite (part die : Nat) (v : Word64)
  | departureComplete (die cg : Nat)
  | homeReadRequest (cid line : Nat) (words : Word32)
  | homeOwnershipRequest (cid line : Nat) (words : Word32)
  | homeWriteback (cid line : Nat) (words : Word32)
  | homeUReduction (cid line word kind : Nat) (v : Word32)
  | homeAckReceived (line cid : Nat)
  | l1Invalidation (cid line : Nat)
  | l1Recall (cid line : Nat)
  | l1Eviction (cid line : Nat)
  | larderRefreshStart (die g : Nat)
  | larderRefreshEnd (die g : Nat)
  | pageWalk (die part va : Nat)
  | adReport
  | ptupdWrite (part : Nat)
  | ptupdFill (part : Nat)
  | ptupdRead (part : Nat)
  | ptupdFlush (part : Nat)
  | ptupdSync (part : Nat)
  | ptupdPool (part : Nat)
  | shootdownComplete (part : Nat)
  | engineFault (kind op : Nat)
  | binningMeshlet (die cg : Nat)
  | visPacketArrival (pkt : Nat)
  | packetResend (pkt : Nat)
  | batchRetire (part bseq : Nat)
  | sealArrival (sl : Nat)
  | rasterInputFree (die cg : Nat)
  | rasterPacket (die cg : Nat)
  | fragmentSpawn (die cg : Nat)
  | blendFragment (frag : Nat)
  | pbarrierRootArrival (pb wg : Nat)
  | pbarrierRelease (pb : Nat)
  | dltoRecovery (port cls : Nat)
  | linkReplay (port attempts lost addr : Nat)
  | hostMemRead (addr : Nat) (own : Bool)
  | hostMemWrite (addr : Nat) (data : List Byte)
  | hostSnoop (addr : Nat)
  | peerInboundAccess (port off kind n : Nat) (data : List Byte)
  | mbinPost (part : Nat) (msg : BitVec 512)
  | mbinRelease (part : Nat)
  | mboutPost (part : Nat) (msg : BitVec 512)
  | mboutRelease (part : Nat)
  | displayEnable (part disp : Nat) (v : Word64)
  | displayHoldRelease (part disp : Nat) (v : Word64)
  | frameCapture (part disp : Nat)
  | frameEncodeDone (part disp : Nat)
  | streamEnable (part disp : Nat) (v : Word64)
  | streamDisable (part disp : Nat) (v : Word64)
  | powerUpComplete (die cg : Nat)
  | thermalTrip (die temp : Nat)
  | correctedError (die loc : Nat)
  | uncorrectableError (array addr : Nat)
  | dieOrderlyReset (die : Nat)
  | dieForcedReset (die : Nat)
  | dataReplyArrival (cid line : Nat)
  | peerCompletion (op : Nat)
  | spareRowCopyEnd (die loc : Nat)
  deriving DecidableEq, Repr, Inhabited

end Sys2Proof
end

