-- ==== Sys2Proof/WellFormed.lean ====
section
/-! DEFINITION. Well-formed instruction words: every literal field holds a value in its range (R170, R173, R226).
The bits of a field that a form does not use are no part of an instruction, and what depends on the executing side
is checked when the word executes (R177). -/

namespace Sys2Proof

/-- The conversion kinds R227 assigns. -/
def cvtKindOk (k : Field) : Bool :=
  let k := k.toNat
  k < 0x0C || (0x10 ≤ k && k < 0x1E) || (0x20 ≤ k && k < 0x24) || (0x30 ≤ k && k < 0x3E) || (0x40 ≤ k && k < 0x44)

/-- Rounding codes 6 and 7 are unassigned (R90). -/
def rndOk (r : BitVec 3) : Bool := decide (r.toNat < 6)

/-- Every literal field of an instruction word is in range. An act of a unit has no word. -/
def Instr.wellFormed : Instr → Bool
  | .cvt _ r _ _ k => rndOk r && cvtKindOk k
  | .pbara b => decide (b.toNat < 64)
  | .pbarw b => decide (b.toNat < 64)
  | .xperm _ _ b => decide (b.toNat < 32)
  | .ptload _ b => decide (b.toNat < 32)
  | .ptread _ _ b => decide (b.toNat < 32)
  | .send _ b => decide (b.toNat < 16)
  | .recv _ b => decide (b.toNat < 16)
  | .chpoll _ b => decide (b.toNat < 16)
  | .ldel _ _ b => decide (b.toNat < 64)
  | .ldeli _ _ b => decide (b.toNat < 64)
  | .stel _ _ b => decide (b.toNat < 64)
  | .mzero d => decide (d.toNat < 4)
  | .mldw d a => decide (d.toNat < 4) && decide (a.toNat < 64)
  | .mstw d a => decide (d.toNat < 4) && decide (a.toNat < 64)
  | .mstore d a _ => decide (d.toNat < 4) && decide (a.toNat < 64)
  | .mmd d a b => decide (d.toNat < 4) && decide (a.toNat < 64) && decide (b.toNat < 64)
  | .mmp d a b => decide (d.toNat < 4) && decide (a.toNat < 64) && decide (b.toNat < 64)
  | .mflag _ a => decide (a.toNat < 4)
  | .tdset d _ => decide (d.toNat < 64)
  | .tdclr d => decide (d.toNat < 64)
  | .tdget a _ => decide (a.toNat < 64)
  | _ => true

end Sys2Proof
end

