-- ==== Sys2Proof/Decode.lean ====
section
/-! DEFINITION. Decoding of instruction words (R167-R173, checks 1 to 3 of R177), total on any bytes and refusing by
name, and after it the encoder. -/

namespace Sys2Proof

/-- Why bytes are no instruction word. -/
inductive DecodeError where
  /-- Fewer than four bytes (R167). -/
  | truncated
  /-- Check 1 of R177: the opcode is unassigned. -/
  | opcode
  /-- Check 2 of R177: the function value is unassigned, or bits [17:12] of CSRR or CSRW are not 0. -/
  | function
  /-- Check 3 of R177: an unused field does not hold 127. -/
  | unusedField
  /-- Check 3 of R177: a literal field is out of range. -/
  | literal
  deriving DecidableEq, Repr

/-! The fields of a word (R167) -/

def opOf (w : Word32) : BitVec 7 := w.extractLsb' 25 7
def fnOf (w : Word32) : BitVec 4 := w.extractLsb' 21 4
/-- d, a and b of format RR. -/
def rrD (w : Word32) : Field := w.extractLsb' 14 7
def rrA (w : Word32) : Field := w.extractLsb' 7 7
def rrB (w : Word32) : Field := w.extractLsb' 0 7
/-- d, a and imm11 of format RI. -/
def riD (w : Word32) : Field := w.extractLsb' 18 7
def riA (w : Word32) : Field := w.extractLsb' 11 7
def riI (w : Word32) : BitVec 11 := w.extractLsb' 0 11
/-- imm18 of formats RW and BR, whose register field is that of RI. -/
def rwI (w : Word32) : BitVec 18 := w.extractLsb' 0 18

/-- What a decoding rule answers. -/
abbrev Decoded := Except DecodeError Instr

/-- A form that leaves a field unused: it must hold 127 (R168). -/
def unused (f : Field) (r : Decoded) : Decoded := if f = 127 then r else .error .unusedField

/-- A form whose literals must be in range (R170). -/
def literals (i : Instr) : Decoded := if i.wellFormed then .ok i else .error .literal

/-- BLOCK: every word with op = 0 is a header word (R34, R176). -/
def decodeBlock (w : Word32) : Decoded :=
  .ok (.block (w.extractLsb' 13 12) (w.extractLsb' 5 8) (w.extractLsb' 3 2) (w.extractLsb' 2 1))

/-- Opcode 0x01 (R172). -/
def decodeIalu (fn : BitVec 4) (d a b : Field) : Decoded :=
  match fn.toNat with
  | 0 => .ok (.add d a b)
  | 1 => .ok (.sub d a b)
  | 2 => .ok (.and d a b)
  | 3 => .ok (.or d a b)
  | 4 => .ok (.xor d a b)
  | 5 => .ok (.andn d a b)
  | 6 => .ok (.shl d a b)
  | 7 => .ok (.shr d a b)
  | 8 => .ok (.sar d a b)
  | 9 => .ok (.rotl d a b)
  | 10 => .ok (.min d a b)
  | 11 => .ok (.max d a b)
  | 12 => .ok (.minu d a b)
  | 13 => .ok (.maxu d a b)
  | 14 => .ok (.adds d a b)
  | 15 => .ok (.subs d a b)
  | _ => .error .function

/-- Opcode 0x02 (R172). -/
def decodeImul (fn : BitVec 4) (d a b : Field) : Decoded :=
  match fn.toNat with
  | 0 => .ok (.mul d a b)
  | 1 => .ok (.mulh d a b)
  | 2 => .ok (.mulhu d a b)
  | 3 => .ok (.mad d a b)
  | 4 => .ok (.div d a b)
  | 5 => .ok (.divu d a b)
  | 6 => .ok (.rem d a b)
  | 7 => .ok (.remu d a b)
  | _ => .error .function

/-- Opcode 0x03 (R172). -/
def decodeIcmp (fn : BitVec 4) (d a b : Field) : Decoded :=
  match fn.toNat with
  | 0 => .ok (.seq d a b)
  | 1 => .ok (.sne d a b)
  | 2 => .ok (.slt d a b)
  | 3 => .ok (.sge d a b)
  | 4 => .ok (.sltu d a b)
  | 5 => .ok (.sgeu d a b)
  | _ => .error .function

/-- Opcode 0x04 (R172). -/
def decodeIun (fn : BitVec 4) (d a b : Field) : Decoded :=
  match fn.toNat with
  | 0 => unused b (.ok (.mov d a))
  | 1 => unused b (.ok (.not d a))
  | 2 => unused b (.ok (.neg d a))
  | 3 => unused b (.ok (.abs d a))
  | 4 => unused b (.ok (.clz d a))
  | 5 => unused b (.ok (.ctz d a))
  | 6 => unused b (.ok (.popc d a))
  | 7 => unused b (.ok (.brev d a))
  | 8 => unused b (.ok (.sxb d a))
  | 9 => unused b (.ok (.sxh d a))
  | 10 => unused b (.ok (.zxb d a))
  | 11 => unused b (.ok (.zxh d a))
  | 12 => unused b (.ok (.bswap d a))
  | _ => .error .function

/-- Opcode 0x05 (R172). -/
def decodeSel (fn : BitVec 4) (d a b : Field) : Decoded :=
  match fn.toNat with
  | 0 => .ok (.sel d a b)
  | _ => .error .function

/-- Opcode 0x06 (R172). -/
def decodeBitf (fn : BitVec 4) (d a b : Field) : Decoded :=
  match fn.toNat with
  | 0 => .ok (.bfx d a b)
  | 1 => .ok (.bfxu d a b)
  | 2 => .ok (.bfi d a b)
  | _ => .error .function

/-- Opcode 0x18 (R172). -/
def decodeFalu (fn : BitVec 4) (d a b : Field) : Decoded :=
  match fn.toNat with
  | 0 => .ok (.fadd d a b)
  | 1 => .ok (.fsub d a b)
  | 2 => .ok (.fmul d a b)
  | 3 => .ok (.fma d a b)
  | 4 => .ok (.fnma d a b)
  | 5 => .ok (.fmin d a b)
  | 6 => .ok (.fmax d a b)
  | 7 => .ok (.fminm d a b)
  | 8 => .ok (.fmaxm d a b)
  | 9 => .ok (.fcpsgn d a b)
  | _ => .error .function

/-- Opcode 0x19 (R172). -/
def decodeFcmp (fn : BitVec 4) (d a b : Field) : Decoded :=
  match fn.toNat with
  | 0 => .ok (.feq d a b)
  | 1 => .ok (.flt d a b)
  | 2 => .ok (.fle d a b)
  | 3 => .ok (.fun d a b)
  | 4 => unused b (.ok (.fclass d a))
  | _ => .error .function

/-- Opcode 0x1A (R172). -/
def decodeFun1 (fn : BitVec 4) (d a b : Field) : Decoded :=
  match fn.toNat with
  | 0 => unused b (.ok (.fabs d a))
  | 1 => unused b (.ok (.fneg d a))
  | 2 => unused b (.ok (.fsqrt d a))
  | 3 => unused b (.ok (.frcp d a))
  | 4 => unused b (.ok (.frsq d a))
  | 5 => unused b (.ok (.fex2 d a))
  | 6 => unused b (.ok (.flg2 d a))
  | 7 => unused b (.ok (.fsinp d a))
  | 8 => unused b (.ok (.fcosp d a))
  | 9 => unused b (.ok (.ftanh d a))
  | 10 => unused b (.ok (.fflr d a))
  | 11 => unused b (.ok (.fceil d a))
  | 12 => unused b (.ok (.ftrc d a))
  | 13 => unused b (.ok (.frnd d a))
  | _ => .error .function

/-- Opcode 0x1B (R172). -/
def decodeHalf2 (fn : BitVec 4) (d a b : Field) : Decoded :=
  match fn.toNat with
  | 0 => .ok (.hadd2 d a b)
  | 1 => .ok (.hsub2 d a b)
  | 2 => .ok (.hmul2 d a b)
  | 3 => .ok (.hfma2 d a b)
  | 4 => .ok (.hmin2 d a b)
  | 5 => .ok (.hmax2 d a b)
  | 6 => .ok (.hdot2 d a b)
  | 8 => .ok (.badd2 d a b)
  | 9 => .ok (.bsub2 d a b)
  | 10 => .ok (.bmul2 d a b)
  | 11 => .ok (.bfma2 d a b)
  | 12 => .ok (.bmin2 d a b)
  | 13 => .ok (.bmax2 d a b)
  | 14 => .ok (.bdot2 d a b)
  | _ => .error .function

/-- CVT (R226): SAT in fn[3] and the rounding mode in fn[2:0]; codes 6 and 7 are unassigned functions. -/
def decodeCvt (fn : BitVec 4) (d a b : Field) : Decoded :=
  if rndOk (fn.extractLsb' 0 3) then literals (.cvt (fn.extractLsb' 3 1) (fn.extractLsb' 0 3) d a b) else .error .function

/-- Opcode 0x1D (R172). -/
def decodeDalu (fn : BitVec 4) (d a b : Field) : Decoded :=
  match fn.toNat with
  | 0 => .ok (.dadd d a b)
  | 1 => .ok (.dsub d a b)
  | 2 => .ok (.dmul d a b)
  | 3 => .ok (.dfma d a b)
  | 4 => .ok (.dmin d a b)
  | 5 => .ok (.dmax d a b)
  | 6 => .ok (.deq d a b)
  | 7 => .ok (.dlt d a b)
  | 8 => .ok (.dle d a b)
  | _ => .error .function

/-- Opcode 0x1E (R172). -/
def decodeLalu (fn : BitVec 4) (d a b : Field) : Decoded :=
  match fn.toNat with
  | 0 => .ok (.ladd d a b)
  | 1 => .ok (.lsub d a b)
  | 2 => .ok (.lmul d a b)
  | 3 => .ok (.lshl d a b)
  | 4 => .ok (.lshr d a b)
  | 5 => .ok (.lsar d a b)
  | _ => .error .function

/-- Opcode 0x20 (R172). -/
def decodeCoh (fn : BitVec 4) (d a b : Field) : Decoded :=
  match fn.toNat with
  | 0 => unused b (.ok (.cmake d a))
  | 1 => unused b (.ok (.join d a))
  | 2 => unused d (unused b (.ok (.leave a)))
  | 3 => unused b (.ok (.csize d a))
  | 4 => unused d (unused b (.ok (.bara a)))
  | 5 => unused d (unused a (literals (.pbara b)))
  | _ => .error .function

/-- Opcode 0x21 (R172). -/
def decodeCbar (fn : BitVec 4) (d a b : Field) : Decoded :=
  match fn.toNat with
  | 0 => unused d (unused b (.ok (.barw a)))
  | 1 => unused d (unused a (literals (.pbarw b)))
  | _ => .error .function

/-- Opcode 0x22 (R172). -/
def decodeCcol (fn : BitVec 4) (d a b : Field) : Decoded :=
  match fn.toNat with
  | 0 => unused b (.ok (.cradd d a))
  | 1 => unused b (.ok (.crfadd d a))
  | 2 => unused b (.ok (.crmin d a))
  | 3 => unused b (.ok (.crmax d a))
  | 4 => unused b (.ok (.cscan d a))
  | 5 => unused b (.ok (.cfscan d a))
  | 6 => .ok (.cbcast d a b)
  | 7 => literals (.xperm d a b)
  | 8 => .ok (.cshuf d a b)
  | _ => .error .function

/-- Opcode 0x23 (R172). -/
def decodeChan (fn : BitVec 4) (d a b : Field) : Decoded :=
  match fn.toNat with
  | 0 => unused d (literals (.send a b))
  | 1 => unused a (literals (.recv d b))
  | 2 => unused a (literals (.chpoll d b))
  | _ => .error .function

/-- LDAQ: scope in fn[3:2], size in fn[1:0] (R173). -/
def decodeLdaq (fn : BitVec 4) (d a b : Field) : Decoded :=
  unused b (.ok (.ldaq (fn.extractLsb' 2 2) (fn.extractLsb' 0 2) d a))

/-- STRL: scope in fn[3:2], size in fn[1:0] (R173). -/
def decodeStrl (fn : BitVec 4) (d a b : Field) : Decoded :=
  unused b (.ok (.strl (fn.extractLsb' 2 2) (fn.extractLsb' 0 2) d a))

/-- FENCE: kind in fn[3:2], scope in fn[1:0] (R154). -/
def decodeFence (fn : BitVec 4) (d a b : Field) : Decoded :=
  unused d (unused a (unused b (.ok (.fence (fn.extractLsb' 2 2) (fn.extractLsb' 0 2)))))

/-- Opcodes 0x38 to 0x3B: ATOM, the scope in op[1:0] (R172). -/
def decodeAtom (s : BitVec 2) (fn : BitVec 4) (d a b : Field) : Decoded :=
  match fn.toNat with
  | 0 => .ok (.atomAdd s d a b)
  | 1 => .ok (.atomMin s d a b)
  | 2 => .ok (.atomMax s d a b)
  | 3 => .ok (.atomMinu s d a b)
  | 4 => .ok (.atomMaxu s d a b)
  | 5 => .ok (.atomAnd s d a b)
  | 6 => .ok (.atomOr s d a b)
  | 7 => .ok (.atomXor s d a b)
  | 8 => .ok (.atomSwap s d a b)
  | 9 => .ok (.atomCas s d a b)
  | 10 => .ok (.atomIncw s d a b)
  | 11 => .ok (.atomFadd s d a b)
  | 12 => .ok (.atomHadd2 s d a b)
  | 13 => .ok (.atomLadd s d a b)
  | 14 => .ok (.atomLcas s d a b)
  | _ => .error .function

/-- Opcode 0x3C (R172). -/
def decodeWait (fn : BitVec 4) (d a b : Field) : Decoded :=
  match fn.toNat with
  | 0 => .ok (.waitge d a b)
  | 1 => .ok (.waitne d a b)
  | 2 => .ok (.waiteq d a b)
  | _ => .error .function

/-- Opcode 0x3D (R172). -/
def decodeSubs (fn : BitVec 4) (d a b : Field) : Decoded :=
  match fn.toNat with
  | 0 => .ok (.ldsub d a b)
  | 1 => .ok (.ldsubD d a b)
  | 2 => unused a (.ok (.unsub d b))
  | 3 => .ok (.slotwait d a b)
  | 4 => unused a (.ok (.slotrd d b))
  | 5 => unused a (.ok (.slotst d b))
  | _ => .error .function

/-- Opcode 0x3E (R172). -/
def decodeCopy (fn : BitVec 4) (d a b : Field) : Decoded :=
  match fn.toNat with
  | 0 => unused d (.ok (.copy a b))
  | 1 => unused d (unused b (.ok (.copyt a)))
  | _ => .error .function

/-- Opcode 0x3F (R172). -/
def decodeCache (fn : BitVec 4) (d a b : Field) : Decoded :=
  match fn.toNat with
  | 0 => unused d (unused b (.ok (.pref a)))
  | 1 => unused d (unused a (unused b (.ok .icinvCore)))
  | 2 => unused d (unused a (unused b (.ok .icinvDie)))
  | 3 => unused d (unused a (unused b (.ok .icinvDev)))
  | 4 => unused d (unused a (unused b (.ok .icinvSys)))
  | _ => .error .function

/-- Opcode 0x40 (R172). -/
def decodeTld (fn : BitVec 4) (d a b : Field) : Decoded :=
  match fn.toNat with
  | 0 => literals (.ldel d a b)
  | 1 => literals (.ldeli d a b)
  | 2 => literals (.stel d a b)
  | _ => .error .function

/-- Opcode 0x41 (R172). -/
def decodePtl (fn : BitVec 4) (d a b : Field) : Decoded :=
  match fn.toNat with
  | 0 => unused d (literals (.ptload a b))
  | 1 => literals (.ptread d a b)
  | _ => .error .function

/-- Opcode 0x4B (R172). -/
def decodeBix (fn : BitVec 4) (d a b : Field) : Decoded :=
  match fn.toNat with
  | 0 => unused d (unused b (.ok (.jmpr a)))
  | 1 => unused b (.ok (.callr d a))
  | 3 => unused d (unused a (unused b (.ok .exit)))
  | _ => .error .function

/-- Opcode 0x4D (R172). -/
def decodeSpawn (fn : BitVec 4) (d a b : Field) : Decoded :=
  match fn.toNat with
  | 0 => .ok (.spawn d a b)
  | 1 => unused b (.ok (.launch d a))
  | _ => .error .function

/-- Opcode 0x4E (R172). -/
def decodeRegs (fn : BitVec 4) (d a b : Field) : Decoded :=
  match fn.toNat with
  | 0 => unused d (unused b (.ok (.setwb a)))
  | 1 => unused b (.ok (.grow d a))
  | 2 => unused d (unused b (.ok (.shrink a)))
  | _ => .error .function

/-- Opcode 0x4F (R172). -/
def decodeTime (fn : BitVec 4) (d a b : Field) : Decoded :=
  match fn.toNat with
  | 0 => unused a (unused b (.ok (.rdtime d)))
  | 1 => unused a (unused b (.ok (.rdcyc d)))
  | 2 => unused a (unused b (.ok (.rdncyc d)))
  | 3 => unused b (.ok (.rdlrw d a))
  | _ => .error .function

/-- Opcode 0x50 (R172). -/
def decodeGeo (fn : BitVec 4) (d a b : Field) : Decoded :=
  match fn.toNat with
  | 0 => unused d (unused b (.ok (.emitvp a)))
  | _ => .error .function

/-- Opcode 0x51 (R172). -/
def decodeFrag (fn : BitVec 4) (d a b : Field) : Decoded :=
  match fn.toNat with
  | 0 => unused d (unused b (.ok (.blnd a)))
  | 1 => unused d (unused a (unused b (.ok .discard)))
  | 2 => unused d (unused b (.ok (.depthw a)))
  | _ => .error .function

/-- Opcode 0x52 (R172). -/
def decodeRay (fn : BitVec 4) (d a b : Field) : Decoded :=
  match fn.toNat with
  | 0 => unused d (.ok (.rayq a b))
  | _ => .error .function

/-- Opcode 0x58 (R172). -/
def decodeMat (fn : BitVec 4) (d a b : Field) : Decoded :=
  match fn.toNat with
  | 0 => unused a (unused b (literals (.mzero d)))
  | 1 => literals (.mmd d a b)
  | 2 => literals (.mmp d a b)
  | 3 => literals (.mstore d a b)
  | 4 => unused b (literals (.mldw d a))
  | 5 => unused b (literals (.mstw d a))
  | 6 => unused b (literals (.mflag d a))
  | 7 => unused d (.ok (.mcomp a b))
  | 8 => unused d (unused b (.ok (.mrows a)))
  | 9 => unused d (unused b (.ok (.mcols a)))
  | _ => .error .function

/-- Opcode 0x59 (R172). -/
def decodeTds (fn : BitVec 4) (d a b : Field) : Decoded :=
  match fn.toNat with
  | 0 => unused b (literals (.tdset d a))
  | 1 => unused d (literals (.tdget a b))
  | 2 => unused a (unused b (literals (.tdclr d)))
  | _ => .error .function

/-- Opcode 0x64 (R172). -/
def decodeEret (fn : BitVec 4) (d a b : Field) : Decoded :=
  match fn.toNat with
  | 0 => unused d (unused a (unused b (.ok .eret)))
  | _ => .error .function

/-- Opcode 0x65 (R172). -/
def decodePtupd (fn : BitVec 4) (d a b : Field) : Decoded :=
  match fn.toNat with
  | 0 => unused b (.ok (.ptupd d a))
  | _ => .error .function

/-- Opcode 0x66 (R172). -/
def decodeOwn (fn : BitVec 4) (d a b : Field) : Decoded :=
  match fn.toNat with
  | 0 => unused b (.ok (.rgnflush d a))
  | 1 => .ok (.ownxfer d a b)
  | 2 => unused b (.ok (.rgnq d a))
  | _ => .error .function

/-- Opcode 0x67 (R172). -/
def decodePstep (fn : BitVec 4) (d a b : Field) : Decoded :=
  match fn.toNat with
  | 0 => .ok (.pstep d a b)
  | _ => .error .function

/-- Opcode 0x68 (R172). -/
def decodeWg (fn : BitVec 4) (d a b : Field) : Decoded :=
  match fn.toNat with
  | 0 => .ok (.wgsave d a b)
  | 1 => .ok (.wgload d a b)
  | 2 => .ok (.wgmigr d a b)
  | 3 => unused b (.ok (.wgkill d a))
  | 4 => .ok (.resume d a b)
  | 5 => unused b (.ok (.thkill d a))
  | _ => .error .function

/-- Opcode 0x69 (R172). -/
def decodeLw (fn : BitVec 4) (d a b : Field) : Decoded :=
  match fn.toNat with
  | 0 => unused b (.ok (.lwopen d a))
  | 1 => unused b (.ok (.lwclose d a))
  | _ => .error .function

/-- Opcode 0x6A (R172). -/
def decodeChbind (fn : BitVec 4) (d a b : Field) : Decoded :=
  match fn.toNat with
  | 0 => .ok (.chbind d a b)
  | _ => .error .function

/-- Opcode 0x6B (R172). -/
def decodePbset (fn : BitVec 4) (d a b : Field) : Decoded :=
  match fn.toNat with
  | 0 => .ok (.pbset d a b)
  | _ => .error .function

/-- Opcode 0x6C (R172). -/
def decodeWfi (fn : BitVec 4) (d a b : Field) : Decoded :=
  match fn.toNat with
  | 0 => unused d (unused a (unused b (.ok .wfi)))
  | _ => .error .function

/-- Opcode 0x6D (R172). -/
def decodeDie (fn : BitVec 4) (d a b : Field) : Decoded :=
  match fn.toNat with
  | 0 => unused b (.ok (.dierd d a))
  | 1 => .ok (.diewr d a b)
  | 2 => unused b (.ok (.linktrn d a))
  | _ => .error .function

/-- Checks 1 to 3 of R177: the instruction a word encodes. The opcode selects the format (R167). -/
def decodeWord (w : Word32) : Decoded :=
  let fn := fnOf w
  let d := rrD w
  let a := rrA w
  let b := rrB w
  let x := riD w
  let y := riA w
  let i := riI w
  let o := rwI w
  match (opOf w).toNat with
  | 0x00 => decodeBlock w
  | 0x01 => decodeIalu fn d a b
  | 0x02 => decodeImul fn d a b
  | 0x03 => decodeIcmp fn d a b
  | 0x04 => decodeIun fn d a b
  | 0x05 => decodeSel fn d a b
  | 0x06 => decodeBitf fn d a b
  | 0x08 => .ok (.addi x y i)
  | 0x09 => .ok (.andi x y i)
  | 0x0A => .ok (.ori x y i)
  | 0x0B => .ok (.xori x y i)
  | 0x0C => .ok (.shli x y i)
  | 0x0D => .ok (.shri x y i)
  | 0x0E => .ok (.sari x y i)
  | 0x0F => .ok (.slti x y i)
  | 0x10 => .ok (.sltui x y i)
  | 0x11 => .ok (.muli x y i)
  | 0x12 => .ok (.movi x o)
  | 0x13 => .ok (.movhi x o)
  | 0x14 => .ok (.pcadr x o)
  | 0x18 => decodeFalu fn d a b
  | 0x19 => decodeFcmp fn d a b
  | 0x1A => decodeFun1 fn d a b
  | 0x1B => decodeHalf2 fn d a b
  | 0x1C => decodeCvt fn d a b
  | 0x1D => decodeDalu fn d a b
  | 0x1E => decodeLalu fn d a b
  | 0x20 => decodeCoh fn d a b
  | 0x21 => decodeCbar fn d a b
  | 0x22 => decodeCcol fn d a b
  | 0x23 => decodeChan fn d a b
  | 0x28 => .ok (.ldb x y i)
  | 0x29 => .ok (.ldbu x y i)
  | 0x2A => .ok (.ldh x y i)
  | 0x2B => .ok (.ldhu x y i)
  | 0x2C => .ok (.ldw x y i)
  | 0x2D => .ok (.ldd x y i)
  | 0x2E => .ok (.ldq x y i)
  | 0x30 => .ok (.stb x y i)
  | 0x31 => .ok (.sth x y i)
  | 0x32 => .ok (.stw x y i)
  | 0x33 => .ok (.std x y i)
  | 0x34 => .ok (.stq x y i)
  | 0x35 => decodeLdaq fn d a b
  | 0x36 => decodeStrl fn d a b
  | 0x37 => decodeFence fn d a b
  | 0x38 => decodeAtom 0 fn d a b
  | 0x39 => decodeAtom 1 fn d a b
  | 0x3A => decodeAtom 2 fn d a b
  | 0x3B => decodeAtom 3 fn d a b
  | 0x3C => decodeWait fn d a b
  | 0x3D => decodeSubs fn d a b
  | 0x3E => decodeCopy fn d a b
  | 0x3F => decodeCache fn d a b
  | 0x40 => decodeTld fn d a b
  | 0x41 => decodePtl fn d a b
  | 0x48 => unused x (.ok (.br o))
  | 0x49 => .ok (.bnz x o)
  | 0x4A => .ok (.bz x o)
  | 0x4B => decodeBix fn d a b
  | 0x4C => .ok (.call x o)
  | 0x4D => decodeSpawn fn d a b
  | 0x4E => decodeRegs fn d a b
  | 0x4F => decodeTime fn d a b
  | 0x50 => decodeGeo fn d a b
  | 0x51 => decodeFrag fn d a b
  | 0x52 => decodeRay fn d a b
  | 0x58 => decodeMat fn d a b
  | 0x59 => decodeTds fn d a b
  | 0x60 => unused x (.ok (.trap o))
  | 0x61 => unused x (.ok (.brk o))
  | 0x62 => if o.toNat < 4096 then .ok (.csrr x (o.setWidth 12)) else .error .function
  | 0x63 => if o.toNat < 4096 then .ok (.csrw x (o.setWidth 12)) else .error .function
  | 0x64 => decodeEret fn d a b
  | 0x65 => decodePtupd fn d a b
  | 0x66 => decodeOwn fn d a b
  | 0x67 => decodePstep fn d a b
  | 0x68 => decodeWg fn d a b
  | 0x69 => decodeLw fn d a b
  | 0x6A => decodeChbind fn d a b
  | 0x6B => decodePbset fn d a b
  | 0x6C => decodeWfi fn d a b
  | 0x6D => decodeDie fn d a b
  | _ => .error .opcode

/-- The instruction at the head of a run of bytes, little-endian (R10, R167), and the bytes after it. -/
def decode : List Byte → Except DecodeError (Instr × List Byte)
  | b0 :: b1 :: b2 :: b3 :: rest =>
    match decodeWord (b3 ++ b2 ++ b1 ++ b0) with
    | .ok i => .ok (i, rest)
    | .error e => .error e
  | _ => .error .truncated

/-- The instruction the decoder reads from bits numbered as spec/opcode_table.json numbers them. -/
def decodeTableWord (nbits w : Nat) : Option Instr :=
  match decode (toBytes 4 (w % 2 ^ nbits)) with
  | .ok (i, _) => some i
  | .error _ => none

/-! The encoder (R167, R172) -/

/-- A word of format RR. -/
def rr (op : BitVec 7) (fn : BitVec 4) (d a b : Field) : Word32 := op ++ fn ++ d ++ a ++ b
/-- A word of format RI. -/
def ri (op : BitVec 7) (d a : Field) (i : BitVec 11) : Word32 := op ++ d ++ a ++ i
/-- A word of format RW or BR. -/
def rw (op : BitVec 7) (d : Field) (i : BitVec 18) : Word32 := op ++ d ++ i

/-- The word of an instruction; an act of a unit has none. -/
def encode : Instr → Option Word32
  | .block p l f c => some (0#7 ++ p ++ l ++ f ++ c ++ 0#2)
  | .add d a b => some (rr 0x01 0 d a b)
  | .sub d a b => some (rr 0x01 1 d a b)
  | .and d a b => some (rr 0x01 2 d a b)
  | .or d a b => some (rr 0x01 3 d a b)
  | .xor d a b => some (rr 0x01 4 d a b)
  | .andn d a b => some (rr 0x01 5 d a b)
  | .shl d a b => some (rr 0x01 6 d a b)
  | .shr d a b => some (rr 0x01 7 d a b)
  | .sar d a b => some (rr 0x01 8 d a b)
  | .rotl d a b => some (rr 0x01 9 d a b)
  | .min d a b => some (rr 0x01 10 d a b)
  | .max d a b => some (rr 0x01 11 d a b)
  | .minu d a b => some (rr 0x01 12 d a b)
  | .maxu d a b => some (rr 0x01 13 d a b)
  | .adds d a b => some (rr 0x01 14 d a b)
  | .subs d a b => some (rr 0x01 15 d a b)
  | .mul d a b => some (rr 0x02 0 d a b)
  | .mulh d a b => some (rr 0x02 1 d a b)
  | .mulhu d a b => some (rr 0x02 2 d a b)
  | .mad d a b => some (rr 0x02 3 d a b)
  | .div d a b => some (rr 0x02 4 d a b)
  | .divu d a b => some (rr 0x02 5 d a b)
  | .rem d a b => some (rr 0x02 6 d a b)
  | .remu d a b => some (rr 0x02 7 d a b)
  | .seq d a b => some (rr 0x03 0 d a b)
  | .sne d a b => some (rr 0x03 1 d a b)
  | .slt d a b => some (rr 0x03 2 d a b)
  | .sge d a b => some (rr 0x03 3 d a b)
  | .sltu d a b => some (rr 0x03 4 d a b)
  | .sgeu d a b => some (rr 0x03 5 d a b)
  | .mov d a => some (rr 0x04 0 d a 127)
  | .not d a => some (rr 0x04 1 d a 127)
  | .neg d a => some (rr 0x04 2 d a 127)
  | .abs d a => some (rr 0x04 3 d a 127)
  | .clz d a => some (rr 0x04 4 d a 127)
  | .ctz d a => some (rr 0x04 5 d a 127)
  | .popc d a => some (rr 0x04 6 d a 127)
  | .brev d a => some (rr 0x04 7 d a 127)
  | .sxb d a => some (rr 0x04 8 d a 127)
  | .sxh d a => some (rr 0x04 9 d a 127)
  | .zxb d a => some (rr 0x04 10 d a 127)
  | .zxh d a => some (rr 0x04 11 d a 127)
  | .bswap d a => some (rr 0x04 12 d a 127)
  | .sel d a b => some (rr 0x05 0 d a b)
  | .bfx d a b => some (rr 0x06 0 d a b)
  | .bfxu d a b => some (rr 0x06 1 d a b)
  | .bfi d a b => some (rr 0x06 2 d a b)
  | .addi d a i => some (ri 0x08 d a i)
  | .andi d a i => some (ri 0x09 d a i)
  | .ori d a i => some (ri 0x0A d a i)
  | .xori d a i => some (ri 0x0B d a i)
  | .shli d a i => some (ri 0x0C d a i)
  | .shri d a i => some (ri 0x0D d a i)
  | .sari d a i => some (ri 0x0E d a i)
  | .slti d a i => some (ri 0x0F d a i)
  | .sltui d a i => some (ri 0x10 d a i)
  | .muli d a i => some (ri 0x11 d a i)
  | .movi d i => some (rw 0x12 d i)
  | .movhi d i => some (rw 0x13 d i)
  | .pcadr d i => some (rw 0x14 d i)
  | .fadd d a b => some (rr 0x18 0 d a b)
  | .fsub d a b => some (rr 0x18 1 d a b)
  | .fmul d a b => some (rr 0x18 2 d a b)
  | .fma d a b => some (rr 0x18 3 d a b)
  | .fnma d a b => some (rr 0x18 4 d a b)
  | .fmin d a b => some (rr 0x18 5 d a b)
  | .fmax d a b => some (rr 0x18 6 d a b)
  | .fminm d a b => some (rr 0x18 7 d a b)
  | .fmaxm d a b => some (rr 0x18 8 d a b)
  | .fcpsgn d a b => some (rr 0x18 9 d a b)
  | .feq d a b => some (rr 0x19 0 d a b)
  | .flt d a b => some (rr 0x19 1 d a b)
  | .fle d a b => some (rr 0x19 2 d a b)
  | .fun d a b => some (rr 0x19 3 d a b)
  | .fclass d a => some (rr 0x19 4 d a 127)
  | .fabs d a => some (rr 0x1A 0 d a 127)
  | .fneg d a => some (rr 0x1A 1 d a 127)
  | .fsqrt d a => some (rr 0x1A 2 d a 127)
  | .frcp d a => some (rr 0x1A 3 d a 127)
  | .frsq d a => some (rr 0x1A 4 d a 127)
  | .fex2 d a => some (rr 0x1A 5 d a 127)
  | .flg2 d a => some (rr 0x1A 6 d a 127)
  | .fsinp d a => some (rr 0x1A 7 d a 127)
  | .fcosp d a => some (rr 0x1A 8 d a 127)
  | .ftanh d a => some (rr 0x1A 9 d a 127)
  | .fflr d a => some (rr 0x1A 10 d a 127)
  | .fceil d a => some (rr 0x1A 11 d a 127)
  | .ftrc d a => some (rr 0x1A 12 d a 127)
  | .frnd d a => some (rr 0x1A 13 d a 127)
  | .hadd2 d a b => some (rr 0x1B 0 d a b)
  | .hsub2 d a b => some (rr 0x1B 1 d a b)
  | .hmul2 d a b => some (rr 0x1B 2 d a b)
  | .hfma2 d a b => some (rr 0x1B 3 d a b)
  | .hmin2 d a b => some (rr 0x1B 4 d a b)
  | .hmax2 d a b => some (rr 0x1B 5 d a b)
  | .hdot2 d a b => some (rr 0x1B 6 d a b)
  | .badd2 d a b => some (rr 0x1B 8 d a b)
  | .bsub2 d a b => some (rr 0x1B 9 d a b)
  | .bmul2 d a b => some (rr 0x1B 10 d a b)
  | .bfma2 d a b => some (rr 0x1B 11 d a b)
  | .bmin2 d a b => some (rr 0x1B 12 d a b)
  | .bmax2 d a b => some (rr 0x1B 13 d a b)
  | .bdot2 d a b => some (rr 0x1B 14 d a b)
  | .cvt s r d a k => some (rr 0x1C (s ++ r) d a k)
  | .dadd d a b => some (rr 0x1D 0 d a b)
  | .dsub d a b => some (rr 0x1D 1 d a b)
  | .dmul d a b => some (rr 0x1D 2 d a b)
  | .dfma d a b => some (rr 0x1D 3 d a b)
  | .dmin d a b => some (rr 0x1D 4 d a b)
  | .dmax d a b => some (rr 0x1D 5 d a b)
  | .deq d a b => some (rr 0x1D 6 d a b)
  | .dlt d a b => some (rr 0x1D 7 d a b)
  | .dle d a b => some (rr 0x1D 8 d a b)
  | .ladd d a b => some (rr 0x1E 0 d a b)
  | .lsub d a b => some (rr 0x1E 1 d a b)
  | .lmul d a b => some (rr 0x1E 2 d a b)
  | .lshl d a b => some (rr 0x1E 3 d a b)
  | .lshr d a b => some (rr 0x1E 4 d a b)
  | .lsar d a b => some (rr 0x1E 5 d a b)
  | .cmake d a => some (rr 0x20 0 d a 127)
  | .join d a => some (rr 0x20 1 d a 127)
  | .leave a => some (rr 0x20 2 127 a 127)
  | .csize d a => some (rr 0x20 3 d a 127)
  | .bara a => some (rr 0x20 4 127 a 127)
  | .pbara b => some (rr 0x20 5 127 127 b)
  | .barw a => some (rr 0x21 0 127 a 127)
  | .pbarw b => some (rr 0x21 1 127 127 b)
  | .cradd d a => some (rr 0x22 0 d a 127)
  | .crfadd d a => some (rr 0x22 1 d a 127)
  | .crmin d a => some (rr 0x22 2 d a 127)
  | .crmax d a => some (rr 0x22 3 d a 127)
  | .cscan d a => some (rr 0x22 4 d a 127)
  | .cfscan d a => some (rr 0x22 5 d a 127)
  | .cbcast d a b => some (rr 0x22 6 d a b)
  | .xperm d a b => some (rr 0x22 7 d a b)
  | .cshuf d a b => some (rr 0x22 8 d a b)
  | .send a b => some (rr 0x23 0 127 a b)
  | .recv d b => some (rr 0x23 1 d 127 b)
  | .chpoll d b => some (rr 0x23 2 d 127 b)
  | .ldb d a i => some (ri 0x28 d a i)
  | .ldbu d a i => some (ri 0x29 d a i)
  | .ldh d a i => some (ri 0x2A d a i)
  | .ldhu d a i => some (ri 0x2B d a i)
  | .ldw d a i => some (ri 0x2C d a i)
  | .ldd d a i => some (ri 0x2D d a i)
  | .ldq d a i => some (ri 0x2E d a i)
  | .stb d a i => some (ri 0x30 d a i)
  | .sth d a i => some (ri 0x31 d a i)
  | .stw d a i => some (ri 0x32 d a i)
  | .std d a i => some (ri 0x33 d a i)
  | .stq d a i => some (ri 0x34 d a i)
  | .ldaq s z d a => some (rr 0x35 (s ++ z) d a 127)
  | .strl s z d a => some (rr 0x36 (s ++ z) d a 127)
  | .fence k s => some (rr 0x37 (k ++ s) 127 127 127)
  | .atomAdd s d a b => some (rr (0b01110#5 ++ s) 0 d a b)
  | .atomMin s d a b => some (rr (0b01110#5 ++ s) 1 d a b)
  | .atomMax s d a b => some (rr (0b01110#5 ++ s) 2 d a b)
  | .atomMinu s d a b => some (rr (0b01110#5 ++ s) 3 d a b)
  | .atomMaxu s d a b => some (rr (0b01110#5 ++ s) 4 d a b)
  | .atomAnd s d a b => some (rr (0b01110#5 ++ s) 5 d a b)
  | .atomOr s d a b => some (rr (0b01110#5 ++ s) 6 d a b)
  | .atomXor s d a b => some (rr (0b01110#5 ++ s) 7 d a b)
  | .atomSwap s d a b => some (rr (0b01110#5 ++ s) 8 d a b)
  | .atomCas s d a b => some (rr (0b01110#5 ++ s) 9 d a b)
  | .atomIncw s d a b => some (rr (0b01110#5 ++ s) 10 d a b)
  | .atomFadd s d a b => some (rr (0b01110#5 ++ s) 11 d a b)
  | .atomHadd2 s d a b => some (rr (0b01110#5 ++ s) 12 d a b)
  | .atomLadd s d a b => some (rr (0b01110#5 ++ s) 13 d a b)
  | .atomLcas s d a b => some (rr (0b01110#5 ++ s) 14 d a b)
  | .waitge d a b => some (rr 0x3C 0 d a b)
  | .waitne d a b => some (rr 0x3C 1 d a b)
  | .waiteq d a b => some (rr 0x3C 2 d a b)
  | .ldsub d a b => some (rr 0x3D 0 d a b)
  | .ldsubD d a b => some (rr 0x3D 1 d a b)
  | .unsub d b => some (rr 0x3D 2 d 127 b)
  | .slotwait d a b => some (rr 0x3D 3 d a b)
  | .slotrd d b => some (rr 0x3D 4 d 127 b)
  | .slotst d b => some (rr 0x3D 5 d 127 b)
  | .copy a b => some (rr 0x3E 0 127 a b)
  | .copyt a => some (rr 0x3E 1 127 a 127)
  | .pref a => some (rr 0x3F 0 127 a 127)
  | .icinvCore => some (rr 0x3F 1 127 127 127)
  | .icinvDie => some (rr 0x3F 2 127 127 127)
  | .icinvDev => some (rr 0x3F 3 127 127 127)
  | .icinvSys => some (rr 0x3F 4 127 127 127)
  | .ldel d a b => some (rr 0x40 0 d a b)
  | .ldeli d a b => some (rr 0x40 1 d a b)
  | .stel d a b => some (rr 0x40 2 d a b)
  | .ptload a b => some (rr 0x41 0 127 a b)
  | .ptread d a b => some (rr 0x41 1 d a b)
  | .br o => some (rw 0x48 127 o)
  | .bnz a o => some (rw 0x49 a o)
  | .bz a o => some (rw 0x4A a o)
  | .jmpr a => some (rr 0x4B 0 127 a 127)
  | .callr d a => some (rr 0x4B 1 d a 127)
  | .exit => some (rr 0x4B 3 127 127 127)
  | .call a o => some (rw 0x4C a o)
  | .spawn d a b => some (rr 0x4D 0 d a b)
  | .launch d a => some (rr 0x4D 1 d a 127)
  | .setwb a => some (rr 0x4E 0 127 a 127)
  | .grow d a => some (rr 0x4E 1 d a 127)
  | .shrink a => some (rr 0x4E 2 127 a 127)
  | .rdtime d => some (rr 0x4F 0 d 127 127)
  | .rdcyc d => some (rr 0x4F 1 d 127 127)
  | .rdncyc d => some (rr 0x4F 2 d 127 127)
  | .rdlrw d a => some (rr 0x4F 3 d a 127)
  | .emitvp a => some (rr 0x50 0 127 a 127)
  | .blnd a => some (rr 0x51 0 127 a 127)
  | .discard => some (rr 0x51 1 127 127 127)
  | .depthw a => some (rr 0x51 2 127 a 127)
  | .rayq a b => some (rr 0x52 0 127 a b)
  | .mzero d => some (rr 0x58 0 d 127 127)
  | .mmd d a b => some (rr 0x58 1 d a b)
  | .mmp d a b => some (rr 0x58 2 d a b)
  | .mstore d a b => some (rr 0x58 3 d a b)
  | .mldw d a => some (rr 0x58 4 d a 127)
  | .mstw d a => some (rr 0x58 5 d a 127)
  | .mflag d a => some (rr 0x58 6 d a 127)
  | .mcomp a b => some (rr 0x58 7 127 a b)
  | .mrows a => some (rr 0x58 8 127 a 127)
  | .mcols a => some (rr 0x58 9 127 a 127)
  | .tdset d a => some (rr 0x59 0 d a 127)
  | .tdget a b => some (rr 0x59 1 127 a b)
  | .tdclr d => some (rr 0x59 2 d 127 127)
  | .trap i => some (rw 0x60 127 i)
  | .brk i => some (rw 0x61 127 i)
  | .csrr d c => some (rw 0x62 d (c.setWidth 18))
  | .csrw d c => some (rw 0x63 d (c.setWidth 18))
  | .eret => some (rr 0x64 0 127 127 127)
  | .ptupd d a => some (rr 0x65 0 d a 127)
  | .rgnflush d a => some (rr 0x66 0 d a 127)
  | .ownxfer d a b => some (rr 0x66 1 d a b)
  | .rgnq d a => some (rr 0x66 2 d a 127)
  | .pstep d a b => some (rr 0x67 0 d a b)
  | .wgsave d a b => some (rr 0x68 0 d a b)
  | .wgload d a b => some (rr 0x68 1 d a b)
  | .wgmigr d a b => some (rr 0x68 2 d a b)
  | .wgkill d a => some (rr 0x68 3 d a 127)
  | .resume d a b => some (rr 0x68 4 d a b)
  | .thkill d a => some (rr 0x68 5 d a 127)
  | .lwopen d a => some (rr 0x69 0 d a 127)
  | .lwclose d a => some (rr 0x69 1 d a 127)
  | .chbind d a b => some (rr 0x6A 0 d a b)
  | .pbset d a b => some (rr 0x6B 0 d a b)
  | .wfi => some (rr 0x6C 0 127 127 127)
  | .dierd d a => some (rr 0x6D 0 d a 127)
  | .diewr d a b => some (rr 0x6D 1 d a b)
  | .linktrn d a => some (rr 0x6D 2 d a 127)
  | .channelSendResume _ _ => none
  | .waitReread _ => none
  | .subscriptionPush _ => none
  | .unsubComplete _ => none
  | .copySlicePerform _ => none
  | .copytPerform _ => none
  | .rayQueryComplete _ => none
  | .matrixOpPerform _ => none
  | .ownxferComplete _ => none
  | .relockEnd _ => none
  | .larderDigestDone _ => none
  | .packageReset => none
  | .bootImageFetch _ => none
  | .fuseMinverRaise _ => none
  | .attestationReport _ _ => none
  | .ctxcfgWrite _ _ => none
  | .controlEventTake _ => none
  | .etcmpExpiry _ => none
  | .faultLogPost _ => none
  | .flogTailWrite _ _ => none
  | .flogConfigWrite _ _ _ => none
  | .bworldWrite _ _ _ => none
  | .bworldTakeEffect _ _ => none
  | .lscfgWrite _ _ _ => none
  | .lscfgAdopt _ => none
  | .accxWrite _ _ => none
  | .cpyownWrite _ _ _ => none
  | .encownWrite _ _ _ => none
  | .fabctlWrite _ => none
  | .rotEntryWrite _ _ => none
  | .registerWrite _ _ _ => none
  | .qctlWrite _ _ _ => none
  | .queueRecordTake _ _ => none
  | .deviceLaunchTake _ => none
  | .launchDependenceMet _ _ => none
  | .dispatcherReport _ => none
  | .workgroupRunHandoff _ _ => none
  | .workgroupPlace _ _ _ => none
  | .launchComplete _ _ => none
  | .nibBatchFormation _ => none
  | .fillTimerExpiry _ _ => none
  | .entryAgeForce _ _ => none
  | .faultedThreadRecord _ => none
  | .placementRetry _ _ => none
  | .spillReload _ => none
  | .spillSwap _ => none
  | .quantumBoundary _ => none
  | .workgroupSave _ => none
  | .workgroupRestore _ _ => none
  | .forwardedItem _ => none
  | .forwardingDrainAck _ => none
  | .cgmaskMemberWrite _ _ _ => none
  | .cgmaskDepartWrite _ _ _ => none
  | .departureComplete _ _ => none
  | .homeReadRequest _ _ _ => none
  | .homeOwnershipRequest _ _ _ => none
  | .homeWriteback _ _ _ => none
  | .homeUReduction _ _ _ _ _ => none
  | .homeAckReceived _ _ => none
  | .l1Invalidation _ _ => none
  | .l1Recall _ _ => none
  | .l1Eviction _ _ => none
  | .larderRefreshStart _ _ => none
  | .larderRefreshEnd _ _ => none
  | .pageWalk _ _ _ => none
  | .adReport => none
  | .ptupdWrite _ => none
  | .ptupdFill _ => none
  | .ptupdRead _ => none
  | .ptupdFlush _ => none
  | .ptupdSync _ => none
  | .ptupdPool _ => none
  | .shootdownComplete _ => none
  | .engineFault _ _ => none
  | .binningMeshlet _ _ => none
  | .visPacketArrival _ => none
  | .packetResend _ => none
  | .batchRetire _ _ => none
  | .sealArrival _ => none
  | .rasterInputFree _ _ => none
  | .rasterPacket _ _ => none
  | .fragmentSpawn _ _ => none
  | .blendFragment _ => none
  | .pbarrierRootArrival _ _ => none
  | .pbarrierRelease _ => none
  | .dltoRecovery _ _ => none
  | .linkReplay _ _ _ _ => none
  | .hostMemRead _ _ => none
  | .hostMemWrite _ _ => none
  | .hostSnoop _ => none
  | .peerInboundAccess _ _ _ _ _ => none
  | .mbinPost _ _ => none
  | .mbinRelease _ => none
  | .mboutPost _ _ => none
  | .mboutRelease _ => none
  | .displayEnable _ _ _ => none
  | .displayHoldRelease _ _ _ => none
  | .frameCapture _ _ => none
  | .frameEncodeDone _ _ => none
  | .streamEnable _ _ _ => none
  | .streamDisable _ _ _ => none
  | .powerUpComplete _ _ => none
  | .thermalTrip _ _ => none
  | .correctedError _ _ => none
  | .uncorrectableError _ _ => none
  | .dieOrderlyReset _ => none
  | .dieForcedReset _ => none
  | .dataReplyArrival _ _ => none
  | .peerCompletion _ => none
  | .spareRowCopyEnd _ _ => none

/-- Four bytes of a word, lowest address first (R10). -/
def wordBytes (w : Word32) : List Byte := [w.extractLsb' 0 8, w.extractLsb' 8 8, w.extractLsb' 16 8, w.extractLsb' 24 8]

end Sys2Proof
end

