-- ==== Sys2Proof/Config.lean ====
section
/-! DEFINITION. What one SZ-624 fixes (counts, descriptors, clock points) and the free values: constants without a body,
of which no proof can know more than their type. -/

namespace Sys2Proof.Config

/-- A fresh undefined-valued result (R14), applied to `State.free` (log 2). -/
opaque freeValue : Nat → Word64
/-- LRPHASE of a die, fixed at boot (R139, log 8). -/
opaque lrphaseRaw : Nat → Nat
/-- The value of LRPHASE lies from 0 to 6,399 (R139). -/
def lrphase (die : Nat) : Nat := lrphaseRaw die % 6400
/-- SHAKE256 of a message, 64 bytes as one number (R412, log 12). -/
opaque shake256 : List Byte → BitVec 512
/-- Whether a signature is a valid Falcon-1024 signature of a digest under a public key (R412, log 12). -/
opaque falconValid : (pub sig : List Byte) → BitVec 512 → Bool
/-- The Falcon-1024 signature of a digest under the private key of the pair that a seed gives (R418, R419, log 12). -/
opaque falconSign : (seed : List Byte) → BitVec 512 → List Byte
/-- The public key, 1,793 bytes, of the Falcon-1024 pair that a seed gives (R418, log 12). -/
opaque falconPublic : (seed : List Byte) → Nat → Byte
/-- The fused KEYHASH (R412, log 8). -/
opaque keyHash : BitVec 256
/-- The die-unique secret in the fuses, which no register, address or instruction reaches (R418, log 8). -/
opaque dieSecret : BitVec 256
/-- The AV1 temporal unit of a captured frame: of the stream registers, whether it is a key frame, the samples, and a number
that no other frame shares (R408, R409, log 12). -/
opaque av1Unit : (regs : List Word64) → (key : Bool) → (samples : List Nat) → (nth : Nat) → List Byte
/-- Spare rows left in an array of a die (R420, log 8). -/
opaque spareRows : (die array : Nat) → Nat

/-- The row of an array that holds a byte: array 0 HBM, by stack offset × 8 + stack, 2 Larder, by offset (R420, log 8). -/
opaque rowOf : (array at' : Nat) → Nat
/-- The device pool that boot stage 4 builds: base, number of tables, replica index (R347, R411, log 17). -/
opaque devicePool : Nat × Nat × Nat
/-- The entries of the device table that boot stage 4 builds, from its first on (R411, log 17). -/
opaque deviceEntries : List Word64

/-- Packets that a raster unit's input holds beyond its first (R301, log 2). -/
opaque rasterInputMore : Nat
def rasterInput : Nat := rasterInputMore + 1

/-- What k0-k7 read on a control context, which has no launch (R72, R427, log 2). -/
opaque controlUniform : (context k : Nat) → Word64

/-- BASE[51:16] and LAST[51:16] of a peer window, read out of the one doubleword at +8 that holds both: the spec does not say
where each lies (R401, log 16). -/
opaque peerWindow : Word64 → Nat × Nat

/-- The kinds of die (R1, R413). -/
inductive DieKind where
  | absent | geometry | shading | memory | hearth
  deriving DecidableEq, Repr

/-- The dies of the SZ-624 (R3). -/
def dieKind (die : Nat) : DieKind :=
  if die = 0 then .hearth
  else if die ≤ 2 then .geometry
  else if die ≤ 8 then .shading
  else if die ≤ 12 then .memory
  else .absent

/-- Geometry and shading dies are compute dies (R18). -/
def isCompute (die : Nat) : Bool := dieKind die == .geometry || dieKind die == .shading
def isShading (die : Nat) : Bool := dieKind die == .shading
def isGeometry (die : Nat) : Bool := dieKind die == .geometry

/-- Core groups of a die (R18). -/
def coreGroups (die : Nat) : Nat :=
  match dieKind die with
  | .geometry => 8
  | .shading => 16
  | _ => 0

/-- Cores of a die (R18). -/
def coreCount (die : Nat) : Nat := 8 * coreGroups die

/-- The first descriptor doubleword of a healthy die (R413). -/
def ddesc0 (die : Nat) : Word64 :=
  match dieKind die with
  | .geometry => 0x011000FF08400210#64
  | .shading => 0x0120FFFF08400600#64
  | .memory => 0x0130000000400200#64
  | _ => 0#64

/-- The second descriptor doubleword of a healthy die (R413). -/
def ddesc1 (die : Nat) : Word64 :=
  match dieKind die with
  | .geometry => 0x0000004001000001#64
  | .shading => 0x0200004001000001#64
  | .memory => 0x0000000000200201#64
  | _ => 0#64

/-- Copy engines of a die (R1). -/
def copyEngines (die : Nat) : Nat :=
  match dieKind die with
  | .geometry => 2
  | .shading => 6
  | .memory => 2
  | _ => 0

/-- Encode engines of a die (R1). -/
def encodeEngines (die : Nat) : Nat := if isGeometry die then 16 else 0

/-- Length of one raw cycle at a frequency point, in units of 1/8400 MHz, which is also the increment of NACC in
twelfths (R82). -/
def cycleUnits (point : Nat) : Nat :=
  match point with
  | 0 => 10
  | 1 => 12
  | 2 => 15
  | 3 => 18
  | 4 => 24
  | _ => 36

/-- One reference tick in units of 1/8400 MHz (R6). -/
def tickUnits : Nat := 42

/-- Home lanes and rows of a core (R25). -/
def lanes : Nat := 32
def rows : Nat := 128
/-- Words of one Inkwell lane bank (R20). -/
def inkwellWords : Nat := 6144
def frontierEntries : Nat := 256
def batchContexts : Nat := 16
def faultRecords : Nat := 64
def suspensionSlots : Nat := 16
def matrixQueue : Nat := 16
def channelDepth : Nat := 64
def deviceQueueDepth : Nat := 256

end Sys2Proof.Config
end

