-- ==== Sys2Proof/Machine/State.lean ====
section
/-! DEFINITION. The state of the part as plain data, the model's own stops, and the state after package reset. -/

namespace Sys2Proof.Machine

/-- The model's own stops of a step. An architectural fault of R328 is a next state and none of these. -/
inductive Fault where
  /-- Raised by the meaning of an instruction word when the agent named to execute it does not exist or does not run; `step` never
  raises it. Safe: no such execution takes place. -/
  | noAgent
  deriving DecidableEq, Repr

/-- Refusals: a step without a meaning. -/
inductive Refusal where
  /-- Raised by an arm of `exec` that has no meaning yet. Safe: no claim holds of such a step. -/
  | notModelled (mnemonic : String)
  deriving DecidableEq, Repr

/-- The fault causes of R328. -/
inductive Cause where
  | illegal | blockfmt | regbound | rowrite | misalign | unit
  | xlateNp | xlatePerm | xlateAttr | sliceLocal | world | larderWrite | region
  | poison | frozen | trap | brk | tdesc | spill | capacity
  deriving DecidableEq, Repr, Inhabited

/-- A successor block as its header gives it when a terminator captures it (R200). -/
structure Succ where
  baddr : Nat
  prio : Nat
  fill : Nat
  cold : Bool
  len : Nat
  deriving DecidableEq, Repr, Inhabited

/-- What a waiting thread or context waits for (R241, R246, R247, R250, R253, R254). -/
inductive Wait where
  /-- WAIT forms: watched physical address (`spad` names a workgroup's scratchpad plus one, 0 for memory), form 0 GE,
  1 NE, 2 EQ, the compared value and the destination field (R242). -/
  | watch (spad pa form b d : Nat)
  | slot (off a d : Nat)
  | unsub (off d : Nat)
  | bar (h inst : Nat)
  | coll (h inst d : Nat)
  | pbar (pb : Nat)
  | recv (ch d : Nat)
  /-- The wait is satisfied and only the placement is outstanding (R55). -/
  | place
  deriving DecidableEq, Repr, Inhabited

/-- The states of a resident thread (R36); Free is absence, Saved is the workgroup's place. -/
inductive TState where
  | pending
  | running (bctx : Nat)
  | waiting (w : Wait)
  /-- Faulted, the record held on core `cid` at index `idx` (R329, R330). -/
  | faulted (cid idx : Nat)
  /-- Stalled at a fault while every record of the core is in use (R44). -/
  | stalled (bctx : Nat)
  deriving DecidableEq, Repr, Inhabited

/-- A vector thread (R26, R67, R91). -/
structure Thread where
  st : TState := .pending
  /-- Where a satisfied wait goes (R200). -/
  succ : Succ := default
  wbase : Nat := 0
  allot : Nat := 8
  /-- Rounding generator (R91). -/
  g : Word32 := 0
  /-- Carried slots; an absent slot holds 0 (R29, R67). -/
  v : SMap Word32 := []
  /-- Sideband barriers with an arrival outstanding, and whether its release has been delivered (R253). -/
  pbs : SMap Bool := []
  /-- The fragment the raster unit spawned the thread for (R305). -/
  frag : Option Nat := none
  /-- Poisoned Inkwell slots (R421). -/
  bad : List Nat := []
  /-- Resume at this restore: word offset and the transients to restore (R335). -/
  resumeAt : Option (Nat × List Word32) := none
  /-- Generation of the slot as the thread was created or restored in it (R27): what its waits and records name. -/
  sgen : Nat := 0
  deriving DecidableEq, Repr, Inhabited

/-- A wide running sum (R97). -/
structure Wrs where
  v : BitVec 256 := 0
  inexact : Bool := false
  overflow : Bool := false
  nan : Bool := false
  inf : Bool := false
  isgn : Bool := false
  deriving DecidableEq, Repr, Inhabited

/-- A matrix operation as accepted, with its captured descriptors and counts (R271, R272, R274). -/
structure MatOp where
  wg : Nat
  fn : Nat
  acc : Nat
  da : BitVec 512
  db : BitVec 512
  mode : Nat
  ract : Nat
  cact : Nat
  addr : Nat
  inc : Nat
  /-- Handle and version of the weight tile (R285). -/
  tag : Nat × Nat
  deriving DecidableEq, Repr, Inhabited

/-- The states of a Scribe or control context (R262); Saved is the workgroup's place. -/
inductive CtxMode where
  | ready
  | waiting (w : Wait)
  /-- Stalled until an act of a unit completes the form it issued (R333). -/
  | form
  | wfi
  | faulted
  | ended
  deriving DecidableEq, Repr, Inhabited

/-- The Scribe context of a workgroup (R261, R274, R91). -/
structure Ctx where
  scid : Nat := 0
  pc : Nat := 0
  s : SMap Word64 := []
  ract : Nat := 64
  cact : Nat := 64
  g : Word32 := 0
  /-- Accumulator element (i, j) of acc n at key 1024 n + 32 i + j (R74). -/
  acc : SMap Wrs := []
  mode : CtxMode := .ready
  /-- The context has accepted a MAT form (R279). -/
  used : Bool := false
  /-- Operations held after an engine fault, the suspended one first (R277). -/
  held : List MatOp := []
  /-- Operations recorded by a save (R279). -/
  saved : List MatOp := []
  /-- The accumulators lie in the context's slot of the exchange area, and `acc` is empty (R75, R76). -/
  inSlot : Bool := false
  /-- The accumulators were lost: their slot could not be read, for this cause (R136). -/
  bad : Option Cause := none
  deriving DecidableEq, Repr, Inhabited

/-- An arrival at a cohort's instance: a collective form `fn` or a barrier (R250), with what a fault record of its XPERM
keeps (R252). -/
structure CArr where
  tid : Nat
  fn : Option Nat
  x : Word32
  b : Word32
  blk : Succ
  roff : Nat
  word : Word32
  ts : List Word32
  deriving DecidableEq, Repr, Inhabited

/-- An open instance of a cohort (R250). -/
structure CInst where
  parts : List Nat
  arr : List CArr
  deriving DecidableEq, Repr, Inhabited

/-- A cohort-table entry (R248, R249). -/
structure Cohort where
  gen : Nat := 0
  alloc : Bool := false
  lim : Nat := 0
  /-- Members in rank order. -/
  members : List Nat := []
  inst : Option CInst := none
  /-- Instances completed so far. -/
  done : Nat := 0
  /-- Outstanding BARA arrivals: thread and number of its instance (R251). -/
  bara : List (Nat × Nat) := []
  /-- The open copy instance (R255). -/
  copy : Option Nat := none
  deriving DecidableEq, Repr, Inhabited

/-- A message channel bound to the workgroup (R254). -/
structure Chan where
  fifo : List Word32 := []
  recvs : List Agent := []
  sends : List (Agent × Word32) := []
  deriving DecidableEq, Repr, Inhabited

/-- A tensor handle: its image and its version (R77, R270). -/
structure Tensor where
  img : BitVec 512
  ver : Nat
  live : Bool
  deriving DecidableEq, Repr, Inhabited

/-- A save area in use: its virtual address and the launch's save slot, if any (R371, R372). -/
structure SaveArea where
  va : Nat
  slot : Option Nat
  deriving DecidableEq, Repr, Inhabited

/-- What a held fault record keeps (R329). -/
structure Held where
  wg : Nat
  tid : Nat
  /-- The thread's slot and slot generation (R27, R329). -/
  slot : Nat := 0
  sgen : Nat := 0
  /-- The thread's block as its header was on entry; for a context its instruction address. -/
  hdr : Succ
  roff : Nat
  ts : List Word32
  cause : Cause
  faddr : Nat
  word : Word32
  info : Word64
  /-- Tick of the fault (R332). -/
  tick : Nat := 0
  /-- Place of the fault among the faults of its source (R331). -/
  ord : Nat := 0
  deriving DecidableEq, Repr, Inhabited

/-- Where a workgroup is (R114, R374, R375). -/
inductive Place where
  | resident (cid : Nat)
  | saved (at' : SaveArea)
  deriving DecidableEq, Repr, Inhabited

/-- What a save is made for (R374): a WGSAVE, a WGMIGR onto a core (0xFFFF for the core that R58 chooses), the slicer, or a
shrink. -/
inductive SaveGoal where
  | form
  | migrate (target : Nat)
  | slice
  | depart
  deriving DecidableEq, Repr, Inhabited

/-- A save under way (R374): `claimed` once the core holds its forwarding entry. -/
structure SaveReq where
  area : SaveArea
  claimed : Bool
  goal : SaveGoal
  deriving DecidableEq, Repr, Inhabited

/-- A placed workgroup (R29-R32). -/
structure Workgroup where
  part : Nat
  lid : Nat
  wid : Nat
  place : Place
  lvl : Nat
  /-- The world is secure (R326). -/
  sec : Bool
  /-- Core rows given, ascending (R30). -/
  rows : List Nat
  tmax : Nat
  /-- Carried allotment A of the launch (R28). -/
  a : Nat
  /-- Scratchpad reservation in bytes (R57) and its bytes. -/
  spadLen : Nat
  spad : SMap Byte
  spadBad : List Nat
  /-- Offsets of slot records that a program has written into while ACTIVE: undefined-valued until their next LDSUB (R243). -/
  slotBad : List Nat := []
  threads : SMap Thread
  ctx : Option Ctx
  /-- Cohort reserve C and the entries (R32). -/
  cRes : Nat
  cohorts : SMap Cohort
  chans : SMap Chan
  tds : SMap Tensor
  pts : SMap (BitVec 512)
  /-- Sideband barriers whose workgroup arrival has left the die node (R402). -/
  pbSent : List Nat
  /-- A barrier release is recorded while saved (R377). -/
  pbRel : List Nat
  /-- Tick of the last placement or save (R370). -/
  since : Nat
  /-- Core of the last residence (R373). -/
  lastCid : Nat
  /-- The fragment workgroup of its core (R379). -/
  frag : Bool
  saving : Option SaveReq := none
  /-- Items applied to the image since the save (R373). -/
  fwd : Nat := 0
  /-- Faults that threads took while the workgroup was saved, which take their records at the restore (R78, R375). -/
  late : List Held := []
  deriving DecidableEq, Repr, Inhabited

/-- A frontier entry (R37); `since` is the raw cycle at which AGE was 0, or AGE itself while spilled. -/
structure Entry where
  ctx : Nat
  baddr : Nat
  prio : Nat
  fill : Nat
  cold : Bool
  len : Nat
  res : Bool
  roff : Nat
  /-- The waiting set: slot numbers, ascending. -/
  wset : List Nat
  opn : Bool
  since : Nat
  deriving DecidableEq, Repr, Inhabited

/-- A spilled entry in a spill record of its launch (R50, R51). -/
structure Spilled where
  idx : Nat
  ent : Entry
  sord : Nat
  deriving DecidableEq, Repr, Inhabited

/-- A batch in flight (R42, R43): the lanes with their threads, the current word and the lanes still to execute it. -/
structure Batch where
  blk : Nat
  len : Nat
  word : Nat
  lanes : SMap (Nat × Nat)
  todo : List Nat
  /-- The words of the block that the batch has fetched, by index (R142). -/
  fetched : SMap Word32 := []
  /-- The bytes of its block by physical address, as they were when it was formed (R142). -/
  code : List (Nat × List Byte) := []
  deriving DecidableEq, Repr, Inhabited

/-- The transients of one lane of one batch context, with the workgroup it last carried (R45). -/
structure LaneT where
  wg : Option Nat := none
  t : SMap Word32 := []
  deriving DecidableEq, Repr, Inhabited

/-- A fault record with its 7-bit generation (R329). -/
structure FRec where
  gen : Nat := 0
  held : Option Held := none
  deriving DecidableEq, Repr, Inhabited

/-- The weight record in the weight buffer: its tag and its bytes (R285). -/
structure WBuf where
  wg : Nat
  handle : Nat
  ver : Nat
  tile : List Nat
  bytes : SMap Byte
  deriving DecidableEq, Repr, Inhabited

/-- What a core has issued in raw cycle `raw` (R43, R263): the batch contexts, and the Scribe's instruction words. `last` is
the Scribe context selected last. -/
structure Issue where
  raw : Nat := 0
  batches : List Nat := []
  words : List Word32 := []
  last : Nat := 7
  deriving DecidableEq, Repr, Inhabited

/-- A core (R20). -/
structure Core where
  /-- Slot generations (R27). -/
  slotGen : SMap Nat := []
  /-- Launch contexts: partition and launch id (R37). -/
  ctxs : SMap (Nat × Nat) := []
  fr : List Entry := []
  spilled : List Spilled := []
  sord : Nat := 0
  /-- Raw cycle of the last spill swap or of the frontier becoming full (R56). -/
  swapRaw : Nat := 0
  deficit : SMap Int := []
  ptr : Nat := 0
  credited : Bool := false
  batches : SMap Batch := []
  lanes : SMap LaneT := []
  vrec : SMap FRec := []
  srec : SMap FRec := []
  /-- Faults stalled because all 64 records are held (R44). -/
  stalls : List Held := []
  mq : List MatOp := []
  /-- Raw cycle at which the matrix engine took up the head of its queue (R24, R282). -/
  mqSince : Nat := 0
  resident : Option Nat := none
  wbuf : Option WBuf := none
  /-- The split adopted (R118). -/
  spsel : Nat := 0
  /-- Slots placed in raw cycle `freshRaw`, which take part in selection from the next one (R39). -/
  fresh : List Nat := []
  freshRaw : Nat := 0
  /-- Raw cycle in which the Nib last formed a batch (R42), and in which a GROW last took words (R210). -/
  nibRaw : Option Nat := none
  growRaw : Option Nat := none
  issue : Issue := {}
  deriving DecidableEq, Repr, Inhabited

/-- A core group: world in force (R327), power state and counters that stand still (R81, R415). -/
structure CoreGroup where
  sec : Bool := false
  /-- 0 on, 1 clock-gated, 2 power-gated (R415). -/
  power : Nat := 0
  /-- Raw and nominal counts at which gated counters stand still. -/
  stopped : Option (Nat × Nat) := none
  /-- Cycles and twelfths the group has missed while gated. -/
  lostRaw : Nat := 0
  lostNacc : Nat := 0
  /-- Tick at which power gating ends, and the state the group then takes (R415). -/
  upAt : Option Nat := none
  upTo : Nat := 0
  deriving DecidableEq, Repr, Inhabited

/-- A relock under way: the new point and the time of its first tick edge (R83, R416). -/
structure Relock where
  point : Nat
  start : Nat
  deriving DecidableEq, Repr, Inhabited

/-- A die: its clock (R81-R83), its Larder (R137), worlds in force (R327) and refresh windows (R139). -/
structure Die where
  point : Nat := 1
  /-- Time from which the point holds, with the raw and nominal counts there. -/
  baseT : Nat := 0
  raw : Nat := 0
  nacc : Nat := 0
  relock : Option Relock := none
  larderOpen : Bool := false
  /-- An LWCLOSE waits: the copy operations issued before it, which may still write (R340). -/
  closing : Option (List Nat) := none
  tripped : Bool := false
  lbg : Nat := 0
  cpy : Nat := 0
  enc : Nat := 0
  /-- Bank groups in refresh. -/
  refresh : List Nat := []
  /-- Messages sent before this place in the order of sending were held in the crossing FIFOs when these last resumed (R416). -/
  heldTo : Nat := 0
  /-- Ticks from which, and up to which, the crossing FIFOs have held so far, and the tick of the trip (R416, R417). -/
  holds : List (Nat × Nat) := []
  tripTick : Nat := 0
  deriving DecidableEq, Repr, Inhabited

/-- A control context (R324, R338, R343). -/
structure Ctl where
  run : Bool := false
  pc : Nat := 0
  s : SMap Word64 := []
  lvl : Nat := 0
  sec : Bool := false
  part : Nat := 0
  evec : Word64 := 0
  epc : Word64 := 0
  ecause : Word64 := 0
  einfo : Word64 := 0
  /-- ESTAT[0] EIE, ESTAT[1] PIE. -/
  estat : Word64 := 0
  een : Word64 := 0
  etcmp : Word64 := 0
  sel : Word64 := 0
  g : Word32 := 0
  mode : CtxMode := .ready
  deriving DecidableEq, Repr, Inhabited

/-- A U delta of one word: operation and value (R122). -/
structure UDelta where
  kind : Nat
  val : Word32
  /-- The reductions came through a page with CMP (R133). -/
  cmp : Bool := false
  deriving DecidableEq, Repr, Inhabited

/-- One core's L1 state of a line: V, W and D of its 32 words and U deltas (R119, R122). The home of a line of a ROW page is 65,536 plus
the home agent that its address would give: no home tracks it (R132). -/
structure L1Line where
  v : Word32 := 0
  w : Word32 := 0
  d : Word32 := 0
  u : SMap UDelta := []
  /-- The line's home where its page is LOCAL or PINNED (R128), a home agent or 256 + 64 × die + slice, or ROW (R132). -/
  home : Option Nat := none
  deriving DecidableEq, Repr, Inhabited

/-- A line in an L2 slice (R125): the words the slice holds written on its die's behalf (R123, R124), and the line's home as
`L1Line.home` names it. Which cores share or own its words is what their L1s hold. -/
structure L2Line where
  line : Nat
  w : Word32 := 0
  d : Word32 := 0
  home : Nat
  deriving DecidableEq, Repr, Inhabited

/-- A line in an LLC slice (R127): dirty when HBM has not taken its data yet. -/
structure LlcLine where
  line : Nat
  dirty : Bool
  deriving DecidableEq, Repr, Inhabited

/-- A directory transaction in flight (R388): invalidations or recalls not yet at their L1, acknowledgements on their
way back, whether the reply is on its way, the words of it that an invalidation overtook, and the dirty words that move with a
grant (R120), and the cores whose acknowledgement gives up words that they own. `home` is the line's home; `ord` and `rord` are the places of its messages and of its reply in the order of sending (R386),
`tick` is when one of them last moved (R387). -/
structure Trans where
  cid : Nat
  line : Nat
  words : Word32
  own : Bool
  toL1 : List Nat
  acks : List Nat
  reply : Bool
  drop : Word32
  dw : Word32
  home : Nat := 0
  ord : Nat := 0
  rord : Nat := 0
  tick : Nat := 0
  owners : List Nat := []
  deriving DecidableEq, Repr, Inhabited

/-- A translation cache entry (R353): a leaf at `lvl`, its page, its value, and where the entry lies and its version (R354). -/
structure TlbEnt where
  die : Nat
  part : Nat
  lvl : Nat
  page : Nat
  pte : Word64
  addr : Nat
  ver : Nat
  deriving DecidableEq, Repr, Inhabited

/-- An accessed or dirty report (R354). -/
structure Report where
  part : Nat
  addr : Nat
  ver : Nat
  dirty : Bool
  deriving DecidableEq, Repr, Inhabited

/-- A table pool (R347). -/
structure Pool where
  base : Nat := 0
  count : Nat := 0
  ridx : Nat := 0
  deriving DecidableEq, Repr, Inhabited

/-- A queued table-update command (R355); `done` holds the result VALUE and RSTAT once the tables have changed. -/
structure PtCmd where
  part : Nat
  lvl : Nat
  sec : Bool
  /-- Die of the issuer. -/
  die : Nat
  img : BitVec 512
  done : Option (Word64 × Nat)
  /-- The command is suspended by an engine fault (R355). -/
  held : Bool
  /-- The result record has been written. -/
  wrote : Bool
  /-- Workgroup and core of an issuer that is a core's Scribe context (R355). -/
  wg : Option Nat := none
  cid : Option Nat := none
  /-- Launch id and wid of such an issuer, 0 of a control context (R332). -/
  lid : Nat := 0
  wid : Nat := 0
  deriving DecidableEq, Repr, Inhabited

/-- The states of a launch (R367). -/
inductive LState where
  | pending | ready | draining | complete | refused
  deriving DecidableEq, Repr, Inhabited

/-- A launch (R362, R367). -/
structure Launch where
  part : Nat
  lid : Nat
  record : BitVec 1024
  lvl : Nat
  sec : Bool
  st : LState
  /-- Lowest wid not yet handed out. -/
  next : Nat
  /-- Workgroups handed to a die dispatcher and not yet placed: die and wid (R58). -/
  handed : List (Nat × Nat)
  /-- Workgroups returned to the global dispatcher (R58). -/
  back : List Nat
  placed : Nat
  ended : Nat
  /-- Physical address of the start-dependence counter (R367). -/
  depPa : Nat
  readyAt : Nat
  posted : Bool
  /-- Its save area failed the check of R374: no save slot counts as free before this tick. -/
  noSlot : Nat := 0
  /-- Cores of a fragment launch's workgroups, by wid (R379). -/
  cores : List Nat := []
  deriving DecidableEq, Repr, Inhabited

/-- A record in a device launch queue, with the id it was given (R208, R366). -/
structure DlqRec where
  part : Nat
  lid : Nat
  record : BitVec 1024
  sec : Bool
  deriving DecidableEq, Repr, Inhabited

/-- A die dispatcher's report for a core group (R58): the largest free count of each resource of R57 on a single core. -/
structure DieRep where
  die : Nat
  cg : Nat
  rows : Nat
  words : Nat
  spad : Nat
  scribes : Nat
  cohorts : Nat
  entries : Nat
  ctxs : Nat
  deriving DecidableEq, Repr, Inhabited

/-- A partition's dispatch state (R365, R366, R370). -/
structure Part where
  nextLid : Nat := 0
  rr : Nat := 0
  /-- Tick of the last quantum boundary served. -/
  bnd : Nat := 0
  /-- Free counts last reported by the die dispatchers (R58). -/
  rep : List DieRep := []
  /-- What the slicer still has to swap in: saved workgroups, and launches with a number of unplaced ones (R370). -/
  candWgs : List Nat := []
  candLids : List (Nat × Nat) := []
  /-- The save of a swap is done and the candidate's placement is outstanding (R370). -/
  half : Bool := false
  /-- The workgroup that a swap is saving (R370). -/
  victim : Option Nat := none
  deriving DecidableEq, Repr, Inhabited

/-- A copy operation: a slice of a copy instance or a tensor copy (R255, R256). -/
structure CopyOp where
  id : Nat
  eid : Nat
  part : Nat
  lvl : Nat
  sec : Bool
  wg : Nat
  lid : Nat
  wid : Nat
  /-- Tensor copy: the two descriptors. -/
  tensor : Option (BitVec 512 × BitVec 512)
  src : Nat
  dst : Nat
  len : Nat
  /-- Bytes (or elements) already performed. -/
  at' : Nat
  inst : Option Nat
  caddr : Nat
  inc : Nat
  held : Bool
  /-- The core that issued it (R124). -/
  cid : Nat := 0
  deriving DecidableEq, Repr, Inhabited

/-- A copy instance of a cohort (R255): participants, issues with rank, counter and increment, and open slices. -/
structure CopyInst where
  id : Nat
  wg : Nat
  lid : Nat
  wid : Nat
  h : Nat
  parts : List Nat
  issued : List (Nat × Nat × Nat × Nat)
  /-- The engine of its latest slice, which makes the post. -/
  eid : Nat
  open' : Nat
  /-- A slice was ended by THKILL, so no post follows (R336). -/
  cut : Bool
  /-- Level and world of the issuers, for the post. -/
  lvl : Nat
  sec : Bool
  part : Nat
  /-- The core that issued it (R124). -/
  cid : Nat := 0
  deriving DecidableEq, Repr, Inhabited

/-- A ray query (R311). -/
structure RayQ where
  id : Nat
  eid : Nat
  wg : Nat
  lid : Nat
  wid : Nat
  part : Nat
  lvl : Nat
  sec : Bool
  off : Nat
  /-- The 64 bytes of the slot as 16 words. -/
  slot : List Word32
  hdr : Nat
  held : Bool
  /-- The core that issued it (R124). -/
  cid : Nat := 0
  deriving DecidableEq, Repr, Inhabited

/-- An engine's held suspension slot (R329, R336): class of R332 and the operation's name. -/
structure Susp where
  eid : Nat
  idx : Nat
  part : Nat
  cls : Nat
  op : Nat
  faddr : Nat
  deriving DecidableEq, Repr, Inhabited

/-- A meshlet in a binning queue (R295). -/
structure Meshlet where
  part : Nat
  die : Nat
  cg : Nat
  bseq : Nat
  lvl : Nat
  sec : Bool
  lid : Nat
  bytes : List Byte
  /-- Triangles binned so far, and regions of the next one already served (R302). -/
  tri : Nat
  reg : Nat
  deriving DecidableEq, Repr, Inhabited

/-- Where a visibility packet is (R299, R302, R390). -/
inductive PkStage where
  /-- Being gathered by the binning unit (R297). -/
  | gather
  /-- Closed, and waiting for a place in the packet hold store. -/
  | full
  /-- In the packet hold store or on the crossbar. -/
  | hold
  /-- In the packet hold store, refused by its region unit. -/
  | refused
  /-- In the Hearth's queue of a region in transfer. -/
  | hearth
  /-- In the proofing buffer. -/
  | proof
  /-- In the raster unit's input. -/
  | raster
  deriving DecidableEq, Repr, Inhabited

/-- A visibility packet (R297, R298): triangle records of 16 words. `src` is its binning unit, 256 × die + core group. -/
structure Packet where
  id : Nat
  part : Nat
  src : Nat
  bseq : Nat
  rx : Nat
  ry : Nat
  pidx : Nat
  state : Nat
  /-- The render state record as the binning unit read it (R292). -/
  rst : BitVec 512
  tris : List (List Word32)
  codes : Word32
  stage : PkStage
  /-- Die and core group that accepted it. -/
  die : Nat
  cg : Nat
  /-- Tick at which it was closed (R387). -/
  tick : Nat := 0
  deriving DecidableEq, Repr, Inhabited

/-- A region's entry in a region unit (R301, R321). -/
structure Region where
  part : Nat
  rx : Nat
  ry : Nat
  e : Nat
  n : Nat
  tag : Nat
  /-- Physical ranges of the targets written since the last RGNFLUSH (R308). -/
  wrote : List (Nat × Nat)
  /-- Blending suspended by an engine fault (R308). -/
  held : Bool
  /-- Broadcasts of the batches that the region has passed, of which a copy is still on its way to some unit (R303, R390). -/
  took : List Nat := []
  deriving DecidableEq, Repr, Inhabited

/-- A seal: on its way to, or held by, the region unit of one core group (R299, R300). `cast` numbers the broadcast, whose copies share
it. -/
structure Seal where
  id : Nat
  cast : Nat := 0
  part : Nat
  bseq : Nat
  /-- Sending die. -/
  src : Nat
  last : Bool
  die : Nat
  cg : Nat
  held : Bool
  /-- Entries: count, RY, RX. -/
  ents : List (Nat × Nat × Nat)
  deriving DecidableEq, Repr, Inhabited

/-- A batch of a mesh launch (R291). -/
structure MeshBatch where
  part : Nat
  bseq : Nat
  die : Nat
  lid : Nat
  first : Nat
  count : Nat
  ended : Nat
  retired : Bool
  /-- Packets sent so far: RX, RY, count (R297, R300). -/
  sent : List (Nat × Nat × Nat)
  deriving DecidableEq, Repr, Inhabited

/-- How a fragment is resolved (R306). -/
inductive Resolve where
  | no
  | blend (r g b a : Word32)
  | discard
  deriving DecidableEq, Repr, Inhabited

/-- A fragment not yet acted on by the blend unit (R304-R307). -/
structure Frag where
  id : Nat
  part : Nat
  die : Nat
  cg : Nat
  rx : Nat
  ry : Nat
  x : Nat
  y : Nat
  tag : Nat
  z : Word32
  b1 : Word32
  b2 : Word32
  meshlet : Word32
  prim : Word32
  front : Bool
  /-- The render state record of its packet. -/
  rst : BitVec 512
  /-- The thread it was spawned as, once spawned: workgroup and tid; and the level, world and launch of that workgroup. -/
  thread : Option (Nat × Nat)
  lvl : Nat
  sec : Bool
  lid : Nat
  wid : Nat
  res : Resolve
  /-- Accesses of the blend performed (R336): depth read, depth write, colour read; then the colour to be written. -/
  stage : Nat
  pend : Nat
  deriving DecidableEq, Repr, Inhabited

/-- A fault log entry waiting to be posted (R331): log (64 is the device log), source and the 32 words of R332. -/
structure Post where
  id : Nat
  log : Nat
  src : Nat
  words : List Word32
  /-- Place of its fault among those of its source. -/
  ord : Nat := 0
  deriving DecidableEq, Repr, Inhabited

/-- A forwarding entry of a core (R376): what its drain count stands for, engine operations, homes and the dispatchers of dies. -/
structure Fwd where
  cid : Nat
  wgs : List Nat
  ops : List Nat
  homes : List Nat
  dies : List Nat := []
  deriving DecidableEq, Repr, Inhabited

/-- What an item addressed to a saved or moved workgroup is (R376, R377): a push of a subscription, or the release of a
sideband barrier. -/
inductive ItemKind where
  | push (sub : Nat)
  | release (pb : Nat)
  deriving DecidableEq, Repr, Inhabited

/-- An item that has reached a core for a saved or moved workgroup (R376), with its place in the order of sending (R386) and the tick at
which it reached the core (R387). -/
structure Item where
  cid : Nat
  wg : Nat
  kind : ItemKind
  ord : Nat := 0
  tick : Nat := 0
  deriving DecidableEq, Repr, Inhabited

/-- What the part has laid out in a range of memory: a spill record of a launch (R51), or the image of a saved workgroup (R372). -/
inductive Holder where
  | record (part lid idx : Nat)
  | image (wg : Nat)
  deriving DecidableEq, Repr, Inhabited

/-- A physical range that the part has laid out: `dark` when a program reads it as undefined-valued (R52, R372), false for the header of
an image. -/
structure Laid where
  lo : Nat
  hi : Nat
  holder : Holder
  dark : Bool
  deriving DecidableEq, Repr, Inhabited

/-- An access to a peer aperture that its peer has not completed (R400): its port, its partition, and its agent, none for an engine. -/
structure PeerOut where
  id : Nat
  port : Nat
  part : Nat
  ag : Option Agent
  /-- Tick at which it was sent (R387). -/
  tick : Nat := 0
  deriving DecidableEq, Repr, Inhabited

/-- A standing-load subscription at its home (R244, R245). -/
structure Sub where
  id : Nat
  wg : Nat
  off : Nat
  pa : Nat
  dw : Bool
  /-- The push in flight: value and the writes it stands for. -/
  push : Option (Word64 × Nat)
  /-- Writes merged for the next push. -/
  merged : Option (Word64 × Nat)
  /-- Removal asked for by UNSUB (R247). -/
  closing : Bool
  /-- The push has reached a core that forwards it (R376). -/
  fwd : Bool := false
  /-- The home of the location (R128): a home agent, or 256 + 64 × die + slice. -/
  home : Nat
  /-- The bytes that the writes of the push in flight, and those merged for the next one, have written: no other agent reads any of them
  before its push is acknowledged (R150). -/
  span : List (Nat × Nat) := []
  mspan : List (Nat × Nat) := []
  /-- When the push in flight was sent: its place in the order of sending (R386), and the tick (R387). -/
  ord : Nat := 0
  tick : Nat := 0
  deriving DecidableEq, Repr, Inhabited

/-- The root of a sideband barrier (R402): count N, phase, workgroups arrived in this and in the next phase, and the
tick at which the phase ended. -/
structure PBar where
  n : Nat := 0
  phase : Bool := false
  arr : List Nat := []
  nxt : List Nat := []
  endT : Option Nat := none
  deriving DecidableEq, Repr, Inhabited

/-- Running state of a virtual display and its stream (R404, R405, R409). -/
structure Disp where
  run : Bool := false
  t0 : Nat := 0
  frame : Nat := 0
  staged : SMap Word64 := []
  /-- Frames whose capture tick has passed and whose planes are still to be read: number, tick, the registers in force then (R404). -/
  due : List (Nat × Nat × SMap Word64) := []
  /-- Captured frames waiting to be coded, the first one first: number, tick, samples. -/
  cap : List (Nat × Nat × List Nat) := []
  /-- Where the next stretch starts in the output ring (R409). -/
  off : Nat := 0
  stream : Bool := false
  /-- Frames coded since the last key frame; `none` before the first. -/
  sinceKey : Option Nat := none
  held : Bool := false
  /-- EN was cleared while a frame was in progress (R410). -/
  ending : Bool := false
  /-- A coded frame's post is still to be performed (R409). -/
  posting : Bool := false
  /-- The engine that serves the stream: SCTL.ENG of its last write of EN = 1 (R407, R410). -/
  eng : Nat := 0
  deriving DecidableEq, Repr, Inhabited

/-- A location in a die's corrected-error tracker: times of its errors, newest first (R420). -/
structure RasLoc where
  die : Nat
  loc : Nat
  times : List Nat
  /-- It was found lasting with no spare left. -/
  noSpare : Bool
  deriving DecidableEq, Repr, Inhabited

/-- What a stalled privileged form waits for (R333, R340, R341). -/
inductive FormKind where
  | ownxfer (part rx ry die cg : Nat)
  | pstep (die : Nat)
  | wgsave (wg va : Nat)
  | wgmigr (wg target : Nat)
  /-- With the copy operations it waits for. -/
  | lwclose (die : Nat) (ops : List Nat)
  deriving DecidableEq, Repr, Inhabited

/-- A privileged form under way: its agent and destination field. -/
structure PForm where
  id : Nat
  /-- The stalled context; none once it has ended or been stopped. -/
  ag : Option Agent
  d : Field
  kind : FormKind
  deriving DecidableEq, Repr, Inhabited

/-- What acts next (log 1): a batch context of a core, the Scribe context of a workgroup, a control context, a unit, or the world outside:
the host or a peer stores into memory that is its own or that it owns a copy of (R396, R397, R399), the host loads a doubleword of BAR0
(R394). -/
inductive Act where
  | batch (cid bctx : Nat)
  | scribe (wg : Nat)
  | control (n : Nat)
  | unit (i : Instr)
  | outside (pa : Nat) (bytes : List Byte)
  | hostLoad (o : Nat)
  deriving DecidableEq, Repr

/-- One turn of the agenda: the time that passes first, in units of 1/8400 MHz, and who acts (log 1). -/
structure Turn where
  dt : Nat
  act : Act
  deriving DecidableEq, Repr

/-- The state of the part. -/
structure State where
  /-- Time in units of 1/8400 MHz since package reset (R6, R82). -/
  now : Nat := 0
  agenda : List Turn := []
  cur : Agent := .control 0
  /-- What has acted in the present round of `idleStep`, by name (R60, R62; the model's own). -/
  round : List (Nat × Nat × Nat) := []
  /-- Acts and cycles of `idleStep` since something acted that had not acted in the round (the model's own). -/
  lull : Nat := 0
  /-- The instruction word under execution, which a fault record keeps (R329). -/
  ir : Word32 := 0
  free : Nat := 0
  nextId : Nat := 0
  mem : List Host.Cell := []
  bootRam : List Host.Cell := []
  tbl : List Host.Cell := []
  bdi : SMap Nat := []
  larderPoison : List Nat := []
  frozen : List Nat := []
  /-- What the part has laid out in memory (R51, R372), and what of it software has written into all the same (R16, R52, R372). -/
  laid : List Laid := []
  spoiled : List Holder := []
  /-- L1 states by line, then by core (R119). -/
  lines : SMap (SMap L1Line) := []
  /-- L2 slices, by 64 × die + slice, the line used last first (R125). The value of a line is held once, in `mem`. -/
  l2 : SMap (List L2Line) := []
  /-- LLC slices by their home agent h: slice h mod 64 of memory die index h / 64 (R17, R127). -/
  llc : SMap (List LlcLine) := []
  cohMsgs : List Trans := []
  hostDir : List (Nat × Bool) := []
  /-- Lines of host memory for which the Hearth holds the host's permission (R397). -/
  hostPerm : List Nat := []
  icache : SMap Word32 := []
  tlb : List TlbEnt := []
  reports : List Report := []
  pteVer : SMap Nat := []
  pools : SMap Pool := []
  ptq : List PtCmd := []
  csr : SMap Word64 := []
  dreg : SMap Word64 := []
  preg : SMap Word64 := []
  parts : SMap Part := []
  dlq : List DlqRec := []
  launches : List Launch := []
  wgs : SMap Workgroup := []
  nextWg : Nat := 0
  cores : SMap Core := []
  cgs : SMap CoreGroup := []
  dies : SMap Die := []
  ctl : SMap Ctl := []
  copies : List CopyOp := []
  copyInsts : List CopyInst := []
  rays : List RayQ := []
  susp : List Susp := []
  suspGen : SMap Nat := []
  binq : List Meshlet := []
  packets : List Packet := []
  regions : List Region := []
  seals : List Seal := []
  batches : List MeshBatch := []
  frags : List Frag := []
  /-- Discard counters of binning units and protocol counters of region units, by unit (R292, R303, R305). -/
  counts : SMap Nat := []
  posts : List Post := []
  fwds : List Fwd := []
  items : List Item := []
  subs : List Sub := []
  pbs : SMap PBar := []
  /-- Workgroup arrivals on their way to the root: barrier, workgroup and tick of the last thread's arrival (R402). -/
  pbFlight : List (Nat × Nat × Nat) := []
  disps : SMap Disp := []
  ras : List RasLoc := []
  /-- Rows being copied to a spare: die and location (R420). -/
  spares : List (Nat × Nat) := []
  /-- Spare rows used, by 4 × die + array. -/
  sparesUsed : SMap Nat := []
  /-- Cache ways disabled, by cache: an L1 by its core, the others by `wayKey` (R420). -/
  waysOff : SMap Nat := []
  /-- Dies that enumeration recorded absent, because their port failed to train (R414). -/
  absentDies : List Nat := []
  /-- MINVER in force and as raised for the next reset (R412). -/
  minver : Nat := 0
  minverNext : Nat := 0
  fwDigest : BitVec 512 := 0
  /-- Boot has failed and the device stays so until package reset (R411). -/
  bootDead : Bool := false
  /-- Spoke ports whose last replay failed (R391). -/
  replays : List Nat := []
  /-- Messages on the escape channel, by their place in the order of sending (R387). -/
  escaped : List Nat := []
  /-- Accesses to peer apertures not yet completed, in the order of issue (R400). -/
  peerOut : List PeerOut := []
  forms : List PForm := []
  /-- Die events awaiting the device manager (R338). -/
  dieEvents : Nat := 0
  /-- Answers given to the outside: host reads, peer reads and reports, newest first (model's own). -/
  out : List Word64 := []
  deriving DecidableEq, Repr

/-- Control context 0 after package reset: device-manager level, secure world, boot ROM (R324, R411), its generator seeded with RNDSEED 0
(R91, log 32). -/
def Ctl.boot : Ctl := { run := true, lvl := 2, sec := true, g := 0x1000 }

/-- The part right after package reset (R6, R324, R411): every register at the value its field map gives, no launch, no
workgroup, control context 0 running. -/
def State.reset : State := { ctl := [(0, Ctl.boot)] }

end Sys2Proof.Machine
end

