-- ==== Sys2Proof/Machine/Ops.lean ====
section
/-! DEFINITION. The named operations over the state: access to its parts, clocks, registers, moving past an
instruction word, taking a fault and the return from an event. -/

namespace Sys2Proof.Machine

open Sys2Proof

/-- What a step answers. -/
abbrev Result := Host.Outcome State Fault Refusal

/-- An act of a unit whose condition does not hold does nothing, and the part goes on (log 1). -/
def off (s : State) : Result := .next s

/-! Access to the parts of the state -/

def coreAt (s : State) (cid : Nat) : Core := s.cores.get {} cid
def setCore (s : State) (cid : Nat) (c : Core) : State := { s with cores := s.cores.put cid c }
def updCore (s : State) (cid : Nat) (f : Core → Core) : State := setCore s cid (f (coreAt s cid))

def cgKey (die cg : Nat) : Nat := die * 256 + cg
def cgroup (s : State) (die cg : Nat) : CoreGroup := s.cgs.get {} (cgKey die cg)
def setCg (s : State) (die cg : Nat) (g : CoreGroup) : State := { s with cgs := s.cgs.put (cgKey die cg) g }

def die (s : State) (n : Nat) : Die := s.dies.get {} n
def setDie (s : State) (n : Nat) (d : Die) : State := { s with dies := s.dies.put n d }

def ctl (s : State) (n : Nat) : Ctl := s.ctl.get {} n
def setCtl (s : State) (n : Nat) (c : Ctl) : State := { s with ctl := s.ctl.put n c }
def updCtl (s : State) (n : Nat) (f : Ctl → Ctl) : State := setCtl s n (f (ctl s n))

def wg? (s : State) (w : Nat) : Option Workgroup := s.wgs.find w
def setWg (s : State) (w : Nat) (g : Workgroup) : State := { s with wgs := s.wgs.put w g }
def updWg (s : State) (w : Nat) (f : Workgroup → Workgroup) : State :=
  match wg? s w with
  | some g => setWg s w (f g)
  | none => s

def thread? (s : State) (w t : Nat) : Option Thread := (wg? s w).bind fun g => g.threads.find t
def updThread (s : State) (w t : Nat) (f : Thread → Thread) : State :=
  updWg s w fun g =>
    match g.threads.find t with
    | some th => { g with threads := g.threads.put t (f th) }
    | none => g
def updCtx (s : State) (w : Nat) (f : Ctx → Ctx) : State := updWg s w fun g => { g with ctx := g.ctx.map f }

def part (s : State) (p : Nat) : Part := s.parts.get {} p
def setPart (s : State) (p : Nat) (x : Part) : State := { s with parts := s.parts.put p x }

/-- Die and core group of a core identity (R18, R64). -/
def cidDie (cid : Nat) : Nat := cid / 256
def cidCg (cid : Nat) : Nat := cid % 256 / 8

/-- The core that holds a workgroup, if it is resident (R114). -/
def Workgroup.cid? (g : Workgroup) : Option Nat :=
  match g.place with
  | .resident c => some c
  | .saved _ => none

/-- The workgroups resident on a core, in the order of their names. -/
def residents (s : State) (cid : Nat) : List (Nat × Workgroup) := s.wgs.filter fun x => x.2.cid? == some cid

/-- The slot of a thread (R25, R30). -/
def Workgroup.slot (g : Workgroup) (t : Nat) : Nat := (g.rows.getD (t / 32) 0) * 32 + t % 32

/-- The launch of a partition with a launch id. -/
def launch? (s : State) (p l : Nat) : Option Launch := s.launches.find? fun x => x.part == p && x.lid == l
def updLaunch (s : State) (p l : Nat) (f : Launch → Launch) : State :=
  { s with launches := s.launches.map fun x => if x.part == p && x.lid == l then f x else x }

/-- A field of a launch record: bits [hi:lo] of the little-endian number at byte offset `o` (R362). -/
def recField (r : BitVec 1024) (o hi lo : Nat) : Nat := bits (r.toNat >>> (8 * o)) hi lo

/-! Clocks (R6, R81-R83) -/

/-- The reference timer (R6). -/
def timer (s : State) : Nat := s.now / Config.tickUnits % 2 ^ 64

/-- Raw cycles of a die's core clock (R81); none pass in a relock (R83). -/
def dieRaw (s : State) (n : Nat) : Nat :=
  let d := die s n
  match d.relock with
  | some _ => d.raw
  | none => d.raw + (s.now - d.baseT) / Config.cycleUnits d.point

/-- Tick edges of a relock interval that have passed, at most ten (R83, R416). -/
def relockEdges (s : State) (r : Relock) : Nat :=
  if s.now < r.start then 0 else min 10 ((s.now - r.start) / Config.tickUnits + 1)

/-- The nominal accumulator of a die's cores in twelfths (R82, R83). -/
def dieNacc (s : State) (n : Nat) : Nat :=
  let d := die s n
  match d.relock with
  | some r => d.nacc + 42 * relockEdges s r
  | none => d.nacc + (s.now - d.baseT) / Config.cycleUnits d.point * Config.cycleUnits d.point

/-- Raw cycle counter of a core (R81): it stands still while its group is gated (R415). -/
def coreRaw (s : State) (cid : Nat) : Nat :=
  let g := cgroup s (cidDie cid) (cidCg cid)
  match g.stopped with
  | some (r, _) => r
  | none => dieRaw s (cidDie cid) - g.lostRaw

/-- Nominal accumulator of a core: 68 bits (R82). -/
def coreNacc (s : State) (cid : Nat) : Nat :=
  let g := cgroup s (cidDie cid) (cidCg cid)
  match g.stopped with
  | some (_, n) => n % 2 ^ 68
  | none => (dieNacc s (cidDie cid) - g.lostNacc) % 2 ^ 68

/-! The matrix queue -/

/-- A core's matrix queue changes: the engine takes up a new head now (R24, R273). -/
def Core.setQueue (c : Core) (q : List MatOp) (now : Nat) : Core :=
  { c with mq := q, mqSince := if q.head? = c.mq.head? then c.mqSince else now }

/-- The matrix engine keeps nothing of a workgroup: its accumulator set and its weight record go. -/
def Core.without (c : Core) (w : Nat) : Core :=
  { c with resident := if c.resident == some w then none else c.resident, wbuf := c.wbuf.filter fun b => b.wg != w }

/-- A core's matrix queue becomes another one. -/
def setMatQueue (s : State) (cid : Nat) (q : List MatOp) : State := updCore s cid fun c => c.setQueue q (coreRaw s cid)

/-! Registers of the part by number, with the reset values of their field maps (R12) -/

def csrKey (num at' : Nat) : Nat := num * 65536 + at'
/-- Reset values of the CSRs (R331, R344). -/
def csrReset (num : Nat) : Word64 := if num = 0x400 then 0x80000006#64 else 0#64
def csrGet (s : State) (num at' : Nat) : Nat := (s.csr.get (csrReset num) (csrKey num at')).toNat
def csrSet (s : State) (num at' v : Nat) : State := { s with csr := s.csr.put (csrKey num at') (BitVec.ofNat 64 v) }

def dregKey (d o : Nat) : Nat := d * 2 ^ 24 + o
/-- Reset values of the die registers (R389, R413, R420). -/
def dregReset (d o : Nat) : Word64 :=
  if d = 0 then (if o = 0 then 2000#64 else if o = 0x40 then 0x180003#64 else 0#64)
  else if o = 0 then Config.ddesc0 d
  else if o = 8 then Config.ddesc1 d
  else if o = 0x40 then 0x180003#64
  else 0#64
def dregGet (s : State) (d o : Nat) : Nat := (s.dreg.get (dregReset d o) (dregKey d o)).toNat
def dregSet (s : State) (d o v : Nat) : State := { s with dreg := s.dreg.put (dregKey d o) (BitVec.ofNat 64 v) }

def pregKey (p o : Nat) : Nat := p * 65536 + o
/-- Reset values of the partition registers (R364, R403). -/
def pregReset (o : Nat) : Word64 :=
  if o = 0x200 then 20#64
  else if o = 0x208 then 0x0101#64
  else if o = 0xC08 || o = 0xD08 then 0x1003C#64
  else 0#64
/-- The doubleword at an 8-byte-aligned offset of a partition's register block (R364). -/
def pregGet (s : State) (p o : Nat) : Nat := (s.preg.get (pregReset o) (pregKey p o)).toNat
def pregSet (s : State) (p o v : Nat) : State := { s with preg := s.preg.put (pregKey p o) (BitVec.ofNat 64 v) }

/-! The executing agent -/

/-- What an access or a form needs to know of the agent that makes it (R143, R323, R326). -/
structure Issuer where
  part : Nat
  lvl : Nat
  sec : Bool
  die : Nat
  /-- The executing core, for a thread or a core Scribe context. -/
  cid : Option Nat
  wg : Option Nat
  lid : Nat
  /-- The agent itself, for an access of an instruction; none for an access of an engine. -/
  ag : Option Agent := none
  /-- An engine or the Hearth acts for launch `lid`. -/
  eng : Bool := false
  /-- The copy operation that makes it. -/
  op : Option Nat := none
  /-- Die and core group of the unit that makes it for a workgroup, whose region ownership counts (R132, R350). -/
  grp : Option (Nat × Nat) := none
  /-- The core that issued an engine's operation (R124, R260). -/
  src : Option Nat := none
  /-- The launch record whose Larder-read permission counts, for an access that the Hearth makes for the launch (R137, R363). -/
  record : Option (BitVec 1024) := none
  deriving DecidableEq, Repr, Inhabited

/-- Partition number of a device-manager context, whose tables are pool 64 (R343, R347). -/
def devicePart : Nat := 64

/-- The issuer data of an agent. -/
def issuer (s : State) (a : Agent) : Issuer :=
  match a with
  | .control n =>
    let c := ctl s n
    { part := if c.lvl == 2 then devicePart else c.part, lvl := c.lvl, sec := c.sec, die := 0, cid := none, wg := none, lid := 0,
      ag := some a }
  | .vthread w _ | .scribe w =>
    match wg? s w with
    | some g =>
      { part := g.part, lvl := g.lvl, sec := g.sec, die := cidDie ((g.cid?).getD g.lastCid), cid := g.cid?, wg := some w, lid := g.lid,
        ag := some a }
    | none => default

/-- The executing agent is a vector thread. -/
def isVector (s : State) : Bool :=
  match s.cur with
  | .vthread _ _ => true
  | _ => false

/-- Width of integer operands: 32 on a vector thread, 64 on a context (R188). -/
def width (s : State) : Nat := if isVector s then 32 else 64

/-- The workgroup of the executing agent. -/
def curWg (s : State) : Option (Nat × Workgroup) :=
  match s.cur with
  | .vthread w _ | .scribe w => (wg? s w).map fun g => (w, g)
  | .control _ => none

/-- Batch context and lane of a running thread. -/
def Thread.bctx? (t : Thread) : Option Nat :=
  match t.st with
  | .running b => some b
  | _ => none

/-- The core and batch context a running thread executes on. -/
def runPlace (s : State) (w t : Nat) : Option (Nat × Nat) :=
  match wg? s w, thread? s w t with
  | some g, some th =>
    match g.cid?, th.bctx? with
    | some cid, some b => some (cid, b)
    | _, _ => none
  | _, _ => none

/-- The clock of a core group runs: it is not gated, its die is not tripped and no relock is under way (R83, R415, R417). -/
def cgRuns (s : State) (d g : Nat) : Bool := (cgroup s d g).power == 0 && (die s d).relock.isNone && !(die s d).tripped
def coreRuns (s : State) (cid : Nat) : Bool := cgRuns s (cidDie cid) (cidCg cid)

/-- The agent is one that can execute an instruction now. -/
def canRun (s : State) : Bool :=
  match s.cur with
  | .vthread w t =>
    match runPlace s w t with
    | some (cid, b) => ((coreAt s cid).batches.find b).isSome && coreRuns s cid
    | none => false
  | .scribe w =>
    match wg? s w with
    | some g => g.cid?.any (coreRuns s) && (g.ctx.any fun c => c.mode == .ready && c.saved.isEmpty) && g.saving.all (!·.claimed)
    | none => false
  | .control n => (ctl s n).run && (ctl s n).mode == .ready && !(die s 0).tripped

/-- Address of the instruction word under execution; a block's 49 address bits stand for a canonical address (R37, R112). -/
def curPc (s : State) : Nat :=
  match s.cur with
  | .vthread w t =>
    match runPlace s w t with
    | some (cid, b) =>
      match (coreAt s cid).batches.find b with
      | some x => (sextNat 49 64 x.blk + 4 + 4 * x.word) % 2 ^ 64
      | none => 0
    | none => 0
  | .scribe w => (((wg? s w).bind (·.ctx)).map (·.pc)).getD 0
  | .control n => (ctl s n).pc

/-! Reading and writing registers (R63-R66, R72, R73) -/

def laneKey (b lane : Nat) : Nat := b * 32 + lane

/-- One 32-bit register of a vector thread by field (R63, R64). -/
def readV (s : State) (w t f : Nat) : Word32 :=
  match wg? s w, thread? s w t, runPlace s w t with
  | some g, some th, some (cid, b) =>
    if f < 16 then ((coreAt s cid).lanes.get {} (laneKey b (t % 32))).t.get 0 f
    else if f < 112 then th.v.get 0 (th.wbase + (f - 16))
    else if f < 120 then
      match launch? s g.part g.lid with
      | some l => BitVec.ofNat 32 (recField l.record (0x20 + 4 * (f - 112)) 31 0)
      | none => 0
    else match f with
      | 120 => BitVec.ofNat 32 t
      | 121 => BitVec.ofNat 32 g.wid
      | 122 => BitVec.ofNat 32 (t % 32)
      | 123 => BitVec.ofNat 32 cid
      | 124 => BitVec.ofNat 32 g.lid
      | 125 => BitVec.ofNat 32 th.wbase
      | 126 => BitVec.ofNat 32 th.allot
      | _ => 0
  | _, _, _ => 0

/-- One 64-bit register of a core Scribe context by field (R72). -/
def readS (s : State) (w f : Nat) : Word64 :=
  match wg? s w with
  | some g =>
    match g.ctx with
    | some c =>
      if f < 112 then c.s.get 0 f
      else if f < 120 then
        match launch? s g.part g.lid with
        | some l => BitVec.ofNat 64 (recField l.record (0x20 + 4 * (f - 112)) 31 0)
        | none => 0
      else match f with
        | 120 => BitVec.ofNat 64 c.scid
        | 121 => BitVec.ofNat 64 g.wid
        | 123 => BitVec.ofNat 64 (g.cid?.getD 0)
        | 124 => BitVec.ofNat 64 g.lid
        | _ => 0
    | none => 0
  | none => 0

/-- One 64-bit register of a control context by field (R72, R427). -/
def readC (s : State) (n f : Nat) : Word64 :=
  if f < 112 then (ctl s n).s.get 0 f
  else if f < 120 then Config.controlUniform n (f - 112)
  else if f = 120 then BitVec.ofNat 64 (n % 8)
  else if f = 123 then BitVec.ofNat 64 (n / 8)
  else 0

/-- A single register: 32 bits zero-extended on a vector thread, 64 bits on a context (R169). -/
def readR (s : State) (f : Field) : Word64 :=
  match s.cur with
  | .vthread w t => (readV s w t f.toNat).setWidth 64
  | .scribe w => readS s w f.toNat
  | .control n => readC s n f.toNat

/-- A pair (R66): bits [31:0] in field n; on a context one register. Field 127 reads 0. -/
def readP (s : State) (f : Field) : Word64 :=
  match s.cur with
  | .vthread w t => if f = 127 then 0 else readV s w t (f.toNat + 1) ++ readV s w t f.toNat
  | _ => readR s f

/-- A quad (R66): four fields; on a context two registers (R73). Field 127 reads 0. -/
def readQ (s : State) (f : Field) : BitVec 128 :=
  if f = 127 then 0
  else match s.cur with
    | .vthread w t =>
      (readV s w t (f.toNat + 3) ++ readV s w t (f.toNat + 2)) ++ (readV s w t (f.toNat + 1) ++ readV s w t f.toNat)
    | .scribe w => readS s w (f.toNat + 1) ++ readS s w f.toNat
    | .control n => readC s n (f.toNat + 1) ++ readC s n f.toNat

/-- Writes one register of a vector thread: a transient or a carried slot, anything else discards (R63, R65). A write
clears the poison of its slot (R421). -/
def writeV (s : State) (w t f : Nat) (v : Word32) : State :=
  if f < 16 then
    match runPlace s w t with
    | some (cid, b) =>
      updCore s cid fun c =>
        let k := laneKey b (t % 32)
        let l := c.lanes.get {} k
        { c with lanes := c.lanes.put k { l with t := l.t.putD 0 f v } }
    | none => s
  else if f < 112 then
    updThread s w t fun th =>
      { th with v := th.v.putD 0 (th.wbase + (f - 16)) v, bad := th.bad.filter (· != th.wbase + (f - 16)) }
  else s

/-- Writes one register of a core Scribe context. -/
def writeS (s : State) (w f : Nat) (v : Word64) : State :=
  if f < 112 then updCtx s w fun c => { c with s := c.s.putD 0 f v } else s

/-- Writes one register of a control context. -/
def writeC (s : State) (n f : Nat) (v : Word64) : State :=
  if f < 112 then updCtl s n fun c => { c with s := c.s.putD 0 f v } else s

/-- Writes a single register of an agent; field 127 discards (R65). -/
def writeRA (s : State) (a : Agent) (f : Nat) (v : Word64) : State :=
  match a with
  | .vthread w t => writeV s w t f (v.setWidth 32)
  | .scribe w => writeS s w f v
  | .control n => writeC s n f v

def writeR (s : State) (f : Field) (v : Word64) : State := writeRA s s.cur f.toNat v

/-- Writes a pair of an agent; field 127 discards. -/
def writePA (s : State) (a : Agent) (f : Nat) (v : Word64) : State :=
  match a with
  | .vthread w t => if f = 127 then s else writeV (writeV s w t f (v.setWidth 32)) w t (f + 1) ((v >>> 32).setWidth 32)
  | _ => writeRA s a f v

def writeP (s : State) (f : Field) (v : Word64) : State := writePA s s.cur f.toNat v

/-- Writes a quad of an agent; field 127 discards. -/
def writeQA (s : State) (a : Agent) (f : Nat) (v : BitVec 128) : State :=
  if f = 127 then s
  else match a with
    | .vthread w t =>
      let s := writeV (writeV s w t f (v.setWidth 32)) w t (f + 1) ((v >>> 32).setWidth 32)
      writeV (writeV s w t (f + 2) ((v >>> 64).setWidth 32)) w t (f + 3) ((v >>> 96).setWidth 32)
    | _ => writeRA (writeRA s a f (v.setWidth 64)) a (f + 1) ((v >>> 64).setWidth 64)

def writeQ (s : State) (f : Field) (v : BitVec 128) : State := writeQA s s.cur f.toNat v

/-- The rounding generator of an agent (R91). -/
def rngA (s : State) (a : Agent) : Word32 :=
  match a with
  | .vthread w t => ((thread? s w t).map (·.g)).getD 0
  | .scribe w => (((wg? s w).bind (·.ctx)).map (·.g)).getD 0
  | .control n => (ctl s n).g

def setRngA (s : State) (a : Agent) (g : Word32) : State :=
  match a with
  | .vthread w t => updThread s w t fun th => { th with g := g }
  | .scribe w => updCtx s w fun c => { c with g := g }
  | .control n => updCtl s n fun c => { c with g := g }

/-- The seed of a rounding generator (R91). -/
def rngSeed (rnd lid wid id : Nat) : Word32 :=
  let x := BitVec.ofNat 32 rnd ^^^ BitVec.ofNat 32 (lid * 0x9E3779B9) ^^^ BitVec.ofNat 32 (wid * 0x85EBCA6B) ^^^ BitVec.ofNat 32 id
  if x = 0 then 0x6A09E667 else x

/-- One draw: the next generator state and the 24 bits drawn (R91). -/
def rngDraw (g : Word32) : Word32 × Nat :=
  let g := g ^^^ (g <<< 13)
  let g := g ^^^ (g >>> 17)
  let g := g ^^^ (g <<< 5)
  (g, (g >>> 8).toNat)

/-! Free values (R14) -/

/-- A fresh undefined-valued result. -/
def freeValue (s : State) : Word64 := Config.freeValue s.free
def useFree (s : State) : State := { s with free := s.free + 1 }

/-! Moving past a word -/

/-- A batch after one of its lanes has executed the current word: the next word once every lane has (R43). -/
def Batch.did (b : Batch) (lane : Nat) : Batch :=
  let todo := b.todo.filter (· != lane)
  if todo.isEmpty then { b with word := b.word + 1, todo := SMap.keys b.lanes } else { b with todo := todo }

/-- A batch after a lane's thread has left it (R35, R44); none when no thread is left. -/
def Batch.leave (b : Batch) (lane : Nat) : Option Batch :=
  let lanes := b.lanes.filter (·.1 != lane)
  let todo := b.todo.filter (· != lane)
  if lanes.isEmpty then none
  else if todo.isEmpty then some { b with lanes := lanes, word := b.word + 1, todo := SMap.keys lanes }
  else some { b with lanes := lanes, todo := todo }

/-- Takes a running thread out of its batch; a batch without threads frees its context (R43). -/
def leaveBatch (s : State) (w t : Nat) : State :=
  match runPlace s w t with
  | some (cid, b) =>
    updCore s cid fun c =>
      match c.batches.find b with
      | some x =>
        match x.leave (t % 32) with
        | some y => { c with batches := c.batches.put b y }
        | none => { c with batches := c.batches.erase b }
      | none => c
  | none => s

/-- Moves an agent past the word it has executed. -/
def advanceA (s : State) (a : Agent) : State :=
  match a with
  | .vthread w t =>
    match runPlace s w t with
    | some (cid, b) =>
      updCore s cid fun c =>
        match c.batches.find b with
        | some x => { c with batches := c.batches.put b (x.did (t % 32)) }
        | none => c
    | none => s
  | .scribe w => updCtx s w fun c => { c with pc := (c.pc + 4) % 2 ^ 64 }
  | .control n => updCtl s n fun c => { c with pc := (c.pc + 4) % 2 ^ 64 }

def advance (s : State) : State := advanceA s s.cur

/-- An instruction completes: the next state is past its word. -/
def done (s : State) : Result := .next (advance s)

/-- An item that names what is gone is discarded and counted in the discard counter of its target core (R27, R260, R377). -/
def countStale (s : State) (cid n : Nat) : State := csrSet s 4 cid (csrGet s 4 cid + n)

/-! Taking a fault (R44, R264, R329-R332, R339) -/

/-- Fault cause codes (R328). -/
def Cause.code : Cause → Nat
  | .illegal => 0x01 | .blockfmt => 0x02 | .regbound => 0x03 | .rowrite => 0x04 | .misalign => 0x05 | .unit => 0x06
  | .xlateNp => 0x10 | .xlatePerm => 0x11 | .xlateAttr => 0x12 | .sliceLocal => 0x13
  | .world => 0x14 | .larderWrite => 0x15 | .region => 0x16
  | .poison => 0x20 | .frozen => 0x21 | .trap => 0x30 | .brk => 0x31
  | .tdesc => 0x32 | .spill => 0x33 | .capacity => 0x34

/-- A fault reference (R329). -/
def fref (loc gen idx : Nat) : Nat := loc * 65536 + gen % 128 * 512 + idx

def lo32 (x : Nat) : Word32 := BitVec.ofNat 32 x
def hi32 (x : Nat) : Word32 := BitVec.ofNat 32 (x >>> 32)

/-- The words of a log entry (R332); SEQ is filled when the entry is written. -/
def logWords (sec : Bool) (lvl kind : Nat) (c : Cause) (fr lid wid faddr pc place allot : Nat) (info : Word64)
    (word : Word32) (tick : Nat) (ts : List Word32) : List Word32 :=
  [lo32 (b2n sec * 8192 + lvl * 2048 + kind * 256 + c.code), lo32 fr, lo32 lid, lo32 wid, lo32 faddr, hi32 faddr,
    lo32 pc, hi32 pc, lo32 place, lo32 allot, info.setWidth 32, (info >>> 32).setWidth 32, word, 0, lo32 tick, hi32 tick]
  ++ (ts ++ List.replicate 16 0).take 16

/-- Queues a log entry (R331): `log` is the partition, or 64 for the device log; `src` is the core or engine, and `ord` the place of the
fault among those of its source. -/
def addPostAt (s : State) (log src ord : Nat) (ws : List Word32) : State :=
  { s with posts := s.posts ++ [{ id := s.nextId, log := log, src := src, words := ws, ord := ord }], nextId := s.nextId + 1 }

/-- Queues the log entry of a fault that happens now. -/
def addPost (s : State) (log src : Nat) (ws : List Word32) : State := addPostAt s log src s.nextId ws

/-- A workgroup-level entry, kind 3 (R332). -/
def postKind3 (s : State) (p lvl : Nat) (sec : Bool) (c : Cause) (lid wid faddr : Nat) (info : Word64) : State :=
  addPost s p 0xFFFF (logWords sec lvl 3 c 0 lid wid faddr 0 0 0 info 0 (timer s) [])

/-- A die event entry, kind 5 (R392). -/
def postKind5 (s : State) (p : Nat) (c : Cause) (info : Word64) : State :=
  addPost s p 0xFFFE (logWords false 0 5 c 0 0 0 0 0 0 0 info 0 (timer s) [])

/-- The lowest free fault record of a core, if any (R44, R329). -/
def freeRecord (c : Core) : Option Nat :=
  (List.range Config.faultRecords).find? fun k => (c.vrec.get {} k).held.isNone

/-- The record that a thread which faults now takes: none while an older fault of the core waits for one, because the entries of a core
are posted in the order of their faults (R331). -/
def nextRecord (c : Core) : Option Nat := if c.stalls.isEmpty then freeRecord c else none

/-- What a record names of a thread: its slot and slot generation (R27, R329). -/
def Held.ofThread (h : Held) (s : State) : Held :=
  match wg? s h.wg, thread? s h.wg h.tid with
  | some g, some th => { h with slot := g.slot h.tid, sgen := th.sgen }
  | _, _ => h

/-- A thread is the one its slot's generation names (R27); the slots of a saved workgroup are given at its restore. -/
def slotCurrent (s : State) (w t : Nat) : Bool :=
  match wg? s w, thread? s w t with
  | some g, some th => g.cid?.all fun cid => (coreAt s cid).slotGen.get 0 (g.slot t) == th.sgen
  | _, _ => false

/-- A fault waits for a record of its core, behind those that wait already (R44, R331). -/
def waitRecord (s : State) (cid : Nat) (h : Held) : State :=
  { updCore s cid (fun c => { c with stalls := c.stalls ++ [h] }) with nextId := s.nextId + 1 }

/-- A faulted thread takes a fault record of its core and posts its entry (R44, R329, R331). The PC of the entry is the block's 49 address
bits, zero-extended, where a context's is its 64-bit PC: R332 says 'block address' (DESIGN CHOICE, log 90). -/
def takeRecord (s : State) (cid k : Nat) (h : Held) : State :=
  let c := coreAt s cid
  let gen := ((c.vrec.get {} k).gen + 1) % 128
  match wg? s h.wg, thread? s h.wg h.tid with
  | some g, some th =>
    let s := leaveBatch s h.wg h.tid
    let s := updCore s cid fun c => { c with vrec := c.vrec.put k { gen := gen, held := some (h.ofThread s) } }
    let s := updThread s h.wg h.tid fun t => { t with st := .faulted cid k }
    addPostAt s g.part cid h.ord (logWords g.sec g.lvl 0 h.cause (fref cid gen k) g.lid g.wid h.faddr h.hdr.baddr
      (th.wbase % 256 * 2 ^ 20 + h.tid * 256 + h.roff) th.allot h.info h.word h.tick h.ts)
  | _, _ => s

/-- A vector thread faults (R44): it takes a record, or stalls its batch while all 64 are in use or older faults wait
for one (R331). -/
def raiseThread (s : State) (w t : Nat) (c : Cause) (faddr : Nat) (info : Word64) : State :=
  match runPlace s w t with
  | some (cid, b) =>
    match (coreAt s cid).batches.find b with
    | some x =>
      let ts := (List.range 16).map fun i => ((coreAt s cid).lanes.get {} (laneKey b (t % 32))).t.get 0 i
      let hdr := ((thread? s w t).map (·.succ)).getD default
      let h : Held := { wg := w, tid := t, hdr := { hdr with baddr := x.blk }, roff := x.word, ts := ts, cause := c, faddr := faddr,
                        word := s.ir, info := info, tick := timer s, ord := s.nextId }
      match nextRecord (coreAt s cid) with
      | some k => takeRecord s cid k h
      | none =>
        updThread (waitRecord s cid h) w t fun th => { th with st := .stalled b }
    | none => s
  | none => s

/-- A core Scribe context faults at an instruction boundary (R264, R329): it has a record of its own at once, and its entry is posted behind
those of the core's older faults (R331). -/
def raiseScribe (s : State) (w : Nat) (c : Cause) (faddr : Nat) (info : Word64) : State :=
  match wg? s w with
  | some g =>
    match g.ctx, g.cid? with
    | some x, some cid =>
      let gen := (((coreAt s cid).srec.get {} x.scid).gen + 1) % 128
      let h : Held := { wg := w, tid := 0, hdr := { (default : Succ) with baddr := x.pc }, roff := 0, ts := [], cause := c, faddr := faddr, word := s.ir, info := info,
                        tick := timer s, ord := s.nextId }
      let s := updCore s cid fun y => { y with srec := y.srec.put x.scid { gen := gen, held := some h } }
      let s := updCtx s w fun y => { y with mode := .faulted }
      addPost s g.part cid (logWords g.sec g.lvl 1 c (fref cid gen (64 + x.scid)) g.lid g.wid faddr x.pc 0 0 info s.ir (timer s) [])
    | _, _ => s
  | none => s

/-- A control context takes an event (R339): EPC and ECAUSE and EINFO saved, EIE moved to PIE, on at EVEC. -/
def takeEvent (s : State) (n epc ecause : Nat) (einfo : Word64) : State :=
  updCtl s n fun c =>
    { c with epc := BitVec.ofNat 64 epc, ecause := BitVec.ofNat 64 ecause, einfo := einfo,
             estat := (c.estat &&& ~~~3#64) ||| ((c.estat &&& 1#64) <<< 1), pc := c.evec.toNat, mode := .ready }

/-- A control context stops: all of its state is lost (R324); a form that it has begun goes on without it. -/
def stopCtl (s : State) (n : Nat) : State :=
  setCtl { s with forms := s.forms.map fun f => if f.ag = some (.control n) then { f with ag := none } else f } n {}

/-- A double fault (R339): a kind-4 entry in the device log, CTXCFG.EN cleared, the context stopped. -/
def doubleFault (s : State) (n : Nat) (c : Cause) (faddr : Nat) (info : Word64) : State :=
  let x := ctl s n
  let s := addPost s devicePart n (logWords x.sec x.lvl 4 c 0 0 0 faddr x.pc 0 0 info s.ir (timer s) [])
  let s := csrSet s (0x400 + n) 0 (setBits (csrGet s (0x400 + n) 0) 31 31 0)
  stopCtl s n

/-- A control context's own fault, TRAP or BRK: the SYNC event (R338, R339). -/
def raiseControl (s : State) (n : Nat) (c : Cause) (faddr : Nat) (info : Word64) : State :=
  let x := ctl s n
  let einfo := if c = .trap || c = .brk then info else BitVec.ofNat 64 faddr
  if x.estat.getLsbD 0 then takeEvent s n x.pc c.code einfo else doubleFault s n c faddr info

/-- TAKING A FAULT: the executing agent's instruction faults with a cause, a fault address and INFO, and has no other
effect (R44, R264, R339). -/
def raiseState (c : Cause) (faddr : Nat) (info : Word64) (s : State) : State :=
  match s.cur with
  | .vthread w t => raiseThread s w t c faddr info
  | .scribe w => raiseScribe s w c faddr info
  | .control n => raiseControl s n c faddr info

def raise (c : Cause) (faddr : Nat) (info : Word64) (s : State) : Result := .next (raiseState c faddr info s)

/-- THE RETURN FROM AN EVENT (R339): PC := EPC and EIE := PIE. -/
def eventReturn (s : State) (n : Nat) : State :=
  updCtl s n fun c => { c with pc := c.epc.toNat, estat := (c.estat &&& ~~~1#64) ||| ((c.estat >>> 1) &&& 1#64) }

end Sys2Proof.Machine
end

