-- ==== Sys2Proof/Machine/Phys.lean ====
section
/-! DEFINITION. Physical memory: bytes in canonical form, the map of R116, compressed and poisoned blocks (R133-R136),
the L1 states of lines (R119-R122), the host-line directory (R396) and the subscriptions of a location (R245). -/

namespace Sys2Proof.Machine

open Sys2Proof

/-! Bytes -/

/-- The canonical form of a memory: addresses strictly rising, no entry equal to the 0 an unlisted address reads as. -/
def Memory.wf (m : List Host.Cell) : Bool := SMap.wf (0 : Byte) m

/-- One byte; an unlisted address reads 0 (log 3). -/
def Memory.get (m : List Host.Cell) (a : Nat) : Byte := SMap.get 0 m a

/-- One byte written, the canonical form kept. -/
def Memory.set (m : List Host.Cell) (a : Nat) (v : Byte) : List Host.Cell := SMap.putD 0 m a v

/-- n bytes from an address up. -/
def Memory.read (m : List Host.Cell) (a : Nat) : Nat → List Byte
  | 0 => []
  | n + 1 => Memory.get m a :: Memory.read m (a + 1) n

/-- Bytes written from an address up. -/
def Memory.write (m : List Host.Cell) (a : Nat) : List Byte → List Host.Cell
  | [] => m
  | b :: l => Memory.write (Memory.set m a b) (a + 1) l

/-- A little-endian number of n bytes (R10). -/
def Memory.num (m : List Host.Cell) (a n : Nat) : Nat := ofBytes (Memory.read m a n)

/-! The physical map (R116) -/

/-- What lies at a physical address. -/
inductive Area where
  | hbm | host
  | peer (port : Nat)
  | larder (die off : Nat)
  | regs (off : Nat)
  | hole
  deriving DecidableEq, Repr

def hbmBytes : Nat := 0x6000000000
def regsBase : Nat := 0xFF10000000000
def larderBase : Nat := 0xFE00000000000
def larderBytes : Nat := 0x20000000

/-- The map of R116. -/
def area (pa : Nat) : Area :=
  if pa < hbmBytes then .hbm
  else if pa < 0x2000000000000 then .hole
  else if pa < 0x4000000000000 then .host
  else if pa < 0x7000000000000 then .peer ((pa - 0x4000000000000) / 2 ^ 46)
  else if pa < larderBase then .hole
  else if pa < larderBase + 13 * 2 ^ 30 then
    let die := (pa - larderBase) / 2 ^ 30
    let off := pa % 2 ^ 30
    if Config.isShading die && off < larderBytes then .larder die off else .hole
  else if regsBase ≤ pa && pa < regsBase + 0x410000 then .regs (pa - regsBase)
  else .hole

/-- Quarantined dies (R389, R392). -/
def quarantined (s : State) (die : Nat) : Bool := 1 ≤ die && die ≤ 12 && bitAt (dregGet s 0 0x18) die

/-- Stack of an HBM line (R117). -/
def hbmStack (pa : Nat) : Nat := xorFold pa 7 3 + 2 * xorFold pa 8 3 + 4 * xorFold pa 9 3
/-- Stack offset of an HBM address (R117). -/
def hbmOffset (pa : Nat) : Nat := bits pa 51 10 * 128 + pa % 128
/-- Memory die of an HBM line (R3, R117). -/
def hbmDie (pa : Nat) : Nat := 9 + hbmStack pa / 2
/-- Home agent and L2 slice hashes (R129). -/
def homeHash (pa : Nat) : Nat := ((List.range 8).map fun i => 2 ^ i * xorFold pa (7 + i) 8).foldl (· + ·) 0
def sliceHash (pa : Nat) : Nat := ((List.range 6).map fun i => 2 ^ i * xorFold pa (7 + i) 6).foldl (· + ·) 0

/-- Whether the range of a physical address is absent or quarantined (R116). -/
def areaGone (s : State) (pa : Nat) : Bool :=
  match area pa with
  | .hbm => quarantined s (hbmDie pa)
  | .larder d _ => quarantined s d
  | .hole => true
  | _ => false

/-! Compressed and poisoned blocks (R133-R136) -/

/-- A form of R134: code, element bytes, delta bytes, bytes transferred. -/
def bdiForms : List (Nat × Nat × Nat × Nat) :=
  [(3, 8, 1, 32), (4, 8, 2, 64), (5, 8, 4, 96), (6, 4, 1, 64), (7, 4, 2, 96), (8, 2, 1, 96), (9, 16, 4, 64), (10, 16, 8, 96)]

/-- The elements of w bytes of a block given as a number. -/
def bdiElems (blk w : Nat) : List Nat := (List.range (128 / w)).map fun i => blk / 2 ^ (8 * w * i) % 2 ^ (8 * w)

/-- Whether an element fits its delta width from a base (R135). -/
def bdiFits (w d base e : Nat) : Bool :=
  let x := (e + 2 ^ (8 * w) - base) % 2 ^ (8 * w)
  sextNat (8 * d) (8 * w) x == x

/-- Whether a form reproduces a block under its canonical mask and base (R135). -/
def bdiReproduces (blk w d : Nat) : Bool :=
  let masked := (bdiElems blk w).filter fun e => !bdiFits w d 0 e
  masked.all (bdiFits w d (masked.headD 0))

/-- The code R135 chooses: fewest bytes transferred, then the lower code. -/
def bdiCode (blk : Nat) : Nat :=
  let codes : List (Nat × Nat) :=
    (if blk = 0 then [(1, 0)] else []) ++
    (if (bdiElems blk 8).all (· == blk % 2 ^ 64) then [(2, 32)] else []) ++
    (bdiForms.filter fun f => bdiReproduces blk f.2.1 f.2.2.1).map fun f => (f.1, f.2.2.2)
  (codes.foldl (fun best x => if x.2 < best.2 then x else best) (0, 128)).1

/-! The stored form of a block (R134, R135) -/

/-- The canonical mask of a block for a form: whether each element is based (R135). -/
def bdiMask (blk w d : Nat) : List Bool := (bdiElems blk w).map fun e => !bdiFits w d 0 e
/-- The canonical base: the first based element, 0 where none is (R135). -/
def bdiBase (blk w d : Nat) : Nat := ((bdiElems blk w).filter fun e => !bdiFits w d 0 e).headD 0

/-- A number from its bits, the lowest first. -/
def ofBits : List Bool → Nat
  | [] => 0
  | b :: l => b2n b + 2 * ofBits l

/-- The bytes of a block under a form: base, selector mask, then the deltas in element order (R134, R135). -/
def bdiPack (blk w d : Nat) : List Byte :=
  let base := bdiBase blk w d
  let m := bdiMask blk w d
  toBytes w base ++ toBytes (128 / w / 8) (ofBits m)
  ++ (List.zip (bdiElems blk w) m).flatMap fun x => toBytes d ((x.1 + 2 ^ (8 * w) - (if x.2 then base else 0)) % 2 ^ (8 * d))

/-- The bytes that a block occupies as its code stores it (R134). -/
def bdiStored (code blk : Nat) : List Byte :=
  match code with
  | 0 => toBytes 128 blk
  | 2 => toBytes 8 blk
  | c =>
    match bdiForms.find? fun f => f.1 == c with
    | some f => bdiPack blk f.2.1 f.2.2.1
    | none => []

/-- The elements that stored bytes of a form give (R134). -/
def bdiUnpack (l : List Byte) (w d : Nat) : List Nat :=
  let base := ofBytes (l.take w)
  let m := ofBytes ((l.drop w).take (128 / w / 8))
  let deltas := l.drop (w + 128 / w / 8)
  (List.range (128 / w)).map fun i =>
    ((if bitAt m i then base else 0) + sextNat (8 * d) (8 * w) (ofBytes ((deltas.drop (d * i)).take d))) % 2 ^ (8 * w)

/-- A block from its elements of w bytes. -/
def ofElems (w : Nat) : List Nat → Nat
  | [] => 0
  | e :: l => e + 2 ^ (8 * w) * ofElems w l

/-- What a read decodes by the stored code (R133, R134); a poisoned block has no contents. -/
def bdiDecoded (code : Nat) (l : List Byte) : Nat :=
  match code with
  | 0 => ofBytes (l.take 128)
  | 2 => ofElems 8 (List.replicate 16 (ofBytes (l.take 8)))
  | c =>
    match bdiForms.find? fun f => f.1 == c with
    | some f => ofElems f.2.1 (bdiUnpack l f.2.1 f.2.2.1)
    | none => 0

/-- The bytes that HBM stores for a block (R133): those of its code. -/
def storedBlock (s : State) (blk : Nat) : List Byte := bdiStored (s.bdi.get 0 blk) (Memory.num s.mem (blk * 128) 128)

/-- A block is poisoned when its code is 0xB to 0xF (R136). -/
def poisonedBlock (s : State) (blk : Nat) : Bool := decide (0xB ≤ s.bdi.get 0 blk)

/-- The line (128 bytes) of a physical address (R119). -/
def lineOf (pa : Nat) : Nat := pa / 128

/-- Poisons the line of a physical address: code 0xF in HBM, a mark of its own in a Larder and in host memory (R136, R392, R421). -/
def poisonLine (s : State) (line : Nat) : State :=
  match area (line * 128) with
  | .hbm => { s with bdi := s.bdi.putD 0 line 0xF }
  | _ => { s with larderPoison := insertAsc s.larderPoison line }

def linePoisoned (s : State) (line : Nat) : Bool := poisonedBlock s line || s.larderPoison.contains line

/-- The first line that n bytes of HBM touch and that a read may not return: the cause, and its address (R136, R392). -/
def badLine (s : State) (pa n : Nat) : Option (Cause × Nat) :=
  let meets (k : Nat) : Bool := decide (pa / 128 ≤ k) && decide (k * 128 < pa + n)
  match s.bdi.find? (fun x => meets x.1 && decide (0xB ≤ x.2)), s.frozen.find? meets with
  | some x, some k => if x.1 ≤ k then some (.poison, x.1 * 128) else some (.frozen, k * 128)
  | some x, none => some (.poison, x.1 * 128)
  | none, some k => some (.frozen, k * 128)
  | none, none => none

/-! The leaves that map a page (R130, R346-R348) -/

/-- SLM, PIN and HOST of a leaf (R348), and the home and PIN that they give its lines (R128). -/
def pteSlm (e : Nat) : Nat := bits e 11 10
def pteHost (e : Nat) : Bool := bitAt e 15
def ptePinDie (e : Nat) : Nat := bits e 61 58
def pteHome (e : Nat) : Nat × Nat := (pteSlm e, if pteSlm e = 0 then 0 else bits e 61 52)

/-- A leaf of a level maps the page of a physical address. -/
def mapsPage (lvl e pa : Nat) : Bool := if lvl = 2 then bits e 51 29 == pa / 2 ^ 29 else bits e 51 16 == pa / 2 ^ 16

/-- The leaves under a table of a master image (R346, R347): level and value. An invalid entry has no cell with bit 0 set. -/
def leavesUnder (m : List Host.Cell) : Nat → Nat → Nat → List (Nat × Nat)
  | 0, _, _ => []
  | n + 1, lvl, a =>
    (m.filter fun c => decide (a ≤ c.1) && decide (c.1 < a + (if lvl = 1 then 1024 else 65536)) && (c.1 - a) % 8 == 0 && c.2.getLsbD 0).flatMap
      fun c =>
        let e := Memory.num m c.1 8
        if bitAt e 62 then (if lvl = 1 then [] else [(lvl, e)]) else leavesUnder m n (lvl + 1) (bits e 51 16 * 65536)

/-- The leaves of a pool's tables as the master image holds them (R347). -/
def poolLeaves (s : State) (q : Pool) : List (Nat × Nat) := if q.count = 0 then [] else leavesUnder s.mem 3 1 q.base

/-- The leaves that map the page of a physical address, in the tables of every pool or still in a translation cache (R130). -/
def leavesOf (s : State) (pa : Nat) : List Nat :=
  (((s.tlb.map fun t => (t.lvl, t.pte.toNat)) ++ s.pools.flatMap fun p => poolLeaves s p.2).filter fun x => mapsPage x.1 x.2 pa).map (·.2)

/-- n bytes from an address lie in an enabled host window (R395). -/
def inHostWindow (s : State) (pa n : Nat) : Bool :=
  (List.range 8).any fun w =>
    let l := dregGet s 0 (0x4008 + 16 * w)
    bitAt l 0 && bits (dregGet s 0 (0x4000 + 16 * w)) 51 16 ≤ pa / 65536 && (pa + n - 1) / 65536 ≤ bits l 51 16

/-- A page whose mappings break a rule that system software must keep: two of them give it different homes (R130), or the HOST bit of one
is not what the host windows say of it (R395). Its bytes are undefined-valued (R16, log 61). -/
def misMapped (s : State) (pa : Nat) : Bool :=
  match leavesOf s pa with
  | [] => false
  | e :: l =>
    l.any (fun x => pteHome x != pteHome e)
    || (match area pa with | .hbm => (e :: l).any fun x => pteHost x != inHostWindow s pa 1 | _ => false)

/-! L1 states and U deltas (R119-R122, R426) -/

/-- Words of a line that n bytes at an address touch. -/
def wordMask (pa n : Nat) : Word32 :=
  let i := pa % 128 / 4
  let k := (pa % 128 + n + 3) / 4 - i
  BitVec.ofNat 32 ((2 ^ k - 1) * 2 ^ i)

def L1Line.empty (x : L1Line) : Bool := x.v == 0 && x.w == 0 && x.d == 0 && x.u.isEmpty

/-- The L1 states of a line without empty ones. -/
def setLine (s : State) (line : Nat) (m : SMap L1Line) : State :=
  let m := m.filter fun x => !x.2.empty
  { s with lines := if m.isEmpty then s.lines.erase line else s.lines.put line m }
def lineState (s : State) (line : Nat) : SMap L1Line := s.lines.get [] line

/-- Identity of a U operation (R122): fn 0 ADD, 1 MIN, 2 MAX, 5 AND, 6 OR, 7 XOR. -/
def uIdentity (fn : Nat) : Word32 :=
  match fn with
  | 1 => 0x7FFFFFFF
  | 2 => 0x80000000
  | 5 => 0xFFFFFFFF
  | _ => 0

/-- A U operation on a word (R239). -/
def uApply (fn : Nat) (x v : Word32) : Word32 :=
  match fn with
  | 1 => if x.toInt ≤ v.toInt then x else v
  | 2 => if x.toInt ≥ v.toInt then x else v
  | 5 => x &&& v
  | 6 => x ||| v
  | 7 => x ^^^ v
  | _ => x + v

/-- The bytes of a subscribed location's write that become readable together (R147, R150): the part of a written range in the units
that are single-copy atomic, of a write of at most 8 bytes all of it, of 16 bytes a half, of an engine's transfer a word. -/
def writeSpan (pa n x k : Nat) : Nat × Nat :=
  let u := if n ≤ 8 then n else if n = 16 then 8 else 4
  (pa + (Max.max pa x - pa) / u * u, Min.min (pa + n) (pa + (Min.min (pa + n) (x + k) - pa + u - 1) / u * u))

def Laid.meets (r : Laid) (lo hi : Nat) : Bool := decide (r.lo < hi) && decide (lo < r.hi)

/-- Some of n bytes of physical memory is undefined-valued: of a spill record or an image (R52, R372), or of a target that its
region's blend unit has written since the last RGNFLUSH (R308). -/
def undefAt (s : State) (pa n : Nat) : Bool :=
  (s.laid.any fun r => r.dark && r.meets pa (pa + n))
  || s.regions.any fun x => x.wrote.any fun r => decide (r.1 < pa + n) && decide (pa < r.2)

/-- The value that a push carries (R245); that of an undefined-valued location is a free value (R16, R52, R308, R372). -/
def pushValue (s : State) (x : Sub) : Word64 :=
  if misMapped s x.pa || undefAt s x.pa (if x.dw then 8 else 4) then Config.freeValue (s.free + x.id) else BitVec.ofNat 64 (Memory.num s.mem x.pa (if x.dw then 8 else 4))

/-- Writes counted for the subscriptions that a write of n bytes at a physical address touches (R245). -/
def noteWrite (s : State) (pa n : Nat) : State :=
  if s.subs.isEmpty then s
  else { s with
    free := s.free + s.nextId
    nextId := s.nextId + 1
    subs := s.subs.map fun x =>
      let k := if x.dw then 8 else 4
      if x.pa < pa + n && pa < x.pa + k then
        let v := pushValue s x
        let r := writeSpan pa n x.pa k
        match x.push with
        | none => { x with push := some (v, 1), span := [r], ord := s.nextId, tick := timer s }
        | some _ => { x with merged := some (v, (x.merged.map (·.2)).getD 0 + 1), mspan := if x.mspan.contains r then x.mspan else r :: x.mspan }
      else x }

/-- What a range holds is still there: the record is in use, the workgroup saved. -/
def Holder.live (s : State) : Holder → Bool
  | .record p l i => s.cores.any fun c => c.2.spilled.any fun r => r.idx == i && c.2.ctxs.find r.ent.ctx == some (p, l)
  | .image w => (wg? s w).any fun g => match g.place with | .saved _ => true | .resident _ => false

/-- What a written range leaves of the ranges that are laid out: what holds something stays undefined-valued (R52, R372). -/
def cutLaid (s : State) (lo hi : Nat) : List Laid :=
  s.laid.flatMap fun r =>
    if r.holder.live s then [r]
    else ([{ r with hi := Min.min r.hi lo }, { r with lo := Max.max r.lo hi }] : List Laid).filter fun x => x.lo < x.hi

/-- The holders whose record or image a written range spoils: software must not write them (R16, R52, R372). -/
def spoilt (s : State) (lo hi : Nat) : List Holder :=
  (s.spoiled ++ (s.laid.filter fun r => r.meets lo hi && r.holder.live s).map (·.holder)).eraseDups

/-- Bytes that the part itself puts into physical memory, counted for its subscriptions. -/
def layPut (s : State) (pa : Nat) (l : List Byte) : State := noteWrite { s with mem := Memory.write s.mem pa l } pa l.length

/-- Bytes put into physical memory and counted for its subscriptions. -/
def putBytes (s : State) (pa : Nat) (l : List Byte) : State :=
  layPut (if s.laid.isEmpty then s else { s with laid := cutLaid s pa (pa + l.length), spoiled := spoilt s pa (pa + l.length) }) pa l

/-- n undefined-valued bytes (R14). -/
def freeBytes (s : State) (n : Nat) : List Byte × State :=
  ((List.range n).map fun i => (Config.freeValue (s.free + i)).setWidth 8, { s with free := s.free + n })

/-- n bytes of physical memory; an undefined-valued byte is a free value (R16, R52, R130, R308, R372, R395). -/
def physRead (s : State) (pa n : Nat) : List Byte × State :=
  if misMapped s pa then freeBytes s n
  else if undefAt s pa n then
    ((List.range n).map fun i => if undefAt s (pa + i) 1 then (Config.freeValue (s.free + i)).setWidth 8 else Memory.get s.mem (pa + i),
     { s with free := s.free + n })
  else (Memory.read s.mem pa n, s)

/-- The block code after a write of a block from a page with or without CMP (R133, R136): a full write stores a fresh
code, a partial write leaves a poisoned block poisoned. -/
def recode (s : State) (pa n : Nat) (cmp : Bool) : State :=
  let blk := lineOf pa
  let full := pa % 128 == 0 && n == 128
  if pa < hbmBytes && (full || !poisonedBlock s blk) then
    { s with bdi := s.bdi.putD 0 blk (if cmp then bdiCode (Memory.num s.mem (blk * 128) 128) else 0) }
  else s

/-- The codes of the blocks of a written range, whose page has no CMP (R133). -/
def recodeRange (s : State) (pa n : Nat) : State :=
  (List.range ((pa + n + 127) / 128 - pa / 128)).foldl (fun s k =>
    let lo := Max.max pa ((pa / 128 + k) * 128)
    recode s lo (Min.min (pa + n) ((pa / 128 + k + 1) * 128) - lo) false) s

/-- Applies one L1's U deltas to memory. -/
def applyDeltas (s : State) (line : Nat) : SMap UDelta → State
  | [] => s
  | (i, u) :: l =>
    let pa := line * 128 + 4 * i
    let (b, s) := physRead s pa 4
    let x := BitVec.ofNat 32 (ofBytes b)
    applyDeltas (recode (putBytes s pa (toBytes 4 (uApply u.kind x u.val).toNat)) pa 4 u.cmp) line l

/-- Host-line directory on device ownership of a line: entries of its granules go (R396). -/
def hostOwn (s : State) (line : Nat) : State :=
  { s with hostDir := s.hostDir.filter fun x => x.1 / 2 != line }
/-- Host-line directory on a device read: an entry in A becomes S (R396). -/
def hostShare (s : State) (line : Nat) : State :=
  { s with hostDir := s.hostDir.map fun x => if x.1 / 2 == line then (x.1, false) else x }

/-- The Hearth has the host's permission for a line of host memory before it grants words of it (R397). -/
def hostPermit (s : State) (line : Nat) : State :=
  match area (line * 128) with
  | .host => { s with hostPerm := insertAsc s.hostPerm line }
  | _ => s

/-- The home combines every U copy of a line (R122); the host's copies of the line go first (R396). -/
def combine (s : State) (line : Nat) : State :=
  let m := lineState s line
  if m.all fun x => x.2.u.isEmpty then s
  else
    let s := m.foldl (fun s x => applyDeltas s line x.2.u) (hostOwn s line)
    setLine s line (m.map fun x => (x.1, { x.2 with u := [] }))

/-! L2 and LLC slices (R17, R125, R127) -/

/-- Lines that fit an L1 (R118), an L2 slice (R125) and an LLC slice (R127), but for the ways that are disabled (R420). -/
def l1Lines (s : State) (cid : Nat) : Nat := 2048 - 512 * (coreAt s cid).spsel - s.waysOff.get 0 cid
def l2Lines (s : State) (k : Nat) : Nat := (if Config.isShading (k / 64) then 12288 else 8192) - s.waysOff.get 0 (65536 + k)
def llcLines (s : State) (h : Nat) : Nat := 24576 - s.waysOff.get 0 (131072 + h)

/-- A line is used in the LLC slice of its home agent: it comes first, and a full slice writes its last line back to HBM (log 59). -/
def touchLlc (s : State) (h line : Nat) (dirty : Bool) : State :=
  let l := s.llc.get [] h
  let was := (l.find? fun x => x.line == line).any (·.dirty)
  { s with llc := s.llc.put h (({ line := line, dirty := was || dirty } :: l.filter fun x => x.line != line).take (llcLines s h)) }

/-- What stands for the home of a line of a ROW page, which none tracks (R132). -/
def rowHome (pa : Nat) : Nat := 65536 + homeHash pa

/-- The L2 slice that holds a line for a die: the line's home when that is a slice, else the die's by hash (R125, R128, R129). -/
def sliceFor (die h line : Nat) : Nat := if h < 256 || 65536 ≤ h then 64 * die + sliceHash (line * 128) else h - 256

/-- A line is used in an L2 slice, some of its words being held written there; a full slice gives its last line up (log 59). -/
def touchL2 (s : State) (k h line : Nat) (w d : Word32) : State :=
  let l := s.l2.get [] k
  let x := (l.find? fun x => x.line == line).getD { line := line, home := h }
  let l' := { x with w := x.w ||| w, d := x.d ||| d, home := h } :: l.filter fun x => x.line != line
  let s := { s with l2 := s.l2.put k (l'.take (l2Lines s k)) }
  match l'.drop (l2Lines s k) with
  | v :: _ => if v.home < 256 && v.d != 0 then touchLlc s v.home v.line true else s
  | [] => s

/-- Words of a line are taken from every L2 slice but one (R120). -/
def clearL2 (s : State) (line : Nat) (mask : Word32) (keep : Option Nat) : State :=
  let cut (y : L2Line) : L2Line := if y.line == line then { y with w := y.w &&& ~~~mask, d := y.d &&& ~~~mask } else y
  { s with l2 := s.l2.map fun x => if some x.1 = keep then x else (x.1, x.2.map cut) }

/-- For a read elsewhere every L2 slice, but one if it reads through that, gives up the words of a line that it holds D on its die's
behalf (R388, R426); what a slice holds as the line's home stays. -/
def recallL2 (s : State) (line : Nat) (mask : Word32) (keep : Option Nat) : State :=
  let cut (y : L2Line) : L2Line :=
    if y.line == line && (y.home < 256 || 65536 ≤ y.home) then { y with w := y.w &&& ~~~(y.d &&& mask), d := y.d &&& ~~~mask } else y
  { s with l2 := s.l2.map fun x => if some x.1 = keep then x else (x.1, x.2.map cut) }

/-- The L2 slices of a die give every word they hold written to its home (R158). -/
def drainL2 (s : State) (die : Nat) : State :=
  let mine := s.l2.filter fun x => x.1 / 64 == die
  let kept := mine.flatMap fun x => x.2.filter fun y => y.home < 256 && (y.w ||| y.d) != 0
  let s := { s with l2 := s.l2.map fun x => if x.1 / 64 == die then (x.1, x.2.map fun y => { y with w := 0, d := 0 }) else x }
  kept.foldl (fun s y => touchLlc s y.home y.line true) s

/-- The L2 slices give every word of n bytes of memory that they hold written to its home (R360). -/
def drainL2Lines (s : State) (pa n : Nat) : State :=
  let mine (y : L2Line) : Bool := decide (pa ≤ y.line * 128) && decide (y.line * 128 < pa + n)
  let kept := s.l2.flatMap fun x => x.2.filter fun y => mine y && y.home < 256 && (y.w ||| y.d) != 0
  let s := { s with l2 := s.l2.map fun x => (x.1, x.2.map fun y => if mine y then { y with w := 0, d := 0 } else y) }
  kept.foldl (fun s y => touchLlc s y.home y.line true) s

/-- One L1's dirty words and U deltas of a line go back to the home (R122, R124); with `drop` the copy is invalidated. -/
def writeBackLine (s : State) (cid : Nat) (line : Nat) (drop : Bool) : State :=
  let m := lineState s line
  let l := m.get {} cid
  let s := applyDeltas s line l.u
  let h := l.home.getD (homeHash (line * 128))
  let s := if h < 256 && line * 128 < hbmBytes && (l.d != 0 || !l.u.isEmpty) then touchLlc s h line true else s
  setLine s line (if drop then m.erase cid else m.put cid { l with d := 0, u := [] })

/-- An L1 that holds as many lines as fit gives up its lowest one before it takes another (R20, R118; which line is the model's
choice, log 59). -/
def makeRoom (s : State) (cid line : Nat) : State :=
  let held := s.lines.filter fun x => (x.2.find cid).isSome
  if (held.any fun x => x.1 == line) || decide (held.length < l1Lines s cid) then s
  else match held with
    | x :: _ => writeBackLine s cid x.1 true
    | [] => s

/-- A cache that holds more lines than fit writes one back and gives it up: an L1 by its core, an L2 slice by 65,536 + its number, an LLC
slice by 131,072 + its home agent (R420). -/
def giveUp (s : State) (key : Nat) : State :=
  if key < 65536 then
    let held := s.lines.filter fun x => (x.2.find key).isSome
    match held with
    | x :: _ => if l1Lines s key < held.length then writeBackLine s key x.1 true else s
    | [] => s
  else if key < 131072 then
    let k := key - 65536
    match (s.l2.get [] k).drop (l2Lines s k) with
    | v :: _ =>
      let s := { s with l2 := s.l2.put k ((s.l2.get [] k).take (l2Lines s k)) }
      if v.home < 256 && v.d != 0 then touchLlc s v.home v.line true else s
    | [] => s
  else
    let h := key - 131072
    { s with llc := s.llc.put h ((s.llc.get [] h).take (llcLines s h)) }

/-- A way of one set of a cache is written back and disabled (R420). The model's caches have no sets: they hold one line fewer (log 59). -/
def disableWay (s : State) (key : Nat) : State := giveUp { s with waysOff := s.waysOff.put key (s.waysOff.get 0 key + 1) } key

/-- The words of a line that an L1 gives up to a read of words elsewhere: those it holds D are recalled, and it keeps V of them (R388,
R426). -/
def L1Line.recalled (l : L1Line) (mask : Word32) : L1Line :=
  { l with w := l.w &&& ~~~(l.d &&& mask), d := l.d &&& ~~~mask }

/-- A read of words of a line served by its home to a core, if the core may cache it: owners of D words lose W and D and
keep V (R388, R426). -/
def lineRead (s : State) (line : Nat) (mask : Word32) (cid : Option Nat) : State :=
  let s := hostPermit (hostShare (combine (cid.elim s fun c => makeRoom s c line) line) line) line
  let m : SMap L1Line := (lineState s line).map fun x => if some x.1 = cid then x else (x.1, x.2.recalled mask)
  match cid with
  | some c => let l := m.get {} c; setLine s line (m.put c { l with v := l.v ||| mask })
  | none => setLine s line m

/-- Ownership of words of a line granted to a core, or to an agent without an L1: every other copy of them is
invalidated (R120). The words `dirty` of them are written at once. -/
def lineGrant (s : State) (line : Nat) (mask dirty : Word32) (cid : Option Nat) : State :=
  let s := hostPermit (hostOwn (combine (cid.elim s fun c => makeRoom s c line) line) line) line
  let m : SMap L1Line := (lineState s line).map fun x =>
    if some x.1 = cid then x else (x.1, { x.2 with v := x.2.v &&& ~~~mask, w := x.2.w &&& ~~~mask, d := x.2.d &&& ~~~mask })
  match cid with
  | some c => let l := m.get {} c; setLine s line (m.put c { l with v := l.v ||| mask, w := l.w ||| mask, d := l.d ||| dirty })
  | none => setLine s line m

/-- Ownership of words for a write of them (R119, R120). -/
def lineOwn (s : State) (line : Nat) (mask : Word32) (cid : Option Nat) : State := lineGrant s line mask mask cid

/-- A line that a core has touched lies in the L2 slice that holds it for the core's die (R125). -/
def sliceLine (s : State) (cid h line : Nat) : State := touchL2 s (sliceFor (cidDie cid) h line) h line 0 0

/-- Writes back every dirty word and U delta of a core's L1 (R124, R118). -/
def writeBackCore (s : State) (cid : Nat) (drop : Bool) : State :=
  s.lines.foldl (fun s x => if (x.2.find cid).isSome then writeBackLine s cid x.1 drop else s) s

/-- Lines leave the L2 slices of a die. -/
def dropL2 (s : State) (d : Nat) (f : L2Line → Bool) : State :=
  { s with l2 := s.l2.map fun x => if x.1 / 64 == d then (x.1, x.2.filter fun y => !f y) else x }

/-- The L1s of some cores of a die and their share of its L2 slices write every dirty word and U delta back and are invalidated (R327,
R382). The slices do not keep whose words they hold, so that all of the die's drain (DEDUCED, log 59); lines that are homed in a slice
stay. -/
def shareBack (s : State) (d : Nat) (cids : List Nat) : State :=
  dropL2 (drainL2 (cids.foldl (fun s c => writeBackCore s c true) s) d) d fun y => y.home < 256 || 65536 ≤ y.home

/-! Locations -/

/-- The place of an access: physical memory, or a byte of a workgroup's scratchpad (R147). -/
inductive Loc where
  | phys (pa : Nat)
  | spad (wg off : Nat)
  deriving DecidableEq, Repr, Inhabited

/-- The bytes at a location. -/
def locBytes (s : State) (l : Loc) (n : Nat) : List Byte :=
  match l with
  | .phys pa => Memory.read s.mem pa n
  | .spad w o => match wg? s w with
    | some g => Memory.read g.spad o n
    | none => List.replicate n 0

/-- Writes bytes into a workgroup's scratchpad; a full write of a word clears its poison (R421). -/
def spadWrite (s : State) (w o : Nat) (l : List Byte) : State :=
  updWg s w fun g =>
    { g with spad := Memory.write g.spad o l,
             spadBad := g.spadBad.filter fun k => !(o ≤ 4 * k && 4 * k + 4 ≤ o + l.length) }

/-- Poisoned words among n bytes of a scratchpad (R421). -/
def spadPoisoned (g : Workgroup) (o n : Nat) : Bool := g.spadBad.any fun k => 4 * k < o + n && o < 4 * k + 4

/-- Bytes with the bytes at an offset replaced. -/
def overlay (old : List Byte) (o : Nat) (new : List Byte) : List Byte := old.take o ++ new ++ old.drop (o + new.length)

end Sys2Proof.Machine
end

