-- ==== Sys2Proof/Machine/Registers.lean ====
section
/-! DEFINITION. CSRs (R342-R344), die registers (R76, R389, R395, R402, R407, R417-R425) and the partition and device
register blocks (R364, R398, R403-R408, R411), with the rules that their writes follow. -/

namespace Sys2Proof.Machine

open Sys2Proof

/-- A value with only the bits of the fields of a register kept (R13). -/
def maskBits (v : Nat) (fs : List (Nat × Nat)) : Nat := (fs.map fun f => bits v f.1 f.2 * 2 ^ f.2).foldl (· + ·) 0

/-! Membership and worlds -/

/-- CGMASK of a die in a partition (R364). -/
def cgmask (s : State) (p d : Nat) : Nat := pregGet s p (0x400 + 8 * d)
def isMember (s : State) (p d cg : Nat) : Bool := bitAt (cgmask s p d) cg
def isDeparting (s : State) (p d cg : Nat) : Bool := bitAt (cgmask s p d) (16 + cg)

/-- The partition that holds a core group. -/
def cgPart (s : State) (d cg : Nat) : Option Nat := (List.range 64).find? fun p => isMember s p d cg

/-- A partition's tables map the Larder of a die: it holds its bank groups. R392 names such holdings and no rule says what makes one
(DEDUCED, log 84). -/
def mapsLarder (s : State) (p d : Nat) : Bool :=
  (poolLeaves s (s.pools.get {} p)).any fun x => match area (bits x.2 51 16 * 65536) with | .larder k _ => k == d | _ => false

/-- Whether a partition holds any block of a die: a core group, a copy engine, an encode engine or a Larder bank group (R381, R392, R407,
R425). -/
def partHoldsDie (s : State) (p d : Nat) : Bool :=
  cgmask s p d % 2 ^ 16 != 0
  || (List.range (Config.copyEngines d)).any (fun e => let r := dregGet s d (0x3100 + 8 * e); bitAt r 31 && r % 64 == p)
  || (List.range (Config.encodeEngines d)).any (fun e => let r := dregGet s d (0x3000 + 8 * e); bitAt r 31 && r % 64 == p)
  || mapsLarder s p d

def dieInUse (s : State) (d : Nat) : Bool := (List.range 64).any fun p => partHoldsDie s p d

/-- The world of a partition: that of a core group it holds, else that of a control context configured for it. -/
def partWorld (s : State) (p : Nat) : Option Bool :=
  let cgs := (List.range 9).flatMap fun d => ((List.range 16).filter (isMember s p d)).map fun g => (d, g)
  match cgs with
  | (d, g) :: _ => some (cgroup s d g).sec
  | [] => ((List.range 32).find? fun n => let c := csrGet s (0x400 + n) 0; bitAt c 31 && bits c 1 0 == 1 && bits c 13 8 == p).map
      fun n => bitAt (csrGet s (0x400 + n) 0) 2

/-- Cores of a core group (R18). -/
def cgCores (d cg : Nat) : List Nat := (List.range 8).map fun c => d * 256 + cg * 8 + c

/-- EID of an engine (R329): copy 0x00, encode 0x20, ray 0x40, blend 0x60, matrix 0x80. -/
def eidOf (d u : Nat) : Nat := d * 256 + u

/-- A suspension slot of an engine is held (R329). -/
def slotsHeld (s : State) (eid : Nat) : Nat := (s.susp.filter fun x => x.eid == eid).length

/-- Engine operations queued on a core group's engines: matrix queues, ray queries, fragments and packets. -/
def cgQueued (s : State) (d cg : Nat) : Bool :=
  (cgCores d cg).any (fun c => !(coreAt s c).mq.isEmpty)
  || s.rays.any (fun q => q.eid == eidOf d (0x40 + cg))
  || s.frags.any (fun f => f.die == d && f.cg == cg)
  || s.packets.any (fun k => ((k.stage == .proof || k.stage == .raster) && k.die == d && k.cg == cg) || (k.stage == .gather && k.src == d * 256 + cg))
  || s.binq.any (fun m => m.die == d && m.cg == cg)

/-- Operations suspended on a core group's engines. -/
def cgSuspended (s : State) (d cg : Nat) : Bool :=
  slotsHeld s (eidOf d (0x40 + cg)) != 0 || slotsHeld s (eidOf d (0x60 + cg)) != 0
  || (List.range 8).any (fun c => slotsHeld s (eidOf d (0x80 + cg * 8 + c)) != 0)

def cgHeld (s : State) (d cg : Nat) : Bool :=
  (cgCores d cg).any fun c => (coreAt s c).vrec.any (fun x => x.2.held.isSome) || (coreAt s c).srec.any (fun x => x.2.held.isSome)
def cgResident (s : State) (d cg : Nat) : Bool := (cgCores d cg).any fun c => !(residents s c).isEmpty

/-! World changes (R327): blocks 0-31 core groups, 32-47 copy engines, 48-63 encode engines, 64-71 bank groups -/

/-- Where BWORLD's fields of a die stand beside its core groups' own bit: under a number that no CSR has. -/
def bworldDie : Nat := 0x1500

/-- The bit of BWORLD for a block. -/
def bworldBit (s : State) (d blk : Nat) : Bool :=
  if blk < 32 then bitAt (csrGet s 0x500 (cgKey d blk)) 0
  else if blk < 48 then bitAt (csrGet s bworldDie d) (8 + (blk - 32))
  else if blk < 64 then bitAt (csrGet s bworldDie d) (16 + (blk - 48))
  else bitAt (csrGet s bworldDie d) (32 + (blk - 64))

/-- A display's stream has frames in progress (R410). -/
def Disp.busy (d : Disp) : Bool := !d.cap.isEmpty || !d.due.isEmpty

/-- A block holds no resident workgroup, no queued and no suspended operation (R327). For a Larder bank group, which queues nothing itself,
that is taken as: none of its die's own copy engines has an operation queued (DESIGN CHOICE, log 93). -/
def blockIdle (s : State) (d blk : Nat) : Bool :=
  if blk < 32 then !cgResident s d blk && !cgQueued s d blk && !cgSuspended s d blk
  else if blk < 48 then !(s.copies.any fun c => c.eid == eidOf d (blk - 32)) && slotsHeld s (eidOf d (blk - 32)) == 0
  else if blk < 64 then
    slotsHeld s (eidOf d (0x20 + (blk - 48))) == 0
    && !(s.disps.any fun x => (x.2.stream || x.2.busy || x.2.posting) && x.2.eng == (d - 1) * 16 + (blk - 48))
  else !(s.copies.any fun c => (cidDie c.eid) == d)

/-- The world in force of a block. -/
def blockWorld (s : State) (d blk : Nat) : Bool :=
  if blk < 32 then (cgroup s d blk).sec
  else if blk < 48 then bitAt (die s d).cpy (blk - 32)
  else if blk < 64 then bitAt (die s d).enc (blk - 48)
  else bitAt (die s d).lbg (blk - 64)

def putBit (x n : Nat) (b : Bool) : Nat := setBits x n n (b2n b)

/-- A block adopts the world BWORLD gives it; a core group's L1s and L2 share are first written back and invalidated (R327). -/
def blockAdopt (s : State) (d blk : Nat) : State :=
  let b := bworldBit s d blk
  if blk < 32 then
    let s := if (cgroup s d blk).sec != b then shareBack s d (cgCores d blk) else s
    setCg s d blk { cgroup s d blk with sec := b }
  else if blk < 48 then setDie s d { die s d with cpy := putBit (die s d).cpy (blk - 32) b }
  else if blk < 64 then setDie s d { die s d with enc := putBit (die s d).enc (blk - 48) b }
  else setDie s d { die s d with lbg := putBit (die s d).lbg (blk - 64) b }

/-- A block whose world is to change adopts it once it is idle. -/
def adoptIdle (s : State) (d blk : Nat) : State := if bworldBit s d blk != blockWorld s d blk && blockIdle s d blk then blockAdopt s d blk else s

/-- Every idle block of a die adopts its world. -/
def blocksAdopt (s : State) (d : Nat) : State :=
  (List.range 72).foldl (fun s b => adoptIdle s d b) s

/-! Events (R338) -/

/-- The log of a partition is not configured (R331). -/
def logUnset (s : State) (log : Nat) : Bool := csrGet s 0x105 log == 0

/-- EPEND of a control context (R338). -/
def epend (s : State) (n : Nat) : Nat :=
  let c := ctl s n
  let log := if c.lvl == 2 then devicePart else c.part
  let flog := csrGet s 0x106 log != csrGet s 0x107 log || (logUnset s log && s.posts.any fun x => x.log == log)
  let mbox := bitAt (pregGet s log 0x880) 0
  let tim := decide (timer s ≥ c.etcmp.toNat)
  let die := c.lvl == 2 && s.dieEvents != 0
  b2n flog + 2 * b2n mbox + 4 * b2n tim + 8 * b2n die

/-! CSRs (R342-R344) -/

/-- Read level and write level of a CSR number; none for an unlisted one, 9 for no write level. -/
def csrLevels (num : Nat) (ctl : Bool) : Option (Nat × Nat) :=
  if num = 0 then some (0, 1)
  else if num ≤ 3 then some (0, 9)
  else if num = 4 then some (0, 1)
  else if num = 0x100 then (if ctl then some (1, 1) else none)
  else if 0x101 ≤ num ∧ num ≤ 0x107 then some (1, 1)
  else if 0x110 ≤ num ∧ num ≤ 0x117 then some (1, 1)
  else if 0x120 ≤ num ∧ num ≤ 0x127 then (if ctl then some (1, 1) else none)
  else if 0x400 ≤ num ∧ num < 0x500 then some (2, 2)
  else if num = 0x500 ∨ num = 0x501 then some (2, 2)
  else if 0x510 ≤ num ∧ num ≤ 0x513 then some (2, 2)
  else none

/-- What a CSR access names beside its number (R342). -/
structure CsrEnv where
  part : Nat
  die : Nat
  cg : Nat
  cid : Nat
  ctl : Option Nat
  lvl : Nat
  sec : Bool

/-- The instances of the executing agent: its own, or those of SEL (R342, R344). -/
def csrEnv (s : State) (a : Agent) : CsrEnv :=
  let i := issuer s a
  match a with
  | .control n =>
    let sel := (ctl s n).sel.toNat
    { part := if i.lvl = 2 then bits sel 29 24 else i.part, die := bits sel 15 8, cg := bits sel 7 0, cid := n / 8, ctl := some n,
      lvl := i.lvl, sec := i.sec }
  | _ =>
    let cid := i.cid.getD 0
    { part := i.part, die := cidDie cid, cg := cidCg cid, cid := cid, ctl := none, lvl := i.lvl, sec := i.sec }

/-- The value of a CSR (R343). -/
def csrRead (s : State) (e : CsrEnv) (num : Nat) : Nat :=
  let c := ctl s (e.ctl.getD 0)
  if num = 0 then csrGet s 0 e.part
  else if num = 1 then Config.lrphase e.die
  else if num = 2 then e.lvl + 4 * b2n e.sec
  else if num = 3 then (if e.ctl.isSome && e.lvl == 2 then devicePart else e.part)
  else if num = 4 then csrGet s 4 e.cid
  else if num = 0x100 then c.sel.toNat
  else if num = 0x101 then csrGet s 0x101 (cgKey e.die e.cg)
  else if num < 0x120 then csrGet s num e.part
  else if num = 0x120 then c.evec.toNat
  else if num = 0x121 then c.epc.toNat
  else if num = 0x122 then c.ecause.toNat
  else if num = 0x123 then c.einfo.toNat
  else if num = 0x124 then c.estat.toNat
  else if num = 0x125 then c.een.toNat
  else if num = 0x126 then epend s (e.ctl.getD 0)
  else if num = 0x127 then c.etcmp.toNat
  else if num = 0x500 then csrGet s bworldDie e.die + csrGet s 0x500 (cgKey e.die e.cg)
  else if num < 0x510 then csrGet s num 0
  else csrGet s (num - 0x510 + 0x104) devicePart

/-- The ring of a log lies wholly in HBM at a 4,096-byte-aligned base (R343). -/
def ringOk (base size : Nat) : Bool := base % 4096 == 0 && decide (base + 128 * 2 ^ size ≤ hbmBytes)

/-- A write of FLOGBASE, FLOGSIZE, FLOGHEAD or FLOGTAIL, number 0x104 to 0x107, of a partition's log or the device log 64
(R331, R343). -/
def logWrite (s : State) (log num v : Nat) : State :=
  let base := csrGet s 0x104 log
  let size := csrGet s 0x105 log
  let head := csrGet s 0x106 log
  let tail := csrGet s 0x107 log
  if num = 0x104 then (if head = tail ∧ ringOk v size then csrSet s 0x104 log v else s)
  else if num = 0x105 then
    let z := v % 32
    if head = tail ∧ (z = 0 ∨ (4 ≤ z ∧ z ≤ 16)) ∧ ringOk base z then csrSet s 0x105 log z else s
  else if num = 0x107 then
    if (head + 2 ^ 32 - v % 2 ^ 32) % 2 ^ 32 ≤ 2 ^ size then csrSet s 0x107 log (v % 2 ^ 32) else s
  else s

/-- CTXCFG written (R324): EN starts the context at CTXPC with its registers 0, or stops it, all of its state lost. Its generator is
seeded with the RNDSEED of the partition in PART, at device-manager level too, where R91 names none (DESIGN CHOICE, log 32). -/
def ctxcfgWrite (s : State) (n v : Nat) : State :=
  let lvl := bits v 1 0
  if lvl = 0 ∨ lvl = 3 then s
  else
    let x := maskBits v [(31, 31), (13, 8), (2, 2), (1, 0)]
    let s' := csrSet s (0x400 + n) 0 x
    if bitAt v 31 then
      if (ctl s n).run then s'
      else setCtl s' n { run := true, pc := csrGet s (0x420 + n) 0, lvl := lvl, sec := bitAt v 2, part := bits v 13 8,
                         g := rngSeed (csrGet s 0 (bits v 13 8)) 0 0 0x1000 }
    else stopCtl s' n

/-- A CSR written by an agent at the write level (R342-R344). RTGTG takes 0 in NRX and NRY, its reset value, though R344 gives their range as
1 to 512 (DESIGN CHOICE, log 18). -/
def csrWrite (s : State) (e : CsrEnv) (num : Nat) (v : Nat) : State :=
  let n := e.ctl.getD 0
  if num = 0 then csrSet s 0 e.part v
  else if num = 4 then csrSet s 4 e.cid v
  else if num = 0x100 then updCtl s n fun c => { c with sel := BitVec.ofNat 64 (maskBits v [(29, 24), (15, 8), (7, 0)]) }
  else if num = 0x101 then csrSet s 0x101 (cgKey e.die e.cg) (v % 4)
  else if num = 0x102 then (if v % 64 = 0 then csrSet s num e.part v else s)
  else if num = 0x103 then csrSet s num e.part (v % 2 ^ 16)
  else if 0x104 ≤ num ∧ num ≤ 0x107 then logWrite s e.part num v
  else if 0x110 ≤ num ∧ num ≤ 0x117 then
    if num % 2 = 0 then csrSet s num e.part (maskBits v [(51, 12)])
    else if bits v 21 20 = 3 ∨ bits v 19 10 > 512 ∨ bits v 9 0 > 512 then s
    else csrSet s num e.part (maskBits v [(31, 31), (21, 20), (19, 10), (9, 0)])
  else if num = 0x120 then updCtl s n fun c => { c with evec := BitVec.ofNat 64 v }
  else if num = 0x121 then updCtl s n fun c => { c with epc := BitVec.ofNat 64 v }
  else if num = 0x122 then updCtl s n fun c => { c with ecause := BitVec.ofNat 64 v }
  else if num = 0x123 then updCtl s n fun c => { c with einfo := BitVec.ofNat 64 v }
  else if num = 0x124 then updCtl s n fun c => { c with estat := BitVec.ofNat 64 (v % 4) }
  else if num = 0x125 then updCtl s n fun c => { c with een := BitVec.ofNat 64 (v % 16) }
  else if num = 0x127 then updCtl s n fun c => { c with etcmp := BitVec.ofNat 64 v }
  else if 0x400 ≤ num ∧ num < 0x420 then ctxcfgWrite s (num - 0x400) v
  else if 0x420 ≤ num ∧ num < 0x440 then csrSet s num 0 v
  else if 0x440 ≤ num ∧ num < 0x480 then csrSet s num 0 (maskBits v [(51, 16)])
  else if 0x480 ≤ num ∧ num < 0x4C0 then csrSet s num 0 (maskBits v [(51, 16), (0, 0)])
  else if 0x4C0 ≤ num ∧ num < 0x500 then csrSet s num 0 (maskBits v [(31, 31), (5, 0)])
  else if num = 0x500 then
    let s := csrSet s bworldDie e.die (maskBits v [(39, 32), (31, 16), (15, 8)])
    blocksAdopt (csrSet s 0x500 (cgKey e.die e.cg) (v % 2)) e.die
  else if num = 0x501 then csrSet s num 0 (v % 2)
  else if 0x510 ≤ num ∧ num ≤ 0x513 then logWrite s devicePart (num - 0x510 + 0x104) v
  else s

/-! Displays and streams (R403-R408) -/

def dispOff (v o : Nat) : Nat := 0xC00 + 0x100 * v + o
def disp (s : State) (p v : Nat) : Disp := s.disps.get {} (2 * p + v)
def setDisp (s : State) (p v : Nat) (d : Disp) : State := { s with disps := s.disps.put (2 * p + v) d }
def dispReg (s : State) (p v o : Nat) : Nat := pregGet s p (dispOff v o)

/-- The size limits of R403 on DCTL. -/
def dispSizeOk (x : Nat) : Bool :=
  let w := bits x 13 0 + 1
  let h := bits x 29 16 + 1
  w % 8 == 0 && h % 8 == 0 && w ≤ 8192 && h ≤ 4352 && w * h ≤ 8912896

/-- What a display register other than DCTL and the stream's becomes by a write; none where a field gets a reserved value (R403). -/
def dispTakes (o x : Nat) : Option Nat :=
  if o = 0x08 then
    let num := bits x 15 0
    let den := bits x 31 16
    if den = 0 ∨ num = 0 ∨ num > 240 * den then none else some (x % 2 ^ 32)
  else if o = 0x10 ∨ o = 0x28 ∨ o = 0x40 then (if x % 256 = 0 then some x else none)
  else if o = 0x18 ∨ o = 0x30 then some (maskBits x [(61, 48), (45, 32), (29, 16), (13, 0)])
  else if o = 0x20 ∨ o = 0x38 then (if bits x 49 32 % 256 = 0 then some (maskBits x [(63, 63), (49, 32), (0, 0)]) else none)
  else if o = 0x48 then some (maskBits x [(63, 63), (29, 16), (13, 0)])
  else none

/-! Captures (R404) -/

/-- The last frame of a display whose capture tick is not after tick t; none before the first (R404). -/
def lastFrame (s : State) (p v t : Nat) : Option Nat :=
  let r := dispReg s p v 0x08
  let d := disp s p v
  if d.run ∧ d.t0 ≤ t ∧ bits r 15 0 ≠ 0 ∧ bits r 31 16 ≠ 0 then some (((t - d.t0 + 1) * bits r 15 0 - 1) / (200000000 * bits r 31 16)) else none

/-- The capture tick of frame n (R404). -/
def captureTick (s : State) (p v n : Nat) : Nat :=
  let r := dispReg s p v 0x08
  (disp s p v).t0 + n * 200000000 * bits r 31 16 / bits r 15 0

/-- The registers that a capture uses, as they are in force. -/
def captureRegs (s : State) (p v : Nat) : SMap Word64 :=
  (List.range 10).foldl (fun m k => m.put (8 * k) (BitVec.ofNat 64 (dispReg s p v (8 * k)))) []

/-- Frames become due under the registers in force (R404): those from `a` on that are not after the last one of tick t. -/
def framesDue (s : State) (p v a t : Nat) : State :=
  match lastFrame s p v t with
  | some n =>
    let d := disp s p v
    let l := ((List.range (n + 1)).drop (Max.max a d.frame)).map fun k => (k, captureTick s p v k, captureRegs s p v)
    if l.isEmpty then s else setDisp s p v { d with frame := n + 1, due := if d.stream then d.due ++ l else d.due }
  | none => s

/-- The time that passes: the frames of the displays whose capture ticks it passes become due (R404). -/
def elapse (s : State) (dt : Nat) : State :=
  let a (p v : Nat) : Nat := (lastFrame s p v (timer s)).elim 0 (· + 1)
  let t := { s with now := s.now + dt }
  s.disps.foldl (fun s x => framesDue s (x.1 / 2) (x.1 % 2) (a (x.1 / 2) (x.1 % 2)) (timer t)) t

/-- DCTL written (R403-R405): HOLD's end applies the staged values, and frame 0 is captured at the tick of EN's beginning. A write of EN = 1
with a size beyond the limits while the display runs clears EN and stops it: R403 says 'EN stays 0' of a display that does not run (DESIGN
CHOICE, log 94). -/
def dctlWrite (s : State) (p v x : Nat) : State :=
  let old := dispReg s p v 0
  let en := bitAt x 31 && dispSizeOk x
  let d := disp s p v
  let y := maskBits x [(30, 30), (29, 16), (13, 0)] + b2n en * 2 ^ 31
  let starts := en && !bitAt old 31
  let d := if starts then { d with run := true, t0 := timer s, frame := 0 } else { d with run := en }
  let s := pregSet s p (dispOff v 0) y
  let s := if bitAt old 30 && !bitAt x 30 then
      setDisp (d.staged.foldl (fun s r => pregSet s p (dispOff v r.1) r.2.toNat) s) p v { d with staged := [] }
    else setDisp s p v d
  if starts then framesDue s p v 0 (timer s) else s

/-- Load of a stream as a fraction (R408). -/
def streamLoad (s : State) (p v : Nat) : Nat × Nat :=
  let c := dispReg s p v 0
  let r := dispReg s p v 0x08
  ((bits c 13 0 + 1) * (bits c 29 16 + 1) * bits r 15 0, bits r 31 16 * 3840 * 2160 * 60)

/-- Sum of the loads of an engine's streams but that of display (p, v) (R408). -/
def engineLoad (s : State) (e p v : Nat) : Nat × Nat :=
  (s.disps.filter fun x => x.1 != 2 * p + v && x.2.stream && x.2.eng == e).foldl
    (fun a x => let l := streamLoad s (x.1 / 2) (x.1 % 2); (a.1 * l.2 + l.1 * a.2, a.2 * l.2)) (0, 1)

/-- The status of R408 for enabling a stream with SCTL := x; the level's tile limits are PRESUMED (log 14). BWORLD.ENC gives the engine the
partition's world, and the engine has taken it up (R327; DEDUCED, log 80). -/
def streamCheck (s : State) (p v x : Nat) : Nat :=
  let e := bits x 52 48
  let sbr := dispReg s p v 0x58
  let srsz := dispReg s p v 0x68
  let ok := bits x 31 30 ≠ 3 ∧ bits sbr 63 32 ≤ 40000 ∧ bits sbr 31 0 ≤ 40000 ∧ bits srsz 63 32 + 32 ≤ bits srsz 31 0
    ∧ bits x 45 43 ≤ 3 ∧ bits x 45 43 + bits x 42 40 ≤ 6
  let own := dregGet s (1 + e / 16) (0x3000 + 8 * (e % 16))
  if ¬ok then 7
  else if !(bitAt own 31 && own % 64 == p) || partWorld s p != some (bworldBit s (1 + e / 16) (48 + e % 16))
      || partWorld s p != some (blockWorld s (1 + e / 16) (48 + e % 16)) then 2
  else if !bitAt (dispReg s p v 0) 31 then 4
  else
    let a := engineLoad s e p v
    let l := streamLoad s p v
    if a.1 * l.2 + l.1 * a.2 ≤ 2 * (a.2 * l.2) then 0 else 5

/-- SCTL written (R403, R408, R410). A write of EN = 1 passes the checks whether the stream runs already or not; one that fails leaves a
running stream as it is but for STAT (DEDUCED, log 80), and one of the reserved RC = 3 leaves the register so whether it runs or not. A
stream is served by the engine of its last write of EN = 1, also while its last frames are coded. -/
def sctlWrite (s : State) (p v x : Nat) : State :=
  let old := dispReg s p v 0x50
  let fields := maskBits x [(52, 48), (45, 40), (35, 32), (31, 30), (23, 16), (15, 0)]
  let d := disp s p v
  if bitAt x 63 then
    let st := streamCheck s p v x
    if st ≠ 0 ∧ (bitAt old 63 ∨ bits x 31 30 = 3) then pregSet s p (dispOff v 0x50) (setBits old 60 56 st)
    else if bitAt old 63 then setDisp (pregSet s p (dispOff v 0x50) (fields + 2 ^ 63)) p v { d with eng := bits x 52 48 }
    else
      let s := pregSet s p (dispOff v 0x50) (fields + st * 2 ^ 56 + (if st = 0 then 2 ^ 63 else 0))
      if st = 0 then setDisp s p v { d with stream := true, sinceKey := none, held := false, ending := false, eng := bits x 52 48 } else s
  else if bits x 31 30 = 3 then s
  else
    let s := pregSet s p (dispOff v 0x50) (fields + bits old 60 56 * 2 ^ 56)
    blocksAdopt (setDisp s p v { d with stream := false, ending := (d.ending || d.stream) && d.busy }) (1 + d.eng / 16)

/-- A register of a display block written (R403-R409): `x` is its value in force with the bits of `m` written. Under HOLD a write goes to
the value that is staged already, and one that gives a field a reserved value changes nothing (R403, R405). -/
def dispWrite (s : State) (p v o x m : Nat) : State :=
  if o = 0 then dctlWrite s p v x
  else if o < 0x50 then
    let d := disp s p v
    let held := bitAt (dispReg s p v 0) 30
    let old := if held then ((d.staged.find o).map (·.toNat)).getD (dispReg s p v o) else dispReg s p v o
    match dispTakes o ((old - (old &&& m)) + (x &&& m)) with
    | some y => if held then setDisp s p v { d with staged := d.staged.put o (BitVec.ofNat 64 y) } else pregSet s p (dispOff v o) y
    | none => s
  else if o = 0x50 then sctlWrite s p v x
  else if o = 0x58 then pregSet s p (dispOff v o) x
  else if o = 0x60 then (if x % 4096 = 0 then pregSet s p (dispOff v o) x else s)
  else if o = 0x68 then (if bits x 31 0 % 4096 = 0 then pregSet s p (dispOff v o) x else s)
  else if o = 0x70 then (if x % 8 = 0 then pregSet s p (dispOff v o) x else s)
  else if o = 0x78 then pregSet s p (dispOff v o) (bits (dispReg s p v o) 63 32 * 2 ^ 32 + bits x 31 0)
  else if o = 0x80 then
    let old := dispReg s p v o
    pregSet s p (dispOff v o) (old - (old &&& (x &&& m)))
  else s

/-! Partition and device register blocks (R364, R398, R411) -/

/-- Who writes a register of the blocks. -/
inductive Who where
  | host | pm | dm
  deriving DecidableEq, Repr

/-- A core group owns a valid region entry, or holds a fragment workgroup (R382). -/
def cgOwnsRegion (s : State) (d cg : Nat) : Bool :=
  s.dreg.any fun x => 0x100000 ≤ x.1 && x.1 < 0x120000 && bitAt x.2.toNat 31 && bits x.2.toNat 15 8 == d && bits x.2.toNat 7 0 == cg
def cgHasFragment (s : State) (d cg : Nat) : Bool := (cgCores d cg).any fun c => (residents s c).any fun x => x.2.frag

/-- A die is fitted: its descriptor gives a KIND (R3, R413). -/
def dieFitted (d : Nat) : Bool := Config.dieKind d != .absent

/-- A die is present: it is fitted and not recorded absent (R3, R414). -/
def diePresent (s : State) (d : Nat) : Bool := dieFitted d && !s.absentDies.contains d

/-- A core group may be in a partition at all: its die is present, passed its self-test and is not quarantined, and the core group is healthy
(R413, R414). -/
def groupFit (s : State) (d cg : Nat) : Bool :=
  diePresent s d && !quarantined s d && (Config.ddesc1 d).getLsbD 0 && (Config.ddesc0 d).getLsbD (32 + cg)

/-- The join conditions of R381 for one core group; its die has no reset to come (R422). -/
def canJoin (s : State) (p d cg : Nat) : Bool :=
  Config.isCompute d && decide (cg < Config.coreGroups d) && groupFit s d cg
  && !((List.range 64).any fun q => q != p && isMember s q d cg)
  && (match partWorld s p with | some w => w == (cgroup s d cg).sec | none => true)
  && bworldBit s d cg == (cgroup s d cg).sec && dregGet s d 0x80 % 4 == 0
  && !cgResident s d cg && !cgHeld s d cg && !cgQueued s d cg

/-- Nothing of a partition is there: no core group, no workgroup, no launch that is not over, no record queued by LAUNCH, no copy. -/
def partEmpty (s : State) (p : Nat) : Bool :=
  (List.range 13).all (fun d => cgmask s p d % 2 ^ 16 == 0) && !(s.wgs.any fun x => x.2.part == p) && !(s.dlq.any fun x => x.part == p)
  && !(s.copies.any fun o => o.part == p) && s.launches.all fun l => l.part != p || l.st == .complete || l.st == .refused

/-- PARTITION BUILD (R366): launch ids start at 0, and the launches of an earlier partition of the number are history. The moment, which no
rule names, is the joining of its first core groups while nothing of an earlier one is left (DEDUCED, log 63). -/
def buildPart (s : State) (p : Nat) : State :=
  setPart { s with launches := s.launches.filter fun l => l.part != p } p { part s p with nextLid := 0 }

/-- CGMASK written (R381, R382): a write that breaks a rule leaves it unchanged. The core groups that one write lets join have one world. -/
def cgmaskWrite (s : State) (p d x : Nat) : State :=
  let old := cgmask s p d
  let ok := (List.range 16).all fun g =>
    !(bitAt old g && !bitAt x g)
    && !(!bitAt old g && bitAt x g && !canJoin s p d g)
    && !(bitAt x (16 + g) && !bitAt old (16 + g) && (!bitAt old g || cgOwnsRegion s d g || cgHasFragment s d g))
  let joins := (List.range 16).filter fun g => !bitAt old g && bitAt x g
  if ok && (joins.map fun g => (cgroup s d g).sec).eraseDups.length < 2 then
    pregSet (if partEmpty s p && !joins.isEmpty then buildPart s p else s) p (0x400 + 8 * d) (x % 2 ^ 32)
  else s

/-- QCTL written (R364). -/
def qctlWrite (s : State) (p q x m : Nat) : State :=
  let o := 0x20 * q + 8
  let old := pregGet s p o
  let l := bits x 4 0
  if l < 2 ∨ 12 < l then s
  else
    let err := bitAt old 30 && !bitAt (x &&& m) 30
    pregSet s p o (bits old 63 32 * 2 ^ 32 + b2n (bitAt x 31) * 2 ^ 31 + b2n err * 2 ^ 30 + l)

/-- MBCTL written by the host or by a device agent (R398): OFULL, when it is set, gives the host its vector. -/
def mbctlWrite (s : State) (w : Who) (p x : Nat) : State :=
  let old := pregGet s p 0x880
  let (i, o) := if w = .host then (bitAt old 0 || bitAt x 0, bitAt old 1 && !bitAt x 1)
    else (bitAt old 0 && !bitAt x 0, bitAt old 1 || bitAt x 1)
  let s := if o && !bitAt old 1 then { s with out := BitVec.ofNat 64 (2 * p + 1) :: s.out } else s
  pregSet s p 0x880 (b2n i + 2 * b2n o)

/-- The 48-byte seed of the identity key pair: SHAKE256 of "SZ-ID" and the secret (R418). -/
def identitySeed : List Byte :=
  (toBytes 64 (Config.shake256 ([0x53, 0x5A, 0x2D, 0x49, 0x44] ++ toBytes 32 Config.dieSecret.toNat)).toNat).take 48

/-- A byte of the public identity key (R418). -/
def identityKey (n : Nat) : Byte := Config.falconPublic identitySeed n

/-- What a doubleword of a register block holds (R364, R418). -/
def pregVal (s : State) (p o : Nat) : Nat :=
  if p = devicePart ∧ 0x1000 ≤ o ∧ o < 0x1708 then ofBytes ((List.range 8).map fun i => if o - 0x1000 + i < 1793 then identityKey (o - 0x1000 + i) else 0)
  else if p < 64 ∧ o = 0x200 ∧ pregGet s p o = 0 then 20
  else pregGet s p o

/-- What is served after a failed boot: BOOTSTAT and the device mailbox (R411). -/
def served (s : State) (p o : Nat) : Bool := !s.bootDead || (p == devicePart && ((0x800 ≤ o && o < 0x888) || o == 0x900))

/-- A doubleword of a register block read (R364); what is not served reads as a free value (R411, log 2). -/
def pregRead (s : State) (p o : Nat) : Nat := if served s p o then pregVal s p o else (freeValue s).toNat

/-- A doubleword of a register block written under the bits of `m`; what is unassigned or not served drops it (R364, R411). -/
def pregWrite (s : State) (w : Who) (p o val m : Nat) : State :=
  let old := pregGet s p o
  let x := (old - (old &&& m)) + (val &&& m)
  let wm := val &&& m
  if !served s p o then s
  else if 0x800 ≤ o ∧ o < 0x840 then (if bitAt (pregGet s p 0x880) 0 then s else pregSet s p o x)
  else if 0x840 ≤ o ∧ o < 0x880 then (if bitAt (pregGet s p 0x880) 1 then s else pregSet s p o x)
  else if o = 0x880 then mbctlWrite s w p wm
  else if 64 ≤ p then s
  else if o < 0x200 then
    if o % 0x20 = 0 then pregSet s p o (maskBits x [(51, 12)])
    else if o % 0x20 = 8 then (if m % 2 ^ 32 = 0 then s else qctlWrite s p (o / 0x20) x m)
    else if o % 0x20 = 0x10 then pregSet s p o (x % 2 ^ 32)
    else s
  else if o = 0x200 then (if w = .dm ∧ bits x 15 0 ≤ 1000 then pregSet s p o (bits x 15 0) else s)
  else if o = 0x208 then (if w = .dm ∧ bits x 15 8 ≠ 0 ∧ bits x 7 0 ≠ 0 then pregSet s p o (x % 2 ^ 16) else s)
  else if o = 0x210 then (if w = .dm then pregSet s p o (x % 2 ^ 32) else s)
  else if 0x400 ≤ o ∧ o < 0x468 then (if w = .dm then cgmaskWrite s p ((o - 0x400) / 8) x else s)
  else if 0xC00 ≤ o ∧ o ≤ 0xC80 then dispWrite s p 0 (o - 0xC00) x m
  else if 0xD00 ≤ o ∧ o ≤ 0xD80 then dispWrite s p 1 (o - 0xD00) x m
  else s

/-- n bytes read from the register blocks at an offset from 0xF_F100_0000_0000 (R116, R364). -/
def regsRead (s : State) (off n : Nat) : List Byte :=
  (List.range n).map fun i =>
    let o := off + i
    BitVec.ofNat 8 (pregRead s (o / 65536) (o % 65536 / 8 * 8) / 2 ^ (8 * (o % 8)))

/-- Bytes written to the register blocks, one aligned doubleword at a time (R364); at most 16 bytes. -/
def regsWrite (s : State) (w : Who) (off : Nat) (l : List Byte) : State :=
  let one (s : State) (d : Nat) : State :=
    let lo := Max.max off d
    let hi := Min.min (off + l.length) (d + 8)
    if lo < hi then
      let v := ofBytes ((l.drop (lo - off)).take (hi - lo)) * 2 ^ (8 * (lo - d))
      pregWrite s w (d / 65536) (d % 65536) v ((2 ^ (8 * (hi - lo)) - 1) * 2 ^ (8 * (lo - d)))
    else s
  one (one (one s (off / 8 * 8)) (off / 8 * 8 + 8)) (off / 8 * 8 + 16)

/-! Die registers (R340) -/

/-- Assigned offsets of a die's register space. -/
def dregAssigned (d o : Nat) : Bool :=
  if o % 8 ≠ 0 then false
  else if d = 0 then
    o ≤ 0x28 || o = 0x40 || o = 0x48 || (0x1000 ≤ o && o < 0x1200) || (0x2000 ≤ o && o < 0x2200)
    || (0x4000 ≤ o && o < 0x4080) || (0x4100 ≤ o && o < 0x41C0) || (0x100000 ≤ o && o < 0x120000)
    || (0x800000 ≤ o && o < 0xC10000)
  else
    o = 0 || o = 8 || o = 0x20 || o = 0x40 || o = 0x48 || o = 0x80
    || (Config.isShading d && (o = 0x60 || (0x100 ≤ o && o ≤ 0x140)))
    || (0x3000 ≤ o && o < 0x3000 + 8 * Config.encodeEngines d)
    || (0x3100 ≤ o && o < 0x3100 + 8 * Config.copyEngines d)

/-- What a temperature sensor reads now: a free value (R417, log 2). -/
def sensor (s : State) : Nat := (freeValue s).toNat % 256

/-- DIERD of a register (R340, R402, R417, R424). -/
def dieRead (s : State) (d o : Nat) : Nat :=
  if !diePresent s d || !dregAssigned d o then 0
  else if d = 0 ∧ 0x2000 ≤ o ∧ o < 0x2200 then
    let b := s.pbs.get {} ((o - 0x2000) / 8)
    b2n b.phase * 2 ^ 52 + b.arr.length * 2 ^ 32 + b.n
  else if d = 0 ∧ 0x800000 ≤ o then pregRead s ((o - 0x800000) / 65536) ((o - 0x800000) % 65536)
  else if o = (if d = 0 then 0x28 else 0x20) then maskBits (dregGet s d o) [(8, 8)] + sensor s
  else dregGet s d o

/-- Some context of the die keeps an accumulator set in the exchange area (R76). -/
def accxBusy (s : State) (d : Nat) : Bool :=
  s.wgs.any fun x => match x.2.cid?, x.2.ctx with
    | some cid, some c => cidDie cid == d && c.inSlot
    | _, _ => false

/-! Region entries (R301, R321, R389) -/

/-- The region of a partition's window that has an entry of the ownership table (R389). -/
def windowRegion (s : State) (p i : Nat) : Option (Nat × Nat) :=
  let c := dregGet s 0 (0x1000 + 8 * p)
  let k := i - bits c 13 0
  if bitAt c 63 && decide (bits c 13 0 ≤ i) && decide (k / (bits c 24 16 + 1) ≤ bits c 40 32) then
    some (k % (bits c 24 16 + 1), k / (bits c 24 16 + 1))
  else none

/-- A region's entry as it is created at partition build: the partition's first batch sequence, and counts of 0 (R321). -/
def newRegion (s : State) (p rx ry : Nat) : Region :=
  { part := p, rx := rx, ry := ry, e := pregGet s p 0x210, n := 0, tag := 0, wrote := [], held := false }

/-- A region's entry is created anew, or goes (R321). -/
def buildRegion (s : State) (p rx ry : Nat) (valid : Bool) : State :=
  { s with regions := s.regions.filter (fun x => !(x.part == p && x.rx == rx && x.ry == ry)) ++ (if valid then [newRegion s p rx ry] else []) }

/-- An ownership-table entry becomes valid or invalid: the entry of its region in the region unit is created or goes (log 63). -/
def buildEntry (s : State) (i : Nat) (valid : Bool) : State :=
  (List.range 64).foldl (fun s p =>
    match windowRegion s p i with
    | some (rx, ry) => buildRegion s p rx ry valid
    | none => s) s

/-- The regions of a partition that have an entry, which is valid (R389). -/
def windowRegions (s : State) (p : Nat) : List (Nat × Nat) :=
  ((s.dreg.filter fun x => decide (0x100000 ≤ x.1) && decide (x.1 < 0x120000) && bitAt x.2.toNat 31).map fun x => (x.1 - 0x100000) / 8).filterMap
    (windowRegion s p)

/-- A partition's region window is written: the entries of the regions that it takes in are created, those of the regions that it leaves
out go, and the others stay as they are (R321). With a window where there was none the partition's batches that have retired are history
(log 63). -/
def buildWindow (s : State) (p v : Nat) : State :=
  let before := windowRegions s p
  let anew := !bitAt (dregGet s 0 (0x1000 + 8 * p)) 63
  let s := dregSet s 0 (0x1000 + 8 * p) v
  let after := windowRegions s p
  { s with
    regions := (s.regions.filter fun x => x.part != p || (before.contains (x.rx, x.ry) && after.contains (x.rx, x.ry)))
      ++ (after.filter fun x => !before.contains x).map (fun x => newRegion s p x.1 x.2)
    batches := if anew then s.batches.filter fun b => b.part != p || !b.retired else s.batches }

/-- CPYOWN would move an engine that holds work of another partition (R425). -/
def cpyownBusy (s : State) (d e v : Nat) : Bool :=
  let q := if bitAt v 31 then v % 64 else 64
  s.copies.any (fun c => c.eid == eidOf d e && c.part != q) || s.susp.any (fun x => x.eid == eidOf d e && x.part != q)

/-- ENCOWN would change an engine that serves an enabled stream of another partition (R407). -/
def encownBusy (s : State) (d e v : Nat) : Bool :=
  let q := if bitAt v 31 then v % 64 else 64
  s.disps.any fun x => x.2.stream && x.1 / 2 != q && x.2.eng == (d - 1) * 16 + e

/-- RSTCTL written (R422): ORDERLY is ignored while a partition holds a block of the die, which sets REJ; else each reset that is asked for is
carried out by its own act. -/
def rstctlWrite (s : State) (d v : Nat) : State :=
  let old := dregGet s d 0x80
  let asks := bitAt v 0 && !dieInUse s d
  let rej := (bitAt old 2 && !bitAt v 2) || (bitAt v 0 && dieInUse s d)
  dregSet s d 0x80 (b2n (bitAt old 0 || asks) + 2 * b2n (bitAt old 1 || bitAt v 1) + 4 * b2n rej)

/-- DIEWR of an assigned register of a present die: the new state and the status, 0 or 7 (R340). -/
def dieWrite (s : State) (d o v : Nat) : State × Nat :=
  let put (y : Nat) : State × Nat := (dregSet s d o y, 0)
  let old := dregGet s d o
  if d = 0 then
    if o = 0 then put (Max.max 100 (v % 2 ^ 16))
    else if o = 8 then put (old - (old &&& v))
    else if 0x1000 ≤ o ∧ o < 0x1200 then (buildWindow s ((o - 0x1000) / 8) (maskBits v [(63, 63), (40, 32), (24, 16), (13, 0)]), 0)
    else if 0x4000 ≤ o ∧ o < 0x4080 then put (if o % 16 = 0 then maskBits v [(51, 16)] else maskBits v [(51, 16), (0, 0)])
    else if 0x4100 ≤ o ∧ o < 0x41C0 then put (if o % 16 = 0 then maskBits v [(31, 31), (5, 0)] else v)
    else if 0x100000 ≤ o ∧ o < 0x120000 then
      if bitAt old 31 ∧ bits v 15 0 ≠ bits old 15 0 then (s, 7)
      else
        let s := dregSet s d o (maskBits v [(31, 31), (15, 8), (7, 0)] + b2n (bitAt old 30) * 2 ^ 30)
        (if bitAt old 31 == bitAt v 31 then s else buildEntry s ((o - 0x100000) / 8) (bitAt v 31), 0)
    else if 0x800000 ≤ o then (pregWrite s .dm ((o - 0x800000) / 65536) ((o - 0x800000) % 65536) v (2 ^ 64 - 1), 0)
    else if o = 0x40 then (if bits v 31 16 = 0 ∨ bits v 3 0 < 2 then (s, 0) else put (maskBits v [(31, 16), (3, 0)]))
    else (s, 0)
  else if o = 0x40 then (if bits v 31 16 = 0 ∨ bits v 3 0 < 2 then (s, 0) else put (maskBits v [(31, 16), (3, 0)]))
  else if o = 0x80 then (rstctlWrite s d v, 0)
  else if o = 0x60 then (if accxBusy s d then (s, 7) else put (maskBits v [(51, 16), (0, 0)]))
  else if 0x3000 ≤ o ∧ o < 0x3080 then
    if encownBusy s d ((o - 0x3000) / 8) v then (s, 0) else put (maskBits v [(31, 31), (5, 0)])
  else if 0x3100 ≤ o ∧ o < 0x3180 then
    if cpyownBusy s d ((o - 0x3100) / 8) v then (s, 7) else put (maskBits v [(31, 31), (5, 0)])
  else (s, 0)

end Sys2Proof.Machine
end

