-- ==== Sys2Proof/Machine/Access.lean ====
section
/-! DEFINITION. Address translation (R112-R116, R346-R354), the checks of an access in the order of R233, instruction
fetch (R141) and the reads, writes and read-modify-writes that instructions and engines make. -/

namespace Sys2Proof.Machine

open Sys2Proof

/-- What a checked access answers: a value, a fault with its address, or that it cannot be performed yet. -/
inductive Out (α : Type) where
  | ok (a : α)
  | bad (c : Cause) (faddr : Nat)
  | wait
  deriving DecidableEq, Repr

/-- Continues after a performed part. -/
def Out.bind {α β : Type} (x : Out α) (f : α → Out β) : Out β :=
  match x with
  | .ok a => f a
  | .bad c v => .bad c v
  | .wait => .wait

/-! Virtual addresses (R112-R114) -/

/-- VA[63:49] equals copies of VA[48] (R112). -/
def canonical (va : Nat) : Bool := va < 2 ^ 48 || (2 ^ 64 - 2 ^ 48 ≤ va && va < 2 ^ 64)
/-- The 49 bits of a canonical address. -/
def va49 (va : Nat) : Nat := va % 2 ^ 49

/-- The ranges of R112. -/
inductive Range where
  | pages
  | peer (x off : Nat)
  | self (off : Nat)
  | none
  deriving DecidableEq, Repr

def rangeOf (va : Nat) : Range :=
  let v := va49 va
  if v < 0x1F00000000000 then .pages
  else if v < 0x1F10000000000 then .peer ((v - 0x1F00000000000) / 2 ^ 20) (v % 2 ^ 20)
  else if 0x1FF0000000000 ≤ v ∧ v < 0x1FF0000100000 then .self (v % 2 ^ 20)
  else .none

/-! What an access waits for on its way (R416, R417, R420) -/

/-- The crossing FIFOs of a spoke die hold: it relocks or has tripped (R416, R417). -/
def crossHeld (s : State) (d : Nat) : Bool := (1 ≤ d && ((die s d).relock.isSome || (die s d).tripped)) || (die s 0).tripped

/-- What goes from one die to another waits in the crossing FIFOs (R416, R417). -/
def crossWait (s : State) (x y : Nat) : Bool := x != y && (crossHeld s x || crossHeld s y)

/-- The location of the error tracker that is the row of an address (R420): its die, and 4 × row + array. -/
def rowPlace (pa : Nat) : Option (Nat × Nat) :=
  match area pa with
  | .hbm => some (hbmDie pa, 4 * Config.rowOf 0 (hbmOffset pa * 8 + hbmStack pa))
  | .larder d o => some (d, 4 * Config.rowOf 2 o + 2)
  | _ => none

/-- A row of HBM or of a Larder is being copied to its spare (R420). -/
def rowCopying (s : State) (pa : Nat) : Bool := (rowPlace pa).any s.spares.contains

/-- The parts of a physical range that lie in one 128-byte line each: first address and length. -/
def lineParts (pa n : Nat) : List (Nat × Nat) :=
  if n = 0 then []
  else (List.range ((pa + n - 1) / 128 - pa / 128 + 1)).map fun k =>
    let lo := Max.max pa ((pa / 128 + k) * 128)
    (lo, Min.min (pa + n) ((pa / 128 + k + 1) * 128) - lo)

/-- A row that n bytes of memory touch is being copied (R420). -/
def copyingAt (s : State) (pa n : Nat) : Bool := !s.spares.isEmpty && (lineParts pa n).any fun x => rowCopying s x.1

/-- The copies of the rows that n bytes touch come to their end before what the part itself writes there within an act of its own: such a
write waits for the copy (R420), whose length the spec leaves open (DESIGN CHOICE, log 91). -/
def endCopies (s : State) (pa n : Nat) : State :=
  if copyingAt s pa n then { s with spares := s.spares.filter fun x => !((lineParts pa n).any fun y => rowPlace y.1 == some x) } else s

/-! Page tables (R346-R353) -/

/-- The walker's die: compute dies walk replicas, everything else the master image (R347, R352). -/
def walkDie (d : Nat) : Nat := if d = 0 then 9 else d

/-- Index of a level (R346). -/
def ptIndex (lvl va : Nat) : Nat :=
  match lvl with
  | 1 => bits va 48 42
  | 2 => bits va 41 29
  | _ => bits va 28 16
/-- Bytes one entry of a level covers (R346). -/
def ptCover (lvl : Nat) : Nat :=
  match lvl with
  | 1 => 2 ^ 42
  | 2 => 2 ^ 29
  | _ => 2 ^ 16

def pool (s : State) (p : Nat) : Pool := s.pools.get {} p
/-- Offset of entry bytes in `State.tbl`: die x 2^26 plus the offset in the die's table region (R347). -/
def replicaAddr (d ridx t idx : Nat) : Nat := d * 2 ^ 26 + ((ridx + t) * 65536 + 8 * idx) % 2 ^ 26
/-- Master address of an entry of pool table t (R347). -/
def masterAddr (q : Pool) (t idx : Nat) : Nat := q.base + t * 65536 + 8 * idx

/-- The entry a die's walk reads. -/
def readEntry (s : State) (d : Nat) (q : Pool) (t idx : Nat) : Nat :=
  if Config.isCompute d then Memory.num s.tbl (replicaAddr d q.ridx t idx) 8 else Memory.num s.mem (masterAddr q t idx) 8

/-- Fields of an entry (R348). -/
def pteLeaf (e : Nat) : Bool := bitAt e 62
def pteTable (q : Pool) (e : Nat) : Nat := (bits e 51 16 * 65536 - q.base) / 65536

/-- Levels `lvl` to 3 of a walk (R351): level, leaf and its master address. -/
def walkFrom (s : State) (d : Nat) (q : Pool) (va : Nat) : Nat → Nat → Nat → Option (Nat × Nat × Nat)
  | 0, _, _ => none
  | n + 1, lvl, t =>
    let e := readEntry s d q t (ptIndex lvl va)
    if !bitAt e 0 then none
    else if pteLeaf e then some (lvl, e, masterAddr q t (ptIndex lvl va))
    else walkFrom s d q va n (lvl + 1) (pteTable q e)

/-- A walk (R351). A pool of no tables maps nothing (log 6). -/
def walk (s : State) (d p va : Nat) : Option (Nat × Nat × Nat) :=
  let q := pool s p
  if q.count = 0 then none else walkFrom s d q (va49 va) 3 1 0

/-- A walk of a master image reads an entry at an address with some property before it ends. -/
def walkMeets (s : State) (q : Pool) (va : Nat) (f : Nat → Bool) : Nat → Nat → Nat → Bool
  | 0, _, _ => false
  | n + 1, lvl, t =>
    let a := masterAddr q t (ptIndex lvl va)
    let e := Memory.num s.mem a 8
    f a || (bitAt e 0 && !pteLeaf e && walkMeets s q va f n (lvl + 1) (pteTable q e))

def tlbHit (t : TlbEnt) (d p va : Nat) : Bool := t.die == d && t.part == p && t.page == va49 va / ptCover t.lvl

/-- A die has no translation of an address cached and makes its own from a master image in HBM, as memory dies do (R347). -/
def walksMaster (s : State) (d p va : Nat) : Bool := !Config.isCompute d && (pool s p).count != 0 && !(s.tlb.any (tlbHit · d p va))

/-- The walk that an access needs meets a poisoned block (R421). R136 lets no read return it and R351 names XLATE_NP alone for a walk: the
walk faults with POISON (DESIGN CHOICE, log 92). -/
def walkBad (s : State) (d p va : Nat) : Bool :=
  walksMaster s d p va && walkMeets s (pool s p) (va49 va) (fun a => linePoisoned s (lineOf a)) 3 1 0

/-- The leaf an access uses: a cached translation while one stands, else a walk's (R353, R359); none of a poisoned block (R421). -/
def findLeaf (s : State) (d p va : Nat) : Option TlbEnt :=
  match s.tlb.find? (tlbHit · d p va) with
  | some t => some t
  | none => if walkBad s d p va then none else (walk s d p va).map fun x =>
      { die := d, part := p, lvl := x.1, page := va49 va / ptCover x.1, pte := BitVec.ofNat 64 x.2.1, addr := x.2.2,
        ver := s.pteVer.get 0 x.2.2 }

/-- The walk that an access of a die needs waits: the crossing FIFOs toward the walker hold (R416, R417), or a row that it reads is being
copied (R420). -/
def walkWaits (s : State) (x p va : Nat) : Bool :=
  (crossWait s x (walkDie x) && !(s.tlb.any (tlbHit · (walkDie x) p va)))
  || (!s.spares.isEmpty && walksMaster s (walkDie x) p va && walkMeets s (pool s p) (va49 va) (rowCopying s) 3 1 0)

/-- Records a used translation in the die's cache and sends its accessed or dirty report (R353, R354). -/
def useLeaf (s : State) (t : TlbEnt) (wr : Bool) : State :=
  let e := t.pte.toNat
  let needA := !bitAt e 6
  let needD := wr && !bitAt e 7
  let mk (d : Bool) : Report := { part := t.part, addr := t.addr, ver := t.ver, dirty := d }
  let reps := (if needA then [mk false] else []) ++ (if needD then [mk true] else [])
  let t' := { t with pte := t.pte ||| 0x40#64 ||| (if wr then 0x80#64 else 0#64) }
  if s.tlb.contains t' then s
  else { s with tlb := s.tlb.filter (fun x => !(x.die == t.die && x.part == t.part && x.lvl == t.lvl && x.page == t.page)) ++ [t'],
                reports := s.reports ++ reps }

/-! The leaf's attributes (R131, R132, R348) -/

def pteOrd (e : Nat) : Nat := bits e 9 8
def pteCmp (e : Nat) : Bool := bitAt e 12
def pteRow (e : Nat) : Bool := bitAt e 13
def pteWs (e : Nat) : Bool := bitAt e 14
/-- The physical address a leaf gives (R349). -/
def ptePa (lvl e va : Nat) : Nat := if lvl = 2 then bits e 51 29 * 2 ^ 29 + va % 2 ^ 29 else bits e 51 16 * 2 ^ 16 + va % 2 ^ 16

/-- The parts of a virtual range that lie in one 64 KiB page each: first address and length. -/
def pageParts (va n : Nat) : List (Nat × Nat) :=
  if n = 0 then []
  else (List.range ((va + n - 1) / 65536 - va / 65536 + 1)).map fun k =>
    let lo := Max.max va ((va / 65536 + k) * 65536)
    (lo, Min.min (va + n) ((va / 65536 + k + 1) * 65536) - lo)

/-- Bytes that the part lays out at a physical range, line by line: no cache keeps a copy of the words, and the blocks are coded anew as
their page has it (R120, R133). -/
def layPhys (s : State) (pa : Nat) (l : List Byte) (cmp : Bool) : State :=
  (lineParts pa l.length).foldl (fun s x =>
    recode (layPut (lineOwn s (lineOf x.1) (wordMask x.1 x.2) none) x.1 ((l.drop (x.1 - pa)).take x.2)) x.1 x.2 cmp) (endCopies s pa l.length)

/-- Bytes that the walker of a die's units lays out at a virtual range of a partition, page by page (R51, R352); the pages are accessed and
dirty then (R354). -/
def layBytes (s : State) (d p va : Nat) (l : List Byte) : State :=
  (pageParts va l.length).foldl (fun s x =>
    match findLeaf s (walkDie d) p x.1 with
    | some t => layPhys (useLeaf s t true) (ptePa t.lvl t.pte.toNat (va49 x.1)) ((l.drop (x.1 - va)).take x.2) (pteCmp t.pte.toNat)
    | none => s) s

/-- Bytes that the Hearth writes into the header of a save area of a partition, at its address as the tables now translate it
(R360, R373). -/
def headerPut (s : State) (p : Nat) (a : SaveArea) (o : Nat) (l : List Byte) : State := layBytes s 0 p (a.va + o) l

/-- An item applied to the image of a saved workgroup is counted in its header (R373, R377). -/
def countItem (s : State) (w : Nat) : State :=
  match wg? s w with
  | some g =>
    match g.place with
    | .saved a => headerPut (setWg s w { g with fwd := (g.fwd + 1) % 2 ^ 32 }) g.part a 0x18 (toBytes 4 ((g.fwd + 1) % 2 ^ 32))
    | .resident _ => s
  | none => s

/-- A virtual range now holds what the part has laid out there (R51, R372). -/
def markLaid (s : State) (d p va n : Nat) (h : Holder) (dark : Bool) : State :=
  (pageParts va n).foldl (fun s x =>
    match findLeaf s (walkDie d) p x.1 with
    | some t =>
      let pa := ptePa t.lvl t.pte.toNat (va49 x.1)
      { s with laid := (s.laid.filter fun r => !(decide (pa ≤ r.lo) && decide (r.hi ≤ pa + x.2)))
                ++ [{ lo := pa, hi := pa + x.2, holder := h, dark := dark }] }
    | none => s) s

/-- A holder's record or image is laid out anew, so that nothing of it is spoilt. -/
def unspoil (s : State) (h : Holder) : State := { s with spoiled := s.spoiled.filter (· != h) }

/-- Check 3 of R233: attribute combination, PIN and physical range (R116, R128, R132). -/
def attrOk (s : State) (e pa : Nat) : Bool :=
  let slm := pteSlm e
  let pin := ptePinDie e
  let hbm := match area pa with | .hbm => true | _ => false
  let lard := match area pa with | .larder _ _ => true | _ => false
  !areaGone s pa
  && pteOrd e != 3 && slm != 3
  && (slm == 0 || (diePresent s pin && pin != 0 && !quarantined s pin && (slm == 2 || Config.isCompute pin)))
  && (!pteCmp e || hbm)
  && (!pteRow e || (hbm && slm == 0 && !pteWs e))
  && (!pteHost e || (hbm && slm == 0 && !pteRow e))
  && (!pteWs e || (lard && !bitAt e 3 && !pteCmp e && slm == 0))
  && (!lard || pteWs e)

/-- A physical address is secure (R326). -/
def secureAddr (s : State) (pa : Nat) : Bool :=
  (List.range 64).any (fun n =>
    let l := csrGet s (0x480 + n) 0
    bitAt l 0 && bits (csrGet s (0x440 + n) 0) 51 16 ≤ pa / 65536 && pa / 65536 ≤ bits l 51 16)
  || (match area pa with
      | .larder d o => bitAt (die s d).lbg (bits o 9 7 ^^^ bits o 12 10)
      | _ => false)

/-- Bank group of a Larder offset (R139). -/
def bankGroup (o : Nat) : Nat := bits o 9 7 ^^^ bits o 12 10

/-- Larder-read permission of a launch record for a die (R137, R362). -/
def larderPerm (r : BitVec 1024) (d : Nat) : Bool :=
  let m := recField r 0x7C 12 1
  bitAt (recField r 0x18 31 0) 10 && (m == 0 || bitAt m (d - 1))

/-- Whether an issuer's launch may read the Larder of a die (R137). -/
def mayReadLarder (s : State) (i : Issuer) (d : Nat) : Bool :=
  match i.record with
  | some r => larderPerm r d
  | none => (i.wg.isSome || i.eng) && (launch? s i.part i.lid).any fun l => larderPerm l.record d

/-! Regions (R345, R389) -/

/-- Bytes of a target's region: 1,024 elements (R345, R308). -/
def esz (g : Nat) : Nat := match bits g 21 20 with | 0 => 4 | 1 => 8 | 2 => 16 | _ => 0

/-- The region of a byte of a ROW page: target, RX, RY (R345). -/
def regionOf (s : State) (p pa : Nat) : Option (Nat × Nat × Nat) :=
  ((List.range 4).find? fun i =>
    let g := csrGet s (0x111 + 2 * i) p
    let b := csrGet s (0x110 + 2 * i) p
    bitAt g 31 && b ≤ pa && pa < b + bits g 9 0 * bits g 19 10 * 1024 * esz g).map fun i =>
      let g := csrGet s (0x111 + 2 * i) p
      let j := (pa - csrGet s (0x110 + 2 * i) p) / (1024 * esz g)
      (i, j % bits g 9 0, j / bits g 9 0)

/-- Index of a region's entry in the ownership table (R389). -/
def rotIndex (s : State) (p rx ry : Nat) : Option Nat :=
  let c := dregGet s 0 (0x1000 + 8 * p)
  if bitAt c 63 ∧ rx ≤ bits c 24 16 ∧ ry ≤ bits c 40 32 ∧ p < 64 then
    let i := bits c 13 0 + ry * (bits c 24 16 + 1) + rx
    if i < 16384 then some i else none
  else none

/-- The valid entry of a region: its value (R389). -/
def rotEntry (s : State) (p rx ry : Nat) : Option Nat :=
  match rotIndex s p rx ry with
  | some i => let v := dregGet s 0 (0x100000 + 8 * i); if bitAt v 31 then some v else none
  | none => none

/-! Checked accesses (R233) -/

/-- An access: address, size, what it does, and whether a copy engine or another engine makes it. -/
structure Acc where
  va : Nat
  size : Nat
  rd : Bool := false
  wr : Bool := false
  fetch : Bool := false
  copy : Bool := false
  /-- A write of an engine, performed at the home without a fill (R273, R277). -/
  eng : Bool := false
  /-- The core group whose blend unit makes it (R308). -/
  blend : Option (Nat × Nat) := none
  /-- Part of an element or of an engine's transfer, whose address need not be aligned (R147). -/
  elem : Bool := false
  /-- A write of a matrix operation, which never takes POISON or FROZEN (R277). -/
  deaf : Bool := false
  deriving DecidableEq, Repr

/-- Where a checked access goes, with the leaf it used; `pte` is 0 for a scratchpad. -/
structure Tgt where
  loc : Loc
  pte : Nat
  tlb : Option TlbEnt
  deriving DecidableEq, Repr

def Tgt.pa (t : Tgt) : Nat := match t.loc with | .phys pa => pa | .spad _ _ => 0
def Tgt.isPhys (t : Tgt) : Bool := match t.loc with | .phys _ => true | .spad _ _ => false

/-- A scratchpad target after its reservation and poison checks (R113, R114, R421). An access from elsewhere comes after the items that
still queue for the workgroup at the core it has left: they arrive in order (R376). -/
def spadTarget (s : State) (i : Issuer) (q : Acc) (w o : Nat) : Out Tgt :=
  match wg? s w with
  | some g =>
    if g.spadLen < o + q.size then .bad .xlateNp q.va
    else if spadPoisoned g o q.size && (q.rd || (q.size < 4 && !q.eng)) then .bad .poison q.va
    else if (i.eng || i.wg != some w) && s.items.any (fun x => x.wg == w) then .wait
    else .ok { loc := .spad w o, pte := 0, tlb := none }
  | none => .bad .xlateNp q.va

/-- Whether an L1 may hold the target's line with W and D (R119, R121, R397): an RC or UO page in HBM or host memory. -/
def cacheable (t : Tgt) : Bool :=
  t.isPhys && pteOrd t.pte != 0 && (match area t.pa with | .hbm | .host => true | _ => false)

/-- The core whose L1 takes part in an issuer's access to a target. -/
def l1Of (i : Issuer) (t : Tgt) : Option Nat := if cacheable t then i.cid else none

/-- The home of a page's line (R128, R132). -/
def homeOf (e pa : Nat) : Nat :=
  let d := ptePinDie e
  if pteRow e then rowHome pa
  else if pteSlm e = 0 then homeHash pa
  else if pteSlm e = 1 then 256 + 64 * d + sliceHash pa
  else if Config.isCompute d then 256 + 64 * d + bits e 57 52
  else 64 * (d - 9) + bits e 57 52

/-- The die that holds a home, or the data of one on the Hearth (R17, R128). -/
def homeDie (h : Nat) : Nat := if h < 256 then 9 + h / 64 else if h < 65536 then (h - 256) / 64 else 9 + (h - 65536) / 64

/-- The die that serves an access under a leaf to a physical address: that of its home, of its Larder, or the Hearth with the host port, the
peer ports and the registers. -/
def servingDie (e pa : Nat) : Nat :=
  match area pa with
  | .hbm => if pteRow e then hbmDie pa else homeDie (homeOf e pa)
  | .larder d _ => d
  | _ => 0

/-- The issuing core's L1 holds the words of an access, which goes to no home then: V for a read, W for a write (R119). -/
def l1Holds (s : State) (i : Issuer) (q : Acc) (t : Tgt) : Bool :=
  match l1Of i t with
  | some c =>
    let l := (lineState s (lineOf t.pa)).get {} c
    let m := wordMask t.pa q.size
    (!q.rd || l.v &&& m == m) && (!q.wr || l.w &&& m == m)
  | none => false

/-- A bank group lies in a refresh window by the timer (R139). -/
def refreshDue (s : State) (d g : Nat) : Bool := decide ((timer s + 12800 - Config.lrphase d - 800 * g) % 6400 < 200)

/-- A write to n bytes of memory is not readable yet: a subscription of the write's location awaits a push (R150). -/
def pushOver (s : State) (pa n : Nat) : Bool :=
  s.subs.any fun x => x.push.isSome && (x.span ++ x.mspan).any fun r => decide (r.1 < pa + n) && decide (pa < r.2)

/-- The core group whose ownership of a region counts for an access (R132, R350): the executing core's, or the unit's. -/
def Issuer.group (i : Issuer) : Option (Nat × Nat) := (i.cid.map fun c => (cidDie c, cidCg c)).or i.grp

/-- A push toward a subscription is under way: some write is not acknowledged yet (R150, R245). -/
def pushesOut (s : State) : Bool := s.subs.any fun x => x.push.isSome

/-- Some write-back of a core, or of its die's L2 slices, would wait in the crossing FIFOs toward its home (R416, R417). -/
def backHeld (s : State) (cid : Nat) : Bool :=
  let d := cidDie cid
  let home (line h : Nat) : Nat := match area (line * 128) with | .hbm => homeDie h | _ => 0
  (List.range 13).any (crossHeld s)
  && ((s.lines.any fun x => (x.2.find cid).any fun l =>
        (l.d != 0 || !l.u.isEmpty) && crossWait s d (home x.1 (l.home.getD (homeHash (x.1 * 128)))))
    || s.l2.any fun x => x.1 / 64 == d && x.2.any fun y => y.home < 256 && (y.w ||| y.d) != 0 && crossWait s d (home y.line y.home))

/-- Every access of an agent to a peer aperture has completed, every push that a write waits for is acknowledged and no write-back waits on
its way, so that a release of the agent takes effect (R124, R150, R400, R416, R417). -/
def releaseOk (s : State) (a : Agent) : Bool :=
  !(s.peerOut.any fun x => x.ag == some a) && !pushesOut s && !((issuer s a).cid.any (backHeld s))

/-- No access of an engine of a partition to a peer aperture is outstanding (R160, R400). -/
def enginesOk (s : State) (p : Nat) : Bool := !(s.peerOut.any fun x => x.part == p && x.ag.isNone)

/-- An offset from the register blocks' base lies in a partition's display registers (R403). -/
def displayReg (o : Nat) : Bool := decide (o / 65536 < 64) && decide (0xC00 ≤ o % 65536) && decide (o % 65536 < 0xE00)

/-- A store to a display register, which acts as a release of SYS scope by its writer (R403), cannot take effect yet. -/
def releaseDue (s : State) (i : Issuer) (q : Acc) (pa : Nat) : Bool :=
  match area pa with
  | .regs o => q.wr && displayReg o && i.ag.any fun a => !releaseOk s a
  | _ => false

/-- Checks 8 and 9 of R233 on a page target, and what it waits for: a region in transfer, a row being copied (R420), crossing FIFOs that
hold (R416, R417), a line with a transaction in flight (R388), a Larder bank group in refresh (R139), a push in flight toward a subscription of the location (R150), the release that
a store to a display register makes (R403). -/
def pageTarget (s : State) (i : Issuer) (q : Acc) (t : TlbEnt) (pa : Nat) : Out Tgt :=
  let e := t.pte.toNat
  let tgt : Tgt := { loc := .phys pa, pte := e, tlb := some t }
  let region : Out Unit :=
    if pteRow e then
      match regionOf s i.part pa with
      | none => .bad .region q.va
      | some (_, rx, ry) =>
        match rotEntry s i.part rx ry with
        | none => .bad .region q.va
        | some v =>
          match q.blend with
          | some (d, g) => if bits v 15 8 == d && bits v 7 0 == g then .ok () else .bad .region q.va
          | none =>
          if bitAt v 30 then .wait
          else match i.group with
            | some g => if bits v 15 8 == g.1 && bits v 7 0 == g.2 then .ok () else .bad .region q.va
            | none => .ok ()
    else .ok ()
  region.bind fun _ =>
    let line := lineOf pa
    if rowCopying s pa || (!q.fetch && crossWait s i.die (servingDie e pa) && !l1Holds s i q tgt) then .wait
    else if s.frozen.contains line && !q.deaf && !(q.copy && q.wr && !q.rd && q.size == 128 && i.lvl == 2) then .bad .frozen q.va
    else if linePoisoned s line && (q.rd || (q.size < 4 && !q.eng)) then .bad .poison q.va
    else if s.cohMsgs.any fun m => m.line == line then .wait
    else if (match area pa with
        | .larder d o => q.rd && (refreshDue s d (bankGroup o) || (die s d).refresh.contains (bankGroup o))
        | _ => false) then .wait
    else if (q.rd && pushOver s pa q.size) || releaseDue s i q pa then .wait
    else .ok tgt

/-- The Larder of a die takes a copy engine's write (R137, R340): it is open, and while an LWCLOSE waits only for what was issued
before it. -/
def larderTakes (s : State) (d : Nat) (i : Issuer) : Bool :=
  (die s d).larderOpen && (match (die s d).closing with
    | some l => i.op.any l.contains
    | none => true)

/-- Checks 3 to 9 of R233 on a page. -/
def pageChecks (s : State) (i : Issuer) (q : Acc) (t : TlbEnt) : Out Tgt :=
  let e := t.pte.toNat
  let pa := ptePa t.lvl e (va49 q.va)
  let lard := match area pa with | .larder d _ => some d | _ => none
  if !attrOk s e pa then .bad .xlateAttr q.va
  else if q.wr && pteWs e && !(q.copy && (match lard with | some d => larderTakes s d i | none => false)) then .bad .larderWrite q.va
  else if (q.rd && !bitAt e 1) || (q.wr && !bitAt e 2) || (q.fetch && !bitAt e 3)
      || (i.lvl == 0 && 0xFF00000000000 ≤ pa)
      || (q.rd && !q.copy && (match lard with | some d => !mayReadLarder s i d | none => false)) then .bad .xlatePerm q.va
  else if (if i.sec then bitAt e 4 && secureAddr s pa else !bitAt e 4 || secureAddr s pa) then .bad .world q.va
  else if pteSlm e == 1 && i.die != ptePinDie e then .bad .sliceLocal q.va
  else pageTarget s i q t pa

/-- The checks of R233 in their order. For an agent without a workgroup a scratchpad window faults XLATE_NP: R113 names no cause
for it (DESIGN CHOICE, log 60). -/
def resolve (s : State) (i : Issuer) (q : Acc) : Out Tgt :=
  if !q.elem && q.va % q.size != 0 then .bad .misalign q.va
  else if !canonical q.va then .bad .xlateNp q.va
  else match rangeOf q.va with
    | .none => .bad .xlateNp q.va
    | .self o =>
      if q.fetch then .bad .xlatePerm q.va
      else match i.wg with
        | some w => spadTarget s i q w o
        | none => .bad .xlateNp q.va
    | .peer x o =>
      if q.fetch then .bad .xlatePerm q.va
      else match i.wg.bind (wg? s) with
        | some g =>
          let wid := g.wid / 2 ^ 20 * 2 ^ 20 + x
          match s.wgs.find? fun y => y.2.part == g.part && y.2.lid == g.lid && y.2.wid == wid with
          | some y => spadTarget s i q y.1 o
          | none => .bad .xlateNp q.va
        | none => .bad .xlateNp q.va
    | .pages =>
      if walkWaits s i.die i.part q.va then .wait
      else if walkBad s (walkDie i.die) i.part q.va then .bad .poison q.va
      else match findLeaf s (walkDie i.die) i.part q.va with
      | none => .bad .xlateNp q.va
      | some t => pageChecks s i q t

/-- The state after a target is used: its translation cached and reported (R353, R354). -/
def useTgt (s : State) (t : Tgt) (wr : Bool) : State :=
  match t.tlb with
  | some x => useLeaf s x wr
  | none => s

/-- Who an issuer is to a register block. -/
def whoOf (i : Issuer) : Who := if i.lvl = 2 then .dm else .pm

/-- An access to a peer aperture stays outstanding until the peer's completion (R400). -/
def notePeer (s : State) (i : Issuer) (pa : Nat) : State :=
  match area pa with
  | .peer n => { s with peerOut := s.peerOut ++ [{ id := s.nextId, port := n, part := i.part, ag := i.ag, tick := timer s }], nextId := s.nextId + 1 }
  | _ => s

/-- What an L1 keeps of the home of a line (R128, R132): nothing where it is the home agent that the address gives. -/
def keptHome (h pa : Nat) : Option Nat := if h = homeHash pa then none else some h

/-- An access of an issuer uses a line in the L2 slices and in the LLC (R125, R127, R132, R397): a line homed at a home agent has its data in
the paired LLC slice; LOCAL and compute-PINNED lines, those of ROW pages and those of host memory bypass it. -/
def cacheUse (s : State) (i : Issuer) (e pa : Nat) (n : Nat) (wr : Bool) : State :=
  match area pa with
  | .hbm | .host =>
    let h := homeOf e pa
    let line := lineOf pa
    let k := sliceFor i.die h line
    let near := (i.cid.isSome && pteOrd e != 0) || (256 ≤ h && h < 65536)
    let keep : Option Nat := if near then some k else none
    let s := if wr then clearL2 s line (wordMask pa n) keep else recallL2 s line (wordMask pa n) keep
    let s := if near then touchL2 s k h line 0 0 else s
    let s := match i.cid with
      | some c => if keptHome h pa = none then s
        else setLine s line ((lineState s line).map fun x => if x.1 == c then (x.1, { x.2 with home := some h }) else x)
      | none => s
    if h < 256 && pa < hbmBytes then touchLlc s h line wr else s
  | _ => s

/-- Slot records that a program writes into while they are ACTIVE become undefined-valued (R243). -/
def spoilSlots (s : State) (w o n : Nat) : State :=
  let hit := (s.subs.filter fun x => x.wg == w && x.off < o + n && o < x.off + 32).map (·.off)
  if hit.isEmpty then s else updWg s w fun g => { g with slotBad := hit.foldl insertAsc g.slotBad }

/-- Some byte of a scratchpad range lies in an undefined-valued slot record (R243). -/
def slotSpoiled (s : State) (w o n : Nat) : Bool := (wg? s w).any fun g => g.slotBad.any fun k => k < o + n && o < k + 32

/-- Reads n bytes at a target, at its home or through the issuer's L1. -/
def readTgt (s : State) (i : Issuer) (t : Tgt) (n : Nat) : List Byte × State :=
  let s := useTgt s t false
  match t.loc with
  | .spad w o => if slotSpoiled s w o n then freeBytes (countItem s w) n else (locBytes s t.loc n, countItem s w)
  | .phys pa =>
    match area pa with
    | .regs o => (regsRead s o n, s)
    | _ =>
      let s := notePeer (lineRead s (lineOf pa) (wordMask pa n) (l1Of i t)) i pa
      physRead (cacheUse s { i with cid := l1Of i t } t.pte pa n false) pa n

/-- An access from a die to a line at its home by its physical address waits: the line is in a transaction (R388), its row is being copied
(R420), or the crossing FIFOs toward its home hold (R416, R417). -/
def homeHeld (s : State) (d pa : Nat) : Bool :=
  rowCopying s pa || s.cohMsgs.any (fun m => m.line == lineOf pa) || crossWait s d (servingDie ((leavesOf s pa).headD 0) pa)

/-- A read of bytes of memory at their home by their physical address, as WAIT watches, dependence counters and queue records have it
(R242): none while it waits, or a write to the bytes is not readable (R150). -/
def homeRead (s : State) (d pa n : Nat) : Option (List Byte × State) :=
  if pushOver s pa n || homeHeld s d pa then none
  else some (physRead (recallL2 (lineRead s (lineOf pa) (wordMask pa n) none) (lineOf pa) (wordMask pa n) none) pa n)

/-- A core's dirty words go to the L2 slices of its die (R124). -/
def dirtyToL2 (s : State) (cid : Nat) : State :=
  s.lines.foldl (fun s x =>
    match x.2.find cid with
    | some l =>
      if l.d = 0 then s
      else
        let h := l.home.getD (homeHash (x.1 * 128))
        touchL2 (setLine s x.1 ((lineState s x.1).put cid { l with d := 0 })) (sliceFor (cidDie cid) h x.1) h x.1 l.d l.d
    | none => s) s

/-- What a release of a scope writes back for a core: nothing at WG scope, to the die's slices at DIE scope, else to the homes, where
the die's slices drain too (R124, R158). -/
def releaseCore (s : State) (cid scope : Nat) : State :=
  match scope with
  | 0 => s
  | 1 => writeBackCore (dirtyToL2 s cid) cid false
  | _ => drainL2 (writeBackCore s cid false) (cidDie cid)

/-- The poison marks after a write: a Larder's line loses its mark (R421), one of host memory by a full write alone (R136). -/
def unmark (s : State) (pa n : Nat) : List Nat :=
  match area pa with
  | .host => if n = 128 then s.larderPoison.filter (· != lineOf pa) else s.larderPoison
  | _ => s.larderPoison.filter (· != lineOf pa)

/-- Writes bytes at a target. A frozen line that may be written thaws (R392), and a Larder line loses its poison (R421). -/
def writeTgt (s : State) (i : Issuer) (t : Tgt) (l : List Byte) : State :=
  let s := useTgt s t true
  match t.loc with
  | .spad w o => countItem (spoilSlots (spadWrite s w o l) w o l.length) w
  | .phys pa =>
    match area pa with
    | .regs o => regsWrite (if displayReg o then i.cid.elim s fun c => releaseCore s c 3 else s) (whoOf i) o l
    | _ =>
      let s := notePeer (lineOwn s (lineOf pa) (wordMask pa l.length) (l1Of i t)) i pa
      let s := cacheUse s { i with cid := l1Of i t } t.pte pa l.length true
      let s := recode (putBytes s pa l) pa l.length (pteCmp t.pte)
      { s with frozen := if l.length = 128 then s.frozen.filter (· != lineOf pa) else s.frozen, larderPoison := unmark s pa l.length }

/-- The bytes at a target that a write of some of their bits keeps: every delta of a U copy is combined first (R122, R152). -/
def heldBytes (s : State) (t : Tgt) (n : Nat) : List Byte × State :=
  match t.loc with
  | .phys pa => physRead (combine s (lineOf pa)) pa n
  | .spad w o => if slotSpoiled s w o n then freeBytes s n else (locBytes s t.loc n, s)

/-- A checked read of n bytes at a virtual address. -/
def readMem (s : State) (i : Issuer) (va n : Nat) : Out (List Byte × State) :=
  (resolve s i { va := va, size := n, rd := true }).bind fun t => .ok (readTgt s i t n)

/-- A checked write. -/
def writeMem (s : State) (i : Issuer) (va : Nat) (l : List Byte) : Out State :=
  (resolve s i { va := va, size := l.length, wr := true }).bind fun t => .ok (writeTgt s i t l)

/-- An atomic's target is at the SYS point of its memory whatever the scope: host memory and peer apertures (R240). -/
def sysPoint (t : Tgt) : Bool := t.isPhys && (match area t.pa with | .host | .peer _ => true | _ => false)

/-- The scope that says where an atomic is performed (R123, R240): a reduction of a line that is watched or subscribed is performed at its
home (R240, R319), an access to host or peer memory at that memory's SYS point. -/
def pointScope (t : Tgt) (scope : Nat) (home : Bool) : Nat := if sysPoint t then 3 else if home && scope < 2 then 2 else scope

/-- Where an atomic of a scope is performed (R123): at WG scope the issuing core's L1, else the die's L2 slice or the home, of which no
L1 keeps a copy of the word. -/
def atPoint (i : Issuer) (scope : Nat) : Issuer := if scope = 0 then i else { i with cid := none }

/-- An atomic of DIE scope holds its word W in the L2 slice of the issuer's die (R123), `dirty` when it has written it. -/
def holdInSlice (s : State) (i : Issuer) (t : Tgt) (scope n : Nat) (dirty : Bool) : State :=
  match area t.pa with
  | .hbm =>
    let h := homeOf t.pte t.pa
    if scope = 1 && t.isPhys && pteOrd t.pte != 0 && Config.isCompute i.die
    then touchL2 s (sliceFor i.die h (lineOf t.pa)) h (lineOf t.pa) (wordMask t.pa n) (if dirty then wordMask t.pa n else 0) else s
  | _ => s

/-- An atomic that writes nothing still has its word granted to the point where it is performed (R123), of which the issuer has the L1 at WG
scope alone: no other L1 and no L2 slice keeps the word, but for the slice that the point is or reads through. -/
def grantWord (s : State) (i : Issuer) (t : Tgt) (scope n : Nat) : State :=
  let own (s : State) : State :=
    let h := homeOf t.pte t.pa
    clearL2 (lineGrant s (lineOf t.pa) (wordMask t.pa n) 0 (l1Of i t)) (lineOf t.pa) (wordMask t.pa n)
      (if scope < 2 || (256 ≤ h && h < 65536) then some (sliceFor i.die h (lineOf t.pa)) else none)
  match t.loc, area t.pa with
  | .phys _, .hbm | .phys _, .host => own s
  | _, _ => s

/-- A checked read-modify-write of n bytes (R123, R239): `f` gives the new value, or none where nothing is written; `home` when the point
is the home for a line that `f` finds watched. -/
def rmwMem (s : State) (i : Issuer) (scope va n : Nat) (f : Nat → Option Nat) (home : Nat → Bool := fun _ => false) : Out (Nat × State) :=
  (resolve s i { va := va, size := n, rd := true, wr := true }).bind fun t =>
    let scope := pointScope t scope (t.isPhys && home (lineOf t.pa))
    let i' := atPoint i scope
    let (l, s) := readTgt s i' t n
    match f (ofBytes l) with
    | some x => .ok (ofBytes l, holdInSlice (writeTgt s i' t (toBytes n x)) i t scope n true)
    | none => .ok (ofBytes l, holdInSlice (grantWord s i' t scope n) i t scope n false)

/-! Releases (R124, R150, R157, R158) -/

/-- A release of a scope by an agent. -/
def releaseA (s : State) (a : Agent) (scope : Nat) : State :=
  match (issuer s a).cid with
  | some c => releaseCore s c scope
  | none => s

def release (s : State) (scope : Nat) : State := releaseA s s.cur scope

/-- The executing agent's next release takes effect now. -/
def releaseReady (s : State) : Bool := releaseOk s s.cur

/-- The atomic add of a completion post (R31, R160): 64 bits, after every access of the operation; `core` is the issuing core, which
writes back first (R124). -/
def postAdd (s : State) (i : Issuer) (core : Option Nat) (va inc : Nat) : Out State :=
  if pushesOut s || !enginesOk s i.part then .wait
  else (rmwMem (core.elim s fun c => releaseCore s c 3) i 3 va 8 fun x => some ((x + inc) % 2 ^ 64)).bind fun r => .ok r.2

/-- A checked read of k × n bytes as parts of n bytes each, n a power of two. -/
def readParts (s : State) (i : Issuer) (va n : Nat) : Nat → Out (List Byte × State)
  | 0 => .ok ([], s)
  | k + 1 => (readMem s i va n).bind fun r => (readParts r.2 i (va + n) n k).bind fun q => .ok (r.1 ++ q.1, q.2)

/-- A checked write in parts of n bytes each. -/
def writeParts (s : State) (i : Issuer) (va n : Nat) (l : List Byte) : Nat → Out State
  | 0 => .ok s
  | k + 1 => (writeMem s i va (l.take n)).bind fun s => writeParts s i (va + n) n (l.drop n) k

/-- The agent that executes, as an issuer of accesses. -/
def me (s : State) : Issuer := issuer s s.cur

/-! Instruction fetch (R141, R142) -/

/-- The instruction cache an agent fetches through: that of its core, or of its control Scribe. -/
def fetchCid (s : State) (a : Agent) : Nat :=
  match a with
  | .control n => n / 8
  | _ => (issuer s a).cid.getD 0

def icKey (cid pa : Nat) : Nat := cid * 2 ^ 52 + pa

/-- A fetched word of a checked target: the cached one, else the one at its home, which is then cached, but of a peer aperture (R400). -/
def fetchTgt (s : State) (i : Issuer) (cid : Nat) (t : Tgt) : Word32 × State :=
  match s.icache.find (icKey cid t.pa) with
  | some w => (w, useTgt s t false)
  | none =>
    let (l, s) := readTgt s { i with cid := none } t 4
    let w := BitVec.ofNat 32 (ofBytes l)
    (w, match area t.pa with
        | .peer _ => s
        | _ => { s with icache := s.icache.put (icKey cid t.pa) w })

/-- A fetch that no instruction cache serves goes to the home: it waits for the crossing FIFOs (R416, R417) and takes the POISON of a read
(R136). -/
def fetchHome (s : State) (i : Issuer) (t : Tgt) (va : Nat) : Out Tgt :=
  if crossWait s i.die (servingDie t.pte t.pa) then .wait
  else if linePoisoned s (lineOf t.pa) then .bad .poison va
  else .ok t

/-- Fetches a word under an issuer through a core's instruction cache. -/
def fetchAs (s : State) (i : Issuer) (cid va : Nat) : Out (Word32 × State) :=
  (resolve s i { va := va, size := 4, fetch := true }).bind fun t =>
    match s.icache.find (icKey cid t.pa) with
    | some w => .ok (w, useTgt s t false)
    | none => (fetchHome s i t va).bind fun t => .ok (fetchTgt s i cid t)

/-- Fetches the word at an address for a context. Control context 0 fetches the boot SRAM below 4 MiB (R411, log 4). -/
def fetchContext (s : State) (a : Agent) (va : Nat) : Out (Word32 × State) :=
  if a = .control 0 ∧ va < 0x400000 ∧ va % 4 = 0 then .ok (BitVec.ofNat 32 (Memory.num s.bootRam va 4), s)
  else fetchAs s (issuer s a) (fetchCid s a) va

/-- The word that a batch has fetched for the index it stands at (R142). -/
def fetchedWord (s : State) (cid b : Nat) : Option Word32 := ((coreAt s cid).batches.find b).bind fun x => x.fetched.find x.word

/-- A batch keeps a word it has fetched until it reaches its terminator (R142). -/
def keepFetched (s : State) (cid b : Nat) (w : Word32) : State :=
  updCore s cid fun c =>
    match c.batches.find b with
    | some x => { c with batches := c.batches.put b { x with fetched := x.fetched.put x.word w } }
    | none => c

/-- Fetches the word at an address for an agent: a thread's once for its batch. -/
def fetchWord (s : State) (a : Agent) (va : Nat) : Out (Word32 × State) :=
  match a with
  | .vthread w t =>
    match runPlace s w t with
    | some (cid, b) =>
      match fetchedWord s cid b with
      | some x => .ok (x, s)
      | none => (fetchContext s a va).bind fun r => .ok (r.1, keepFetched r.2 cid b r.1)
    | none => fetchContext s a va
  | _ => fetchContext s a va

/-! Entering a block (R200) -/

/-- The header fields of a word (R34); none when it is no header. -/
def headerOf (w : Word32) (va : Nat) : Option Succ :=
  let x := w.toNat
  if x / 2 ^ 25 ≠ 0 ∨ x % 4 ≠ 0 then none
  else some { baddr := va49 va, prio := bits x 24 13, fill := bits x 4 3, cold := bitAt x 2,
              len := if bits x 12 5 = 0 then 256 else bits x 12 5 }

/-- The checks of enter() through the header test (R200), under an issuer and a core's instruction cache. -/
def checkEntryAs (s : State) (i : Issuer) (cid va : Nat) : Out (Succ × State) :=
  if va % 4 ≠ 0 then .bad .misalign va
  else if !canonical va then .bad .xlateNp va
  else match rangeOf va with
    | .self _ | .peer _ _ => .bad .xlatePerm va
    | _ => (fetchAs s i cid va).bind fun r =>
      match headerOf r.1 va with
      | some u => .ok (u, r.2)
      | none => .bad .blockfmt 0

def checkEntry (s : State) (a : Agent) (va : Nat) : Out (Succ × State) := checkEntryAs s (issuer s a) (fetchCid s a) va

/-- The header right after this word: the successor of a waiting terminator or an untaken branch (R35); on a context
there is none to check (R176). -/
def nextBlock (s : State) : Out (Succ × State) :=
  if isVector s then checkEntry s s.cur (curPc s + 4) else .ok (default, s)

/-- What an instruction answers for a checked access of its agent: a fault, or a stall with nothing done. -/
def Out.run {α : Type} (x : Out α) (s : State) (k : α → Result) : Result :=
  match x with
  | .ok a => k a
  | .bad c v => raise c v 0 s
  | .wait => .next s

end Sys2Proof.Machine
end

