-- ==== Sys2Proof/Machine/Packets.lean ====
section
/-! DEFINITION. Batches of mesh launches, visibility packets, seals and region units (R291, R297-R303, R386, R390). -/

namespace Sys2Proof.Machine

open Sys2Proof

/-- `a` before `b`, mod 2^32 within a window of 2^31. -/
def seqBefore (a b : Nat) : Bool :=
  let d := (b + 2 ^ 32 - a % 2 ^ 32) % 2 ^ 32
  d != 0 && d < 2 ^ 31

/-! Counters of binning units, region units and raster units, by die and core group -/

def discKey (u : Nat) : Nat := u
def protoKey (u : Nat) : Nat := 65536 + u
def fragKey (u : Nat) : Nat := 131072 + u
def countUp (s : State) (key : Nat) : State := { s with counts := s.counts.put key (s.counts.get 0 key + 1) }

/-! Batches (R291) -/

/-- The batch of a mesh workgroup. -/
def batchOf (s : State) (p l wid : Nat) : Option MeshBatch :=
  s.batches.find? fun b => b.part == p && b.lid == l && decide (b.first ≤ wid) && decide (wid < b.first + b.count)

/-- A die's lowest unretired batch (R291): where partitions share the die, that of each partition by itself, since the spec does not say how
the sequences of two partitions compare (R295, R302; DESIGN CHOICE, log 64). -/
def lowestBatch (s : State) (p d : Nat) : Option Nat :=
  (s.batches.filter fun b => b.part == p && b.die == d && !b.retired).foldl (fun acc b =>
    match acc with
    | some x => if seqBefore b.bseq x then some b.bseq else some x
    | none => some b.bseq) none

def updBatch (s : State) (p bseq : Nat) (f : MeshBatch → MeshBatch) : State :=
  { s with batches := s.batches.map fun b => if b.part == p && b.bseq == bseq && !b.retired then f b else b }

/-- A binning unit holds a meshlet of the batch. -/
def batchQueued (s : State) (p bseq : Nat) : Bool := s.binq.any fun m => m.part == p && m.bseq == bseq

/-! Packets (R297, R298, R302) -/

/-- A number from its words, lowest first (R10). -/
def wordsNum (l : List Word32) : Nat := l.foldr (fun w n => w.toNat + 2 ^ 32 * n) 0

/-- The payload blocks of a packet: two triangle records each, a last half filled with zeros (R298). -/
def packetBlocks : List (List Word32) → List Nat
  | a :: b :: l => wordsNum (a ++ b) :: packetBlocks l
  | [a] => [wordsNum a]
  | [] => []

/-- CODES of a packet header (R297). -/
def packetCodes (tris : List (List Word32)) : Word32 :=
  BitVec.ofNat 32 ((packetBlocks tris).foldr (fun b n => bdiCode b + 16 * n) 0)

/-- Packets in the packet hold store of a die (R302). -/
def holdCount (s : State) (d : Nat) : Nat := (s.packets.filter fun k => k.src / 256 == d && (k.stage == .hold || k.stage == .refused)).length

/-- The store takes a packet of a batch (R302): 1,024 of its 4,096 places are kept for the die's lowest unretired batch. -/
def holdRoom (s : State) (p d bseq : Nat) : Bool :=
  let used := holdCount s d
  if lowestBatch s p d = some bseq then decide (used < 4096) else decide (used + 1024 < 4096)

/-- The packet that a binning unit is gathering for a region of a batch. -/
def gathers (k : Packet) (p u bseq rx ry : Nat) : Bool :=
  k.stage == .gather && k.part == p && k.src == u && k.bseq == bseq && k.rx == rx && k.ry == ry

/-- Packets of a batch sent to a region so far. -/
def sentCount (l : List (Nat × Nat × Nat)) (rx ry : Nat) : Nat :=
  ((l.find? fun x => x.1 == rx && x.2.1 == ry).map (·.2.2)).getD 0
def sentMore (l : List (Nat × Nat × Nat)) (rx ry : Nat) : List (Nat × Nat × Nat) :=
  if l.any fun x => x.1 == rx && x.2.1 == ry then l.map fun x => if x.1 == rx && x.2.1 == ry then (rx, ry, x.2.2 + 1) else x
  else l ++ [(rx, ry, 1)]

/-- A gathered packet closes: it takes its PIDX and goes to the packet hold store (R297, R302). -/
def closePacket (s : State) (k : Packet) : State :=
  let n := (((s.batches.find? fun b => b.part == k.part && b.bseq == k.bseq && !b.retired).map (·.sent)).map fun l => sentCount l k.rx k.ry).getD 0
  let st : PkStage := if holdRoom s k.part (k.src / 256) k.bseq then .hold else .full
  let y : Packet := { k with id := s.nextId, pidx := n, codes := packetCodes k.tris, stage := st, tick := timer s }
  let s := updBatch s k.part k.bseq fun b => { b with sent := sentMore b.sent k.rx k.ry }
  { s with packets := s.packets.filter (fun x => !gathers x k.part k.src k.bseq k.rx k.ry) ++ [y], nextId := s.nextId + 1 }

/-- Once the workgroups of a batch have all ended and its meshlets are binned, its gathered packets close (R297). -/
def closeBatch (s : State) (p bseq : Nat) : State :=
  match s.batches.find? fun b => b.part == p && b.bseq == bseq && !b.retired with
  | some b =>
    if b.count ≤ b.ended ∧ batchQueued s p bseq = false then
      (s.packets.filter fun k => k.stage == .gather && k.part == p && k.bseq == bseq).foldl closePacket s
    else s
  | none => s

/-- A workgroup of a mesh launch has ended (R291). -/
def batchEnded (s : State) (p l wid : Nat) : State :=
  match batchOf s p l wid with
  | some b => closeBatch (updBatch s p b.bseq fun x => { x with ended := x.ended + 1 }) p b.bseq
  | none => s

def setPacket (s : State) (id : Nat) (f : Packet → Packet) : State :=
  { s with packets := s.packets.map fun k => if k.id == id && k.stage != .gather then f k else k }
/-- A packet passes to a raster unit, behind those that have passed before it (R301, R304). -/
def passPacket (s : State) (k : Packet) (d g : Nat) : State :=
  { s with packets := s.packets.filter (fun x => !(x.id == k.id && x.stage != .gather)) ++ [{ k with stage := .raster, die := d, cg := g }] }
def dropPacket (s : State) (id : Nat) : State := { s with packets := s.packets.filter fun k => !(k.id == id && k.stage != .gather) }

/-! Region units (R301-R303, R321) -/

/-- A region's entry. R415 keeps nothing of a power-gated core group while the region's table entry stays valid: the entry then reads as it
does where the region is created, with batch BSEQ0, packet 0 and fragment 0 (DESIGN CHOICE, log 37). -/
def regionGet (s : State) (p rx ry : Nat) : Region :=
  (s.regions.find? fun r => r.part == p && r.rx == rx && r.ry == ry).getD (newRegion s p rx ry)
def setRegion (s : State) (r : Region) : State :=
  { s with regions := s.regions.filter (fun x => !(x.part == r.part && x.rx == r.rx && x.ry == r.ry)) ++ [r] }

/-- Owner of a region's table entry, and whether it is in transfer (R389). -/
def rotOwner (s : State) (p rx ry : Nat) : Option (Nat × Nat × Bool) :=
  (rotEntry s p rx ry).map fun v => (bits v 15 8, bits v 7 0, bitAt v 30)

/-- Regions of a partition that a core group owns (R389). -/
def ownedRegions (s : State) (p d g : Nat) : List (Nat × Nat) :=
  let c := dregGet s 0 (0x1000 + 8 * p)
  if bitAt c 63 then
    ((List.range (bits c 40 32 + 1)).flatMap fun ry => (List.range (bits c 24 16 + 1)).map fun rx => (rx, ry)).filter fun x =>
      match rotOwner s p x.1 x.2 with
      | some (d', g', _) => d' == d && g' == g
      | none => false
  else []

/-- The raster unit's input has room (R301). -/
def inputRoom (s : State) (d g : Nat) : Bool :=
  decide ((s.packets.filter fun k => k.stage == .raster && k.die == d && k.cg == g).length < Config.rasterInput)

/-- Slots of a region unit's proofing buffer in use (R302). -/
def proofCount (s : State) (d g : Nat) : Nat := (s.packets.filter fun k => k.stage == .proof && k.die == d && k.cg == g).length

/-- COUNT of a region in the complete seal of a batch, 0 when unlisted; none until the seal is complete (R300). -/
def sealCount (s : State) (p d g bseq rx ry : Nat) : Option Nat :=
  let l := s.seals.filter fun x => x.held && x.part == p && x.die == d && x.cg == g && x.bseq == bseq
  if l.any (·.last) then
    some (((l.flatMap (·.ents)).find? fun e => e.2.1 == ry && e.2.2 == rx).map (·.1) |>.getD 0)
  else none

/-- The broadcasts of a batch's seals that a unit holds. -/
def sealCasts (s : State) (p d g bseq : Nat) : List Nat :=
  (s.seals.filter fun x => x.held && x.part == p && x.die == d && x.cg == g && x.bseq == bseq).map (·.cast)

/-- Those of some broadcasts of which a copy is still on its way. -/
def castsOut (s : State) (l : List Nat) : List Nat := l.eraseDups.filter fun c => s.seals.any fun x => x.cast == c && !x.held

/-- The step of R301 for one region; the first number bounds its repetitions. -/
def stepRegion : Nat → State → Nat → Nat → Nat → Nat → Nat → State
  | 0, s, _, _, _, _, _ => s
  | n + 1, s, p, d, g, rx, ry =>
    let r := regionGet s p rx ry
    match s.packets.find? fun k => k.stage == .proof && k.part == p && k.rx == rx && k.ry == ry && k.bseq == r.e && k.pidx == r.n with
    | some k =>
      if inputRoom s d g then
        let s := passPacket s k d g
        stepRegion n (setRegion s { r with n := r.n + 1 }) p d g rx ry
      else s
    | none =>
      if sealCount s p d g r.e rx ry = some r.n then
        stepRegion n (setRegion s { r with e := (r.e + 1) % 2 ^ 32, n := 0, took := castsOut s (r.took ++ sealCasts s p d g r.e) }) p d g rx ry
      else s

/-- Seals are kept until every owned region has passed their batch (R301). -/
def dropSeals (s : State) (d g : Nat) : State :=
  { s with seals := s.seals.filter fun x =>
      !(x.held && x.die == d && x.cg == g && (ownedRegions s x.part d g).all fun r => seqBefore x.bseq (regionGet s x.part r.1 r.2).e) }

/-- The step of R301 for every region a core group owns; none moves while it is in transfer (R340). -/
def stepUnit (s : State) (d g : Nat) : State :=
  let fuel := s.packets.length + s.seals.length + 1
  let s := (List.range 64).foldl (fun s p =>
    (ownedRegions s p d g).foldl (fun s r =>
      match rotOwner s p r.1 r.2 with
      | some (_, _, false) => stepRegion fuel s p d g r.1 r.2
      | _ => s) s) s
  dropSeals s d g

/-- A packet is stale for its region (R303). -/
def stale (b e : Nat) : Bool := decide (2 ^ 31 ≤ (b + 2 ^ 32 - e % 2 ^ 32) % 2 ^ 32)

/-- A packet joins the Hearth's queue of its region, behind those that arrived before it (R390). -/
def hearthPacket (s : State) (k : Packet) (d g : Nat) : State :=
  { s with packets := s.packets.filter (fun x => !(x.id == k.id && x.stage != .gather)) ++ [{ k with stage := .hearth, die := d, cg := g }] }

/-- The Hearth holds packets for a region (R390). -/
def hearthHolds (s : State) (p rx ry : Nat) : Bool := s.packets.any fun x => x.stage == .hearth && x.part == p && x.rx == rx && x.ry == ry

/-- A packet reaches the region unit of its region's owner, or the Hearth's queue of a region in transfer (R302, R303, R389, R390). With
`cap` off the Hearth hands it over, and keeps it where it is refused. No packet that arrives takes a slot before those that the Hearth still
has; a ready one is accepted all the same, since R302 lets the packets of another batch stand in front of none (DEDUCED, log 98). -/
def acceptPacket (s : State) (k : Packet) (cap : Bool) : State :=
  match rotOwner s k.part k.rx k.ry with
  | none => countUp (dropPacket s k.id) (discKey k.src)
  | some (d, g, true) =>
    let n := (s.packets.filter fun x => x.stage == .hearth && x.part == k.part && x.rx == k.rx && x.ry == k.ry).length
    if n < 1024 then hearthPacket s k d g else setPacket s k.id fun x => { x with stage := .refused, die := d, cg := g }
  | some (d, g, false) =>
    let r := regionGet s k.part k.rx k.ry
    if stale k.bseq r.e then countUp (dropPacket s k.id) (protoKey (d * 256 + g))
    else
      let ready := k.bseq == r.e && k.pidx == r.n
      if cap && !ready && hearthHolds s k.part k.rx k.ry then setPacket s k.id fun x => { x with stage := .refused, die := d, cg := g }
      else if ready && inputRoom s d g then stepUnit (setRegion (passPacket s k d g) { r with n := r.n + 1 }) d g
      else if !ready && proofCount s d g < 1024 then stepUnit (setPacket s k.id fun x => { x with stage := .proof, die := d, cg := g }) d g
      else setPacket s k.id fun x => { x with stage := if cap then .refused else .hearth, die := d, cg := g }

/-- The owner of a packet's region would take it now (R302); without an owner it is discarded. -/
def ownerTakes (s : State) (k : Packet) : Bool :=
  match rotOwner s k.part k.rx k.ry with
  | none => true
  | some (_, _, true) => false
  | some (d, g, false) =>
    let r := regionGet s k.part k.rx k.ry
    stale k.bseq r.e || (if k.bseq == r.e && k.pidx == r.n then inputRoom s d g else decide (proofCount s d g < 1024))

/-- The packet that the Hearth hands over next for a region (R390): the first in arrival order that the owner would take. One for which there
is no room holds back the later ones of its own batch and die alone (R302, log 98). -/
def hearthFirst (s : State) (p rx ry : Nat) : Option Packet :=
  let l := s.packets.filter fun x => x.stage == .hearth && x.part == p && x.rx == rx && x.ry == ry
  l.find? fun k => ownerTakes s k && (l.find? fun x => x.bseq == k.bseq && x.src / 256 == k.src / 256).any (·.id == k.id)

/-- The packet of a name, if the Hearth hands it over next. -/
def hearthNext (s : State) (id : Nat) : Option Packet :=
  (s.packets.find? fun k => k.stage == .hearth && k.id == id).bind fun k => (hearthFirst s k.part k.rx k.ry).filter (·.id == id)

/-- The Hearth hands over what the new owner of a region takes, at most n packets. -/
def hearthDrain : Nat → State → Nat → Nat → Nat → State
  | 0, s, _, _, _ => s
  | n + 1, s, p, rx, ry =>
    match hearthFirst s p rx ry with
    | some k => hearthDrain n (acceptPacket s k false) p rx ry
    | none => s

/-- Packets of the batch closed before this one, from its die to the same core group, have been accepted (R302, R386), and those on the escape
channel, of whatever batch (R387). -/
def mayArrive (s : State) (k : Packet) : Bool :=
  let dest (x : Packet) : Option (Nat × Nat) := (rotOwner s x.part x.rx x.ry).map fun o => (o.1, o.2.1)
  !(s.packets.any fun x =>
    ((x.id < k.id && x.part == k.part && x.bseq == k.bseq) || (x.id != k.id && s.escaped.contains x.id && !s.escaped.contains k.id))
    && x.src / 256 == k.src / 256
    && (x.stage == .full || x.stage == .hold || x.stage == .refused) && dest x == dest k)

/-- A batch with no packet still to be accepted (R291). -/
def batchOut (s : State) (p bseq : Nat) : Bool :=
  s.packets.any fun k => k.part == p && k.bseq == bseq
    && (k.stage == .gather || k.stage == .full || k.stage == .hold || k.stage == .refused)

end Sys2Proof.Machine
end

