-- ==== Sys2Proof/Machine/Fabric.lean ====
section
/-! DEFINITION. What is on its way through the crossbar, the order in which it arrives (R385, R386, R416) and the recovery of a stalled
queue (R387). An access of an instruction is performed at its home at once (log 1) and is no message here. -/

namespace Sys2Proof.Machine

open Sys2Proof

/-- The core that still gets what a source sends for a saved or moved workgroup (R376): `home` has not acknowledged its new
place. -/
def forwarder (s : State) (w : Nat) (home : Option Nat) : Option Nat :=
  (s.fwds.find? fun f => f.wgs.contains w && (wg? s w).any (·.saving.isNone) && home.all f.homes.contains).map (·.cid)

/-- A message in flight: its class of R385, from which unit to which unit with their dies, its place in the order of sending and the tick at
which it last moved. A core has its number for a unit, a home 65,536 more, a region unit or a binning unit 2^32 more. -/
structure Msg where
  cls : Nat
  src : Nat
  srcDie : Nat
  dst : Nat
  dstDie : Nat
  ord : Nat
  key : Nat
  tick : Nat
  deriving DecidableEq, Repr

/-- From a home to a core. -/
def homeMsg (cls h cid ord key tick : Nat) : Msg :=
  { cls := cls, src := 65536 + h, srcDie := homeDie h, dst := cid, dstDie := cidDie cid, ord := ord, key := key, tick := tick }

/-- The push in flight of a subscription (R245), toward the core that its workgroup is on or that forwards it. -/
def pushMsg (s : State) (x : Sub) : Option Msg :=
  if x.push.isSome && !x.fwd then
    ((forwarder s x.wg (some x.home)).or ((wg? s x.wg).bind fun g => g.cid?)).map fun c => homeMsg 2 x.home c x.ord x.id x.tick
  else none

/-- An invalidation or recall of a transaction toward a core (R388). -/
def Trans.down (m : Trans) (cid : Nat) : Msg := homeMsg 2 m.home cid m.ord 0 m.tick
/-- The acknowledgement of a core: cores acknowledge in the order in which the messages reach them. -/
def Trans.up (m : Trans) (cid : Nat) : Msg :=
  { cls := 1, src := cid, srcDie := cidDie cid, dst := 65536 + m.home, dstDie := homeDie m.home, ord := m.ord, key := 0, tick := m.tick }
/-- The data reply of a transaction. -/
def Trans.data (m : Trans) : Msg := homeMsg 1 m.home m.cid m.rord 0 m.tick

/-- A visibility packet toward the owner of its region (R299, R302). -/
def packetMsg (s : State) (k : Packet) : Option Msg :=
  if k.stage == .hold || k.stage == .refused then
    (rotOwner s k.part k.rx k.ry).map fun o =>
      { cls := 4, src := 2 ^ 32 + k.src, srcDie := k.src / 256, dst := 2 ^ 32 + 256 * o.1 + o.2.1, dstDie := o.1, ord := k.id, key := 0, tick := k.tick }
  else none

/-- An item that a core passes on to its workgroup's present core, or to the Hearth while that is saved (R376, R377). -/
def itemMsg (s : State) (x : Item) : Msg :=
  let c := (wg? s x.wg).bind fun g => g.cid?
  { cls := 2, src := x.cid, srcDie := cidDie x.cid, dst := c.getD (2 ^ 33), dstDie := c.elim 0 cidDie, ord := x.ord, key := 0, tick := x.tick }

/-- Everything that is in flight. -/
def inFlightMsgs (s : State) : List Msg :=
  s.subs.filterMap (pushMsg s)
  ++ s.cohMsgs.flatMap (fun m => m.toL1.map m.down ++ m.acks.map m.up ++ (if m.reply then [m.data] else []))
  ++ s.packets.filterMap (packetMsg s) ++ s.items.map (itemMsg s)

/-- One message was sent before another. -/
def Msg.before (x y : Msg) : Bool := decide (x.ord < y.ord) || (x.ord == y.ord && decide (x.key < y.key))

/-- The order in which the classes go onto the escape channel (R387) and leave the crossing FIFOs (R416). -/
def classRank (c : Nat) : Nat := match c with | 1 => 0 | 2 => 1 | 3 => 2 | 5 => 3 | 0 => 4 | _ => 5

/-- A class whose packets are always consumed (R385). -/
def guaranteed (c : Nat) : Bool := classRank c < 4

/-- A message was held in the crossing FIFOs of a die of another message's path, and leaves them before it (R416). -/
def goesFirst (s : State) (x m : Msg) : Bool :=
  guaranteed x.cls && decide (classRank x.cls < classRank m.cls)
  && [m.srcDie, m.dstDie, 0].any fun d => (d == 0 || x.srcDie == d || x.dstDie == d) && decide (x.ord < (die s d).heldTo) && x.srcDie != x.dstDie

/-- A message may arrive: the crossing FIFOs let it pass (R416, R417) and, outside class VIS, whose order is by batch, none sent before it
from its source to its destination in its class is still in flight (R386). -/
def arrives (s : State) (m : Msg) : Bool :=
  !crossWait s m.srcDie m.dstDie
  && (inFlightMsgs s).all fun x => !(x.cls == m.cls && m.cls != 4 && x.src == m.src && x.dst == m.dst && x.before m) && !(m.srcDie != m.dstDie && goesFirst s x m)

/-! Recovery (R387) -/

/-- The crossbar port through which a message reaches its destination: 0 to 11 the spoke dies, none within a die. -/
def Msg.port (m : Msg) : Option Nat := if m.srcDie = m.dstDie ∨ m.dstDie = 0 then none else some (m.dstDie - 1)

/-- The messages queued at a port in a class. Port 13 + n is peer port n, whose requests wait for the peer beyond the Hearth. What a write-back
or the Hearth's own traffic carries takes effect in the act that sends it, so that no queue holds it (log 89). -/
def portMsgs (s : State) (port cls : Nat) : List Msg :=
  if port < 13 then (inFlightMsgs s).filter fun m => m.port == some port && m.cls == cls
  else if cls = 0 then (s.peerOut.filter fun x => x.port + 13 == port).map fun x =>
    { cls := 0, src := 0, srcDie := 0, dst := port, dstDie := 0, ord := x.id, key := 0, tick := x.tick }
  else []

/-- The same by their place in the order of sending and the tick at which they last moved. -/
def portQueue (s : State) (port cls : Nat) : List (Nat × Nat) := (portMsgs s port cls).map fun m => (m.ord, m.tick)

/-- The ticks from which and up to which the crossing FIFOs of a die have held, with those in which they hold now (R416, R417). -/
def heldSpans (s : State) (d : Nat) : List (Nat × Nat) :=
  let x := die s d
  x.holds ++ (x.relock.elim [] fun r => [(r.start / Config.tickUnits, timer s)]) ++ if x.tripped then [(x.tripTick, timer s)] else []

/-- A span into a list of spans in the order of their beginnings. -/
def spanInto (x : Nat × Nat) : List (Nat × Nat) → List (Nat × Nat)
  | [] => [x]
  | y :: l => if x.1 ≤ y.1 then x :: y :: l else y :: spanInto x l

/-- Ticks from `a` up to `b` that lie in some span. -/
def spanTicks (l : List (Nat × Nat)) (a b : Nat) : Nat :=
  ((l.foldr spanInto []).foldl (fun (r : Nat × Nat) x =>
    let lo := Max.max r.1 x.1
    let hi := Min.min b x.2
    if lo < hi then (hi, r.2 + (hi - lo)) else r) (a, 0)).2

/-- A message has not moved for DLTO ticks, of which those do not count in which its own die, its destination's or the Hearth held the
crossing FIFOs (R387, R416). -/
def Msg.stuck (s : State) (m : Msg) : Bool :=
  let l := [m.srcDie, m.dstDie, 0].eraseDups.flatMap (heldSpans s)
  decide (m.tick + dregGet s 0 0 + spanTicks l m.tick (timer s) ≤ timer s)

/-- A queue whose head has not moved for DLTO ticks, held by no crossing FIFO, and is not on the escape channel yet (R387, R416). -/
def stalled (s : State) (port cls : Nat) : Bool :=
  (portMsgs s port cls).any fun m => m.stuck s && !crossWait s m.srcDie m.dstDie && !s.escaped.contains m.ord

/-- DLTO_RECOVERY (R387): the packets of a stalled queue of a port go onto the escape channel, after those of its stalled queues of earlier
classes; nothing is dropped or reordered, and ESCCNT counts it. -/
def execDltoRecovery (port cls : Nat) (s : State) : Result :=
  if port < 25 ∧ cls < 6 ∧ stalled s port cls ∧ !((List.range 6).any fun c => classRank c < classRank cls && stalled s port c) then
    let still := s.escaped.filter fun n => (inFlightMsgs s).any (fun m => m.ord == n) || s.peerOut.any fun x => x.id == n
    .next (dregSet { s with escaped := ((portQueue s port cls).map (·.1)).foldl insertAsc still } 0 0x08 ((dregGet s 0 0x08 + 1) % 2 ^ 64))
  else off s

end Sys2Proof.Machine
end

