-- ==== Sys2Proof/Machine/Engines.lean ====
section
/-! DEFINITION. What the engines share (R326, R329, R336, R337): suspension slots, engine faults, the accesses of their
operations, and the copy instances of cohorts (R255). -/

namespace Sys2Proof.Machine

open Sys2Proof

/-! Engine faults -/

def suspKey (eid idx : Nat) : Nat := eid * 16 + idx

/-- The lowest free suspension slot of an engine (R329). -/
def freeSlot (s : State) (eid : Nat) : Option Nat :=
  (List.range Config.suspensionSlots).find? fun k => !(s.susp.any fun x => x.eid == eid && x.idx == k)

/-- An engine accepts operations while a suspension slot is free (R336). -/
def accepts (s : State) (eid : Nat) : Bool := (freeSlot s eid).isSome

/-- An engine fault (R329, R336): it holds a slot and posts an entry of kind 2. -/
def raiseEngine (s : State) (eid part lvl : Nat) (sec : Bool) (lid wid cls op : Nat) (c : Cause) (faddr : Nat) : State :=
  match freeSlot s eid with
  | some k =>
    let gen := (s.suspGen.get 0 (suspKey eid k) + 1) % 128
    let s := { s with susp := s.susp ++ [{ eid := eid, idx := k, part := part, cls := cls, op := op, faddr := faddr }],
                      suspGen := s.suspGen.put (suspKey eid k) gen }
    addPost s part eid (logWords sec lvl 2 c (fref eid gen (112 + k)) lid wid faddr 0 0 0 (BitVec.ofNat 64 cls) 0 (timer s) [])
  | none => s

/-- A suspension slot frees (R329); its block may take up its world now (R327). -/
def freeSusp (s : State) (eid idx : Nat) : State :=
  blocksAdopt { s with susp := s.susp.filter fun x => !(x.eid == eid && x.idx == idx) } (cidDie eid)

/-- The workgroup of an operation while it has not ended (R337). -/
def liveWg (s : State) (w lid part : Nat) : Option Nat :=
  match wg? s w with
  | some g => if g.lid = lid ∧ g.part = part then some w else none
  | none => none

/-- wid of an operation's workgroup, 0 once it has ended. -/
def widOf (s : State) (w : Nat) : Nat := ((wg? s w).map (·.wid)).getD 0

/-! Copy engines (R255, R256, R425) -/

/-- The world in force of a copy engine (R327). -/
def copyWorld (s : State) (d e : Nat) : Bool := bitAt (die s d).cpy e

/-- EIDs of the copy engines a partition owns that serve a world (R326, R425). -/
def copyEnginesOf (s : State) (p : Nat) (sec : Bool) : List Nat :=
  (List.range 13).flatMap fun d =>
    ((List.range (Config.copyEngines d)).filter fun e =>
      let r := dregGet s d (0x3100 + 8 * e)
      bitAt r 31 && r % 64 == p && copyWorld s d e == sec && !quarantined s d).map (eidOf d)

/-- The issuer data under which a copy operation makes its accesses (R323, R326). -/
def CopyOp.issuer (o : CopyOp) (s : State) : Issuer :=
  { part := o.part, lvl := o.lvl, sec := o.sec, die := cidDie o.eid, cid := none, wg := liveWg s o.wg o.lid o.part, lid := o.lid, eng := true,
    op := some o.id, src := some o.cid }

/-- Queues a copy operation. -/
def addCopy (s : State) (o : CopyOp) : State := { s with copies := s.copies ++ [{ o with id := s.nextId }], nextId := s.nextId + 1 }
def updCopy (s : State) (id : Nat) (f : CopyOp → CopyOp) : State :=
  { s with copies := s.copies.map fun o => if o.id == id then f o else o }
/-- A copy operation is gone; its engine may take up its world now (R327). -/
def dropCopy (s : State) (id : Nat) : State :=
  let s' := { s with copies := s.copies.filter (·.id != id) }
  match s.copies.find? (·.id == id) with
  | some o => blocksAdopt s' (cidDie o.eid)
  | none => s'

/-- An engine fault of a copy operation: class 0 for a slice, 1 for a tensor copy (R332). -/
def copyFault (s : State) (o : CopyOp) (c : Cause) (faddr : Nat) : State :=
  updCopy (raiseEngine s o.eid o.part o.lvl o.sec o.lid o.wid (b2n o.tensor.isSome) o.id c faddr) o.id
    fun o => { o with held := true }

/-- The completion post of a copy operation, which ends it; a post that faults suspends it (R255, R336). -/
def postCopy (s : State) (o : CopyOp) : State :=
  if o.caddr = 0 then dropCopy s o.id
  else match postAdd s (o.issuer s) (some o.cid) o.caddr o.inc with
    | .ok s => dropCopy s o.id
    | .bad c v => copyFault s o c v
    | .wait => s

/-- A copy instance is complete: every participant has issued or left, and every slice has been performed (R255). -/
def CopyInst.ready (x : CopyInst) : Bool :=
  x.open' == 0 && x.parts.all fun t => x.issued.any fun y => y.1 == t

/-- The lowest-ranked issuer's counter and increment (R255). -/
def CopyInst.counter (x : CopyInst) : Nat × Nat :=
  match x.issued.foldl (fun (best : Option (Nat × Nat × Nat)) y =>
      match best with
      | some b => if y.2.1 < b.1 then some (y.2.1, y.2.2.1, y.2.2.2) else some b
      | none => some (y.2.1, y.2.2.1, y.2.2.2)) none with
  | some b => (b.2.1, b.2.2)
  | none => (0, 0)

/-- A complete instance ends with its post (R255), which waits in its engine's queue while the engine accepts or performs nothing (R336,
R416, R417). -/
def finishCopyInst (s : State) (id : Nat) : State :=
  match s.copyInsts.find? (·.id == id) with
  | some x =>
    if x.ready then
      let s := { s with copyInsts := s.copyInsts.filter (·.id != id) }
      let s := updWg s x.wg fun g =>
        match g.cohorts.find x.h with
        | some c => if c.copy = some id then { g with cohorts := g.cohorts.put x.h { c with copy := none } } else g
        | none => g
      let (a, n) := x.counter
      if x.cut || a = 0 then s
      else
        let o : CopyOp := { id := s.nextId, eid := x.eid, part := x.part, lvl := x.lvl, sec := x.sec, wg := x.wg, lid := x.lid, wid := x.wid, tensor := none,
                            src := 0, dst := 0, len := 0, at' := 0, inst := none, caddr := a, inc := n, held := false, cid := x.cid }
        if accepts s x.eid && (die s (cidDie x.eid)).relock.isNone && !(die s (cidDie x.eid)).tripped then postCopy (addCopy s o) o else addCopy s o
    else s
  | none => s

/-- A thread leaves a cohort's open copy instance, unless it has issued (R255). -/
def leaveCopyInst (s : State) (id tid : Nat) : State :=
  finishCopyInst { s with copyInsts := s.copyInsts.map fun x =>
    if x.id == id && !(x.issued.any fun y => y.1 == tid) then { x with parts := x.parts.filter (· != tid) } else x } id

/-- Every copy instance of a workgroup that ends: what was issued is performed and posted (R255, R337). -/
def endCopyInsts (s : State) (w : Nat) : State :=
  let ids := (s.copyInsts.filter (·.wg == w)).map (·.id)
  let s := { s with copyInsts := s.copyInsts.map fun x => if x.wg == w then { x with parts := x.issued.map (·.1) } else x }
  ids.foldl finishCopyInst s

end Sys2Proof.Machine
end

