-- ==== Sys2Proof/Machine/Float.lean ====
section
/-! DEFINITION. Number formats, exact values, rounding and the functions of the vector pipes (R87-R95, R106-R109). -/

namespace Sys2Proof

/-- What the encodings with the exponent all ones mean (R87, R92). -/
inductive Specials where
  /-- Infinities and NaNs. -/
  | ieee
  /-- Only the encoding with every bit set is a NaN (E4M3). -/
  | nanOnly
  /-- Every encoding is finite. -/
  | none
  deriving DecidableEq, Repr

/-- A float format: exponent bits, fraction bits, special encodings (R87, R92). -/
structure Fmt where
  eb : Nat
  fb : Nat
  sp : Specials
  deriving DecidableEq, Repr

def Fmt.fp64 : Fmt := ⟨11, 52, .ieee⟩
def Fmt.fp32 : Fmt := ⟨8, 23, .ieee⟩
def Fmt.fp16 : Fmt := ⟨5, 10, .ieee⟩
def Fmt.bf16 : Fmt := ⟨8, 7, .ieee⟩
def Fmt.e5m2 : Fmt := ⟨5, 2, .ieee⟩
def Fmt.e4m3 : Fmt := ⟨4, 3, .nanOnly⟩
def Fmt.e3m2 : Fmt := ⟨3, 2, .none⟩
def Fmt.e2m3 : Fmt := ⟨2, 3, .none⟩
def Fmt.e2m1 : Fmt := ⟨2, 1, .none⟩

/-- Bits of an encoding. -/
def Fmt.width (f : Fmt) : Nat := 1 + f.eb + f.fb
def Fmt.bias (f : Fmt) : Nat := 2 ^ (f.eb - 1) - 1
/-- Exponent of the smallest step of the format. -/
def Fmt.qmin (f : Fmt) : Int := 1 - (f.bias : Int) - f.fb
/-- The encoding of the largest finite magnitude. -/
def Fmt.maxMag (f : Fmt) : Nat :=
  match f.sp with
  | .ieee => (2 ^ f.eb - 1) * 2 ^ f.fb - 1
  | .nanOnly => 2 ^ (f.eb + f.fb) - 2
  | .none => 2 ^ (f.eb + f.fb) - 1
/-- The encoding of +∞ of a format that has infinities. -/
def Fmt.infMag (f : Fmt) : Nat := (2 ^ f.eb - 1) * 2 ^ f.fb
/-- The canonical NaN (R89); +0 where the format has none (R95). -/
def Fmt.nan (f : Fmt) : Nat :=
  match f.sp with
  | .ieee => (2 ^ f.eb - 1) * 2 ^ f.fb + 2 ^ (f.fb - 1)
  | .nanOnly => 2 ^ (f.eb + f.fb) - 1
  | .none => 0
/-- An encoding from its sign and magnitude. -/
def Fmt.pack (f : Fmt) (neg : Bool) (mag : Nat) : Nat := b2n neg * 2 ^ (f.eb + f.fb) + mag

/-- An exact value: a finite one is (−1)^neg × m × 2^e. -/
inductive FVal where
  | nan
  | inf (neg : Bool)
  | fin (neg : Bool) (m : Nat) (e : Int)
  deriving DecidableEq, Repr

/-- The sign bit and the other bits of an encoding. -/
def Fmt.sign (f : Fmt) (x : Nat) : Bool := bitAt x (f.eb + f.fb)
def Fmt.mag (f : Fmt) (x : Nat) : Nat := x % 2 ^ (f.eb + f.fb)

/-- The value of an encoding (R87, R92). -/
def Fmt.val (f : Fmt) (x : Nat) : FVal :=
  let neg := f.sign x
  let mag := f.mag x
  let ex := mag / 2 ^ f.fb
  let fr := mag % 2 ^ f.fb
  if f.sp = .ieee ∧ ex = 2 ^ f.eb - 1 then (if fr = 0 then .inf neg else .nan)
  else if f.sp = .nanOnly ∧ mag = 2 ^ (f.eb + f.fb) - 1 then .nan
  else if ex = 0 then .fin neg fr f.qmin
  else .fin neg (2 ^ f.fb + fr) (f.qmin + ex - 1)

def FVal.isNan : FVal → Bool
  | .nan => true
  | _ => false
def FVal.neg : FVal → FVal
  | .nan => .nan
  | .inf s => .inf !s
  | .fin s m e => .fin (!s) m e
def FVal.sign : FVal → Bool
  | .nan => false
  | .inf s => s
  | .fin s _ _ => s

/-! Rounding (R90, R91) -/

/-- Rounding modes in the codes of R90. -/
inductive Rnd where
  | rne | rtz | rup | rdn | rna | rsr
  deriving DecidableEq, Repr, Inhabited

def Rnd.ofCode (r : Nat) : Rnd :=
  match r with
  | 0 => .rne
  | 1 => .rtz
  | 2 => .rup
  | 3 => .rdn
  | 4 => .rna
  | _ => .rsr

/-- Whether a magnitude between n and n + 1 goes up: `rem` of `den` lies above n, `sticky` says that a little more
does, and `r` is the draw of RSR. -/
def Rnd.up (md : Rnd) (neg : Bool) (n rem den : Nat) (sticky : Bool) (r : Nat) : Bool :=
  let exact := rem == 0 && !sticky
  match md with
  | .rne => 2 * rem > den || (2 * rem == den && (sticky || n % 2 == 1))
  | .rtz => false
  | .rup => !exact && !neg
  | .rdn => !exact && neg
  | .rna => 2 * rem ≥ den && !exact
  | .rsr => !exact && decide (r < rem * 2 ^ 24 / den)

/-- m × 2^e (a little more when `sticky`) rounded to a multiple of 2^q, in units of 2^q. -/
def roundAt (md : Rnd) (neg : Bool) (m : Nat) (e : Int) (sticky : Bool) (r : Nat) (q : Int) : Nat :=
  if q ≤ e then m * 2 ^ (e - q).toNat
  else
    let d := 2 ^ (q - e).toNat
    m / d + b2n (md.up neg (m / d) (m % d) d sticky r)

/-- The magnitude of m × 2^e rounded to a format, as an encoding whose exponent has no upper bound. -/
def Fmt.round (f : Fmt) (md : Rnd) (neg : Bool) (m : Nat) (e : Int) (sticky : Bool) (r : Nat) : Nat :=
  if m = 0 then 0
  else
    let q := Max.max ((m.log2 : Int) + e - f.fb) f.qmin
    (q - f.qmin).toNat * 2 ^ f.fb + roundAt md neg m e sticky r q

/-- The magnitude an overflow gives (R90; R95 for the narrow formats, `sat` being the saturate column). -/
def Fmt.overflow (f : Fmt) (md : Rnd) (sat neg : Bool) : Nat :=
  match f.sp with
  | .ieee =>
    if sat then f.pack neg f.maxMag
    else match md with
      | .rtz => f.pack neg f.maxMag
      | .rup => f.pack neg (if neg then f.maxMag else f.infMag)
      | .rdn => f.pack neg (if neg then f.infMag else f.maxMag)
      | _ => f.pack neg f.infMag
  | .nanOnly => if sat then f.pack neg f.maxMag else f.nan
  | .none => f.pack neg f.maxMag

/-- Conversion of an exact value, with `sticky` for a finite value a little larger in magnitude (R228, R95). -/
def Fmt.encode (f : Fmt) (md : Rnd) (sat : Bool) (r : Nat) (sticky : Bool) (v : FVal) : Nat :=
  match v with
  | .nan => f.nan
  | .inf neg =>
    match f.sp with
    | .ieee => f.pack neg (if sat then f.maxMag else f.infMag)
    | .nanOnly => if sat then f.pack neg f.maxMag else f.nan
    | .none => f.pack neg f.maxMag
  | .fin neg m e =>
    let y := f.round md neg m e sticky r
    if f.maxMag < y then f.overflow md sat neg else f.pack neg y

/-- Rounding to nearest even, the rounding of every operation but CVT and MSTORE (R90). -/
def Fmt.rne (f : Fmt) (v : FVal) : Nat := f.encode .rne false 0 false v

/-! Exact arithmetic -/

/-- A finite value as an integer multiple of 2^g. -/
def scaled (neg : Bool) (m : Nat) (e g : Int) : Int :=
  let x := m * 2 ^ (e - g).toNat
  if neg then -(x : Int) else x

/-- The finite value x × 2^g; a zero is negative only when `zneg`. -/
def ofScaled (x g : Int) (zneg : Bool) : FVal := .fin (if x = 0 then zneg else decide (x < 0)) x.natAbs g

/-- The exact sum of two values (R216): a zero sum is −0 only when both terms are negative. -/
def FVal.add : FVal → FVal → FVal
  | .nan, _ => .nan
  | _, .nan => .nan
  | .inf s, .inf t => if s = t then .inf s else .nan
  | .inf s, _ => .inf s
  | _, .inf t => .inf t
  | .fin s m e, .fin t n f =>
    let g := Min.min e f
    ofScaled (scaled s m e g + scaled t n f g) g (s && t)

/-- The exact product (R216). -/
def FVal.mul : FVal → FVal → FVal
  | .nan, _ => .nan
  | _, .nan => .nan
  | .inf s, .inf t => .inf (s != t)
  | .inf s, .fin t n _ => if n = 0 then .nan else .inf (s != t)
  | .fin s m _, .inf t => if m = 0 then .nan else .inf (s != t)
  | .fin s m e, .fin t n f => .fin (s != t) (m * n) (e + f)

/-- The order key of an encoding that is no NaN, −0 below +0 (R217). -/
def Fmt.key (f : Fmt) (x : Nat) : Int := if f.sign x then -(f.mag x : Int) - 1 else f.mag x
/-- The comparison key, +0 equal to −0 (R218). -/
def Fmt.cmpKey (f : Fmt) (x : Nat) : Int := if f.sign x then -(f.mag x : Int) else f.mag x
def Fmt.isNan (f : Fmt) (x : Nat) : Bool := (f.val x).isNan

/-- minnum and maxnum (R217). -/
def Fmt.minnum (f : Fmt) (big : Bool) (x y : Nat) : Nat :=
  match f.isNan x, f.isNan y with
  | true, true => f.nan
  | true, false => y
  | false, true => x
  | false, false => if big then (if f.key x ≥ f.key y then x else y) else (if f.key x ≤ f.key y then x else y)

/-- minprop and maxprop (R217). -/
def Fmt.minprop (f : Fmt) (big : Bool) (x y : Nat) : Nat :=
  if f.isNan x || f.isNan y then f.nan else f.minnum big x y

def Fmt.feq (f : Fmt) (x y : Nat) : Bool := !f.isNan x && !f.isNan y && f.cmpKey x == f.cmpKey y
def Fmt.flt (f : Fmt) (x y : Nat) : Bool := !f.isNan x && !f.isNan y && decide (f.cmpKey x < f.cmpKey y)
def Fmt.fle (f : Fmt) (x y : Nat) : Bool := !f.isNan x && !f.isNan y && decide (f.cmpKey x ≤ f.cmpKey y)

/-! Square roots and quotients -/

/-- Digits of the square root from bit n − 1 down. -/
def isqrtFrom (x : Nat) : Nat → Nat → Nat
  | 0, r => r
  | n + 1, r =>
    let c := r + 2 ^ n
    if c * c ≤ x then isqrtFrom x n c else isqrtFrom x n r

/-- ⌊√x⌋. -/
def isqrt (x : Nat) : Nat := isqrtFrom x (bitLen x / 2 + 1) 0

/-- A finite result that is a little larger in magnitude than the value given when the flag is set. -/
abbrev Approx := FVal × Bool

/-- m × 2^e with m of more than 63 bits and e even, for a nonzero m. -/
def evenScaled (m : Nat) (e : Int) : Nat × Int :=
  let k := 64 + (e % 2).toNat
  (m * 2 ^ k, e - k)

/-- √ of a positive finite value (R109). -/
def sqrtPos (m : Nat) (e : Int) : Approx :=
  let (n, g) := evenScaled m e
  let r := isqrt n
  (.fin false r (g / 2), r * r != n)

/-- 1/√ of a positive finite value. -/
def rsqPos (m : Nat) (e : Int) : Approx :=
  let (n, g) := evenScaled m e
  let k := bitLen n + 64
  let r := isqrt (2 ^ (2 * k) / n)
  (.fin false r (-(k : Int) - g / 2), r * r * n != 2 ^ (2 * k))

/-- 1/x of a nonzero finite value. -/
def rcpFin (neg : Bool) (m : Nat) (e : Int) : Approx :=
  let k := bitLen m + 64
  (.fin neg (2 ^ k / m) (-(k : Int) - e), 2 ^ k % m != 0)

/-! Functions computed in fixed point with 320 fraction bits (R108, log 13) -/

def fxBits : Nat := 320
def fxOne : Nat := 2 ^ fxBits
/-- π and ln 2, truncated to 320 fraction bits. -/
def fxPi : Nat := 0x3243f6a8885a308d313198a2e03707344a4093822299f31d0082efa98ec4e6c89452821e638d01377
def fxLn2 : Nat := 0xb17217f7d1cf79abc9e3b39803f2f6af40f343267298b62d8a0d175b8baafa2be7b876206debac98
def fxMul (x y : Nat) : Nat := x * y / fxOne
/-- m × 2^e in fixed point. -/
def fxOf (m : Nat) (e : Int) : Nat :=
  let k := e + fxBits
  if 0 ≤ k then m * 2 ^ k.toNat else m / 2 ^ (-k).toNat

/-- Σ x^i / i! over n terms; `t` is the term before term i. -/
def fxExpTerms (x : Nat) : Nat → Nat → Nat → Nat
  | 0, _, _ => 0
  | n + 1, i, t => t + fxExpTerms x n (i + 1) (fxMul t x / (i + 1))
/-- e^x for 0 ≤ x < 1. -/
def fxExp (x : Nat) : Nat := fxExpTerms x 80 0 fxOne

/-- Σ z^(2i+1) / (2i+1) over n terms. -/
def fxAtanhTerms (z2 : Nat) : Nat → Nat → Nat → Nat
  | 0, _, _ => 0
  | n + 1, i, t => t / (2 * i + 1) + fxAtanhTerms z2 n (i + 1) (fxMul t z2)
/-- ln of y/den for y > den, at most twice it: 2 atanh((y − den)/(y + den)). -/
def fxLnRatio (y den : Nat) : Nat :=
  let z := (y - den) * fxOne / (y + den)
  2 * fxAtanhTerms (fxMul z z) 110 0 z

/-- Alternating Σ of x^(2i+1) / (2i+1)!: the positive and the negative terms. -/
def fxSinTerms (x2 : Nat) : Nat → Nat → Nat → Nat × Nat
  | 0, _, _ => (0, 0)
  | n + 1, i, t =>
    let (p, q) := fxSinTerms x2 n (i + 1) (fxMul t x2 / ((2 * i + 2) * (2 * i + 3)))
    (t + q, p)
/-- sin x for 0 ≤ x < 2. -/
def fxSin (x : Nat) : Nat :=
  let (p, q) := fxSinTerms (fxMul x x) 45 0 x
  p - q

def fxVal (neg : Bool) (x : Nat) : Approx := (.fin neg x (-(fxBits : Int)), true)
def one (neg : Bool) : Approx := (.fin neg 1 0, false)
def zero (neg : Bool) : Approx := (.fin neg 0 0, false)

/-- 2^x (R108, R109). A magnitude of 512 or more overflows or underflows as 512 does. -/
def exp2Fin (neg : Bool) (m : Nat) (e : Int) : Approx :=
  if m = 0 then one false
  else if (m.log2 : Int) + e ≥ 9 then (.fin false 1 (if neg then -512 else 512), false)
  else
    let den : Int := (2 ^ (-e).toNat : Nat)
    let x : Int := if neg then -(m * 2 ^ e.toNat : Nat) else (m * 2 ^ e.toNat : Nat)
    let i := x / den
    let fr := (x % den).toNat
    if fr = 0 then (.fin false 1 i, false)
    else (.fin false (fxExp (fr * fxLn2 / 2 ^ (-e).toNat)) (i - fxBits), true)

/-- log₂ of a positive finite value (R108, R109). -/
def lg2Fin (m : Nat) (e : Int) : Approx :=
  let k := m.log2
  let p := 2 ^ k
  let i : Int := e + k
  if m = p then (.fin (decide (i < 0)) i.natAbs 0, false)
  else
    let up := decide (2 * m ≥ 3 * p)
    let j : Int := if up then i + 1 else i
    let l := (if up then fxLnRatio (2 * p) m else fxLnRatio m p) * fxOne / fxLn2
    let x : Int := j * fxOne + (if up then -(l : Int) else l)
    fxVal (decide (x < 0)) x.natAbs

/-- sin(π r) for r = m / 2^g from 0 to 1/2. -/
def sinPiPart (neg : Bool) (m g : Nat) : Approx :=
  if m = 0 then zero neg
  else if 2 * m = 2 ^ g then one neg
  else fxVal neg (fxSin (m * fxPi / 2 ^ g))

/-- |x| mod 2 in units of 1 / 2^g, and g. -/
def mod2 (m : Nat) (e : Int) : Nat × Nat :=
  let g := (-e).toNat
  (m * 2 ^ e.toNat % 2 ^ (g + 1), g)

/-- sin(πx) (R108, R109): an integer gives 0 with its sign. -/
def sinpFin (neg : Bool) (m : Nat) (e : Int) : Approx :=
  let (r, g) := mod2 m e
  if r % 2 ^ g = 0 then zero neg
  else
    let (neg, r) := if r ≥ 2 ^ g then (!neg, r - 2 ^ g) else (neg, r)
    let r := if 2 * r > 2 ^ g then 2 ^ g - r else r
    sinPiPart neg r g

/-- cos(πx) (R108, R109): n + 1/2 gives +0. -/
def cospFin (m : Nat) (e : Int) : Approx :=
  let (r, g) := mod2 m e
  let r := if r > 2 ^ g then 2 * 2 ^ g - r else r
  let (neg, r) := if 2 * r > 2 ^ g then (true, 2 ^ g - r) else (false, r)
  if 2 * r = 2 ^ g then zero false
  else sinPiPart neg (2 ^ g - 2 * r) (g + 1)

/-- tanh (R108, R109). A magnitude of 64 or more gives the value just below 1. -/
def tanhFin (neg : Bool) (m : Nat) (e : Int) : Approx :=
  if m = 0 then zero neg
  else if (m.log2 : Int) + e ≥ 6 then (.fin neg (2 ^ 100 - 1) (-100), true)
  else
    let u := fxOf (2 * m) e
    let k := u / fxLn2
    let ex := fxOne * fxOne / fxExp (u - k * fxLn2) / 2 ^ k
    fxVal neg ((fxOne - ex) * fxOne / (fxOne + ex))

/-- The value rounded to an integer magnitude (R221, R229). -/
def roundInt (md : Rnd) (neg : Bool) (m : Nat) (e : Int) (r : Nat) : Nat := roundAt md neg m e false r 0

end Sys2Proof
end

