-- ==== Sys2Proof/Machine/Operands.lean ====
section
/-! DEFINITION. Operand kinds (R169-R171), forms, and the checks of R177 that an instruction makes before any effect. -/

namespace Sys2Proof.Machine

open Sys2Proof

/-- Registers of an operand on the vector side: one, a pair or a quad (R66). -/
inductive OpSize where
  | one | two | four
  deriving DecidableEq, Repr

def OpSize.words : OpSize → Nat
  | .one => 1
  | .two => 2
  | .four => 4

/-- An operand of a form (R169): its field and size, whether it is read and written, and whether it is the
destination of a waiting terminator (R171). -/
structure Opnd where
  f : Nat
  n : OpSize
  rd : Bool
  wr : Bool
  wt : Bool := false
  deriving DecidableEq, Repr

def opR (f : Field) : Opnd := { f := f.toNat, n := .one, rd := true, wr := false }
def opRp (f : Field) : Opnd := { f := f.toNat, n := .two, rd := true, wr := false }
def opRq (f : Field) : Opnd := { f := f.toNat, n := .four, rd := true, wr := false }
def opW (f : Field) : Opnd := { f := f.toNat, n := .one, rd := false, wr := true }
def opWp (f : Field) : Opnd := { f := f.toNat, n := .two, rd := false, wr := true }
def opWq (f : Field) : Opnd := { f := f.toNat, n := .four, rd := false, wr := true }
def opM (f : Field) : Opnd := { f := f.toNat, n := .one, rd := true, wr := true }
def opMp (f : Field) : Opnd := { f := f.toNat, n := .two, rd := true, wr := true }
def opMc (f : Field) : Opnd := { f := f.toNat, n := .one, rd := true, wr := true, wt := true }
def opWc (f : Field) : Opnd := { f := f.toNat, n := .one, rd := false, wr := true, wt := true }
def opWcp (f : Field) : Opnd := { f := f.toNat, n := .two, rd := false, wr := true, wt := true }
def opWcq (f : Field) : Opnd := { f := f.toNat, n := .four, rd := false, wr := true, wt := true }

/-- Who may execute a form (R21, R172, R427). -/
inductive Need where
  /-- Vector threads and every Scribe context. -/
  | any
  /-- Vector threads. -/
  | vector
  /-- Vector threads of geometry cores. -/
  | geometry
  /-- Vector threads of shading cores. -/
  | shading
  /-- Vector threads and core Scribe contexts. -/
  | core
  /-- Core Scribe contexts. -/
  | coreScribe
  /-- Scribe contexts of shading cores. -/
  | matrix
  /-- Core Scribe contexts and control contexts. -/
  | scribe
  deriving DecidableEq, Repr

/-- What the checks of R177 need to know of an instruction. -/
structure Form where
  ops : List Opnd := []
  /-- Literal fields and the bounds they lie below (R170). -/
  lits : List (Nat × Nat) := []
  lvl : Nat := 0
  need : Need := .any
  /-- The form is a terminator (R33). -/
  term : Bool := false
  deriving DecidableEq, Repr

/-- Check 4 of R177 for one operand: alignment, reserved Scribe fields, waiting destinations (R66, R72, R73, R171). -/
def opFieldOk (vec : Bool) (o : Opnd) : Bool :=
  if vec then
    (match o.n with
      | .one => true
      | .two => o.f == 127 || (o.f < 120 && o.f % 2 == 0)
      | .four => o.f == 127 || (o.f < 120 && o.f % 4 == 0)) && !(o.wt && o.f < 16)
  else
    (match o.n with
      | .four => o.f == 127 || (o.f < 111 && o.f % 2 == 0)
      | _ => true) && !(o.f == 122 || o.f == 125 || o.f == 126)

/-- Check 5 of R177: a terminator stands last in its block and nothing else does (R175). -/
def positionOk (s : State) (term : Bool) : Bool :=
  match s.cur with
  | .vthread w t =>
    match runPlace s w t with
    | some (cid, b) =>
      match (coreAt s cid).batches.find b with
      | some x => (x.word + 1 == x.len) == term
      | none => true
    | none => true
  | _ => true

/-- Check 7 of R177: the side and the die kind (R21, R172, R427). -/
def unitOk (s : State) (n : Need) : Bool :=
  let die := (issuer s s.cur).die
  match s.cur, n with
  | _, .any => true
  | .vthread _ _, .vector => true
  | .vthread _ _, .geometry => Config.isGeometry die
  | .vthread _ _, .shading => Config.isShading die
  | .vthread _ _, .core => true
  | .scribe _, .core => true
  | .scribe _, .coreScribe => true
  | .scribe _, .matrix => Config.isShading die
  | .scribe _, .scribe => true
  | .control _, .scribe => true
  | _, _ => false

/-- Check 8 of R177: a written field is no read-only register (R65). -/
def opWriteOk (o : Opnd) : Bool := !(o.wr && 112 ≤ o.f && o.f < 127)

/-- Window base and allotment of the executing thread. -/
def curWindow (s : State) : Nat × Nat :=
  match s.cur with
  | .vthread w t =>
    match thread? s w t with
    | some th => (th.wbase, th.allot)
    | none => (0, 0)
  | _ => (0, 0)

/-- Check 9 of R177: every carried slot of an operand lies within the allotment (R69). -/
def opBoundOk (vec : Bool) (win : Nat × Nat) (o : Opnd) : Bool :=
  !(vec && 16 ≤ o.f && o.f < 112) || decide (win.1 + (o.f - 16) + o.n.words ≤ win.2)

/-- A read Inkwell slot of the executing thread is poisoned (R421). -/
def readsPoison (s : State) (o : Opnd) : Bool :=
  match s.cur with
  | .vthread w t =>
    match thread? s w t with
    | some th => o.rd && 16 ≤ o.f && o.f < 112 && th.bad.any fun j => th.wbase + (o.f - 16) ≤ j && j < th.wbase + (o.f - 16) + o.n.words
    | none => false
  | _ => false

/-- Checks 3 to 9 of R177 in their order, then the Inkwell's poison (R421): the cause of the first that fails. -/
def checkForm (s : State) (fm : Form) : Option Cause :=
  let vec := isVector s
  if !(fm.lits.all fun x => x.1 < x.2) then some .illegal
  else if !(fm.ops.all (opFieldOk vec)) then some .illegal
  else if !(positionOk s fm.term) then some .blockfmt
  else if (issuer s s.cur).lvl < fm.lvl then some .illegal
  else if !(unitOk s fm.need) then some .unit
  else if !(fm.ops.all opWriteOk) then some .rowrite
  else if !(fm.ops.all (opBoundOk vec (curWindow s))) then some .regbound
  else if fm.ops.any (readsPoison s) then some .poison
  else none

/-- Executes an instruction after the checks of R177: the first that fails faults it with no effect. -/
def guarded (fm : Form) (s : State) (k : State → Result) : Result :=
  if canRun s then
    match checkForm s fm with
    | some c => raise c 0 0 s
    | none => k s
  else .fault .noAgent

end Sys2Proof.Machine
end

