-- ==== Sys2Proof/Machine/FloatOps.lean ====
section
/-! DEFINITION. The floating-point, packed, FP64, 64-bit integer and conversion forms (R214-R231). -/

namespace Sys2Proof.Machine

open Sys2Proof

/-! FALU (R216) -/

/-- A function of FP32 encodings applied to the low words of two registers, the result zero-extended (R214). -/
def fp2 (f : Nat → Nat → Nat) (x y : Word64) : Word64 := BitVec.ofNat 64 (f (x.toNat % 2 ^ 32) (y.toNat % 2 ^ 32))

def fAddW (f : Fmt) (x y : Nat) : Nat := f.rne ((f.val x).add (f.val y))
def fSubW (f : Fmt) (x y : Nat) : Nat := f.rne ((f.val x).add (f.val y).neg)
def fMulW (f : Fmt) (x y : Nat) : Nat := f.rne ((f.val x).mul (f.val y))
/-- round(x × y + d). -/
def fFmaW (f : Fmt) (x y d : Nat) : Nat := f.rne (((f.val x).mul (f.val y)).add (f.val d))
/-- round(d − x × y). -/
def fFnmaW (f : Fmt) (x y d : Nat) : Nat := f.rne ((f.val d).add ((f.val x).mul (f.val y)).neg)
/-- x[30:0] with the sign of y. -/
def fCpsgnW (x y : Nat) : Nat := Fmt.fp32.pack (Fmt.fp32.sign y) (Fmt.fp32.mag x)

/-- d := f(a, b) on FP32. -/
def fpWRR (f : Nat → Nat → Nat) (d a b : Field) (s : State) : Result :=
  guarded { ops := [opW d, opR a, opR b] } s fun s => done (writeR s d (fp2 f (readR s a) (readR s b)))

/-- d := f(a, b, d) on FP32. -/
def fpMRR (f : Nat → Nat → Nat → Nat) (d a b : Field) (s : State) : Result :=
  guarded { ops := [opM d, opR a, opR b] } s fun s =>
    done (writeR s d (BitVec.ofNat 64 (f ((readR s a).toNat % 2 ^ 32) ((readR s b).toNat % 2 ^ 32) ((readR s d).toNat % 2 ^ 32))))

/-- d := f(a) on FP32. -/
def fpWR (f : Nat → Nat) (d a : Field) (s : State) : Result :=
  guarded { ops := [opW d, opR a] } s fun s => done (writeR s d (BitVec.ofNat 64 (f ((readR s a).toNat % 2 ^ 32))))

def execFadd (d a b : Field) (s : State) : Result := fpWRR (fAddW .fp32) d a b s
def execFsub (d a b : Field) (s : State) : Result := fpWRR (fSubW .fp32) d a b s
def execFmul (d a b : Field) (s : State) : Result := fpWRR (fMulW .fp32) d a b s
def execFma (d a b : Field) (s : State) : Result := fpMRR (fFmaW .fp32) d a b s
def execFnma (d a b : Field) (s : State) : Result := fpMRR (fFnmaW .fp32) d a b s
def execFmin (d a b : Field) (s : State) : Result := fpWRR (Fmt.fp32.minnum false) d a b s
def execFmax (d a b : Field) (s : State) : Result := fpWRR (Fmt.fp32.minnum true) d a b s
def execFminm (d a b : Field) (s : State) : Result := fpWRR (Fmt.fp32.minprop false) d a b s
def execFmaxm (d a b : Field) (s : State) : Result := fpWRR (Fmt.fp32.minprop true) d a b s
def execFcpsgn (d a b : Field) (s : State) : Result := fpWRR fCpsgnW d a b s

/-! FCMP (R218, R219) -/

/-- The class word of an FP32 value (R219). -/
def classWord (x : Nat) : Nat :=
  let f := Fmt.fp32
  let ex := f.mag x / 2 ^ f.fb
  let fr := f.mag x % 2 ^ f.fb
  let cls :=
    if ex = 255 then (if fr = 0 then 11 else if bitAt x 22 then 12 else 13)
    else if ex ≠ 0 then 10 else if fr ≠ 0 then 9 else 8
  let intg := match f.val x with
    | .fin _ m e => 0 ≤ e || m % 2 ^ (-e).toNat == 0
    | _ => false
  2 ^ cls + 2 * b2n intg + b2n (f.sign x)

def execFeq (d a b : Field) (s : State) : Result := fpWRR (fun x y => b2n (Fmt.fp32.feq x y)) d a b s
def execFlt (d a b : Field) (s : State) : Result := fpWRR (fun x y => b2n (Fmt.fp32.flt x y)) d a b s
def execFle (d a b : Field) (s : State) : Result := fpWRR (fun x y => b2n (Fmt.fp32.fle x y)) d a b s
def execFun (d a b : Field) (s : State) : Result := fpWRR (fun x y => b2n (Fmt.fp32.isNan x || Fmt.fp32.isNan y)) d a b s
def execFclass (d a : Field) (s : State) : Result := fpWR classWord d a s

/-! FUN1 (R220, R221, R109) -/

/-- A rounded function of FP32 given by its values at the infinities and at finite values. -/
def fun1 (inf : Bool → FVal) (fin : Bool → Nat → Int → Approx) (x : Nat) : Nat :=
  match Fmt.fp32.val x with
  | .nan => Fmt.fp32.nan
  | .inf neg => Fmt.fp32.rne (inf neg)
  | .fin neg m e => let (v, st) := fin neg m e; Fmt.fp32.encode .rne false 0 st v

def exactly (v : FVal) : Approx := (v, false)

def fSqrtW : Nat → Nat :=
  fun1 (fun neg => if neg then .nan else .inf false)
    fun neg m e => if m = 0 then zero neg else if neg then exactly .nan else sqrtPos m e
def fRcpW : Nat → Nat :=
  fun1 (fun neg => .fin neg 0 0) fun neg m e => if m = 0 then exactly (.inf neg) else rcpFin neg m e
def fRsqW : Nat → Nat :=
  fun1 (fun neg => if neg then .nan else .fin false 0 0)
    fun neg m e => if m = 0 then exactly (.inf neg) else if neg then exactly .nan else rsqPos m e
def fEx2W : Nat → Nat := fun1 (fun neg => if neg then .fin false 0 0 else .inf false) exp2Fin
def fLg2W : Nat → Nat :=
  fun1 (fun neg => if neg then .nan else .inf false)
    fun neg m e => if m = 0 then exactly (.inf true) else if neg then exactly .nan else lg2Fin m e
def fSinpW : Nat → Nat := fun1 (fun _ => .nan) sinpFin
def fCospW : Nat → Nat := fun1 (fun _ => .nan) fun _ m e => cospFin m e
def fTanhW : Nat → Nat := fun1 (fun neg => .fin neg 1 0) tanhFin

/-- The FP32 integral value in a direction, a zero result with the sign of x (R221). -/
def fIntW (md : Rnd) (x : Nat) : Nat :=
  match Fmt.fp32.val x with
  | .nan => Fmt.fp32.nan
  | .inf _ => x
  | .fin neg m e => if 0 ≤ e then x else Fmt.fp32.rne (.fin neg (roundInt md neg m e 0) 0)

def execFabs (d a : Field) (s : State) : Result := fpWR Fmt.fp32.mag d a s
def execFneg (d a : Field) (s : State) : Result := fpWR (fun x => Fmt.fp32.pack (!Fmt.fp32.sign x) (Fmt.fp32.mag x)) d a s
def execFsqrt (d a : Field) (s : State) : Result := fpWR fSqrtW d a s
def execFrcp (d a : Field) (s : State) : Result := fpWR fRcpW d a s
def execFrsq (d a : Field) (s : State) : Result := fpWR fRsqW d a s
def execFex2 (d a : Field) (s : State) : Result := fpWR fEx2W d a s
def execFlg2 (d a : Field) (s : State) : Result := fpWR fLg2W d a s
def execFsinp (d a : Field) (s : State) : Result := fpWR fSinpW d a s
def execFcosp (d a : Field) (s : State) : Result := fpWR fCospW d a s
def execFtanh (d a : Field) (s : State) : Result := fpWR fTanhW d a s
def execFflr (d a : Field) (s : State) : Result := fpWR (fIntW .rdn) d a s
def execFceil (d a : Field) (s : State) : Result := fpWR (fIntW .rup) d a s
def execFtrc (d a : Field) (s : State) : Result := fpWR (fIntW .rtz) d a s
def execFrnd (d a : Field) (s : State) : Result := fpWR (fIntW .rne) d a s

/-! HALF2 (R222, R223) -/

/-- The elements of a packed register (R87). -/
def loE (x : Nat) : Nat := x % 2 ^ 16
def hiE (x : Nat) : Nat := x / 2 ^ 16 % 2 ^ 16
def packE (lo hi : Nat) : Nat := lo + hi * 2 ^ 16

def half2 (f : Nat → Nat → Nat) (d a b : Field) (s : State) : Result :=
  guarded { ops := [opW d, opR a, opR b], need := .vector } s fun s =>
    done (writeR s d (fp2 (fun x y => packE (f (loE x) (loE y)) (f (hiE x) (hiE y))) (readR s a) (readR s b)))

def half3 (f : Nat → Nat → Nat → Nat) (d a b : Field) (s : State) : Result :=
  guarded { ops := [opM d, opR a, opR b], need := .vector } s fun s =>
    done (writeR s d (BitVec.ofNat 64 (f (readR s a).toNat (readR s b).toNat (readR s d).toNat)))

def fma2 (f : Fmt) (x y d : Nat) : Nat := packE (fFmaW f (loE x) (loE y) (loE d)) (fFmaW f (hiE x) (hiE y) (hiE d))
/-- The exact sum of both products and the FP32 addend, rounded once (R223). -/
def dot2 (f : Fmt) (x y d : Nat) : Nat :=
  Fmt.fp32.rne ((((f.val (loE x)).mul (f.val (loE y))).add ((f.val (hiE x)).mul (f.val (hiE y)))).add (Fmt.fp32.val d))

def execHadd2 (d a b : Field) (s : State) : Result := half2 (fAddW .fp16) d a b s
def execHsub2 (d a b : Field) (s : State) : Result := half2 (fSubW .fp16) d a b s
def execHmul2 (d a b : Field) (s : State) : Result := half2 (fMulW .fp16) d a b s
def execHfma2 (d a b : Field) (s : State) : Result := half3 (fma2 .fp16) d a b s
def execHmin2 (d a b : Field) (s : State) : Result := half2 (Fmt.fp16.minnum false) d a b s
def execHmax2 (d a b : Field) (s : State) : Result := half2 (Fmt.fp16.minnum true) d a b s
def execHdot2 (d a b : Field) (s : State) : Result := half3 (dot2 .fp16) d a b s
def execBadd2 (d a b : Field) (s : State) : Result := half2 (fAddW .bf16) d a b s
def execBsub2 (d a b : Field) (s : State) : Result := half2 (fSubW .bf16) d a b s
def execBmul2 (d a b : Field) (s : State) : Result := half2 (fMulW .bf16) d a b s
def execBfma2 (d a b : Field) (s : State) : Result := half3 (fma2 .bf16) d a b s
def execBmin2 (d a b : Field) (s : State) : Result := half2 (Fmt.bf16.minnum false) d a b s
def execBmax2 (d a b : Field) (s : State) : Result := half2 (Fmt.bf16.minnum true) d a b s
def execBdot2 (d a b : Field) (s : State) : Result := half3 (dot2 .bf16) d a b s

/-! DALU (R224) -/

def dalu (f : Nat → Nat → Nat) (d a b : Field) (s : State) : Result :=
  guarded { ops := [opWp d, opRp a, opRp b], need := .vector } s fun s =>
    done (writeP s d (BitVec.ofNat 64 (f (readP s a).toNat (readP s b).toNat)))

def dcmp (f : Nat → Nat → Bool) (d a b : Field) (s : State) : Result :=
  guarded { ops := [opW d, opRp a, opRp b], need := .vector } s fun s =>
    done (writeR s d (BitVec.ofNat 64 (b2n (f (readP s a).toNat (readP s b).toNat))))

def execDadd (d a b : Field) (s : State) : Result := dalu (fAddW .fp64) d a b s
def execDsub (d a b : Field) (s : State) : Result := dalu (fSubW .fp64) d a b s
def execDmul (d a b : Field) (s : State) : Result := dalu (fMulW .fp64) d a b s
def execDfma (d a b : Field) (s : State) : Result :=
  guarded { ops := [opMp d, opRp a, opRp b], need := .vector } s fun s =>
    done (writeP s d (BitVec.ofNat 64 (fFmaW .fp64 (readP s a).toNat (readP s b).toNat (readP s d).toNat)))
def execDmin (d a b : Field) (s : State) : Result := dalu (Fmt.fp64.minnum false) d a b s
def execDmax (d a b : Field) (s : State) : Result := dalu (Fmt.fp64.minnum true) d a b s
def execDeq (d a b : Field) (s : State) : Result := dcmp Fmt.fp64.feq d a b s
def execDlt (d a b : Field) (s : State) : Result := dcmp Fmt.fp64.flt d a b s
def execDle (d a b : Field) (s : State) : Result := dcmp Fmt.fp64.fle d a b s

/-! LALU (R225) -/

def lalu (f : Word64 → Word64 → Word64) (d a b : Field) (s : State) : Result :=
  guarded { ops := [opWp d, opRp a, opRp b], need := .vector } s fun s => done (writeP s d (f (readP s a) (readP s b)))

/-- A shift by one 32-bit register, taken modulo 64. -/
def lshift (f : Word64 → Nat → Word64) (d a b : Field) (s : State) : Result :=
  guarded { ops := [opWp d, opRp a, opR b], need := .vector } s fun s =>
    done (writeP s d (f (readP s a) ((readR s b).toNat % 64)))

def execLadd (d a b : Field) (s : State) : Result := lalu (· + ·) d a b s
def execLsub (d a b : Field) (s : State) : Result := lalu (· - ·) d a b s
def execLmul (d a b : Field) (s : State) : Result := lalu (· * ·) d a b s
def execLshl (d a b : Field) (s : State) : Result := lshift (fun x n => x <<< n) d a b s
def execLshr (d a b : Field) (s : State) : Result := lshift (fun x n => x >>> n) d a b s
def execLsar (d a b : Field) (s : State) : Result := lshift (fun x n => x.sshiftRight n) d a b s

/-! CVT (R226-R231) -/

/-- What an element of a conversion is. -/
inductive CvtFmt where
  | float (f : Fmt)
  | int (signed : Bool) (w : Nat)
  | e8m0 | ue4m3
  deriving DecidableEq, Repr

def CvtFmt.width : CvtFmt → Nat
  | .float f => f.width
  | .int _ w => w
  | _ => 8

/-- A conversion kind: target, source and number of elements (R227). -/
structure CvtKind where
  dst : CvtFmt
  src : CvtFmt
  n : Nat
  deriving DecidableEq, Repr

def cvtF (d s : Fmt) (n : Nat) : Option CvtKind := some ⟨.float d, .float s, n⟩

/-- The kinds of R227. -/
def cvtKind (k : Nat) : Option CvtKind :=
  match k with
  | 0x00 => cvtF .fp32 .fp64 1
  | 0x01 => cvtF .fp64 .fp32 1
  | 0x02 => cvtF .fp16 .fp32 1
  | 0x03 => cvtF .fp32 .fp16 1
  | 0x04 => cvtF .bf16 .fp32 1
  | 0x05 => cvtF .fp32 .bf16 1
  | 0x06 => cvtF .fp16 .fp32 2
  | 0x07 => cvtF .fp32 .fp16 2
  | 0x08 => cvtF .bf16 .fp32 2
  | 0x09 => cvtF .fp32 .bf16 2
  | 0x0A => cvtF .fp16 .fp64 1
  | 0x0B => cvtF .fp64 .fp16 1
  | 0x10 => cvtF .e4m3 .fp32 1
  | 0x11 => cvtF .fp32 .e4m3 1
  | 0x12 => cvtF .e5m2 .fp32 1
  | 0x13 => cvtF .fp32 .e5m2 1
  | 0x14 => cvtF .e3m2 .fp32 1
  | 0x15 => cvtF .fp32 .e3m2 1
  | 0x16 => cvtF .e2m3 .fp32 1
  | 0x17 => cvtF .fp32 .e2m3 1
  | 0x18 => cvtF .e2m1 .fp32 1
  | 0x19 => cvtF .fp32 .e2m1 1
  | 0x1A => cvtF .e4m3 .fp32 2
  | 0x1B => cvtF .e5m2 .fp32 2
  | 0x1C => cvtF .fp32 .e4m3 2
  | 0x1D => cvtF .fp32 .e5m2 2
  | 0x20 => some ⟨.float .fp32, .e8m0, 1⟩
  | 0x21 => some ⟨.e8m0, .float .fp32, 1⟩
  | 0x22 => some ⟨.float .fp32, .ue4m3, 1⟩
  | 0x23 => some ⟨.ue4m3, .float .fp32, 1⟩
  | 0x30 => some ⟨.int true 32, .float .fp32, 1⟩
  | 0x31 => some ⟨.int false 32, .float .fp32, 1⟩
  | 0x32 => some ⟨.float .fp32, .int true 32, 1⟩
  | 0x33 => some ⟨.float .fp32, .int false 32, 1⟩
  | 0x34 => some ⟨.int true 64, .float .fp64, 1⟩
  | 0x35 => some ⟨.int false 64, .float .fp64, 1⟩
  | 0x36 => some ⟨.float .fp64, .int true 64, 1⟩
  | 0x37 => some ⟨.float .fp64, .int false 64, 1⟩
  | 0x38 => some ⟨.int true 32, .float .fp64, 1⟩
  | 0x39 => some ⟨.float .fp64, .int true 32, 1⟩
  | 0x3A => some ⟨.int true 64, .float .fp32, 1⟩
  | 0x3B => some ⟨.float .fp32, .int true 64, 1⟩
  | 0x3C => some ⟨.int true 32, .float .fp16, 1⟩
  | 0x3D => some ⟨.float .fp16, .int true 32, 1⟩
  | 0x40 => some ⟨.int true 64, .int true 32, 1⟩
  | 0x41 => some ⟨.int false 64, .int false 32, 1⟩
  | 0x42 => some ⟨.int true 32, .int true 64, 1⟩
  | 0x43 => some ⟨.int false 32, .int false 64, 1⟩
  | _ => none

/-- The d operand is a pair (R227). -/
def CvtKind.dPair (k : CvtKind) : Bool := decide (k.dst.width * k.n > 32)
/-- The a operand is a pair (R227). -/
def CvtKind.aPair (k : CvtKind) : Bool := decide (k.src.width * k.n > 32)
/-- The kind takes draws under RSR (R231). -/
def CvtKind.draws (k : CvtKind) : Bool :=
  match k.dst, k.src with
  | .int _ _, .int _ _ => false
  | _, _ => true

/-- The value of a source element (R227, R230). -/
def CvtFmt.val (f : CvtFmt) (x : Nat) : FVal :=
  match f with
  | .float f => f.val x
  | .int sg w => let v : Int := if sg then toSigned w x else ((x % 2 ^ w : Nat) : Int); .fin (decide (v < 0)) v.natAbs 0
  | .e8m0 => if x % 256 = 255 then .nan else .fin false 1 ((x % 256 : Nat) - 127 : Int)
  | .ue4m3 => if x % 256 ≥ 0x7F then .nan else Fmt.e4m3.val (x % 256)

/-- Conversion to an integer target, saturated (R229). -/
def toIntTarget (sg : Bool) (w : Nat) (md : Rnd) (r : Nat) (v : FVal) : Nat :=
  let lo : Int := if sg then -(2 ^ (w - 1)) else 0
  let hi : Int := if sg then 2 ^ (w - 1) - 1 else 2 ^ w - 1
  match v with
  | .nan => 0
  | .inf neg => wrap w (if neg then lo else hi)
  | .fin neg m e =>
    let y : Int := roundInt md neg m e r
    wrap w (Max.max lo (Min.min hi (if neg then -y else y)))

/-- e8m0f32 (R230). -/
def toE8m0 (md : Rnd) (sat : Bool) (r : Nat) (v : FVal) : Nat :=
  match v with
  | .nan => 0xFF
  | .inf neg => if neg then 0xFF else if sat then 0xFE else 0xFF
  | .fin neg m e =>
    if m = 0 then (if sat then 0x00 else 0xFF)
    else if neg then 0xFF
    else
      let p := 2 ^ m.log2
      let rem := m - p
      let up := match md with
        | .rne | .rna => decide (2 * rem ≥ p)
        | .rup => decide (rem ≠ 0)
        | .rsr => decide (rem ≠ 0) && decide (r < rem * 2 ^ 24 / p)
        | _ => false
      let k : Int := m.log2 + e + (b2n up : Nat)
      if k < -127 then 0x00 else if k > 127 then (if sat then 0xFE else 0xFF) else (k + 127).toNat

/-- ue4m3f32 (R230). -/
def toUe4m3 (md : Rnd) (sat : Bool) (r : Nat) (v : FVal) : Nat :=
  match v with
  | .nan => 0x7F
  | .inf neg => if neg then 0x00 else Fmt.e4m3.encode md sat r false v
  | .fin neg m _ => if neg ∨ m = 0 then 0x00 else Fmt.e4m3.encode md sat r false v

/-- One element of a conversion (R228-R230). -/
def cvtElem (k : CvtKind) (md : Rnd) (sat : Bool) (r x : Nat) : Nat :=
  match k.dst, k.src with
  | .int sg w, .int _ ws =>
    if sat || w > ws then toIntTarget sg w .rtz 0 (k.src.val x) else x % 2 ^ w
  | .int sg w, _ => toIntTarget sg w md r (k.src.val x)
  | .float f, _ => f.encode md sat r false (k.src.val x)
  | .e8m0, _ => toE8m0 md sat r (k.src.val x)
  | .ue4m3, _ => toUe4m3 md sat r (k.src.val x)

/-- The elements of a conversion from the low one up, with their draws (R91, R231). -/
def cvtElems (k : CvtKind) (md : Rnd) (sat : Bool) (x : Nat) : Nat → Nat → Word32 → Nat × Word32
  | 0, _, g => (0, g)
  | n + 1, i, g =>
    let (g, r) := if md = .rsr && k.draws then rngDraw g else (g, 0)
    let y := cvtElem k md sat r (x / 2 ^ (i * k.src.width) % 2 ^ k.src.width)
    let (rest, g) := cvtElems k md sat x n (i + 1) g
    (y * 2 ^ (i * k.dst.width) + rest, g)

/-- CVT (R226). -/
def execCvt (sat : BitVec 1) (r : BitVec 3) (d a k : Field) (s : State) : Result :=
  match cvtKind k.toNat with
  | none => guarded { lits := [(1, 0)] } s fun s => done s
  | some c =>
    guarded { ops := [if c.dPair then opWp d else opW d, if c.aPair then opRp a else opR a], lits := [(r.toNat, 6)] } s fun s =>
      let x := (if c.aPair then readP s a else readR s a).toNat
      let (y, g) := cvtElems c (Rnd.ofCode r.toNat) (sat == 1) x c.n 0 (rngA s s.cur)
      let s := setRngA s s.cur g
      done (if c.dPair then writeP s d (BitVec.ofNat 64 y) else writeR s d (BitVec.ofNat 64 y))

end Sys2Proof.Machine
end

