-- ==== Sys2Proof/Machine/Frontier.lean ====
section
/-! DEFINITION. The frontier (R37-R39, R50-R56): placing threads, spills, waits that end, and moving on to a successor. -/

namespace Sys2Proof.Machine

open Sys2Proof

/-! Placing a thread in the frontier (R37-R39, R50-R56) -/

/-- Age of an entry in raw cycles, saturating (R37). -/
def entryAge (s : State) (cid : Nat) (e : Entry) : Nat := min 524287 (coreRaw s cid - e.since)

/-- The context number of a launch on a core (R37). -/
def ctxNumber (c : Core) (p l : Nat) : Option Nat := (c.ctxs.find? fun x => x.2 == (p, l)).map (·.1)

/-- Spill records a launch has in use, over every core (R50). -/
def spillUsed (s : State) (p l : Nat) : List Nat :=
  s.cores.flatMap fun x => (x.2.spilled.filter fun r => (x.2.ctxs.find r.ent.ctx) == some (p, l)).map (·.idx)

/-- The lowest free spill record of a launch (R50). -/
def freeSpill (s : State) (p l : Nat) : Option Nat :=
  match launch? s p l with
  | some x =>
    let used := spillUsed s p l
    let n := recField x.record 0x48 31 0
    ((List.range (used.length + 1)).find? fun k => !used.contains k).filter (· < n)
  | none => none

/-- The victim order of R54: the first is spilled first. -/
def victimBefore (s : State) (cid : Nat) (x y : Entry) : Bool :=
  if x.cold != y.cold then x.cold
  else if x.prio != y.prio then x.prio < y.prio
  else if entryAge s cid x != entryAge s cid y then entryAge s cid x < entryAge s cid y
  else y.baddr < x.baddr

/-- The victim among ordinary entries (R54). Entries of two contexts that agree in all four keys leave a tie, which the spec
does not break: the model takes the first in the frontier (DESIGN CHOICE, log 57). -/
def victim (s : State) (cid : Nat) (es : List Entry) : Option Entry :=
  (es.filter fun e => !e.res).foldl (fun acc e =>
    match acc with
    | none => some e
    | some y => if victimBefore s cid e y then some e else some y) none

/-- The 528 bytes of a spill record (R51): WSET, BADDR and SORD, then PRIO, FILL, COLD, OPEN, CID, COUNT and the frozen AGE. -/
def Spilled.bytes (cid : Nat) (r : Spilled) : List Byte :=
  let e := r.ent
  let wset := e.wset.foldl (fun x n => x + 2 ^ n) 0
  toBytes 512 wset ++ toBytes 8 (e.baddr % 2 ^ 49 + r.sord * 2 ^ 49)
  ++ toBytes 8 (e.prio + e.fill * 2 ^ 12 + b2n e.cold * 2 ^ 14 + b2n e.opn * 2 ^ 15 + cid * 2 ^ 16 + e.wset.length * 2 ^ 32 + e.since * 2 ^ 45)

/-- Lays a record out in its launch's spill area (R50, R51), translated on the core's die (R352); a program that reads it sees
undefined-valued contents (R52). -/
def layRecord (s : State) (p l base cid : Nat) (r : Spilled) : State :=
  let h : Holder := .record p l r.idx
  layBytes (markLaid (unspoil s h) (cidDie cid) p (base + 528 * r.idx) 528 h true) (cidDie cid) p (base + 528 * r.idx) (r.bytes cid)

def sameEntry (x y : Entry) : Bool := x.ctx == y.ctx && x.baddr == y.baddr && x.res == y.res && x.roff == y.roff && x.wset == y.wset

/-- Puts an entry into a spill record of its launch, its age frozen (R51, R54); none without a free record (R55). -/
def spillEntry (s : State) (cid : Nat) (e : Entry) : Option State :=
  match (coreAt s cid).ctxs.find e.ctx with
  | some (p, l) =>
    match freeSpill s p l with
    | some k =>
      let a := entryAge s cid e
      let base := ((launch? s p l).map fun x => recField x.record 0x40 63 0).getD 0
      let r : Spilled := { idx := k, ent := { e with since := a }, sord := (coreAt s cid).sord }
      some (updCore (layRecord s p l base cid r) cid fun c =>
        { c with spilled := c.spilled ++ [r], sord := (c.sord + 1) % 2 ^ 15,
                 swapRaw := if c.spilled.isEmpty then coreRaw s cid else c.swapRaw })
    | none => none
  | none => none

/-- Adds an entry to a core's frontier, spilling a victim when it is full (R39, R54); none when the victim's launch has
no free record (R55). -/
def addEntry (s : State) (cid : Nat) (e : Entry) : Option State :=
  let c := coreAt s cid
  if c.fr.length < Config.frontierEntries then
    let full := c.fr.length + 1 == Config.frontierEntries
    some (setCore s cid { c with fr := c.fr ++ [e], swapRaw := if full then coreRaw s cid else c.swapRaw })
  else
    match victim s cid (c.fr ++ [e]) with
    | some v =>
      (spillEntry s cid v).map fun s =>
        if sameEntry v e then s
        else updCore s cid fun c => { c with fr := (c.fr.filter fun x => !sameEntry x v) ++ [e] }
    | none => none

/-- The waiting set with a slot added to the ordinary entry of a block, on chip or spilled (R39, R53). -/
def joinEntry (c : Core) (ctx baddr slot : Nat) : Option Core :=
  if c.fr.any fun e => e.ctx == ctx && e.baddr == baddr && !e.res then
    some { c with fr := c.fr.map fun e =>
      if e.ctx == ctx && e.baddr == baddr && !e.res then { e with wset := insertAsc e.wset slot } else e }
  else if c.spilled.any fun r => r.ent.ctx == ctx && r.ent.baddr == baddr then
    some { c with spilled := c.spilled.map fun r =>
      if r.ent.ctx == ctx && r.ent.baddr == baddr then { r with ent := { r.ent with wset := insertAsc r.ent.wset slot } } else r }
  else none

/-- The slot just placed takes part in selection from the next raw cycle on (R39). -/
def noteFresh (s : State) (cid slot : Nat) : State :=
  let now := coreRaw s cid
  updCore s cid fun c => { c with fresh := if c.freshRaw = now then slot :: c.fresh else [slot], freshRaw := now }

/-- The core's record of a block is laid out anew after its waiting set has changed (R53). -/
def relayRecord (s : State) (cid p l ctx baddr : Nat) : State :=
  let base := ((launch? s p l).map fun x => recField x.record 0x40 63 0).getD 0
  match (coreAt s cid).spilled.find? fun r => r.ent.ctx == ctx && r.ent.baddr == baddr with
  | some r => layRecord s p l base cid r
  | none => s

/-- Places a slot of a launch in the ordinary entry of a block on a core (R39); none for SPILL (R55). -/
def placeSlot (s : State) (cid p l slot : Nat) (u : Succ) : Option State :=
  let c := coreAt s cid
  match ctxNumber c p l with
  | some k =>
    match joinEntry c k u.baddr slot with
    | some c => some (noteFresh (relayRecord (setCore s cid c) cid p l k u.baddr) cid slot)
    | none =>
      let e : Entry := { ctx := k, baddr := u.baddr, prio := u.prio, fill := u.fill, cold := u.cold, len := u.len, res := false,
                         roff := 0, wset := [slot], opn := false, since := coreRaw s cid }
      (addEntry s cid e).map fun s => noteFresh s cid slot
  | none => none

/-- Places a thread at a block: it becomes Pending there (R36, R39); none for SPILL (R55). -/
def placeThread (s : State) (w t : Nat) (u : Succ) : Option State :=
  match wg? s w with
  | some g =>
    match g.cid? with
    | some cid =>
      (placeSlot s cid g.part g.lid (g.slot t) u).map fun s =>
        updThread s w t fun th => { th with st := .pending, succ := u }
    | none => some (updThread s w t fun th => { th with st := .pending, succ := u })
  | none => none

/-- The batch context named for a thread that stalls for a fault record outside a batch. -/
def noBatch : Nat := 16

/-- An initial thread whose entry fails is created Faulted (R29, R44). -/
def faultEntry (s : State) (cid w t va : Nat) (c : Cause) (faddr : Nat) : State :=
  let h : Held := { wg := w, tid := t, hdr := { (default : Succ) with baddr := va49 va }, roff := 0, ts := [], cause := c, faddr := faddr,
                    word := 0, info := 0, tick := timer s, ord := s.nextId }
  match nextRecord (coreAt s cid) with
  | some k => takeRecord s cid k h
  | none => updThread (waitRecord s cid h) w t fun th => { th with st := .stalled noBatch }

/-- A thread enters the vector entry (R29, R200); while the entry cannot be read it waits, with no block captured yet. -/
def enterThread (s : State) (cid w t va : Nat) : State :=
  match checkEntryAs s { issuer s (.vthread w t) with ag := none } cid va with
  | .ok (u, s) =>
    match placeThread s w t u with
    | some s => s
    | none => faultEntry s cid w t va .spill 0
  | .bad c v => faultEntry s cid w t va c v
  | .wait => updThread s w t fun th => { th with st := .waiting .place, succ := { (default : Succ) with baddr := va49 va } }

/-- A satisfied wait: the thread goes to its captured successor, or keeps waiting for room (R55, R200). A wait of an earlier
occupant of the slot is discarded (R27). A thread with no block captured enters its first one (R29). -/
def wake (s : State) (w t : Nat) : State :=
  match if slotCurrent s w t then thread? s w t else none with
  | some th =>
    match (wg? s w).bind fun g => g.cid? with
    | some cid => if th.succ.len = 0 then enterThread s cid w t (sextNat 49 64 th.succ.baddr) else
      match placeThread s w t th.succ with
      | some s => s
      | none => updThread s w t fun th => { th with st := .waiting .place }
    | none => (placeThread s w t th.succ).getD s
  | none => s

/-! Slot records (R243, R246) -/

/-- The 32 bytes of a record as a number. -/
def slotGet (s : State) (w o : Nat) : Nat := ofBytes (locBytes s (.spad w o) 32)
def slotState (r : Nat) : Nat := bits r 103 96
def slotCnt (r : Nat) : Nat := bits r 95 64
def slotPut (s : State) (w o r : Nat) : State := spadWrite s w o (toBytes 32 r)

/-- What a slot read finds: a record that a program has written into while it was ACTIVE holds an undefined value (R243). -/
def slotRead (s : State) (w o : Nat) : Nat × State :=
  if slotSpoiled s w o 32 then let r := freeBytes s 32; (ofBytes r.1, r.2) else (slotGet s w o, s)

/-- A slot read is a read of the location it is subscribed to (R162), so it waits like one until every slot of the location holds
the latest write (R149, R150, R163). -/
def slotPending (s : State) (w o : Nat) : Bool :=
  s.subs.any fun x => x.wg == w && x.off == o && pushOver s x.pa (if x.dw then 8 else 4)

/-- The condition of SLOTWAIT (R246). -/
def slotHolds (r a : Nat) : Bool := slotCnt r != a || slotState r != 1 || bitAt r 104

/-- A thread waiting on a record goes on with it when its condition holds (R246). -/
def slotWakeOne (s : State) (w o t : Nat) (th : Thread) : State :=
  match th.st with
  | .waiting (.slot o' a d) =>
    let r := slotRead s w o
    if o' = o ∧ slotHolds r.1 a then wake (writeQA r.2 (.vthread w t) d (BitVec.ofNat 128 r.1)) w t else s
  | _ => s

/-- Threads of a resident workgroup waiting on a record whose condition holds go on (R246, R260), once the location's latest write is
readable. -/
def slotWake (s : State) (w o : Nat) : State :=
  match wg? s w with
  | some g =>
    if g.cid?.isNone || slotPending s w o then s
    else g.threads.foldl (fun s t => slotWakeOne s w o t.1 t.2) s
  | none => s

/-- Threads waiting on the records of the locations whose writes a subscription has held back go on, as far as nothing else holds them
back (R163). -/
def wakeSlots (s : State) (x : Sub) : State :=
  let hit (y : Sub) : Bool := (y.id == x.id) || (x.span ++ x.mspan).any fun r => decide (y.pa < r.2) && decide (r.1 < y.pa + (if y.dw then 8 else 4))
  (s.subs.filter hit).foldl (fun s y => slotWake s y.wg y.off) s

/-- Subscriptions end without a push, and hold no write back any more. -/
def dropSubs (s : State) (f : Sub → Bool) : State :=
  let gone := s.subs.filter f
  gone.foldl wakeSlots { s with subs := s.subs.filter fun x => !f x }

/-- A satisfied wait of any agent: a thread is woken, a context goes past its word (R262). -/
def wakeAgent (s : State) (a : Agent) : State :=
  match a with
  | .vthread w t => wake s w t
  | .scribe w => advanceA (updCtx s w fun c => { c with mode := .ready }) a
  | .control n => advanceA (updCtl s n fun c => { c with mode := .ready }) a

/-- The agent waits (R36, R262): a thread leaves its batch with its successor captured, a context stalls. -/
def suspend (s : State) (wt : Wait) (u : Succ) : State :=
  match s.cur with
  | .vthread w t => updThread (leaveBatch s w t) w t fun th => { th with st := .waiting wt, succ := u }
  | .scribe w => updCtx s w fun c => { c with mode := .waiting wt }
  | .control n => updCtl s n fun c => { c with mode := .waiting wt }

/-- The agent goes on at a successor: a thread leaves its batch and is placed there, none without room (R55, R200); a context
goes past its word. -/
def moveOn (s : State) (u : Succ) : Option State :=
  match s.cur with
  | .vthread w t => placeThread (leaveBatch s w t) w t u
  | _ => some (advance s)

/-- A terminator with effects `s'` on the state `s`, a transfer or a wait whose condition already holds (R36): the agent goes
to its successor; without a place the terminator faults with SPILL before any effect (R55, R200). -/
def goOnWith (s s' : State) (u : Succ) : Result :=
  match moveOn s' u with
  | some s => .next s
  | none => raise .spill 0 0 s

end Sys2Proof.Machine
end

