-- ==== Sys2Proof/Machine/Threads.lean ====
section
/-! DEFINITION. Launch parameters (R28, R362), free resources of a core (R57, R68), threads that begin and end (R31, R47,
R203), cohort instances (R249-R252) and sideband-barrier arrivals (R253, R402). -/

namespace Sys2Proof.Machine

open Sys2Proof

/-! Launch records -/

def recW (r : BitVec 1024) : Nat := recField r 0x10 31 0 + 1
def recT (r : BitVec 1024) : Nat := recField r 0x14 11 0 + 1
def recTmax (r : BitVec 1024) : Nat := recField r 0x14 27 16 + 1
def recA (r : BitVec 1024) : Nat := 8 * (recField r 0x18 4 0 + 1)
def recC (r : BitVec 1024) : Nat := recField r 0x18 16 11 + 1
def recDk (r : BitVec 1024) : Nat := recField r 0x18 9 8
def recClass (r : BitVec 1024) : Nat := recField r 0x18 7 5
def recFrag (r : BitVec 1024) : Bool := recField r 0x18 26 26 == 1
def recNoSlice (r : BitVec 1024) : Bool := recField r 0x18 25 25 == 1
/-- Fill timer in raw cycles (R362). -/
def recFillTimer (r : BitVec 1024) : Nat := let f := recField r 0x18 24 17; if f = 0 then 2048 else 256 * f
def recVentry (r : BitVec 1024) : Nat := recField r 0 63 0
def recSentry (r : BitVec 1024) : Nat := recField r 8 63 0
/-- Scratchpad bytes rounded up to 4 KiB (R57). -/
def recSpad (r : BitVec 1024) : Nat := (recField r 0x1C 31 0 + 4095) / 4096 * 4096
def recBsize (r : BitVec 1024) : Nat := recField r 0x4C 31 0
def recSaveN (r : BitVec 1024) : Nat := recField r 0x54 31 0
def recSaveBase (r : BitVec 1024) : Nat := recField r 0x58 63 0
/-- Thread rows of a workgroup (R30). -/
def recRows (r : BitVec 1024) : Nat := (recTmax r + 31) / 32

/-! Free resources of a core (R57) -/

/-- Scratchpad bytes of a core under the split it has adopted (R118). -/
def spadSize (s : State) (cid : Nat) : Nat := (256 + 64 * (coreAt s cid).spsel) * 1024

/-- Words of a lane bank beyond every reservation and every word that GROW has taken (R68). -/
def bankFree (s : State) (cid lane : Nat) : Nat :=
  let used := (residents s cid).map fun x =>
    let g := x.2
    g.a * g.rows.length + ((g.threads.filter fun t => t.1 % 32 == lane).map fun t => t.2.allot - g.a).foldl (· + ·) 0
  Config.inkwellWords - used.foldl (· + ·) 0

def freeRows (s : State) (cid : Nat) : List Nat :=
  let used := (residents s cid).flatMap fun x => x.2.rows
  (List.range Config.rows).filter fun r => !used.contains r

def spadFree (s : State) (cid : Nat) : Nat := spadSize s cid - ((residents s cid).map fun x => x.2.spadLen).foldl (· + ·) 0
def cohortFree (s : State) (cid : Nat) : Nat := 512 - ((residents s cid).map fun x => x.2.cRes).foldl (· + ·) 0
/-- Context numbers of a core's Scribe that no context and no held record keeps (R330). -/
def freeScids (s : State) (cid : Nat) : List Nat :=
  (List.range 8).filter fun k =>
    !((residents s cid).any fun x => x.2.ctx.any fun c => c.scid == k)
    && ((coreAt s cid).srec.get {} k).held.isNone

/-- A core can take a workgroup's reservation (R57): rows, words per bank, scratchpad, Scribe context, cohort entries,
table entry and launch context. -/
def fits (s : State) (cid p l rows words spad cres : Nat) (scribe : Bool) : Bool :=
  decide (rows ≤ (freeRows s cid).length)
  && (List.range 32).all (fun b => decide (words ≤ bankFree s cid b))
  && decide (spad ≤ spadFree s cid)
  && (!scribe || !(freeScids s cid).isEmpty)
  && decide (cres ≤ cohortFree s cid)
  && decide ((residents s cid).length < 64)
  && ((ctxNumber (coreAt s cid) p l).isSome || decide ((coreAt s cid).ctxs.length < 8))

/-! Threads begin -/

/-- A thread as it is created (R29, R47, R67, R91). -/
def newThread (s : State) (g : Workgroup) (tid : Nat) (v0 : Word32) : Thread :=
  { allot := g.a, g := rngSeed (csrGet s 0 g.part) g.lid g.wid tid, v := if v0 = 0 then [] else [(0, v0)] }

/-- The slot generation of a slot moves on (R27). -/
def bumpSlot (s : State) (cid slot : Nat) : State :=
  updCore s cid fun c => { c with slotGen := c.slotGen.put slot ((c.slotGen.get 0 slot + 1) % 128) }

/-- Adds a thread to a workgroup, its slot's generation moved on (R27). -/
def addThread (s : State) (w tid : Nat) (t : Thread) : State :=
  match wg? s w with
  | some g =>
    match g.cid? with
    | some cid =>
      let s := bumpSlot s cid (g.slot tid)
      setWg s w { g with threads := g.threads.put tid { t with sgen := (coreAt s cid).slotGen.get 0 (g.slot tid) } }
    | none => setWg s w { g with threads := g.threads.put tid t }
  | none => s

/-- The lowest free tid of a workgroup (R206). -/
def freeTid (g : Workgroup) : Option Nat := (List.range g.tmax).find? fun t => (g.threads.find t).isNone

/-- A child of a workgroup (R47, R206): it enters its block; none for SPILL. -/
def spawnChild (s : State) (w tid : Nat) (u : Succ) (v0 : Word32) : Option State :=
  match wg? s w with
  | some g => placeThread (addThread s w tid (newThread s g tid v0)) w tid u
  | none => none

/-! Cohort instances (R249-R252) -/

/-- A handle's index of a valid handle of a workgroup (R248). -/
def cohortOf (g : Workgroup) (h : Word32) : Option (Nat × Cohort) :=
  let x := h.toNat
  let i := x % 512
  match g.cohorts.find i with
  | some c => if x / 65536 = 0 ∧ i < g.cRes ∧ x / 512 % 128 = c.gen then some (i, c) else none
  | none => if x / 65536 = 0 ∧ i < g.cRes ∧ x / 512 % 128 = 0 then some (i, {}) else none

def cohortHandle (i gen : Nat) : Nat := gen * 512 + i

def setCohort (s : State) (w i : Nat) (c : Cohort) : State := updWg s w fun g => { g with cohorts := g.cohorts.put i c }

/-- The pairwise tree sum of R110. -/
def treeSum : Nat → List Nat → Nat
  | 0, _ => 0
  | _ + 1, [] => 0
  | _ + 1, [x] => x
  | n + 1, l => treeSum n (pairUp l)
where
  pairUp : List Nat → List Nat
    | x :: y :: l => fAddW .fp32 x y :: pairUp l
    | l => l

/-- The FP32 sum over cohort ranks (R110, R252). -/
def fSum (l : List Nat) : Nat := treeSum (l.length + 1) l

/-- A pattern table as an image: index and zero mask of output element i (R78). -/
def ptIdx (t : BitVec 512) (i : Nat) : Nat := bits t.toNat (6 * i + 5) (6 * i)
def ptZero (t : BitVec 512) (i : Nat) : Bool := bitAt t.toNat (384 + i)

/-- The result of a collective for the participant of rank k (R252): inputs and b values in rank order. -/
def collResult (fn : Nat) (pt : BitVec 512) (xs bs : List Word32) (k : Nat) : Word32 :=
  let n := xs.length
  let at' (i : Nat) : Word32 := xs.getD i 0
  match fn with
  | 0 => xs.foldl (· + ·) 0
  | 1 => BitVec.ofNat 32 (fSum (xs.map (·.toNat)))
  | 2 => xs.foldl (fun m x => if x.toInt ≤ m.toInt then x else m) (at' 0)
  | 3 => xs.foldl (fun m x => if x.toInt ≥ m.toInt then x else m) (at' 0)
  | 4 => (xs.take (k + 1)).foldl (· + ·) 0
  | 5 => BitVec.ofNat 32 (fSum ((xs.take (k + 1)).map (·.toNat)))
  | 6 => at' ((bs.getD 0 0).toNat % n)
  | 7 =>
    let g := k / 64
    let i := k % 64
    if ptZero pt i then 0
    else let j := 64 * g + ptIdx pt i; if j < n then at' j else 0
  | _ => at' ((bs.getD k 0).toNat % n)

/-- Participants' arrivals in rank order: the order of the members. -/
def ranked (c : Cohort) (i : CInst) : List CArr := c.members.filterMap fun t => if i.parts.contains t then i.arr.find? (·.tid == t) else none

/-- A fault of a thread that no batch carries: it takes a record of its core, or waits for one; while its workgroup is saved, until
the restore (R44, R375). -/
def takeFault (s : State) (h : Held) : State :=
  match wg? s h.wg with
  | some g =>
    match g.cid? with
    | some cid =>
      let h := { h with ord := s.nextId }
      match nextRecord (coreAt s cid) with
      | some k => takeRecord s cid k h
      | none => updThread (waitRecord s cid h) h.wg h.tid fun th => { th with st := .stalled noBatch }
    | none => updThread (setWg s h.wg { g with late := g.late ++ [h] }) h.wg h.tid fun th => { th with st := .stalled noBatch }
  | none => s

/-- A waiting participant of an XPERM faults with TDESC at its XPERM (R252). -/
def faultArrival (s : State) (w : Nat) (a : CArr) : State :=
  takeFault s { wg := w, tid := a.tid, hdr := a.blk, roff := a.roff, ts := a.ts, cause := .tdesc, faddr := 0, word := a.word, info := 0,
                tick := timer s }

/-- One participant of a completed instance: a waiter goes on, a collective's with its result (R250, R252). -/
def releaseArrival (s : State) (w h inst : Nat) (mixed : Bool) (res : Word32) (a : CArr) : State :=
  match thread? s w a.tid with
  | some th =>
    match th.st with
    | .waiting (.bar h' i) => if h' = h ∧ i = inst then wake s w a.tid else s
    | .waiting (.coll h' i d) =>
      if h' = h ∧ i = inst then
        let s' := if mixed then useFree s else s
        wake (writeV s' w a.tid d (if mixed then (freeValue s).setWidth 32 else res)) w a.tid
      else s
    | _ => s
  | none => s

/-- The participants of a completed instance in rank order. -/
def releaseAll (s : State) (w h inst : Nat) (mixed : Bool) (res : Nat → Word32) : Nat → List CArr → State
  | _, [] => s
  | k, a :: l => releaseAll (releaseArrival s w h inst mixed (res k) a) w h inst mixed res (k + 1) l

/-- Completes the open instance of a cohort when each of its participants has arrived; arrivals of later members then
open the next one (R250). -/
def settle : Nat → State → Nat → Nat → State
  | 0, s, _, _ => s
  | n + 1, s, w, h =>
    match wg? s w with
    | some g =>
      match g.cohorts.find h with
      | some c =>
        match c.inst with
        | some i =>
          if i.parts.all fun t => i.arr.any fun a => a.tid == t then
            let arr : List CArr := ranked c i
            let later := i.arr.filter fun a => !i.parts.contains a.tid
            let nxt : Option CInst := if later.isEmpty then none else some { parts := c.members, arr := later }
            let s := setCohort s w h { c with inst := nxt, done := c.done + 1 }
            let fns : List (Option Nat) := arr.map fun (a : CArr) => a.fn
            let mixed : Bool := fns.any fun f => f != fns.headD none
            let fn : Nat := (fns.headD none).getD 0
            let pt := if fn = 7 ∧ !mixed then g.pts.find ((arr.map fun (a : CArr) => a.b).headD 0).toNat else some 0
            let s := match pt with
              | some t => releaseAll s w h c.done mixed (collResult fn t (arr.map fun a => a.x) (arr.map fun a => a.b)) 0 arr
              | none => arr.foldl (fun s a => faultArrival s w a) s
            settle n s w h
          else s
        | none => s
      | none => s
    | none => s

/-- An arrival of a member (R250): it opens an instance, or joins the open one, which completes when it is the last. -/
def arrive (s : State) (w h : Nat) (a : CArr) : State :=
  match wg? s w with
  | some g =>
    match g.cohorts.find h with
    | some c =>
      let i := c.inst.getD { parts := c.members, arr := [] }
      settle 3 (setCohort s w h { c with inst := some { i with arr := i.arr ++ [a] } }) w h
    | none => s
  | none => s

/-- The number of the instance that a member's arrival belongs to (R250). -/
def instFor (c : Cohort) (t : Nat) : Nat :=
  match c.inst with
  | some i => if i.parts.contains t then c.done else c.done + 1
  | none => c.done

/-- A thread leaves a cohort (R249): its BARA arrival is withdrawn, and the last member frees the entry. -/
def leaveCohort (s : State) (w h t : Nat) : State :=
  match (wg? s w).bind fun g => g.cohorts.find h with
  | some c =>
    if c.members.contains t then
      let ms := c.members.filter (· != t)
      let s := if ms.isEmpty then setCohort s w h { gen := (c.gen + 1) % 128 }
        else settle 3 (setCohort s w h
          { c with members := ms, bara := c.bara.filter (·.1 != t),
                   inst := c.inst.map fun i => { parts := i.parts.filter (· != t), arr := i.arr.filter (·.tid != t) } }) w h
      match c.copy with
      | some id => leaveCopyInst s id t
      | none => s
    else s
  | none => s

/-- A thread leaves every cohort of its workgroup (R203). -/
def leaveAll (s : State) (w t : Nat) : State :=
  match wg? s w with
  | some g => (SMap.keys g.cohorts).foldl (fun s h => leaveCohort s w h t) s
  | none => s

/-! Sideband barriers (R253, R402) -/

/-- A workgroup whose every live thread has arrived sends its arrival, once in a phase (R253). -/
def pbarCheck (s : State) (w pb : Nat) : State :=
  match wg? s w with
  | some g =>
    if !g.threads.isEmpty && !g.pbSent.contains pb && g.threads.all fun t => t.2.pbs.find pb == some false then
      let s := setWg s w { g with pbSent := insertAsc g.pbSent pb }
      { s with pbFlight := s.pbFlight ++ [(pb, w, timer s)] }
    else s
  | none => s

/-- After a thread is gone: the arrivals that its leaving completes (R402). -/
def pbarAll (s : State) (w : Nat) : State :=
  match wg? s w with
  | some g => ((g.threads.flatMap fun t => SMap.keys t.2.pbs).foldl insertAsc []).foldl (fun s pb => pbarCheck s w pb) s
  | none => s

/-! Workgroups and launches end -/

/-- Held records of a workgroup on a core free (R330). -/
def freeRecords (s : State) (w : Nat) : State :=
  { s with cores := s.cores.map fun c => (c.1,
      let free (m : SMap FRec) : SMap FRec := m.map fun x => (x.1, if x.2.held.any fun h => h.wg == w then { x.2 with held := none } else x.2)
      { c.2 with vrec := free c.2.vrec, srec := free c.2.srec, stalls := c.2.stalls.filter fun h => h.wg != w }) }

/-- A launch context number frees when no workgroup of the launch is left on the core (R37). -/
def freeContext (s : State) (cid p l : Nat) : State :=
  if (residents s cid).any fun x => x.2.part == p && x.2.lid == l then s
  else updCore s cid fun c => { c with ctxs := c.ctxs.filter fun x => x.2 != (p, l) }

/-- A workgroup leaves its core: its launch context may free, and it is recorded as the core's no more. -/
def dropWg (s : State) (w : Nat) : State :=
  match wg? s w with
  | some g =>
    let s := { s with wgs := s.wgs.erase w }
    match g.cid? with
    | some cid =>
      let s := freeContext s cid g.part g.lid
      blocksAdopt (updCore s cid fun c => (c.setQueue (c.mq.filter (·.wg != w)) (coreRaw s cid)).without w) (cidDie cid)
    | none => s
  | none => s

/-- The matrix slots of a workgroup free with it (R337). -/
def freeMatrixSlots (s : State) (w : Nat) : State := { s with susp := s.susp.filter fun x => !(x.cls == 4 && x.op == w) }

/-- The unresolved fragments of a workgroup that ends resolve as DISCARD (R341). -/
def discardFrags (s : State) (w : Nat) : State :=
  let f (x : Frag) : Frag := if (x.thread.map (·.1)) == some w && x.res == .no then { x with res := .discard } else x
  { s with frags := s.frags.map f }

/-- A privileged form completes with a status (R333), a release of SYS scope: its context goes past the word. -/
def finishForm (s : State) (f : PForm) (st : Nat) : State :=
  let s := { s with forms := s.forms.filter fun x => x.id != f.id }
  match f.ag with
  | some a => wakeAgent (writeRA (releaseA s a 3) a f.d.toNat (BitVec.ofNat 64 st)) a
  | none => s

/-- The forms that wait for a save of a workgroup. -/
def saveForms (s : State) (w : Nat) : List PForm :=
  s.forms.filter fun f => match f.kind with
    | .wgsave x _ | .wgmigr x _ => x == w
    | _ => false

/-- The forms of a workgroup's context go on without it, and those that wait for its save answer NOTFOUND. -/
def endForms (s : State) (w : Nat) : State :=
  let s := { s with forms := s.forms.map fun f => if f.ag = some (.scribe w) then { f with ag := none } else f }
  (saveForms s w).foldl (fun s f => finishForm s f 1) s

/-- THE END OF A WORKGROUP (R31): its resources return, its records free, its subscriptions end without a final push, a push on its
way being discarded and counted (R377), which holds no write back any more (R150), and its launch counts it. -/
def endWorkgroup (s : State) (w : Nat) : State :=
  match wg? s w with
  | some g =>
    let s := endCopyInsts (dropWg (freeMatrixSlots (freeRecords s w) w) w) w
    let s := endForms (discardFrags s w) w
    let stale := (s.subs.filter fun x => x.wg == w && x.push.isSome).length
    let s := dropSubs { s with items := s.items.filter (·.wg != w) } fun x => x.wg == w
    let s := if stale = 0 then s else countStale s ((g.cid?).getD g.lastCid) stale
    updLaunch (batchEnded s g.part g.lid g.wid) g.part g.lid fun l => { l with ended := l.ended + 1 }
  | none => s

/-- A workgroup ends once its threads and its context have ended (R31). -/
def checkEnd (s : State) (w : Nat) : State :=
  match wg? s w with
  | some g => if g.threads.isEmpty && g.ctx.all (fun c => c.mode == .ended) then endWorkgroup s w else s
  | none => s

/-- An unresolved fragment of a thread that ends resolves as DISCARD (R306). -/
def discardFrag (s : State) (w t : Nat) : State :=
  { s with frags := s.frags.map fun f => if f.thread == some (w, t) && f.res == .no then { f with res := .discard } else f }

/-- THE END OF A THREAD (R203): it leaves its batch and its cohorts, its tid and words are free, and its workgroup may end. -/
def endThread (s : State) (w t : Nat) : State :=
  let s := discardFrag (leaveBatch s w t) w t
  let s := leaveAll s w t
  let s := updWg s w fun g => { g with threads := g.threads.erase t }
  checkEnd (pbarAll s w) w

end Sys2Proof.Machine
end

