-- ==== Sys2Proof/Machine/Launches.lean ====
section
/-! DEFINITION. Entry checks of launch records (R363), launch ids (R366) and the device launch queue (R208). -/

namespace Sys2Proof.Machine

open Sys2Proof

/-- The issuer data of accesses that the Hearth makes for a launch (R363, R31): under its level and world, and with the Larder-read
permission of its record. -/
def launchIssuer (p lvl : Nat) (sec : Bool) (r : BitVec 1024) : Issuer :=
  { part := p, lvl := lvl, sec := sec, die := 0, cid := none, wg := none, lid := 0, record := some r }

/-- enter() through the header test without placement, the header read at its home (R200, R363). -/
def entryHeader (s : State) (i : Issuer) (va : Nat) : Out (Succ × State) :=
  if va % 4 ≠ 0 then .bad .misalign va
  else if !canonical va then .bad .xlateNp va
  else match rangeOf va with
    | .self _ | .peer _ _ => .bad .xlatePerm va
    | _ => (resolve s i { va := va, size := 4, fetch := true }).bind fun t => (fetchHome s i t va).bind fun t =>
      let (l, s) := readTgt s i t 4
      match headerOf (BitVec.ofNat 32 (ofBytes l)) va with
      | some u => .ok (u, s)
      | none => .bad .blockfmt 0

/-- The bits of a launch record that must be 0 are 0 (R362). -/
def recReservedOk (r : BitVec 1024) : Bool :=
  recField r 0x14 31 28 == 0 && recField r 0x14 15 12 == 0 && recField r 0x18 31 27 == 0 && recField r 0x7C 31 13 == 0
  && recField r 0x7C 0 0 == 0

/-- What a check answers: nothing failed, or its number, cause and fault address. -/
abbrev CheckFail := Option (Nat × Cause × Nat)

/-- A check that is an access: its failure under a check number, or the state after its translation (R354). -/
def Out.check (x : Out State) (s : State) (n : Nat) : Out (CheckFail × State) :=
  match x with
  | .ok s => .ok (none, s)
  | .bad c v => .ok (some (n, c, v), s)
  | .wait => .wait

/-- Continues with the next check when none has failed. -/
def andThen (x : Out (CheckFail × State)) (f : State → Out (CheckFail × State)) : Out (CheckFail × State) :=
  match x with
  | .ok (none, s) => f s
  | y => y

/-- An access that is checked and translated and not performed. -/
def checked (s : State) (i : Issuer) (q : Acc) : Out State := (resolve s i q).bind fun t => .ok (useTgt s t q.wr)

/-- The entry checks of R363 in their order: the one that fails, and the state after the translations that they make. -/
def entryChecks (s : State) (p lvl : Nat) (sec sysq : Bool) (r : BitVec 1024) : Out (CheckFail × State) :=
  let i := launchIssuer p lvl sec r
  let scratch := recField r 0x1C 31 0
  let dep := recField r 0x60 63 0
  let done := recField r 0x70 63 0
  if !(recReservedOk r && decide (recT r ≤ recTmax r) && recDk r != 0 && decide (scratch ≤ 458752)
      && (recField r 0x7C 12 1 == 0 || recField r 0x18 10 10 == 1)) then .ok (some (1, .illegal, 0), s)
  else if !(recVentry r % 4 == 0 && recSentry r % 4 == 0 && recField r 0x40 63 0 % 128 == 0 && recSaveBase r % 4096 == 0
      && dep % 8 == 0 && done % 8 == 0) then .ok (some (2, .misalign, 0), s)
  else if (recBsize r != 0 && recDk r != 1)
      || (recFrag r && !(recDk r == 2 && recBsize r == 0 && recNoSlice r && decide (32 * recTmax r ≤ scratch) && sysq)) then
    .ok (some (3, .illegal, 0), s)
  else
    andThen (((entryHeader s i (recVentry r)).bind fun x => .ok x.2).check s 4) fun s =>
    andThen (if recSentry r = 0 then .ok (none, s) else (checked s i { va := recSentry r, size := 4, fetch := true }).check s 4) fun s =>
    andThen (if dep = 0 then .ok (none, s) else (checked s i { va := dep, size := 8, rd := true }).check s 5) fun s =>
    if done = 0 then .ok (none, s) else (checked s i { va := done, size := 8, rd := true, wr := true }).check s 5

/-- The next launch id of a partition (R366): 0xFFFF_FFFE and 0xFFFF_FFFF are skipped. -/
def nextLid (s : State) (p : Nat) : Nat := let n := (part s p).nextLid; if 0xFFFFFFFE ≤ n then 0 else n

/-- The id is taken. -/
def takeLid (s : State) (p : Nat) : State := setPart s p { part s p with nextLid := nextLid s p + 1 }

/-- Records of a partition held in its device launch queue (R366). -/
def dlqCount (s : State) (p : Nat) : Nat := (s.dlq.filter (·.part == p)).length

/-- The partition that a control or privileged form names (R333, R342, R427): the issuer's, or SEL.PART at device-manager level. -/
def namedPart (s : State) : Nat := (csrEnv s s.cur).part

/-- LAUNCH's effect on a record it has read (R208), offered to a partition: the answer and the next state. Where VENTRY leads to no
valid header, R175 and R189 name a BLOCKFMT fault of the LAUNCH, R208 (and R175 at its end) the answer 0xFFFF_FFFE, which the model
gives (DEDUCED, log 68). -/
def offerLaunch (s : State) (p : Nat) (sec : Bool) (r : BitVec 1024) : Out (Nat × State) :=
  if Config.deviceQueueDepth ≤ dlqCount s p then .ok (0xFFFFFFFF, s)
  else (entryChecks s p 0 sec false r).bind fun f =>
    match f with
    | (some _, s) => .ok (0xFFFFFFFE, s)
    | (none, s) =>
      let l := nextLid s p
      .ok (l, { takeLid s p with dlq := s.dlq ++ [{ part := p, lid := l, record := r, sec := sec }] })

end Sys2Proof.Machine
end

