-- ==== Sys2Proof/Machine/Control.lean ====
section
/-! DEFINITION. Control flow, threads and launches, window and allotment, time (R200-R212). -/

namespace Sys2Proof.Machine

open Sys2Proof

/-- A transfer's target: a block's header on a vector thread (R200), on a context a word that translates for fetch
(R204). An untaken BNZ or BZ of a context checks the word after it the same way and faults on the branch, where R204 speaks of a target
only (DESIGN CHOICE, log 88). -/
def transferTarget (s : State) (va : Nat) : Out (Succ × State) :=
  if isVector s then checkEntry s s.cur va
  else if va % 4 ≠ 0 then .bad .misalign va
  else if s.cur = .control 0 ∧ va < 0x400000 then .ok (default, s)
  else (resolve s (issuer s s.cur) { va := va, size := 4, fetch := true }).bind fun t => .ok (default, useTgt s t false)

/-- Sets the address of a context's next word. -/
def setPc (s : State) (va : Nat) : State :=
  match s.cur with
  | .scribe w => updCtx s w fun c => { c with pc := va % 2 ^ 64 }
  | .control n => updCtl s n fun c => { c with pc := va % 2 ^ 64 }
  | .vthread _ _ => s

/-- Goes to a checked target, with effects `f` on the way. -/
def transfer (s : State) (va : Nat) (f : State → State) : Result :=
  (transferTarget s va).run s fun r =>
    if isVector s then goOnWith s (f r.2) r.1 else .next (setPc (f r.2) va)

/-- An address relative to the word under execution. -/
def relative (s : State) (o : BitVec 18) : Nat := (BitVec.ofNat 64 (curPc s) + o.signExtend 64 * 4).toNat
def nextWord (s : State) : Nat := (curPc s + 4) % 2 ^ 64

def execBr (o : BitVec 18) (s : State) : Result :=
  guarded { term := true } s fun s => transfer s (relative s o) id
def execBnz (a : Field) (o : BitVec 18) (s : State) : Result :=
  guarded { ops := [opR a], term := true } s fun s => transfer s (if readR s a ≠ 0 then relative s o else nextWord s) id
def execBz (a : Field) (o : BitVec 18) (s : State) : Result :=
  guarded { ops := [opR a], term := true } s fun s => transfer s (if readR s a = 0 then relative s o else nextWord s) id
/-- CALL (R202): the link is the address of the word after the call. -/
def execCall (a : Field) (o : BitVec 18) (s : State) : Result :=
  guarded { ops := [opWp a], term := true } s fun s =>
    transfer s (relative s o) fun s' => writeP s' a (BitVec.ofNat 64 (nextWord s))
def execJmpr (a : Field) (s : State) : Result :=
  guarded { ops := [opRp a], term := true } s fun s => transfer s (readP s a).toNat id
def execCallr (d a : Field) (s : State) : Result :=
  guarded { ops := [opWp d, opRp a], term := true } s fun s =>
    transfer s (readP s a).toNat fun s' => writeP s' d (BitVec.ofNat 64 (nextWord s))

/-- Matrix operations of a context that the engine has not performed (R204, R277). -/
def matrixPending (s : State) (w : Nat) : Bool :=
  match wg? s w with
  | some g => (match g.cid? with | some cid => (coreAt s cid).mq.any (·.wg == w) | none => false)
      || (match g.ctx with | some c => !c.held.isEmpty || !c.saved.isEmpty | none => false)
  | none => false

/-- EXIT (R203, R204). -/
def execExit (s : State) : Result :=
  guarded { term := true, need := .core } s fun s =>
    match s.cur with
    | .vthread w t => .next (endThread s w t)
    | .scribe w => if matrixPending s w then .next s else .next (checkEnd (updCtx s w fun c => { c with mode := .ended }) w)
    | .control _ => .next s

/-- SPAWN (R206, R207): the entry's checks, then the lowest free tid. A SPAWN that makes a child is a release of WG scope (R157). -/
def execSpawn (d a b : Field) (s : State) : Result :=
  guarded { ops := [opW d, opRp a, opR b], need := .core } s fun s =>
    (checkEntry s s.cur (readP s a).toNat).run s fun r =>
      match curWg r.2 with
      | some (w, g) =>
        match freeTid g with
        | none => done (writeR r.2 d 0xFFFFFFFF#64)
        | some t =>
          match spawnChild r.2 w t r.1 ((readR s b).setWidth 32) with
          | some s' => if releaseReady s then done (writeR s' d (BitVec.ofNat 64 t)) else .next s
          | none => raise .spill 0 0 s
      | none => .next s

/-- LAUNCH (R208, R427): a release of DEV scope (R157). -/
def execLaunch (d a : Field) (s : State) : Result :=
  guarded { ops := [opW d, opRp a] } s fun s =>
    let va := (readP s a).toNat
    if va % 128 ≠ 0 then raise .misalign va 0 s
    else
      let i := issuer s s.cur
      ((readParts s i va 16 8).bind fun r => offerLaunch r.2 (namedPart s) i.sec (BitVec.ofNat 1024 (ofBytes r.1))).run s fun x =>
        if releaseReady s then done (writeR (release x.2 2) d (BitVec.ofNat 64 x.1)) else .next s

/-! Window and allotment (R67-R70, R209) -/

def execSetwb (a : Field) (s : State) : Result :=
  guarded { ops := [opR a], need := .vector } s fun s =>
    let n := (readR s a).toNat
    match s.cur with
    | .vthread w t => if n % 8 = 0 ∧ n ≤ 248 then done (updThread s w t fun th => { th with wbase := n }) else raise .regbound 0 0 s
    | _ => .next s

/-- GROW (R67): words above max(allot, A) come from the lane bank's free count. -/
def execGrow (d a : Field) (s : State) : Result :=
  guarded { ops := [opW d, opR a], need := .vector } s fun s =>
    let n := (readR s a).toNat
    match s.cur, curWg s with
    | .vthread w t, some (_, g) =>
      let old := ((thread? s w t).map (·.allot)).getD 0
      if n % 8 = 0 ∧ old ≤ n ∧ n ≤ 256 then
        if n - Max.max old g.a ≤ bankFree s (g.cid?.getD 0) (t % 32) then
          let s := if Max.max old g.a < n then updCore s (g.cid?.getD 0) fun c => { c with growRaw := some (coreRaw s (g.cid?.getD 0)) } else s
          done (writeR (updThread s w t fun th =>
            { th with v := th.v.filter (·.1 < old), bad := th.bad.filter (· < old), allot := n }) d (BitVec.ofNat 64 n))
        else done (writeR s d 0)
      else raise .regbound 0 0 s
    | _, _ => .next s

def execShrink (a : Field) (s : State) : Result :=
  guarded { ops := [opR a], need := .vector } s fun s =>
    let n := (readR s a).toNat
    match s.cur with
    | .vthread w t =>
      let old := ((thread? s w t).map (·.allot)).getD 0
      if n % 8 = 0 ∧ 8 ≤ n ∧ n ≤ old then
        done (updThread s w t fun th => { th with v := th.v.filter (·.1 < n), bad := th.bad.filter (· < n), allot := n })
      else raise .regbound 0 0 s
    | _ => .next s

/-! Time (R211) -/

/-- The core whose clock an agent reads: its own, or the Hearth's for a control context. -/
def clockCid (s : State) : Nat := fetchCid s s.cur

def execRdtime (d : Field) (s : State) : Result :=
  guarded { ops := [opWp d] } s fun s => done (writeP s d (BitVec.ofNat 64 (timer s)))
def execRdcyc (d : Field) (s : State) : Result :=
  guarded { ops := [opWp d] } s fun s => done (writeP s d (BitVec.ofNat 64 (coreRaw s (clockCid s))))
def execRdncyc (d : Field) (s : State) : Result :=
  guarded { ops := [opWp d] } s fun s => done (writeP s d (BitVec.ofNat 64 (coreNacc s (clockCid s) / 12)))

/-- The next tick above `now` at which a window of a bank group of a die opens (R139, R140). -/
def nextWindow (die g now : Nat) : Nat :=
  let n := now + 1
  n + ((Config.lrphase die + 800 * g) % 6400 + 6400 - n % 6400) % 6400

/-- What RDLRW returns for an address (R140). -/
def lrwValue (s : State) (i : Issuer) (va : Nat) : Nat :=
  match rangeOf va with
  | .pages =>
    match findLeaf s (walkDie i.die) i.part va with
    | some t =>
      let e := t.pte.toNat
      if pteWs e then
        match area (ptePa t.lvl e (va49 va)) with
        | .larder d o => nextWindow d (bankGroup o) (timer s)
        | _ => 2 ^ 64 - 1
      else 2 ^ 64 - 1
    | none => 2 ^ 64 - 1
  | _ => 2 ^ 64 - 1

/-- The translation of an address is made on an issuer's die, with its report (R353, R354). -/
def noteLeaf (s : State) (i : Issuer) (va : Nat) : State :=
  match rangeOf va, findLeaf s (walkDie i.die) i.part va with
  | .pages, some t => useLeaf s t false
  | _, _ => s

/-- RDLRW (R211): the faults of a one-byte load's translation and permissions, with what the translation itself waits for; the byte is not
read. -/
def execRdlrw (d a : Field) (s : State) : Result :=
  guarded { ops := [opWp d, opRp a] } s fun s =>
    let va := (readP s a).toNat
    let i := issuer s s.cur
    let v := BitVec.ofNat 64 (lrwValue s i va)
    match resolve s i { va := va, size := 1, rd := true } with
    | .bad c f =>
      if (c = .poison ∨ c = .frozen) ∧ !walkBad s (walkDie i.die) i.part va then done (writeP (noteLeaf s i va) d v) else raise c f 0 s
    | .wait => if walkWaits s i.die i.part va then .next s else done (writeP (noteLeaf s i va) d v)
    | _ => done (writeP (noteLeaf s i va) d v)

end Sys2Proof.Machine
end

