-- ==== Sys2Proof/Machine/Memory.lean ====
section
/-! DEFINITION. Loads, stores, acquire and release, fences, atomics and cache maintenance (R232-R240, R257). -/

namespace Sys2Proof.Machine

open Sys2Proof

/-- The effective address of an RI access (R232). -/
def eaRI (s : State) (a : Field) (m : BitVec 11) (size : Nat) : Nat :=
  (readP s a + m.signExtend 64 * BitVec.ofNat 64 size).toNat

/-- A load of n bytes at an address: `wr` writes the value read. -/
def loadAt (s : State) (va n : Nat) (wr : State → Nat → State) : Result :=
  (readMem s (me s) va n).run s fun r => done (wr r.2 (ofBytes r.1))

/-- A store of bytes at an address. -/
def storeAt (s : State) (va : Nat) (l : List Byte) : Result := (writeMem s (me s) va l).run s done

/-! Loads and stores (R234, R235) -/

/-- A load into one register, sign-extended or zero-extended (R234). -/
def load1 (n : Nat) (sg : Bool) (d a : Field) (m : BitVec 11) (s : State) : Result :=
  guarded { ops := [opW d, opRp a] } s fun s =>
    loadAt s (eaRI s a m n) n fun s x => writeR s d (BitVec.ofNat 64 (if sg then sextNat (8 * n) 64 x else x))

def execLdb (d a : Field) (m : BitVec 11) (s : State) : Result := load1 1 true d a m s
def execLdbu (d a : Field) (m : BitVec 11) (s : State) : Result := load1 1 false d a m s
def execLdh (d a : Field) (m : BitVec 11) (s : State) : Result := load1 2 true d a m s
def execLdhu (d a : Field) (m : BitVec 11) (s : State) : Result := load1 2 false d a m s
def execLdw (d a : Field) (m : BitVec 11) (s : State) : Result := load1 4 false d a m s
def execLdd (d a : Field) (m : BitVec 11) (s : State) : Result :=
  guarded { ops := [opWp d, opRp a] } s fun s => loadAt s (eaRI s a m 8) 8 fun s x => writeP s d (BitVec.ofNat 64 x)
def execLdq (d a : Field) (m : BitVec 11) (s : State) : Result :=
  guarded { ops := [opWq d, opRp a] } s fun s => loadAt s (eaRI s a m 16) 16 fun s x => writeQ s d (BitVec.ofNat 128 x)

/-- A store of the low bytes of one register (R234). -/
def store1 (n : Nat) (d a : Field) (m : BitVec 11) (s : State) : Result :=
  guarded { ops := [opR d, opRp a] } s fun s => storeAt s (eaRI s a m n) (toBytes n (readR s d).toNat)

def execStb (d a : Field) (m : BitVec 11) (s : State) : Result := store1 1 d a m s
def execSth (d a : Field) (m : BitVec 11) (s : State) : Result := store1 2 d a m s
def execStw (d a : Field) (m : BitVec 11) (s : State) : Result := store1 4 d a m s
def execStd (d a : Field) (m : BitVec 11) (s : State) : Result :=
  guarded { ops := [opRp d, opRp a] } s fun s => storeAt s (eaRI s a m 8) (toBytes 8 (readP s d).toNat)
def execStq (d a : Field) (m : BitVec 11) (s : State) : Result :=
  guarded { ops := [opRq d, opRp a] } s fun s => storeAt s (eaRI s a m 16) (toBytes 16 (readQ s d).toNat)

/-! Acquire, release and fences (R236, R237) -/

/-- LDAQ (R236). -/
def execLdaq (_x z : BitVec 2) (d a : Field) (s : State) : Result :=
  let n := 2 ^ z.toNat
  guarded { ops := [if z = 3 then opWp d else opW d, opRp a] } s fun s =>
    loadAt s (readP s a).toNat n fun s v => if z = 3 then writeP s d (BitVec.ofNat 64 v) else writeR s d (BitVec.ofNat 64 v)

/-- STRL (R236): the release's write-backs, then the write. -/
def execStrl (x z : BitVec 2) (d a : Field) (s : State) : Result :=
  let n := 2 ^ z.toNat
  guarded { ops := [if z = 3 then opRp d else opR d, opRp a] } s fun s =>
    let l := toBytes n (if z = 3 then readP s d else readR s d).toNat
    (resolve s (me s) { va := (readP s a).toNat, size := n, wr := true }).run s fun t =>
      if releaseReady s then done (writeTgt (release s x.toNat) (me s) t l) else .next s

/-- FENCE (R237): kinds REL, AR and ALL release. -/
def execFence (k x : BitVec 2) (s : State) : Result :=
  guarded {} s fun s => if k = 0 then done s else if releaseReady s then done (release s x.toNat) else .next s

/-! Atomics (R238-R240) -/

/-- A wait watches a line of memory (R242). -/
def Wait.watches (w : Wait) (line : Nat) : Bool := match w with | .watch 0 pa _ _ _ => lineOf pa == line | _ => false

/-- The home of a line grants no U copy of it: it is subscribed or watched (R240, R319). The Hearth's watch of a Pending launch's dependence
counter (R367) is not taken for such a watch (DESIGN CHOICE, log 100). -/
def lineWatched (s : State) (line : Nat) : Bool :=
  s.subs.any (fun x => lineOf x.pa == line)
  || (s.wgs.any fun g =>
      g.2.threads.any (fun t => match t.2.st with | .waiting w => w.watches line | _ => false)
      || g.2.ctx.any fun c => match c.mode with | .waiting w => w.watches line | _ => false)
  || s.ctl.any fun c => match c.2.mode with | .waiting w => w.watches line | _ => false

/-- Whether a reduction is held as a U delta of the core's L1 (R122, R240): host memory and peers have it at their own point. -/
def uCase (s : State) (i : Issuer) (t : Tgt) (scope : Nat) : Option Nat :=
  match l1Of i t with
  | some c =>
    let l := (lineState s (lineOf t.pa)).get {} c
    if scope ≠ 0 ∧ !sysPoint t ∧ !lineWatched s (lineOf t.pa) ∧ l.w &&& wordMask t.pa 4 = 0 then some c else none
  | none => none

/-- A reduction applied to the delta of a word in a core's U copy (R122): a copy that held words gives its dirty ones back and keeps
no V (R119), and deltas of another kind on the word go to the home `h` first. The copies that other L1s hold of the line's words stay as
they are: the spec does not say what becomes of their V, W and D bits (DESIGN CHOICE, log 76). -/
def uReduce (s : State) (c h : Nat) (pa fn : Nat) (v : Word32) (cmp : Bool) : State :=
  let line := lineOf pa
  let w := pa % 128 / 4
  let s := sliceLine (makeRoom s c line) c h line
  let l := (lineState s line).get {} c
  let s := match l.u.find w with
    | some x => if x.kind = fn then s else applyDeltas s line [(w, x)]
    | none => s
  let old := match l.u.find w with
    | some x => if x.kind = fn then x.val else uIdentity fn
    | none => uIdentity fn
  let delta : UDelta := { kind := fn, val := uApply fn old v, cmp := cmp }
  setLine s line ((lineState s line).put c { v := 0, w := 0, d := 0, u := l.u.put w delta, home := keptHome h pa })

/-- An atomic of n bytes at a scope (R123, R239): `f` gives the new value, or none for no write, and `wr` writes the old one. A reduction
of a line that is subscribed or watched is performed at its home (R240, R319). -/
def atomAt (x : BitVec 2) (n : Nat) (red : Bool) (f : Nat → Option Nat) (wr : State → Nat → State) (va : Nat) (s : State) : Result :=
  (rmwMem s (me s) x.toNat va n f fun line => red && lineWatched s line).run s fun r => done (wr r.2 r.1)

/-- A 32-bit atomic with one operand. -/
def atom32 (x : BitVec 2) (f : Word32 → Word32 → Word32) (d a b : Field) (s : State) : Result :=
  guarded { ops := [opW d, opRp a, opR b] } s fun s =>
    let v := (readR s b).setWidth 32
    atomAt x 4 (d == 127) (fun o => some (f (BitVec.ofNat 32 o) v).toNat) (fun s o => writeR s d (BitVec.ofNat 64 o)) (readP s a).toNat s

/-- A reduction of R122, by its fn: held as a U delta where it may be. -/
def reduce32 (fn : Nat) (x : BitVec 2) (d a b : Field) (s : State) : Result :=
  if d ≠ 127 then atom32 x (uApply fn) d a b s
  else guarded { ops := [opW d, opRp a, opR b] } s fun s =>
    let v := (readR s b).setWidth 32
    let va := (readP s a).toNat
    (resolve s (me s) { va := va, size := 4, rd := true, wr := true }).run s fun t =>
      match uCase s (me s) t x.toNat with
      | some c => done (uReduce (useTgt s t true) c (homeOf t.pte t.pa) t.pa fn v (pteCmp t.pte))
      | none => atomAt x 4 true (fun o => some (uApply fn (BitVec.ofNat 32 o) v).toNat) (fun s _ => s) va s

def execAtomAdd (x : BitVec 2) (d a b : Field) (s : State) : Result := reduce32 0 x d a b s
def execAtomMin (x : BitVec 2) (d a b : Field) (s : State) : Result := reduce32 1 x d a b s
def execAtomMax (x : BitVec 2) (d a b : Field) (s : State) : Result := reduce32 2 x d a b s
def execAtomMinu (x : BitVec 2) (d a b : Field) (s : State) : Result := atom32 x (fun o v => if o.toNat ≤ v.toNat then o else v) d a b s
def execAtomMaxu (x : BitVec 2) (d a b : Field) (s : State) : Result := atom32 x (fun o v => if o.toNat ≥ v.toNat then o else v) d a b s
def execAtomAnd (x : BitVec 2) (d a b : Field) (s : State) : Result := reduce32 5 x d a b s
def execAtomOr (x : BitVec 2) (d a b : Field) (s : State) : Result := reduce32 6 x d a b s
def execAtomXor (x : BitVec 2) (d a b : Field) (s : State) : Result := reduce32 7 x d a b s
def execAtomSwap (x : BitVec 2) (d a b : Field) (s : State) : Result := atom32 x (fun _ v => v) d a b s
def execAtomIncw (x : BitVec 2) (d a b : Field) (s : State) : Result :=
  atom32 x (fun o v => if o.toNat ≥ v.toNat then 0 else o + 1) d a b s
def execAtomFadd (x : BitVec 2) (d a b : Field) (s : State) : Result :=
  atom32 x (fun o v => BitVec.ofNat 32 (fAddW .fp32 o.toNat v.toNat)) d a b s
/-- HADD2: the two halves apart. -/
def hadd2Word (o v : Word32) : Word32 :=
  BitVec.ofNat 32 (fAddW .fp16 (o.toNat % 65536) (v.toNat % 65536) + 65536 * fAddW .fp16 (o.toNat / 65536) (v.toNat / 65536))
def execAtomHadd2 (x : BitVec 2) (d a b : Field) (s : State) : Result := atom32 x hadd2Word d a b s

/-- CAS: expected in the first register of b, new in the second; on the Scribe the halves of one (R238). -/
def execAtomCas (x : BitVec 2) (d a b : Field) (s : State) : Result :=
  guarded { ops := [opW d, opRp a, opRp b] } s fun s =>
    let v := (readP s b).toNat
    atomAt x 4 false (fun o => if o = v % 2 ^ 32 then some (v / 2 ^ 32) else none) (fun s o => writeR s d (BitVec.ofNat 64 o)) (readP s a).toNat s

def execAtomLadd (x : BitVec 2) (d a b : Field) (s : State) : Result :=
  guarded { ops := [opWp d, opRp a, opRp b] } s fun s =>
    let v := (readP s b).toNat
    atomAt x 8 (d == 127) (fun o => some ((o + v) % 2 ^ 64)) (fun s o => writeP s d (BitVec.ofNat 64 o)) (readP s a).toNat s

def execAtomLcas (x : BitVec 2) (d a b : Field) (s : State) : Result :=
  guarded { ops := [opWp d, opRp a, opRq b] } s fun s =>
    let v := (readQ s b).toNat
    atomAt x 8 false (fun o => if o = v % 2 ^ 64 then some (v / 2 ^ 64) else none) (fun s o => writeP s d (BitVec.ofNat 64 o)) (readP s a).toNat s

/-! Cache maintenance (R142, R257) -/

/-- PREF (R257): the L1 asks for the line with the permissions of a load; what would fault is ignored. -/
def execPref (a : Field) (s : State) : Result :=
  guarded { ops := [opRp a] } s fun s =>
    match resolve s (me s) { va := (readP s a).toNat, size := 1, rd := true } with
    | .ok t =>
      match l1Of (me s) t with
      | some c =>
        let s := lineRead (useTgt s t false) (lineOf t.pa) (BitVec.allOnes 32) (some c)
        done (cacheUse s { me s with cid := some c } t.pte (t.pa / 128 * 128) 128 false)
      | none => done s
    | _ => done s

/-- The instruction caches of the cores that `f` names are invalidated (R142). -/
def icinv (f : State → Nat → Bool) (s : State) : Result :=
  guarded {} s fun s => done { s with icache := s.icache.filter fun x => !f s (x.1 / 2 ^ 52) }

/-- A core belongs to the issuer's partition, or is the issuer's own. -/
def coreOurs (s : State) (cid : Nat) : Bool :=
  cid == fetchCid s s.cur || (cidDie cid != 0 && isMember s (me s).part (cidDie cid) (cidCg cid))

def execIcinvCore (s : State) : Result := icinv (fun s c => c == fetchCid s s.cur) s
def execIcinvDie (s : State) : Result := icinv (fun s c => cidDie c == (me s).die && coreOurs s c) s
def execIcinvDev (s : State) : Result := icinv coreOurs s
/-- ICINV.SYS orders at SYSTEM scope as well (R142): it waits for the agent's accesses to complete and writes back as a release of that
scope does. -/
def execIcinvSys (s : State) : Result :=
  guarded {} s fun s =>
    if releaseReady s then
      let s := release s 3
      done { s with icache := s.icache.filter fun x => !coreOurs s (x.1 / 2 ^ 52) }
    else .next s

end Sys2Proof.Machine
end

