-- ==== Sys2Proof/Machine/Sync.lean ====
section
/-! DEFINITION. Waiting on a location, standing loads, cohorts, sideband barriers and channels (R241-R254, R402). -/

namespace Sys2Proof.Machine

open Sys2Proof

/-- A waiting terminator: the checks of its successor come before anything else (R200). -/
def waiting (s : State) (k : Succ → State → Result) : Result := (nextBlock s).run s fun r => k r.1 r.2

/-- What a form writes to a destination field: one register, a pair or a quad. -/
def writeSized (s : State) (a : Agent) (n : OpSize) (f : Nat) (v : BitVec 128) : State :=
  match n with
  | .one => writeRA s a f (v.setWidth 64)
  | .two => writePA s a f (v.setWidth 64)
  | .four => writeQA s a f v

/-! WAIT (R241, R242) -/

/-- The condition of a WAIT form: 0 GE, 1 NE, 2 EQ. -/
def waitHolds (form v b : Nat) : Bool :=
  match form with
  | 0 => decide (b ≤ v)
  | 1 => v != b
  | _ => v == b

/-- The destination's size and the bytes watched of a WAIT form. -/
def waitSize (form : Nat) : OpSize × Nat := if form = 0 then (.two, 8) else (.one, 4)

/-- The place a WAIT watches: a workgroup's scratchpad, named plus one, or physical memory with 0. -/
def watchPlace (t : Tgt) : Nat × Nat :=
  match t.loc with
  | .phys pa => (0, pa)
  | .spad w o => (w + 1, o)

/-- A WAIT form after the checks of R177. -/
def waitForm (form : Nat) (d : Field) (va b : Nat) (s : State) : Result :=
  waiting s fun u s' =>
    let (sz, n) := waitSize form
    (resolve s' (me s') { va := va, size := n, rd := true }).run s fun t =>
      let (l, s') := readTgt s' (me s') t n
      let v := ofBytes l
      if waitHolds form v b then goOnWith s (writeSized s' s'.cur sz d.toNat (BitVec.ofNat 128 v)) u
      else .next (suspend s' (.watch (watchPlace t).1 (watchPlace t).2 form b d.toNat) u)

def execWaitge (d a b : Field) (s : State) : Result :=
  guarded { ops := [opWcp d, opRp a, opRp b], term := true } s fun s => waitForm 0 d (readP s a).toNat (readP s b).toNat s
def execWaitne (d a b : Field) (s : State) : Result :=
  guarded { ops := [opWc d, opRp a, opR b], term := true } s fun s =>
    waitForm 1 d (readP s a).toNat ((readR s b).toNat % 2 ^ 32) s
def execWaiteq (d a b : Field) (s : State) : Result :=
  guarded { ops := [opWc d, opRp a, opR b], term := true } s fun s =>
    waitForm 2 d (readP s a).toNat ((readR s b).toNat % 2 ^ 32) s

/-- What an agent waits for, if it waits. -/
def waitOf (s : State) (a : Agent) : Option Wait :=
  match a with
  | .vthread w t => (thread? s w t).bind fun th =>
    match th.st with
    | .waiting x => some x
    | _ => none
  | .scribe w => ((wg? s w).bind fun g => g.ctx).bind fun c =>
    match c.mode with
    | .waiting x => some x
    | _ => none
  | .control n =>
    match (ctl s n).mode with
    | .waiting x => some x
    | _ => none

/-- The agent's workgroup, if it has one, is resident. -/
def agentHere (s : State) (a : Agent) : Bool :=
  match a with
  | .vthread w _ | .scribe w => (wg? s w).any fun g => g.cid?.isSome
  | .control _ => true

/-- The watched bytes, read at their home for an agent of a die, and the state after; none while they cannot be read, and while their line is
poisoned or frozen, which the spec gives a re-read no fault for. Of a scratchpad a poisoned word waits in the same way, the word of a
workgroup that has ended reads 0 (DESIGN CHOICE, log 62), and a spoilt slot record is undefined-valued (R243). -/
def rereadPlace (s : State) (d spad pa n : Nat) : Option (Nat × State) :=
  if spad ≠ 0 then
    if (wg? s (spad - 1)).any fun g => spadPoisoned g pa n then none
    else if slotSpoiled s (spad - 1) pa n then let r := freeBytes s n; some (ofBytes r.1, r.2)
    else some (ofBytes (locBytes s (.spad (spad - 1) pa) n), s)
  else match area pa with
    | .regs o => some (ofBytes (regsRead s o n), s)
    | _ =>
      if linePoisoned s (lineOf pa) || s.frozen.contains (lineOf pa) then none
      else (homeRead s d pa n).map fun r => (ofBytes r.1, r.2)

/-- A re-read of a watched location (R242): it satisfies the wait when the condition holds. -/
def reread (s : State) (a : Agent) (x : Wait) : Option State :=
  match x with
  | .watch spad pa form b d =>
    let (sz, n) := waitSize form
    match rereadPlace s (issuer s a).die spad pa n with
    | some (v, s) => some (if waitHolds form v b then wakeAgent (writeSized s a sz d (BitVec.ofNat 128 v)) a else s)
    | none => none
  | _ => none

/-- WAIT_REREAD (R242). -/
def execWaitReread (ag : Agent) (s : State) : Result :=
  match waitOf s ag with
  | some x => if agentHere s ag then (match reread s ag x with | some s => .next s | none => off s) else off s
  | none => off s

/-! Slot records (R243-R247) -/

/-- The virtual address of a scratchpad offset in the self window. -/
def selfVa (o : Nat) : Nat := 0xFFFFFF0000000000 + o

/-- The checks of a slot record's offset (R243). -/
def slotTarget (s : State) (o : Nat) (wr : Bool) : Out Nat :=
  (resolve s (me s) { va := selfVa o, size := 32, rd := true, wr := wr }).bind fun _ => .ok o

/-- A fresh record of LDSUB (R244). -/
def slotFresh (base st : Nat) (dw : Bool) (va : Nat) : Nat := base + (st + b2n dw * 512) * 2 ^ 96 + va * 2 ^ 192

/-- A push applied to a record (R245). -/
def slotPush (r v k : Nat) : Nat :=
  let cnt := (slotCnt r + k) % 2 ^ 32
  let r := setBits (setBits r 63 0 v) 95 64 cnt
  let lim := bits r 191 160
  if lim ≠ 0 ∧ lim < (cnt + 2 ^ 32 - bits r 159 128) % 2 ^ 32 then setBits r 104 104 1 else r

/-- LDSUB makes a record anew: it is undefined-valued no more, and a subscription that a program's write has cut off from it ends
(R243; the end is the model's choice, log 62). -/
def dropSlot (s : State) (w o : Nat) : State :=
  updWg (dropSubs s fun x => x.wg == w && x.off == o) w fun g => { g with slotBad := g.slotBad.filter (· != o) }

/-- LDSUB and LDSUB.D (R244). -/
def ldsub (dw : Bool) (d : Field) (va o : Nat) (s : State) : Result :=
  let n := if dw then 8 else 4
  (slotTarget s o true).run s fun _ =>
  (resolve s (me s) { va := va, size := n, rd := true }).run s fun t =>
    let hbm := t.isPhys && (match area t.pa with | .hbm => true | _ => false)
    if !hbm || pteWs t.pte || pteRow t.pte || pteHost t.pte then raise .xlateAttr va 0 s
    else match curWg s with
      | some (w, g) =>
        let r := slotRead s w o
        if slotState r.1 = 1 then raise .illegal 0 0 r.2
        else
          let s := dropSlot r.2 w o
          let (l, s) := readTgt s { me s with cid := none } t n
          let v := ofBytes l
          let home := homeOf t.pte t.pa
          let mine := (s.subs.filter fun x => (wg? s x.wg).any fun y => y.cid? == g.cid?).length
          let full := decide (64 ≤ mine) || decide (1024 ≤ (s.subs.filter (·.home == home)).length)
          let s := slotPut s w o (slotFresh v (if full then 2 else 1) dw va)
          let s := if full then s else
            { s with subs := s.subs ++ [{ id := s.nextId, wg := w, off := o, pa := t.pa, dw := dw, push := none, merged := none,
                                          closing := false, home := home }],
                     nextId := s.nextId + 1 }
          done (if dw then writeP s d (BitVec.ofNat 64 v) else writeR s d (BitVec.ofNat 64 v))
      | none => .next s

def execLdsub (d a b : Field) (s : State) : Result :=
  guarded { ops := [opW d, opRp a, opR b], need := .vector } s fun s => ldsub false d (readP s a).toNat (readR s b).toNat s
def execLdsubD (d a b : Field) (s : State) : Result :=
  guarded { ops := [opWp d, opRp a, opR b], need := .vector } s fun s => ldsub true d (readP s a).toNat (readR s b).toNat s

/-- The workgroup of the executing thread, by name. -/
def myWg (s : State) : Nat := (curWg s).elim 0 (·.1)

def execSlotrd (d b : Field) (s : State) : Result :=
  guarded { ops := [opWq d, opR b], need := .vector } s fun s =>
    (slotTarget s (readR s b).toNat false).run s fun o =>
      if slotPending s (myWg s) o then .next s
      else let r := slotRead s (myWg s) o; done (writeQ r.2 d (BitVec.ofNat 128 r.1))

def execSlotst (d b : Field) (s : State) : Result :=
  guarded { ops := [opRp d, opR b], need := .vector } s fun s =>
    (slotTarget s (readR s b).toNat true).run s fun o =>
      let r := setBits (setBits (slotGet s (myWg s) o) 191 128 (readP s d).toNat) 104 104 0
      done (slotPut s (myWg s) o r)

def execSlotwait (d a b : Field) (s : State) : Result :=
  guarded { ops := [opWcq d, opR a, opR b], term := true, need := .vector } s fun s =>
    waiting s fun u s' =>
      (slotTarget s' (readR s b).toNat false).run s fun o =>
        if slotPending s (myWg s) o then .next s
        else
          let r := slotRead s' (myWg s) o
          let x := (readR s a).toNat
          if slotHolds r.1 x then goOnWith s (writeQ r.2 d (BitVec.ofNat 128 r.1)) u
          else .next (suspend r.2 (.slot o x d.toNat) u)

/-- UNSUB (R247). -/
def execUnsub (d b : Field) (s : State) : Result :=
  guarded { ops := [opWc d, opR b], term := true, need := .vector } s fun s =>
    waiting s fun u s' =>
      (slotTarget s' (readR s b).toNat true).run s fun o =>
        let w := myWg s
        let r := slotRead s' w o
        if slotState r.1 = 1 ∧ s'.subs.any (fun x => x.wg == w && x.off == o) then
          let s' := suspend r.2 (.unsub o d.toNat) u
          .next { s' with subs := s'.subs.map fun x => if x.wg == w && x.off == o then { x with closing := true } else x }
        else goOnWith s (writeR r.2 d (BitVec.ofNat 64 (slotCnt r.1))) u

/-- A subscription whose push in flight is acknowledged: the merged writes are sent (R245). -/
def Sub.acked (y : Sub) (ord tick : Nat) : Sub :=
  { y with push := y.merged, merged := none, fwd := false, span := y.mspan, mspan := [], ord := ord, tick := tick }

/-- The push in flight of a subscription is applied and acknowledged, and the merged one goes on its way (R245). -/
def applyPush (s : State) (sub : Nat) : State :=
  match s.subs.find? fun x => x.id == sub with
  | some x =>
    match x.push with
    | some (v, k) =>
      let s := countItem (slotPut s x.wg x.off (slotPush (slotGet s x.wg x.off) v.toNat k)) x.wg
      let next (y : Sub) : Sub := if y.id == sub then y.acked s.nextId (timer s) else y
      wakeSlots { s with subs := s.subs.map next, nextId := s.nextId + 1 } x
    | none => s
  | none => s

/-- SUBSCRIPTION_PUSH (R245): the push reaches the subscriber's core, or one that forwards it (R376), in the order in which its home sent
what goes there (R386). -/
def execSubscriptionPush (sub : Nat) (s : State) : Result :=
  match s.subs.find? fun x => x.id == sub with
  | some x =>
    if x.push.isSome && !x.fwd && (pushMsg s x).all (arrives s) then
      match forwarder s x.wg (some x.home) with
      | some cid =>
        let mark (y : Sub) : Sub := if y.id == sub then { y with fwd := true } else y
        .next { s with subs := s.subs.map mark, items := s.items ++ [{ cid := cid, wg := x.wg, kind := .push sub, ord := s.nextId, tick := timer s }],
                       nextId := s.nextId + 1 }
      | none => .next (applyPush s sub)
    else off s
  | none => off s

/-- Threads waiting in UNSUB on a record go on with its count (R247). -/
def unsubWake (s : State) (w o : Nat) : State :=
  match wg? s w with
  | some g =>
    g.threads.foldl (fun s t =>
      match t.2.st with
      | .waiting (.unsub o' d) =>
        if o' = o then
          let r := slotRead s w o
          wake (writeRA r.2 (.vthread w t.1) d (BitVec.ofNat 64 (slotCnt r.1))) w t.1
        else s
      | _ => s) s
  | none => s

/-- A subscription ends with a state of its record: 3 CLOSED, 4 LOST (R245, R247). -/
def endSub (s : State) (x : Sub) (st : Nat) : State :=
  let s := slotPut s x.wg x.off (setBits (slotGet s x.wg x.off) 103 96 st)
  let s := dropSubs s fun y => y.id == x.id
  unsubWake (slotWake s x.wg x.off) x.wg x.off

/-- UNSUB_COMPLETE (R247): after the final push the home acknowledges. -/
def execUnsubComplete (sub : Nat) (s : State) : Result :=
  match s.subs.find? fun x => x.id == sub with
  | some x => if x.closing && x.push.isNone && x.merged.isNone then .next (endSub s x 3) else off s
  | none => off s

/-- Every record subscribed to a line is LOST (R245). -/
def loseSubs (s : State) (line : Nat) : State :=
  (s.subs.filter fun x => lineOf x.pa == line).foldl (fun s x => endSub s x 4) s

/-! Cohorts (R248-R252) -/

/-- The executing thread with its workgroup. -/
def curThread (s : State) : Option (Nat × Workgroup × Nat) :=
  match s.cur with
  | .vthread w t => (wg? s w).map fun g => (w, g, t)
  | _ => none

def rankOf (c : Cohort) (t : Nat) : Option Nat := c.members.findIdx? (· == t)

def execCmake (d a : Field) (s : State) : Result :=
  guarded { ops := [opW d, opR a], need := .vector } s fun s =>
    match curThread s with
    | some (w, g, _) =>
      let x := (readR s a).toNat
      let m := if x = 0 ∨ g.tmax < x then g.tmax else x
      match (List.range g.cRes).find? fun i => !(g.cohorts.get {} i).alloc with
      | some i =>
        let c := g.cohorts.get {} i
        done (writeR (setCohort s w i { gen := c.gen, alloc := true, lim := m }) d (BitVec.ofNat 64 (cohortHandle i c.gen)))
      | none => done (writeR s d 0xFFFFFFFF#64)
    | none => .next s

def execJoin (d a : Field) (s : State) : Result :=
  guarded { ops := [opW d, opR a], need := .vector } s fun s =>
    match curThread s with
    | some (w, g, t) =>
      match cohortOf g ((readR s a).setWidth 32) with
      | none => done (writeR s d 0xFFFFFFFF#64)
      | some (i, c) =>
        match rankOf c t with
        | some r => done (writeR s d (BitVec.ofNat 64 r))
        | none =>
          if c.lim ≤ c.members.length then done (writeR s d 0xFFFFFFFE#64)
          else done (writeR (setCohort s w i { c with members := c.members ++ [t] }) d (BitVec.ofNat 64 c.members.length))
    | none => .next s

def execLeave (a : Field) (s : State) : Result :=
  guarded { ops := [opR a], need := .vector } s fun s =>
    match curThread s with
    | some (w, g, t) =>
      match cohortOf g ((readR s a).setWidth 32) with
      | some (i, _) => done (leaveCohort s w i t)
      | none => done s
    | none => .next s

def execCsize (d a : Field) (s : State) : Result :=
  guarded { ops := [opW d, opR a], need := .vector } s fun s =>
    match curThread s with
    | some (_, g, _) =>
      let n := match cohortOf g ((readR s a).setWidth 32) with
        | some (_, c) => c.members.length
        | none => 0
      done (writeR s d (BitVec.ofNat 64 n))
    | none => .next s

/-- The cohort of a handle of which the executing thread is a member (R250). -/
def memberOf (g : Workgroup) (h : Word32) (t : Nat) : Option (Nat × Cohort) :=
  (cohortOf g h).bind fun x => if x.2.members.contains t then some x else none

/-- An arrival has happened: when it completes its instance the executing thread's wait already holds, so it needs its place now
(R36, R55, R200). -/
def arrived (s s' : State) (w t : Nat) : Result :=
  if (thread? s' w t).any fun th => th.st == .waiting .place then raise .spill 0 0 s else .next s'

/-- A barrier arrival. -/
def barArr (t : Nat) : CArr := { tid := t, fn := none, x := 0, b := 0, blk := default, roff := 0, word := 0, ts := [] }

/-- BARA (R251). -/
def execBara (a : Field) (s : State) : Result :=
  guarded { ops := [opR a], need := .vector } s fun s =>
    match curThread s with
    | some (w, g, t) =>
      match memberOf g ((readR s a).setWidth 32) t with
      | some (i, c) =>
        if c.bara.any fun x => x.1 == t then done s
        else done (arrive (setCohort s w i { c with bara := c.bara ++ [(t, instFor c t)] }) w i (barArr t))
      | none => raise .illegal 0 0 s
    | none => .next s

/-- BARW (R251); its arrival is a release (R157). -/
def execBarw (a : Field) (s : State) : Result :=
  guarded { ops := [opR a], term := true, need := .vector } s fun s =>
    waiting s fun u s' =>
      match curThread s' with
      | some (w, g, t) =>
        match memberOf g ((readR s a).setWidth 32) t with
        | some (i, c) =>
          if !releaseReady s then .next s
          else match c.bara.find? fun x => x.1 == t with
          | some (_, k) =>
            let s' := setCohort s' w i { c with bara := c.bara.filter fun x => x.1 != t }
            if k < c.done then goOnWith s s' u else .next (suspend s' (.bar i k) u)
          | none => arrived s (arrive (suspend s' (.bar i (instFor c t)) u) w i (barArr t)) w t
        | none => raise .illegal 0 0 s
      | none => .next s

/-- The block, word offset and transients of the executing thread, which a record of its XPERM keeps (R252). -/
def whereNow (s : State) (w t : Nat) : Succ × Nat × List Word32 :=
  match runPlace s w t with
  | some (cid, b) =>
    match (coreAt s cid).batches.find b with
    | some x => (((thread? s w t).map (·.succ)).getD default, x.word, (List.range 16).map fun i => ((coreAt s cid).lanes.get {} (laneKey b (t % 32))).t.get 0 i)
    | none => (default, 0, [])
  | none => (default, 0, [])

/-- A collective form (R250, R252): the input is d, `b` what else the form names. Its arrival is a release (R157). -/
def collective (fn : Nat) (d : Field) (h b : Word32) (s : State) : Result :=
  waiting s fun u s' =>
    match curThread s' with
    | some (w, g, t) =>
      match memberOf g h t with
      | some (i, c) =>
        if c.bara.any fun x => x.1 == t then raise .illegal 0 0 s
        else if !releaseReady s then .next s
        else
          let p := whereNow s' w t
          let arr : CArr := { tid := t, fn := some fn, x := (readR s' d).setWidth 32, b := b, blk := p.1, roff := p.2.1, word := s.ir, ts := p.2.2 }
          arrived s (arrive (suspend s' (.coll i (instFor c t) d.toNat) u) w i arr) w t
      | none => raise .illegal 0 0 s
    | none => .next s

/-- A collective form without a b operand. -/
def coll1 (fn : Nat) (d a : Field) (s : State) : Result :=
  guarded { ops := [opMc d, opR a], term := true, need := .vector } s fun s => collective fn d ((readR s a).setWidth 32) 0 s

def execCradd (d a : Field) (s : State) : Result := coll1 0 d a s
def execCrfadd (d a : Field) (s : State) : Result := coll1 1 d a s
def execCrmin (d a : Field) (s : State) : Result := coll1 2 d a s
def execCrmax (d a : Field) (s : State) : Result := coll1 3 d a s
def execCscan (d a : Field) (s : State) : Result := coll1 4 d a s
def execCfscan (d a : Field) (s : State) : Result := coll1 5 d a s
def execCbcast (d a b : Field) (s : State) : Result :=
  guarded { ops := [opMc d, opR a, opR b], term := true, need := .vector } s fun s =>
    collective 6 d ((readR s a).setWidth 32) ((readR s b).setWidth 32) s
def execXperm (d a b : Field) (s : State) : Result :=
  guarded { ops := [opMc d, opR a], lits := [(b.toNat, 32)], term := true, need := .vector } s fun s =>
    collective 7 d ((readR s a).setWidth 32) (b.setWidth 32) s
def execCshuf (d a b : Field) (s : State) : Result :=
  guarded { ops := [opMc d, opR a, opR b], term := true, need := .vector } s fun s =>
    collective 8 d ((readR s a).setWidth 32) ((readR s b).setWidth 32) s

/-! Sideband barriers (R253, R402) -/

/-- A barrier is assigned to a partition (PBOWN, R79). -/
def pbAssigned (s : State) (p pb : Nat) : Bool := let v := csrGet s (0x4C0 + pb) 0; bitAt v 31 && v % 64 == p

/-- The checks of PBARA and PBARW: assigned (UNIT), enabled (ILLEGAL). -/
def pbFault (s : State) (pb : Nat) : Option Cause :=
  if !pbAssigned s (me s).part pb then some .unit
  else if (s.pbs.get {} pb).n = 0 then some .illegal
  else none

/-- A thread's arrival, a release of DEV scope (R157), which may complete its workgroup's (R253). -/
def pbArrive (s : State) (w t pb : Nat) : State :=
  pbarCheck (updThread (release s 2) w t fun th => { th with pbs := th.pbs.put pb false }) w pb

def execPbara (b : Field) (s : State) : Result :=
  guarded { lits := [(b.toNat, 64)], need := .vector } s fun s =>
    match pbFault s b.toNat, s.cur with
    | some c, _ => raise c 0 0 s
    | none, .vthread w t =>
      if ((thread? s w t).bind fun th => th.pbs.find b.toNat).isSome then done s
      else if releaseReady s then done (pbArrive s w t b.toNat) else .next s
    | none, _ => .next s

def execPbarw (b : Field) (s : State) : Result :=
  guarded { lits := [(b.toNat, 64)], term := true, need := .vector } s fun s =>
    waiting s fun u s' =>
      match pbFault s b.toNat, s.cur with
      | some c, _ => raise c 0 0 s
      | none, .vthread w t =>
        match (thread? s' w t).bind fun th => th.pbs.find b.toNat with
        | some true => goOnWith s (updThread s' w t fun th => { th with pbs := th.pbs.erase b.toNat }) u
        | some false => .next (suspend s' (.pbar b.toNat) u)
        | none => .next (if releaseReady s then pbArrive (suspend s' (.pbar b.toNat) u) w t b.toNat else s)
      | none, _ => .next s

/-- The phase ends at a tick when the arrivals make the count; what lies beyond the count is of the next phase (R402). -/
def PBar.tally (b : PBar) (tick : Nat) : PBar :=
  if b.endT.isNone && b.n != 0 && decide (b.n ≤ b.arr.length) then
    { b with endT := some tick, arr := b.arr.take b.n, nxt := b.arr.drop b.n ++ b.nxt }
  else b

/-- An arrival reaches the root now (R402). -/
def rootArrive (s : State) (x : Nat × Nat × Nat) : State :=
  let b := s.pbs.get {} x.1
  let b := if b.endT.isSome then { b with nxt := b.nxt ++ [x.2.1] } else PBar.tally { b with arr := b.arr ++ [x.2.1] } (timer s)
  { s with pbFlight := s.pbFlight.filter (· != x), pbs := s.pbs.put x.1 b }

/-- PBARRIER_ROOT_ARRIVAL (R402). -/
def execPbarrierRootArrival (pb wg : Nat) (s : State) : Result :=
  match s.pbFlight.find? fun x => x.1 == pb && x.2.1 == wg with
  | some x => .next (rootArrive s x)
  | none => off s

/-- The release delivered to one workgroup (R253): its waiters go on; for the others it is recorded. -/
def pbDeliver (s : State) (w pb : Nat) : State :=
  match wg? s w with
  | some g =>
    match g.cid? with
    | none =>
      let s := countItem (setWg s w { g with pbRel := insertAsc g.pbRel pb }) w
      match g.place with
      | .saved a => headerPut s g.part a 1 [1]
      | .resident _ => s
    | some _ =>
      let s := setWg s w { g with pbSent := g.pbSent.filter (· != pb) }
      g.threads.foldl (fun s t =>
        if t.2.pbs.find pb == some false then
          if t.2.st == .waiting (.pbar pb) then
            wake (updThread s w t.1 fun th => { th with pbs := th.pbs.erase pb }) w t.1
          else updThread s w t.1 fun th => { th with pbs := th.pbs.put pb true }
        else s) s
  | none => s

/-- The release of a phase reaches the die nodes (R402). -/
def pbRelease (s : State) (pb : Nat) : State :=
  let b := s.pbs.get {} pb
  let send (s : State) (w : Nat) : State :=
    match forwarder s w none with
    | some cid => { s with items := s.items ++ [{ cid := cid, wg := w, kind := .release pb, ord := s.nextId, tick := timer s }], nextId := s.nextId + 1 }
    | none => pbDeliver s w pb
  let s := b.arr.foldl send s
  { s with pbs := s.pbs.put pb (PBar.tally { b with phase := !b.phase, arr := b.nxt, nxt := [], endT := none } (timer s)) }

/-- PBARRIER_RELEASE (R402): 40 ticks after the phase ended. -/
def execPbarrierRelease (pb : Nat) (s : State) : Result :=
  match (s.pbs.get {} pb).endT with
  | some t => if t + 40 ≤ timer s then .next (pbRelease s pb) else off s
  | none => off s

/-- What the barrier tree does next at latest: the tick, the barrier, and the arrival that reaches the root 16 ticks after it was made, or none
for a release (R402). -/
def barrierNext (s : State) : Option (Nat × Nat × Option (Nat × Nat × Nat)) :=
  let ends : List (Nat × Nat × Option (Nat × Nat × Nat)) := s.pbs.filterMap fun x => x.2.endT.map fun t => (t + 40, x.1, none)
  let due : List (Nat × Nat × Option (Nat × Nat × Nat)) := s.pbFlight.map fun x => (x.2.2 + 16, x.1, some x)
  match ends ++ due with
  | [] => none
  | y :: l => some (l.foldl (fun y x => if y.1 ≤ x.1 then y else x) y)

/-- Time passes up to a tick, the barrier tree keeping to its ticks (R402); the first number bounds its acts. -/
def barriersUntil : Nat → State → Nat → State
  | 0, s, _ => s
  | n + 1, s, u =>
    match barrierNext s with
    | some (t, pb, x) =>
      if t ≤ u then
        let s := elapse s (t * Config.tickUnits - s.now)
        barriersUntil n (match x with | some x => rootArrive s x | none => pbRelease s pb) u
      else s
    | none => s

/-- Time passes (R402, R404). -/
def passTime (s : State) (dt : Nat) : State :=
  let u := s.now + dt
  let n := s.pbs.foldl (fun n x => n + x.2.arr.length + x.2.nxt.length) (2 * s.pbFlight.length)
  let s := barriersUntil (n + s.pbs.length) s (u / Config.tickUnits)
  elapse s (u - s.now)

/-! Channels (R254) -/

/-- The channel bound to the executing agent's workgroup (R79). -/
def myChan (s : State) (ch : Nat) : Option (Nat × Chan) := (curWg s).bind fun x => (x.2.chans.find ch).map fun c => (x.1, c)
def setChan (s : State) (w ch : Nat) (c : Chan) : State := updWg s w fun g => { g with chans := g.chans.put ch c }

/-- A message to a channel with room: to the first waiting receiver, else into the FIFO. -/
def deliver (s : State) (w ch : Nat) (c : Chan) (x : Word32) : State :=
  match c.recvs with
  | r :: l =>
    let s := setChan s w ch { c with recvs := l }
    match waitOf s r with
    | some (.recv _ d) => wakeAgent (writeRA s r d (x.setWidth 64)) r
    | _ => s
  | [] => setChan s w ch { c with fifo := c.fifo ++ [x] }

def execSend (a b : Field) (s : State) : Result :=
  guarded { ops := [opR a], lits := [(b.toNat, 16)], need := .core } s fun s =>
    match myChan s b.toNat with
    | none => raise .unit 0 0 s
    | some (w, c) =>
      let x := (readR s a).setWidth 32
      if !releaseReady s then .next s
      else if c.fifo.length < Config.channelDepth ∧ c.sends.isEmpty then done (deliver s w b.toNat c x)
      else if c.sends.any fun y => y.1 == s.cur then .next s
      else .next (setChan s w b.toNat { c with sends := c.sends ++ [(s.cur, x)] })

def execRecv (d b : Field) (s : State) : Result :=
  guarded { ops := [opWc d], lits := [(b.toNat, 16)], term := true, need := .core } s fun s =>
    waiting s fun u s' =>
      match myChan s' b.toNat with
      | none => raise .unit 0 0 s
      | some (w, c) =>
        match c.fifo with
        | x :: l => goOnWith s (writeR (setChan s' w b.toNat { c with fifo := l }) d (x.setWidth 64)) u
        | [] => .next (suspend (setChan s' w b.toNat { c with recvs := c.recvs ++ [s.cur] }) (.recv b.toNat d.toNat) u)

def execChpoll (d b : Field) (s : State) : Result :=
  guarded { ops := [opW d], lits := [(b.toNat, 16)], need := .core } s fun s =>
    match myChan s b.toNat with
    | none => raise .unit 0 0 s
    | some (_, c) => done (writeR s d (BitVec.ofNat 64 c.fifo.length))

/-- CHANNEL_SEND_RESUME (R254): the oldest stalled SEND completes once there is space. -/
def execChannelSendResume (wg ch : Nat) (s : State) : Result :=
  match (wg? s wg).bind fun g => if g.cid?.isSome then g.chans.find ch else none with
  | some c =>
    match c.sends with
    | (a, x) :: l =>
      if c.fifo.length < Config.channelDepth then .next (advanceA (deliver s wg ch { c with sends := l } x) a)
      else off s
    | [] => off s
  | none => off s

end Sys2Proof.Machine
end

