-- ==== Sys2Proof/Machine/Tensor.lean ====
section
/-! DEFINITION. Tensor descriptors and their elements (R265-R271), the TDS, TLD and PTL forms (R258, R259, R270). -/

namespace Sys2Proof.Machine

open Sys2Proof

/-! Descriptor images (R265) -/

abbrev Desc := BitVec 512

/-- Bits [hi:lo] of the number at a byte offset of an image. -/
def tdF (x : Desc) (o hi lo : Nat) : Nat := bits (x.toNat >>> (8 * o)) hi lo
def tdBase (x : Desc) : Nat := tdF x 0x00 63 0
def tdRows (x : Desc) : Nat := tdF x 0x08 31 0
def tdCols (x : Desc) : Nat := tdF x 0x0C 31 0
def tdLd (x : Desc) : Nat := tdF x 0x10 31 0
/-- Group size G, 0 for none (R265). -/
def tdG (x : Desc) : Nat := match tdF x 0x14 22 21 with | 0 => 0 | 1 => 16 | 2 => 32 | _ => 64
def tdCtr (x : Desc) : Bool := tdF x 0x14 20 20 == 1
def tdPr (x : Desc) : Nat := tdF x 0x14 19 16
def tdP (x : Desc) : Nat := tdF x 0x14 15 12
def tdLay (x : Desc) : Nat := tdF x 0x14 11 10
def tdLoc (x : Desc) : Nat := tdF x 0x14 9 8
def tdFmt (x : Desc) : Nat := tdF x 0x14 7 0
def tdRow0 (x : Desc) : Nat := tdF x 0x18 31 0
def tdCol0 (x : Desc) : Nat := tdF x 0x1C 31 0
def tdPerm (x : Desc) : Nat := tdF x 0x20 63 0
def tdScale (x : Desc) : Nat := tdF x 0x28 63 0
def tdTr (x : Desc) : Nat := tdF x 0x30 15 0
def tdTc (x : Desc) : Nat := tdF x 0x30 31 16
def tdSpitch (x : Desc) : Nat := tdF x 0x34 31 16
/-- Scale block B (R268). -/
def tdB (x : Desc) : Nat := if tdF x 0x34 2 2 = 1 then 32 else 16
def tdSfmt (x : Desc) : Nat := tdF x 0x34 1 0

/-- Element width in bits; LAM-P takes one bit of each of P planes (R266). -/
def fmtWidth (f : Nat) : Nat :=
  match f with
  | 0x01 => 32 | 0x02 => 16 | 0x03 => 16 | 0x04 => 8 | 0x05 => 8 | 0x06 => 6 | 0x07 => 6 | 0x08 => 4 | 0x09 => 8 | 0x0A => 4
  | 0x0B => 32 | 0x0C => 320 | 0x10 => 1 | _ => 0
/-- Formats that may carry a scale (R266). -/
def fmtScalable (f : Nat) : Bool := (4 ≤ f && f ≤ 0x0A) || f == 0x10
/-- The float format of a code. -/
def fmtFloat (f : Nat) : Option Fmt :=
  match f with
  | 1 => some .fp32 | 2 => some .fp16 | 3 => some .bf16 | 4 => some .e4m3 | 5 => some .e5m2 | 6 => some .e3m2 | 7 => some .e2m3
  | 8 => some .e2m1 | _ => none
def isLam (x : Desc) : Bool := tdFmt x == 0x10

/-- The checks of TDSET (R269). -/
def tdOk (x : Desc) : Bool :=
  let f := tdFmt x
  let lay := tdLay x
  let g := tdG x
  let p := tdP x
  let w := fmtWidth f
  tdF x 0x14 31 23 == 0 && tdF x 0x34 15 3 == 0 && tdF x 0x38 63 0 == 0
  && w != 0 && tdLoc x != 3 && lay != 3 && tdSfmt x != 3
  && ((lay == 2) == isLam x) && (f != 0x0C || lay == 0)
  && (if isLam x then decide (2 ≤ tdPr x) && decide (tdPr x ≤ p) && decide (p ≤ 8)
      else p == 0 && tdPr x == 0 && !tdCtr x && g == 0)
  && (g == 0 || (tdRows x % g == 0 && tdPerm x % 16 == 0))
  && (if lay == 2 then tdBase x % 8 == 0 && tdLd x % (8 * p) == 0 && tdRow0 x % 64 == 0
      else if f == 0x0C then tdBase x % 8 == 0 && tdLd x % 8 == 0
      else tdBase x % 16 == 0 && tdLd x % 16 == 0)
  && decide ((if lay == 0 then (tdCols x * w + 7) / 8 else if lay == 1 then (tdRows x * w + 7) / 8 else (tdRows x + 63) / 64 * 8 * p) ≤ tdLd x)
  && decide (1 ≤ tdTr x ∧ tdTr x ≤ 4096 ∧ 1 ≤ tdTc x ∧ tdTc x ≤ 4096)
  && (tdSfmt x == 0 || (fmtScalable f && tdScale x % 256 == 0 && tdSpitch x != 0 && tdSpitch x % 32 == 0 && decide (g ≤ tdB x)))
  && (tdLoc x != 1 || (decide (tdBase x < 0x70000) && (g == 0 || decide (tdPerm x < 0x70000))
      && (tdSfmt x == 0 || decide (tdScale x < 0x70000))))

/-! Elements (R267, R268) -/

/-- The virtual address of a byte of a descriptor's location: its scratchpad is reached through the self window, of which an offset
beyond the reservation lies outside every range (R113, R258). -/
def tdVa (x : Desc) (b : Nat) : Nat :=
  if tdLoc x = 1 then 0xFFFFFF0000000000 + (if b < 2 ^ 40 then b else 2 ^ 40 - 4096 + b % 4096) else b % 2 ^ 64

/-- The run and the bit within it of an element of layout 0 or 1 (R267). -/
def elemBit (x : Desc) (r c : Nat) : Nat × Nat :=
  if tdLay x = 0 then (tdBase x + r * tdLd x, c * fmtWidth (tdFmt x)) else (tdBase x + c * tdLd x, r * fmtWidth (tdFmt x))

/-- The accesses that an element's bits take: address and bytes of each, one for each aligned 4-byte word (R147, R267). An FP6 element whose
bits lie in two words is stored by two writes, which count as two for a doubleword subscription of both (R245 does not say how such a store
counts: DESIGN CHOICE, log 77). -/
def elemSpans (x : Desc) (r c : Nat) : List (Nat × Nat) :=
  if isLam x then (List.range (tdP x)).map fun k => (tdVa x (tdBase x + c * tdLd x + r / 64 * 8 * tdP x + 8 * k + r % 64 / 8), 1)
  else
    let (b, i) := elemBit x r c
    let w := fmtWidth (tdFmt x)
    if w = 320 then (List.range 5).map fun k => (tdVa x (b + i / 8 + 8 * k), 8)
    else if w = 32 ∨ w = 16 then [(tdVa x (b + i / 8), w / 8)]
    else if 8 < i % 8 + w ∧ (b + i / 8) % 4 ≠ 3 then [(tdVa x (b + i / 8), 2)]
    else (List.range ((i % 8 + w + 7) / 8)).map fun k => (tdVa x (b + i / 8 + k), 1)

/-- The planes of a laminate element that its readers take: the first `PR` (R101). -/
def readSpans (x : Desc) (r c : Nat) : List (Nat × Nat) := if isLam x then (elemSpans x r c).take (tdPr x) else elemSpans x r c

/-- The bits of an element from the bytes of its spans, in span order; a laminate's planes from the sign down. -/
def elemOf (x : Desc) (r c : Nat) (l : List Byte) : Nat :=
  if isLam x then l.foldl (fun v b => 2 * v + b.toNat / 2 ^ (r % 8) % 2) 0
  else
    let w := fmtWidth (tdFmt x)
    ofBytes l / 2 ^ ((elemBit x r c).2 % 8) % 2 ^ w

/-- The bytes of an element's spans with its bits replaced. -/
def elemInto (x : Desc) (r c : Nat) (old : List Byte) (v : Nat) : List Byte :=
  if isLam x then
    old.zipIdx.map fun y => BitVec.ofNat 8 (setBits y.1.toNat (r % 8) (r % 8) (v / 2 ^ (tdP x - 1 - y.2)))
  else
    let w := fmtWidth (tdFmt x)
    let lo := (elemBit x r c).2 % 8
    toBytes old.length (setBits (ofBytes old) (lo + w - 1) lo v)

/-- A virtual address lies in a scratchpad window. -/
def inWindow (va : Nat) : Bool := match rangeOf va with | .self _ | .peer _ _ => true | _ => false

/-- An access of a copy engine to the scratchpad of a workgroup that has ended: its writes are discarded and counted, and its reads
give free values (R337, R377). -/
def deadSpad (i : Issuer) (copy : Bool) (va : Nat) : Bool := copy && i.wg.isNone && canonical va && inWindow va

/-- Reads n bytes; at most 16 from the scratchpad of an ended workgroup. -/
def readAs (s : State) (i : Issuer) (copy : Bool) (va n : Nat) : Out (List Byte × State) :=
  if deadSpad i copy va then
    .ok (toBytes n ((freeValue s).toNat + 2 ^ 64 * (freeValue (useFree s)).toNat), useFree (useFree s))
  else (resolve s i { va := va, size := n, rd := true, copy := copy, elem := true }).bind fun t => .ok (readTgt s i t n)

/-- Writes bytes under the attributes of an access. -/
def writeAs (s : State) (i : Issuer) (q : Acc) (va : Nat) (l : List Byte) : Out State :=
  if deadSpad i q.copy va then .ok (match i.src with | some c => countStale s c 1 | none => s)
  else (resolve s i { q with va := va, size := l.length, wr := true, elem := true }).bind fun t => .ok (writeTgt s i t l)

/-- Reads the bytes of spans. -/
def readSpanList (s : State) (i : Issuer) (copy : Bool) : List (Nat × Nat) → Out (List Byte × State)
  | [] => .ok ([], s)
  | (va, n) :: l => (readAs s i copy va n).bind fun r => (readSpanList r.2 i copy l).bind fun q => .ok (r.1 ++ q.1, q.2)

/-- Checks spans for writing and gives the bytes they hold. -/
def oldSpanList (s : State) (i : Issuer) (q : Acc) : List (Nat × Nat) → Out (List Byte × State)
  | [] => .ok ([], s)
  | (va, n) :: l =>
    if deadSpad i q.copy va then (oldSpanList s i q l).bind fun r => .ok (List.replicate n 0 ++ r.1, r.2)
    else (resolve s i { q with va := va, size := n, wr := true, elem := true }).bind fun t =>
      let old := heldBytes s t n
      (oldSpanList { s with free := old.2.free } i q l).bind fun r => .ok (old.1 ++ r.1, r.2)

/-- Writes the bytes of spans. -/
def writeSpanList (s : State) (i : Issuer) (q : Acc) (b : List Byte) : List (Nat × Nat) → Out State
  | [] => .ok s
  | (va, n) :: l => (writeAs s i q va (b.take n)).bind fun s => writeSpanList s i q (b.drop n) l

/-- Reads an element's stored bits; a laminate's read planes only unless `all`. -/
def readElem (s : State) (i : Issuer) (copy all : Bool) (x : Desc) (r c : Nat) : Out (Nat × State) :=
  (readSpanList s i copy (if all then elemSpans x r c else readSpans x r c)).bind fun q => .ok (elemOf x r c q.1, q.2)

/-- Writes an element's bits and no others (R258, R273). -/
def writeElem (s : State) (i : Issuer) (q : Acc) (x : Desc) (r c v : Nat) : Out State :=
  let l := elemSpans x r c
  (oldSpanList s i q l).bind fun old => writeSpanList old.2 i q (elemInto x r c old.1 v) l

/-- Where the scale of an element lies (R268). -/
def scaleVa (x : Desc) (r c : Nat) : Nat :=
  let u := if tdLay x = 0 then r else c
  let k := if tdLay x = 0 then c else r
  tdVa x (tdScale x + u * tdSpitch x + k / tdB x)

/-- The value of a scale byte (R93). -/
def scaleVal (x : Desc) (b : Nat) : FVal := if tdSfmt x = 1 then CvtFmt.e8m0.val b else CvtFmt.ue4m3.val b

/-- The scale of an element, 1 without a scale tile. -/
def readScale (s : State) (i : Issuer) (x : Desc) (r c : Nat) : Out (FVal × State) :=
  if tdSfmt x = 0 then .ok (.fin false 1 0, s)
  else (readSpanList s i false [(scaleVa x r c, 1)]).bind fun q => .ok (scaleVal x (ofBytes q.1), q.2)

/-- The reading q of a laminate's read planes and its value_p (R101). -/
def lamQ (x : Desc) (v : Nat) : Int := toSigned (tdPr x) v
def lamVal (x : Desc) (v : Nat) : Int :=
  let k := tdP x - tdPr x
  lamQ x v * 2 ^ k + (if tdCtr x ∧ 0 < k then 2 ^ (k - 1) else 0)

/-- An integer as an exact value. -/
def intVal (v : Int) : FVal := .fin (decide (v < 0)) v.natAbs 0

/-- The value of an element's bits without its scale (R94, R101). -/
def elemVal (x : Desc) (v : Nat) : FVal :=
  match fmtFloat (tdFmt x) with
  | some f => f.val v
  | none => intVal (if isLam x then lamVal x v else toSigned (fmtWidth (tdFmt x)) v)

/-- An element expanded with its scale (R96). -/
def readXf (s : State) (i : Issuer) (x : Desc) (r c : Nat) : Out (FVal × State) :=
  (readElem s i false false x r c).bind fun q => (readScale q.2 i x r c).bind fun z => .ok ((elemVal x q.1).mul z.1, z.2)

/-! Handles (R77) -/

/-- The image of a handle that the executing agent's workgroup owns. -/
def myHandle (s : State) (h : Nat) : Option Desc :=
  (curWg s).bind fun x => (x.2.tds.find h).bind fun t => if t.live then some t.img else none

/-- A handle of the core is owned by another workgroup. -/
def handleForeign (s : State) (w h : Nat) : Bool :=
  match wg? s w with
  | some g => match g.cid? with
    | some cid => (residents s cid).any fun x => x.1 != w && (x.2.tds.find h).any (·.live)
    | none => false
  | none => false

/-- The weight record of a handle leaves the weight buffer (R285). -/
def dropWeights (s : State) (w h : Nat) : State :=
  match (wg? s w).bind (·.cid?) with
  | some cid => updCore s cid fun c => { c with wbuf := c.wbuf.filter fun b => !(b.wg == w && b.handle == h) }
  | none => s

/-- TDSET (R270). -/
def execTdset (d a : Field) (s : State) : Result :=
  guarded { ops := [opR a], lits := [(d.toNat, 64)], need := .coreScribe } s fun s =>
    let va := (readR s a).toNat
    if va % 64 ≠ 0 then raise .misalign va 0 s
    else (readParts s (me s) va 16 4).run s fun r =>
      let img : Desc := BitVec.ofNat 512 (ofBytes r.1)
      let w := (curWg s).elim 0 (·.1)
      if handleForeign s w d.toNat || !tdOk img then raise .tdesc 0 0 s
      else
        let ver := (((wg? s w).bind fun g => g.tds.find d.toNat).map (·.ver)).getD 0
        let s := dropWeights (updWg r.2 w fun g => { g with tds := g.tds.put d.toNat { img := img, ver := ver + 1, live := true } }) w d.toNat
        done s

/-- TDGET (R270). -/
def execTdget (a b : Field) (s : State) : Result :=
  guarded { ops := [opR b], lits := [(a.toNat, 64)], need := .coreScribe } s fun s =>
    let va := (readR s b).toNat
    if va % 64 ≠ 0 then raise .misalign va 0 s
    else match myHandle s a.toNat with
      | some img => (writeParts s (me s) va 16 (toBytes 64 img.toNat) 4).run s done
      | none => raise .tdesc 0 0 s

/-- TDCLR (R270). -/
def execTdclr (d : Field) (s : State) : Result :=
  guarded { lits := [(d.toNat, 64)], need := .coreScribe } s fun s =>
    match myHandle s d.toNat, curWg s with
    | some _, some (w, _) =>
      done (dropWeights (updWg s w fun g =>
        { g with tds := match g.tds.find d.toNat with
          | some t => g.tds.put d.toNat { t with live := false }
          | none => g.tds }) w d.toNat)
    | _, _ => raise .tdesc 0 0 s

/-! TLD (R258) -/

/-- The descriptor of a TLD form, with the row and column in a: none for TDESC. -/
def tldDesc (s : State) (h : Nat) : Option Desc := (myHandle s h).bind fun x => if tdFmt x = 0x0C then none else some x

/-- A signed value saturated to w bits, as stored. -/
def satBits (w : Nat) (v : Int) : Nat := wrap w (Max.max (-(2 ^ (w - 1) : Int)) (Min.min v (2 ^ (w - 1) - 1)))

/-- What LDEL writes for an element's bits and scale (R258). -/
def ldelVal (x : Desc) (v : Nat) (sc : FVal) : Word64 :=
  let isFloat := (fmtFloat (tdFmt x)).isSome
  if isFloat || tdSfmt x != 0 then BitVec.ofNat 64 (Fmt.fp32.rne ((elemVal x v).mul sc))
  else BitVec.ofInt 64 (if isLam x then lamVal x v else toSigned (fmtWidth (tdFmt x)) v)

def execLdel (d a b : Field) (s : State) : Result :=
  guarded { ops := [opW d, opRp a], lits := [(b.toNat, 64)], need := .core } s fun s =>
    match tldDesc s b.toNat with
    | none => raise .tdesc 0 0 s
    | some x =>
      let p := (readP s a).toNat
      let r := p % 2 ^ 32
      let c := p / 2 ^ 32
      if r < tdRows x ∧ c < tdCols x then
        ((readElem s (me s) false false x r c).bind fun q => (readScale q.2 (me s) x r c).bind fun z => .ok (q.1, z)).run s fun y =>
          done (writeR y.2.2 d (ldelVal x y.1 y.2.1))
      else done (writeR s d 0)

def execLdeli (d a b : Field) (s : State) : Result :=
  guarded { ops := [opW d, opRp a], lits := [(b.toNat, 64)], need := .core } s fun s =>
    match tldDesc s b.toNat with
    | none => raise .tdesc 0 0 s
    | some x =>
      let p := (readP s a).toNat
      let r := p % 2 ^ 32
      let c := p / 2 ^ 32
      if r < tdRows x ∧ c < tdCols x then
        (readElem s (me s) false true x r c).run s fun q => done (writeR q.2 d (BitVec.ofNat 64 q.1))
      else done (writeR s d 0)

/-- The bits STEL stores for a register's value (R258). -/
def stelBits (x : Desc) (w : Nat) (v : Nat) : Nat :=
  match fmtFloat (tdFmt x) with
  | some f => if tdFmt x = 1 then v % 2 ^ 32 else cvtElem ⟨.float f, .float .fp32, 1⟩ .rne false 0 (v % 2 ^ 32)
  | none => satBits (if isLam x then tdP x else fmtWidth (tdFmt x)) (toSigned w v)

def execStel (d a b : Field) (s : State) : Result :=
  guarded { ops := [opR d, opRp a], lits := [(b.toNat, 64)], need := .core } s fun s =>
    match tldDesc s b.toNat with
    | none => raise .tdesc 0 0 s
    | some x =>
      let p := (readP s a).toNat
      let r := p % 2 ^ 32
      let c := p / 2 ^ 32
      if r < tdRows x ∧ c < tdCols x then
        (writeElem s (me s) { va := 0, size := 1 } x r c (stelBits x (width s) (readR s d).toNat)).run s done
      else done s

/-! PTL (R78, R259) -/

/-- A pattern table of the core is owned by another workgroup. -/
def patternForeign (s : State) (w p : Nat) : Bool :=
  match (wg? s w).bind (·.cid?) with
  | some cid => (residents s cid).any fun x => x.1 != w && (x.2.pts.find p).isSome
  | none => false

def execPtload (a b : Field) (s : State) : Result :=
  guarded { ops := [opRp a], lits := [(b.toNat, 32)], need := .core } s fun s =>
    let va := (readP s a).toNat
    if va % 64 ≠ 0 then raise .misalign va 0 s
    else (readParts s (me s) va 16 4).run s fun r =>
      let img : Desc := BitVec.ofNat 512 (ofBytes r.1)
      let w := (curWg s).elim 0 (·.1)
      if patternForeign s w b.toNat || bits img.toNat 511 448 != 0 then raise .tdesc 0 0 s
      else done (updWg r.2 w fun g => { g with pts := g.pts.put b.toNat img })

def execPtread (d a b : Field) (s : State) : Result :=
  guarded { ops := [opW d, opR a], lits := [(b.toNat, 32)], need := .core } s fun s =>
    match (curWg s).bind fun x => x.2.pts.find b.toNat with
    | some t =>
      let i := (readR s a).toNat % 64
      done (writeR s d (BitVec.ofNat 64 (ptIdx t i + 64 * b2n (ptZero t i))))
    | none => raise .tdesc 0 0 s

end Sys2Proof.Machine
end

