-- ==== Sys2Proof/Machine/Copies.lean ====
section
/-! DEFINITION. Copies: COPY, COPYT and the work of the copy engines (R255, R256, R336). -/

namespace Sys2Proof.Machine

open Sys2Proof

/-- The copy engine an operation is handed to: the first of the partition and world that accepts (R326, R425). R255 gives no depth of an
engine's queue: it never fills here, and a COPY stalls while every engine's suspension slots are held (DESIGN CHOICE, log 81). -/
def pickCopyEngine (s : State) (p : Nat) (sec : Bool) : Option Nat := (copyEnginesOf s p sec).find? (accepts s)

/-- Fields of a slice record (R255). -/
def sliceSrc (r : Nat) : Nat := bits r 63 0
def sliceDst (r : Nat) : Nat := bits r 127 64
def sliceLen (r : Nat) : Nat := bits r 159 128
def sliceInc (r : Nat) : Nat := bits r 191 160
def sliceCaddr (r : Nat) : Nat := bits r 255 192

/-- The alignment rules of a slice record: the address that breaks them (R255). -/
def sliceMisaligned (r : Nat) : Option Nat :=
  if sliceSrc r % 4 ≠ 0 then some (sliceSrc r)
  else if sliceDst r % 4 ≠ 0 then some (sliceDst r)
  else if sliceLen r % 4 ≠ 0 then some 0
  else if sliceCaddr r % 8 ≠ 0 then some (sliceCaddr r)
  else none

/-- A slice handed to an engine in the cohort's copy instance (R255). The rank that counts for the lowest-ranked issuer is each issuer's at
its own COPY; the spec does not say which counts where members leave meanwhile (DESIGN CHOICE, log 82). -/
def issueSlice (s : State) (w h t : Nat) (c : Cohort) (eid r : Nat) : State :=
  let i := me s
  let (id, s) : Nat × State := match c.copy with
    | some id => (id, s)
    | none =>
      let x : CopyInst := { id := s.nextId, wg := w, lid := i.lid, wid := widOf s w, h := h, parts := c.members, issued := [], eid := eid, open' := 0, cut := false,
                            lvl := i.lvl, sec := i.sec, part := i.part, cid := i.cid.getD 0 }
      (s.nextId, setCohort { s with copyInsts := s.copyInsts ++ [x], nextId := s.nextId + 1 } w h { c with copy := some s.nextId })
  let rank := (rankOf c t).getD 0
  let join (x : CopyInst) : CopyInst :=
    if x.id == id then { x with issued := x.issued ++ [(t, rank, sliceCaddr r, sliceInc r)], open' := x.open' + 1, eid := eid, cid := i.cid.getD 0 } else x
  addCopy { s with copyInsts := s.copyInsts.map join }
    { id := 0, eid := eid, part := i.part, lvl := i.lvl, sec := i.sec, wg := w, lid := i.lid, wid := widOf s w, tensor := none, src := sliceSrc r,
      dst := sliceDst r, len := sliceLen r, at' := 0, inst := some id, caddr := 0, inc := 0, held := false, cid := i.cid.getD 0 }

/-- A thread may issue into the cohort's copy instance now: it opens one, or is a participant that has not issued. -/
def mayIssue (s : State) (c : Cohort) (t : Nat) : Bool :=
  match c.copy with
  | none => true
  | some id => s.copyInsts.any fun x => x.id == id && x.parts.contains t && !(x.issued.any fun y => y.1 == t)

/-- COPY (R255). -/
def execCopy (a b : Field) (s : State) : Result :=
  guarded { ops := [opRp a, opR b], need := .vector } s fun s =>
    let va := (readP s a).toNat
    (resolve s (me s) { va := va, size := 32, rd := true }).run s fun tg =>
      match curThread s with
      | some (w, g, t) =>
        match memberOf g ((readR s b).setWidth 32) t with
        | none => raise .illegal 0 0 s
        | some (h, c) =>
          let (l, s') := readTgt s (me s) tg 32
          let r := ofBytes l
          match sliceMisaligned r with
          | some v => raise .misalign v 0 s
          | none =>
            if (copyEnginesOf s g.part g.sec).isEmpty then raise .world 0 0 s
            else match pickCopyEngine s g.part g.sec with
              | some e => if mayIssue s c t then done (issueSlice s' w h t c e r) else .next s
              | none => .next s
      | none => .next s

/-- COPYT (R256). -/
def execCopyt (a : Field) (s : State) : Result :=
  guarded { ops := [opRp a], need := .coreScribe } s fun s =>
    let va := (readP s a).toNat
    (resolve s (me s) { va := va, size := 32, rd := true }).run s fun tg =>
      let (l, s') := readTgt s (me s) tg 32
      let r := ofBytes l
      if bits r 31 14 ≠ 0 ∨ bits r 7 6 ≠ 0 ∨ bits r 255 128 ≠ 0 then raise .tdesc 0 0 s
      else match myHandle s (bits r 5 0), myHandle s (bits r 13 8), curWg s with
        | some x, some y, some (w, g) =>
          if tdRows x ≠ tdRows y ∨ tdCols x ≠ tdCols y ∨ tdFmt x ≠ tdFmt y ∨ tdP x ≠ tdP y then raise .tdesc 0 0 s
          else if bits r 127 64 % 8 ≠ 0 then raise .misalign (bits r 127 64) 0 s
          else if (copyEnginesOf s g.part g.sec).isEmpty then raise .world 0 0 s
          else match pickCopyEngine s g.part g.sec with
            | some e =>
              done (addCopy s' { id := 0, eid := e, part := g.part, lvl := g.lvl, sec := g.sec, wg := w, lid := g.lid, wid := g.wid, tensor := some (x, y),
                                 src := 0, dst := 0, len := 0, at' := 0, inst := none, caddr := bits r 127 64, inc := bits r 63 32, held := false,
                                 cid := g.cid?.getD 0 })
            | none => .next s
        | _, _, _ => raise .tdesc 0 0 s

/-! LWCLOSE (R340) -/

/-- The first bytes of the pages, or the elements, that a copy operation has still to write. -/
def CopyOp.targets (o : CopyOp) : List Nat :=
  match o.tensor with
  | none => (pageParts (o.dst + o.at') (o.len - o.at')).map (·.1)
  | some (_, y) =>
    ((List.range (tdRows y * tdCols y)).drop o.at').flatMap fun k => (elemSpans y (k / tdCols y) (k % tdCols y)).map (·.1)

/-- A copy operation has writes to perform in the Larder of a die. -/
def CopyOp.aimsLarder (o : CopyOp) (s : State) (d : Nat) : Bool :=
  o.targets.any fun va =>
    rangeOf va == .pages && (match findLeaf s (walkDie (o.issuer s).die) o.part va with
      | some t => (match area (ptePa t.lvl t.pte.toNat (va49 va)) with | .larder x _ => x == d | _ => false)
      | none => false)

/-- An LWCLOSE form whose copy writes have all been performed closes its Larder. -/
def settleClose (s : State) (f : PForm) : State :=
  match f.kind with
  | .lwclose d ops =>
    if s.copies.any fun o => ops.contains o.id && o.aimsLarder s d then s
    else finishForm (setDie s d { die s d with larderOpen := false, closing := none }) f 0
  | _ => s

/-- Every LWCLOSE that waits, after copy writes have been performed. -/
def settleCloses (s : State) : State := s.forms.foldl settleClose s

/-! The engines -/

/-- What n words of a slice from word `at` on come to: the state, the words performed, and what stopped them. -/
def copyWords (i : Issuer) (src dst : Nat) : Nat → State → Nat → State × Nat × Out Unit
  | 0, s, k => (s, k, .ok ())
  | n + 1, s, k =>
    match (readAs s i true ((src + k) % 2 ^ 64) 4).bind fun r =>
      writeAs r.2 i { va := 0, size := 4, copy := true, eng := true } ((dst + k) % 2 ^ 64) r.1 with
    | .ok s => copyWords i src dst n s (k + 4)
    | .bad c v => (s, k, .bad c v)
    | .wait => (s, k, .wait)

/-- Whole 128-byte blocks of a destination, each written at once (R136, R392); a block that cannot be is copied word by word. A doubleword
subscription counts the one write of a block, or the two writes of its words: R245 gives no grain of a copy's writes (DESIGN CHOICE,
log 83). -/
def copyBlocks (i : Issuer) (src dst : Nat) : Nat → State → Nat → State × Nat × Out Unit
  | 0, s, k => (s, k, .ok ())
  | n + 1, s, k =>
    match (readSpanList s i true ((List.range 32).map fun j => ((src + k + 4 * j) % 2 ^ 64, 4))).bind fun r =>
      writeAs r.2 i { va := 0, size := 128, copy := true, eng := true } ((dst + k) % 2 ^ 64) r.1 with
    | .ok s => copyBlocks i src dst n s (k + 128)
    | _ =>
      match copyWords i src dst 32 s k with
      | (s, k, .ok ()) => copyBlocks i src dst n s k
      | x => x

/-- A slice from offset k on, n words (R255): words up to the first whole block of the destination, its blocks, and the rest. -/
def copySlice (i : Issuer) (src dst n : Nat) (s : State) (k : Nat) : State × Nat × Out Unit :=
  let head := Min.min n ((128 - (dst + k) % 128) % 128 / 4)
  match copyWords i src dst head s k with
  | (s, k, .ok ()) =>
    match copyBlocks i src dst ((n - head) / 32) s k with
    | (s, k, .ok ()) => copyWords i src dst ((n - head) % 32) s k
    | x => x
  | x => x

/-- The elements of a tensor copy, in row order (R256). -/
def copyElems (i : Issuer) (x y : Desc) : Nat → State → Nat → State × Nat × Out Unit
  | 0, s, k => (s, k, .ok ())
  | n + 1, s, k =>
    let r := k / tdCols x
    let c := k % tdCols x
    match (readElem s i true true x r c).bind fun q => writeElem q.2 i { va := 0, size := 1, copy := true, eng := true } y r c q.1 with
    | .ok s => copyElems i x y n s (k + 1)
    | .bad c v => (s, k, .bad c v)
    | .wait => (s, k, .wait)

/-- An operation after its run: done, suspended, or to be gone on with. -/
def copyOutcome (o : CopyOp) (x : State × Nat × Out Unit) (fin : State → State) : Result :=
  let s := updCopy x.1 o.id fun y => { y with at' := x.2.1 }
  match x.2.2 with
  | .ok () => .next (settleCloses (fin s))
  | .bad c v => .next (settleCloses (copyFault s o c v))
  | .wait => .next s

/-- The copy operation of a name that its engine may perform. -/
def runnableCopy (s : State) (op : Nat) : Option CopyOp :=
  (s.copies.find? fun o => o.id == op).bind fun o => if o.held || !accepts s o.eid || quarantined s (cidDie o.eid) || (die s (cidDie o.eid)).relock.isSome || (die s (cidDie o.eid)).tripped then none else some o

/-- A slice of a copy instance is performed (R255). -/
def endSlice (s : State) (o : CopyOp) : State :=
  match o.inst with
  | some id =>
    let close (x : CopyInst) : CopyInst := if x.id == id then { x with open' := x.open' - 1 } else x
    finishCopyInst { dropCopy s o.id with copyInsts := s.copyInsts.map close } id
  | none => postCopy s o

/-- COPY_SLICE_PERFORM (R255). -/
def execCopySlicePerform (op : Nat) (s : State) : Result :=
  match runnableCopy s op with
  | some o =>
    if o.tensor.isNone then
      copyOutcome o (copySlice (o.issuer s) o.src o.dst ((o.len - o.at') / 4) s o.at') fun s => endSlice s o
    else off s
  | none => off s

/-- COPYT_PERFORM (R256): every element, then the post. -/
def execCopytPerform (op : Nat) (s : State) : Result :=
  match runnableCopy s op with
  | some o =>
    match o.tensor with
    | some (x, y) => copyOutcome o (copyElems (o.issuer s) x y (tdRows x * tdCols x - o.at') s o.at') fun s => postCopy s o
    | none => off s
  | none => off s

end Sys2Proof.Machine
end

