-- ==== Sys2Proof/Machine/Placement.lean ====
section
/-! DEFINITION. Submission queues (R364-R366), launch states and admission (R367-R369), reports, runs and the placement of
workgroups (R29, R30, R57, R58, R379, R380), and the completion of launches (R31). -/

namespace Sys2Proof.Machine

open Sys2Proof

/-! Launches begin (R365-R369) -/

/-- A die of a kind that a launch may be placed on (R362). -/
def kindOk (dk d : Nat) : Bool := (bitAt dk 0 && Config.isGeometry d) || (bitAt dk 1 && Config.isShading d)

/-- A core group of a partition that is not leaving it (R382, R383). -/
def groupStays (s : State) (p d g : Nat) : Bool := isMember s p d g && !isDeparting s p d g && !quarantined s d

/-- A core group that the dispatcher may place work of a partition on: it has power as well (R415). -/
def groupPermitted (s : State) (p d g : Nat) : Bool := groupStays s p d g && (cgroup s d g).power != 2

/-- The cores of a partition's core groups of some kinds that satisfy a condition, ascending. -/
def coresWhere (p dk : Nat) (ok : Nat → Nat → Nat → Bool) : List Nat :=
  (List.range 13).flatMap fun d =>
    if kindOk dk d then ((List.range (Config.coreGroups d)).filter (ok p d)).flatMap (cgCores d) else []
def stayingCores (s : State) (p dk : Nat) : List Nat := coresWhere p dk (groupStays s)
def permittedCores (s : State) (p dk : Nat) : List Nat := coresWhere p dk (groupPermitted s)

/-- One reservation fits an empty core (R57, R369): `extra` words of a bank beyond the launch's allotments. -/
def fitsEmpty (s : State) (r : BitVec 1024) (extra cid : Nat) : Bool :=
  decide (recRows r ≤ Config.rows) && decide (recA r * recRows r + extra ≤ Config.inkwellWords) && decide (recSpad r ≤ spadSize s cid)

/-- The shading cores of a partition that hold no fragment workgroup (R379). -/
def fragCores (s : State) (p : Nat) : List Nat := (stayingCores s p 2).filter fun c => !(residents s c).any fun x => x.2.frag

/-- A kind-3 entry for a launch. -/
def postLaunch (s : State) (l : Launch) (c : Cause) (info faddr : Nat) : State :=
  postKind3 s l.part l.lvl l.sec c l.lid 0 faddr (BitVec.ofNat 64 info)

/-- A launch becomes Ready and is admitted, or Refused with CAPACITY (R367, R369, R379); its record leaves the device launch
queue (R366). -/
def makeReady (s : State) (l : Launch) : State :=
  let s := { s with dlq := s.dlq.filter fun x => !(x.part == l.part && x.lid == l.lid) }
  let cores := if recFrag l.record then fragCores s l.part else []
  let fits := (stayingCores s l.part (recDk l.record)).any (fitsEmpty s l.record 0)
  if !fits || (recFrag l.record && cores.length != recW l.record) then
    postLaunch (updLaunch s l.part l.lid fun x => { x with st := .refused }) l .capacity 0 0
  else updLaunch s l.part l.lid fun x => { x with st := .ready, readyAt := timer s, cores := cores }

/-- A launch from its record (R363, R367): refused by an entry check, waiting for its start dependence, or Ready. -/
def startLaunch (s : State) (p lid lvl : Nat) (sec sysq : Bool) (r : BitVec 1024) : Out State :=
  let l : Launch := { part := p, lid := lid, record := r, lvl := lvl, sec := sec, st := .pending, next := 0, handed := [], back := [],
                      placed := 0, ended := 0, depPa := 0, readyAt := 0, posted := false }
  (entryChecks s p lvl sec sysq r).bind fun f =>
    match f with
    | (some (n, c, v), s) =>
      let s := { s with dlq := s.dlq.filter fun x => !(x.part == p && x.lid == lid), launches := s.launches ++ [{ l with st := .refused }] }
      .ok (postLaunch s l c n v)
    | (none, s) =>
      let s := { s with launches := s.launches ++ [l] }
      let dep := recField r 0x60 63 0
      if dep = 0 then .ok (makeReady s l)
      else (resolve s (launchIssuer p lvl sec r) { va := dep, size := 8, rd := true }).bind fun t =>
        .ok (updLaunch (useTgt s t false) p lid fun x => { x with depPa := t.pa })

/-- The queue that a partition's dispatcher serves next (R365). -/
def nextQueue (s : State) (p : Nat) : Option Nat :=
  ((List.range 16).map fun k => ((part s p).rr + k) % 16).find? fun q =>
    let c := pregGet s p (0x20 * q + 8)
    bitAt c 31 && pregGet s p (0x20 * q + 0x10) % 2 ^ 32 != bits c 63 32

/-- What a read of a line at its home fails with (R136, R392), if it fails. -/
def lineFault (s : State) (line : Nat) : Option Cause :=
  if s.frozen.contains line then some .frozen else if linePoisoned s line then some .poison else none

/-- A launch whose record is refused before it starts (R363). -/
def refuseRecord (s : State) (p lid lvl : Nat) (sec : Bool) (r : BitVec 1024) (c : Cause) (faddr : Nat) : State :=
  let l : Launch := { part := p, lid := lid, record := r, lvl := lvl, sec := sec, st := .refused, next := 0, handed := [], back := [],
                      placed := 0, ended := 0, depPa := 0, readyAt := 0, posted := false }
  postLaunch { s with launches := s.launches ++ [l] } l c 0 faddr

/-- QUEUE_RECORD_TAKE (R365). The record is read once every write to it is readable (R150); one that cannot be read is refused with the
read's cause (DESIGN CHOICE, log 67). -/
def execQueueRecordTake (p q : Nat) (s₀ : State) : Result :=
  if p < 64 ∧ nextQueue s₀ p = some q then
    let s := s₀
    let o := 0x20 * q + 8
    let c := pregGet s p o
    let head := bits c 63 32
    let tail := pregGet s p (o + 8) % 2 ^ 32
    let n := 2 ^ bits c 4 0
    let s := setPart s p { part s p with rr := (q + 1) % 16 }
    let sec := (partWorld s p).getD false
    let lvl := b2n (q == 15)
    if n < (tail + 2 ^ 32 - head) % 2 ^ 32 then
      .next (postKind3 (pregSet s p o (setBits (setBits c 31 31 0) 30 30 1)) p lvl sec .illegal 0 0 0 0)
    else
      let pa := pregGet s p (0x20 * q) + 128 * (head % n)
      let lid := nextLid s p
      let take (s : State) : State := pregSet (takeLid s p) p o (setBits c 63 32 (head + 1))
      match lineFault s (lineOf pa) with
      | some e => .next (refuseRecord (take s) p lid lvl sec 0 e pa)
      | none =>
        match homeRead s 0 pa 128 with
        | some r =>
          match startLaunch (take r.2) p lid lvl sec (q == 15) (BitVec.ofNat 1024 (ofBytes r.1)) with
          | .ok s => .next s
          | _ => off s₀
        | none => off s₀
  else off s₀

/-- DEVICE_LAUNCH_TAKE (R366): the first record of the queue that has not been taken for admission. -/
def execDeviceLaunchTake (p : Nat) (s : State) : Result :=
  match s.dlq.find? fun x => x.part == p && (launch? s p x.lid).isNone with
  | some x =>
    match startLaunch s p x.lid 0 x.sec false x.record with
    | .ok s => .next s
    | _ => off s
  | none => off s

/-- A doubleword at a physical address, read at its home (R242); none while a write to it is not readable, and while its line is poisoned
or frozen (log 62). -/
def watchRead (s : State) (pa n : Nat) : Option (Nat × State) :=
  match area pa with
  | .regs o => some (ofBytes (regsRead s o n), s)
  | _ =>
    if (lineFault s (lineOf pa)).isSome then none else (homeRead s 0 pa n).map fun r => (ofBytes r.1, r.2)

/-- LAUNCH_DEPENDENCE_MET (R367). -/
def execLaunchDependenceMet (p lid : Nat) (s : State) : Result :=
  match launch? s p lid with
  | some l =>
    if l.st = .pending then
      match watchRead s l.depPa 8 with
      | some (v, t) => if recField l.record 0x68 63 0 ≤ v then .next (makeReady t l) else off s
      | none => off s
    else off s
  | none => off s

/-! Reports (R58) -/

def listMax (l : List Nat) : Nat := l.foldl Max.max 0
def listMin (l : List Nat) (d : Nat) : Nat := l.foldl Min.min d

/-- The report of one core group: the largest free count of each resource on a single core. -/
def groupReport (s : State) (d g : Nat) : DieRep :=
  let cs := cgCores d g
  { die := d, cg := g,
    rows := listMax (cs.map fun c => (freeRows s c).length),
    words := listMax (cs.map fun c => listMin ((List.range 32).map (bankFree s c)) Config.inkwellWords),
    spad := listMax (cs.map (spadFree s)),
    scribes := listMax (cs.map fun c => (freeScids s c).length),
    cohorts := listMax (cs.map (cohortFree s)),
    entries := listMax (cs.map fun c => 64 - (residents s c).length),
    ctxs := listMax (cs.map fun c => 8 - (coreAt s c).ctxs.length) }

/-- DISPATCHER_REPORT (R58): a die dispatcher reports its permitted core groups to every partition, when the crossing FIFOs let it (R416,
R417). -/
def execDispatcherReport (d : Nat) (s : State) : Result :=
  if Config.isCompute d && !crossHeld s d then
    .next ((List.range 64).foldl (fun s p =>
      let x := part s p
      let fresh := ((List.range (Config.coreGroups d)).filter (groupPermitted s p d)).map (groupReport s d)
      let rep := x.rep.filter (fun r => r.die != d) ++ fresh
      if rep = x.rep then s else setPart s p { x with rep := rep }) s)
  else off s

/-! Runs (R58, R368, R380) -/

/-- How many of something fit into what is free. -/
def howMany (have' need : Nat) : Nat := if need = 0 then 64 else have' / need

/-- Workgroups of a launch that a core group's reported counts admit. -/
def groupAdmits (s : State) (l : Launch) (r : DieRep) : Nat :=
  let ctx := r.ctxs != 0 || (cgCores r.die r.cg).any fun c => (ctxNumber (coreAt s c) l.part l.lid).isSome
  if !ctx then 0
  else listMin [howMany r.rows (recRows l.record), howMany r.words (recA l.record * recRows l.record), howMany r.spad (recSpad l.record),
                howMany r.scribes (b2n (recSentry l.record != 0)), howMany r.cohorts (recC l.record), r.entries] 64

/-- The reports of a die that a launch may use. -/
def diesReports (s : State) (l : Launch) (d : Nat) : List DieRep :=
  if kindOk (recDk l.record) d then (part s l.part).rep.filter fun r => r.die == d else []
def dieAdmits (s : State) (l : Launch) (d : Nat) : Nat := ((diesReports s l d).map (groupAdmits s l)).foldl (· + ·) 0

/-- The die among some with the most free rows on a single core; ties to the lower (R58). A die whose reported counts admit no
workgroup is passed over, which the rule leaves open: it names only the row figure for the choice (DESIGN CHOICE, log 58). -/
def chooseDie (s : State) (l : Launch) (ds : List Nat) : Option Nat :=
  (ds.filter fun d => dieAdmits s l d != 0).foldl (fun acc d =>
    let f (d : Nat) := listMax ((diesReports s l d).map (·.rows))
    match acc with
    | some e => if f e < f d then some d else some e
    | none => some d) none

/-- No workgroup of a launch is placed while a Larder it may read is open (R137, R368). -/
def larderHold (s : State) (l : Launch) : Bool := (List.range 13).any fun d => (die s d).larderOpen && larderPerm l.record d

/-- Every workgroup of a batch has been placed (R380). -/
def batchPlaced (s : State) (b : MeshBatch) : Bool :=
  match launch? s b.part b.lid with
  | some l =>
    let mine (w : Nat) := decide (b.first ≤ w) && decide (w < b.first + b.count)
    decide (b.first + b.count ≤ l.next) && !l.back.any mine && !(l.handed.any fun x => mine x.2)
  | none => true

/-- The next workgroups of a launch to be handed out: those returned come first (R58); at most n. -/
def pendingRun (l : Launch) (n : Nat) : List Nat :=
  match l.back with
  | w :: _ => ((List.range n).map (w + ·)).takeWhile l.back.contains
  | [] => ((List.range n).map (l.next + ·)).filter (· < recW l.record)

/-- The sequence of the batch that a workgroup of a mesh launch belongs to (R291). -/
def batchSeq (l : Launch) (w : Nat) : Nat := (recField l.record 0x50 31 0 + w / recBsize l.record) % 2 ^ 32

/-- A die may be handed the batch of a workgroup: the batches it has been handed are placed, and come before it (R291, R380). -/
def dieOpen (s : State) (l : Launch) (d w : Nat) : Bool :=
  s.batches.all fun b => b.retired || b.part != l.part || b.die != d || (batchPlaced s b && seqBefore b.bseq (batchSeq l w))

/-- Where the next run of a launch goes, and how many workgroups it may have (R58, R379, R380). A die gets its batches
in ascending sequence (R291). -/
def runTarget (s : State) (l : Launch) : Option (Nat × Nat) :=
  match pendingRun l 1 with
  | w :: _ =>
    let size := recBsize l.record
    if recFrag l.record then
      let d := cidDie (l.cores.getD w 0)
      if dieAdmits s l d = 0 then none
      else some (d, Min.min (dieAdmits s l d) (((List.range 64).takeWhile fun k => w + k < l.cores.length && cidDie (l.cores.getD (w + k) 0) == d).length))
    else if size = 0 then (chooseDie s l (List.range 13)).map fun d => (d, Min.min 64 (dieAdmits s l d))
    else
      let left := size - w % size
      match batchOf s l.part l.lid w with
      | some b => if dieAdmits s l b.die = 0 then none else some (b.die, Min.min (Min.min 64 left) (dieAdmits s l b.die))
      | none =>
        let free := (List.range 13).filter fun d => dieOpen s l d w
        (chooseDie s l free).map fun d => (d, Min.min (Min.min 64 left) (dieAdmits s l d))
  | [] => none

/-- A Ready launch that has workgroups to hand out and a die to hand them to (R368). -/
def offerable (s : State) (l : Launch) : Bool := l.st == .ready && !larderHold s l && (runTarget s l).isSome

/-- One launch is offered placement before another (R368). -/
def offeredBefore (x y : Launch) : Bool :=
  let a := recClass x.record
  let b := recClass y.record
  if a != b then b < a else seqBefore x.lid y.lid

/-- The batch of the first workgroup of a run is assigned to its die (R291). -/
def assignBatch (s : State) (l : Launch) (d w : Nat) : State :=
  let size := recBsize l.record
  if size = 0 ∨ (batchOf s l.part l.lid w).isSome then s
  else
    let k := w / size
    { s with batches := s.batches ++ [{ part := l.part, bseq := batchSeq l w, die := d, lid := l.lid, first := k * size,
                                        count := Min.min size (recW l.record - k * size), ended := 0, retired := false, sent := [] }] }

/-- WORKGROUP_RUN_HANDOFF (R58, R368): a run goes to one die dispatcher once the launch's earlier run has been placed and the crossing FIFOs let
it (R416, R417). -/
def execWorkgroupRunHandoff (p lid : Nat) (s : State) : Result :=
  match launch? s p lid with
  | some l =>
    if offerable s l && l.handed.isEmpty && !(s.launches.any fun x => x.part == p && offeredBefore x l && offerable s x) then
      match runTarget s l with
      | some (d, n) =>
        if crossHeld s d then off s
        else
        let ws := pendingRun l n
        let s := assignBatch s l d (ws.headD 0)
        .next (updLaunch s p lid fun x =>
          { x with handed := x.handed ++ ws.map fun w => (d, w), back := x.back.filter fun w => !ws.contains w,
                   next := Max.max x.next ((ws.map (· + 1)).foldl Max.max 0) })
      | none => off s
    else off s
  | none => off s

/-! Placement (R29, R30, R57, R58) -/

/-- An empty core adopts the split of LSCFG (R118); its L1 is first written back and invalidated. -/
def adoptSplit (s : State) (cid : Nat) : State :=
  let z := csrGet s 0x101 (cgKey (cidDie cid) (cidCg cid)) % 4
  if (residents s cid).isEmpty ∧ (coreAt s cid).spsel ≠ z then updCore (writeBackCore s cid true) cid fun c => { c with spsel := z } else s

/-- Before a core takes a workgroup, it and its group have adopted what they could adopt while idle (R118, R327). -/
def adoptPending (s : State) (cid : Nat) : State :=
  adoptIdle (adoptSplit s cid) (cidDie cid) (cidCg cid)

/-- A core holds the reservation of a workgroup of a launch now (R57): a fragment workgroup not while another is there, which the launch then
waits for (R379; DEDUCED, log 30). -/
def coreFits (s : State) (l : Launch) (cid : Nat) : Bool :=
  let s := adoptPending s cid
  !(recFrag l.record && (residents s cid).any fun x => x.2.frag) && fits s cid l.part l.lid (recRows l.record) (recA l.record * recRows l.record) (recSpad l.record) (recC l.record) (recSentry l.record != 0)

/-- The core with the most free rows of some that hold a reservation; ties to the lower number (R58). -/
def mostRows (s : State) (ok : Nat → Bool) (cs : List Nat) : Option Nat :=
  (cs.filter ok).foldl (fun acc c =>
    match acc with
    | some b => if (freeRows s b).length < (freeRows s c).length then some c else some b
    | none => some c) none

/-- The launch's context number on a core, a new one where it has none, with no deficit (R37, R41). -/
def takeContext (s : State) (cid p l : Nat) : State :=
  let c := coreAt s cid
  if (ctxNumber c p l).isSome then s
  else match (List.range 8).find? fun k => (c.ctxs.find k).isNone with
    | some k => setCore s cid { c with ctxs := c.ctxs.put k (p, l), deficit := c.deficit.putD 0 k 0 }
    | none => s

/-- A workgroup as it is placed on a core (R29, R30). -/
def newWorkgroup (s : State) (l : Launch) (wid cid : Nat) : Workgroup :=
  let r := l.record
  let scid := (freeScids s cid).headD 0
  let ctx : Ctx := { scid := scid, pc := recSentry r, g := rngSeed (csrGet s 0 l.part) l.lid wid 0x1000 }
  { part := l.part, lid := l.lid, wid := wid, place := .resident cid, lvl := l.lvl, sec := (cgroup s (cidDie cid) (cidCg cid)).sec,
    rows := (freeRows s cid).take (recRows r), tmax := recTmax r, a := recA r, spadLen := recSpad r, spad := [], spadBad := [], threads := [],
    ctx := if recSentry r = 0 then none else some ctx, cRes := recC r,
    cohorts := [(0, { alloc := true, lim := recTmax r, members := List.range (recT r) })],
    chans := [], tds := [], pts := [], pbSent := [], pbRel := [], since := timer s, lastCid := cid, frag := recFrag r }

/-- A workgroup starts on a core: reservation, initial threads and context (R29, R30). -/
def startWorkgroup (s : State) (l : Launch) (wid cid : Nat) : State :=
  let w := s.nextWg
  let s := adoptPending s cid
  let g := newWorkgroup s l wid cid
  let s := setWg { takeContext s cid l.part l.lid with nextWg := w + 1 } w g
  let ts := List.range (recT l.record)
  let s := ts.foldl (fun s t => addThread s w t (newThread s g t (BitVec.ofNat 32 (cohortHandle 0 0)))) s
  let s := ts.foldl (fun s t => enterThread s cid w t (recVentry l.record)) s
  updLaunch s l.part l.lid fun x =>
    { x with handed := x.handed.filter fun y => y.2 != wid, placed := x.placed + 1, st := if x.placed + 1 = recW x.record then .draining else x.st }

/-- The core a die dispatcher places a workgroup of a launch on (R58, R379). -/
def placeTarget (s : State) (l : Launch) (d wid : Nat) : Option Nat :=
  let cs := (permittedCores s l.part (recDk l.record)).filter fun c => cidDie c == d
  if recFrag l.record then mostRows s (coreFits s l) (cs.filter fun c => l.cores.getD wid 0 == c) else mostRows s (coreFits s l) cs

/-! Launches end (R31) -/

/-- A release of DEV scope at the end of a launch: the cores of its partition write back (R31). -/
def releaseLaunch (s : State) (p : Nat) : State := (permittedCores s p 3).foldl (fun s c => releaseCore s c 2) s

/-- An access to a peer by an agent that has ended is still outstanding (R157, R400). -/
def endedPeers (s : State) : Bool :=
  s.peerOut.any fun x =>
    match x.ag with
    | some (.vthread w _) | some (.scribe w) => (wg? s w).isNone
    | _ => false

/-- LAUNCH_COMPLETE (R31). -/
def execLaunchComplete (p lid : Nat) (s₀ : State) : Result :=
  let s := s₀
  match launch? s p lid with
  | some l =>
    if l.st = .draining ∧ l.ended = recW l.record ∧ endedPeers s = false then
      let s := updLaunch (releaseLaunch s p) p lid fun x => { x with st := .complete, posted := true }
      let ca := recField l.record 0x70 63 0
      if ca = 0 then .next s
      else match postAdd s (launchIssuer p l.lvl l.sec l.record) none ca (recField l.record 0x78 31 0) with
        | .ok s => .next s
        | .bad c _ => .next (postLaunch s l c 0 ca)
        | .wait => off s₀
    else off s₀
  | none => off s

end Sys2Proof.Machine
end

