-- ==== Sys2Proof/Machine/System.lean ====
section
/-! DEFINITION. CSR access, TRAP and BRK, ERET and WFI, and the privileged forms on regions, clocks, Larders, channels, barriers,
die registers and links (R333-R344, R83, R415-R417). -/

namespace Sys2Proof.Machine

open Sys2Proof

/-! What privileged forms share (R333) -/

/-- A privileged form: its level and side are checked, and it is a release of SYS scope, which waits for accesses to peers. -/
def sysForm (ops : List Opnd) (lvl : Nat) (s : State) (k : State → Result) : Result :=
  guarded { ops := ops, lvl := lvl, need := .scribe } s fun s => if releaseReady s then k s else .next s

/-- A privileged form completes with a status, or RGNQ and DIERD with a value. -/
def answer (s : State) (d : Field) (v : Nat) : Result := done (writeR (release s 3) d (BitVec.ofNat 64 v))

/-- A form stalls its context until an act of a unit completes it. -/
def startForm (s : State) (d : Field) (k : FormKind) : Result :=
  let s' := { s with forms := s.forms ++ [{ id := s.nextId, ag := some s.cur, d := d, kind := k }], nextId := s.nextId + 1 }
  match s.cur with
  | .scribe w => .next (updCtx s' w fun c => { c with mode := .form })
  | .control n => .next (updCtl s' n fun c => { c with mode := .form })
  | .vthread _ _ => .next s

/-- The workgroup that a WREF names (R333). -/
def wrefWg (s : State) (x : Nat) : Option (Nat × Workgroup) :=
  s.wgs.find? fun y => y.2.part == namedPart s && y.2.lid == bits x 63 32 && y.2.wid == bits x 31 0

/-! TRAP, BRK, CSRR, CSRW, ERET, WFI (R334, R338, R339, R342) -/

def execTrap (k : BitVec 18) (s : State) : Result := guarded {} s fun s => raise .trap 0 (k.signExtend 64) s
def execBrk (k : BitVec 18) (s : State) : Result := guarded {} s fun s => raise .brk 0 (k.signExtend 64) s

/-- The executing agent is a control context. -/
def isControl (s : State) : Bool :=
  match s.cur with
  | .control _ => true
  | _ => false

/-- The level that a CSR access needs (R342): no agent has it where the CSR is unlisted or has no write level. -/
def csrNeed (s : State) (c : Nat) (wr : Bool) : Nat :=
  match csrLevels c (isControl s) with
  | some (r, w) => if wr then w else r
  | none => 99

def execCsrr (d : Field) (c : BitVec 12) (s : State) : Result :=
  guarded { ops := [opW d], lvl := csrNeed s c.toNat false } s fun s =>
    done (writeR s d (BitVec.ofNat 64 (csrRead s (csrEnv s s.cur) c.toNat)))

/-- The executing agent still runs: a control context may have stopped itself. -/
def stillRuns (s : State) : Bool :=
  match s.cur with
  | .control n => (ctl s n).run
  | _ => true

/-- What a CSR write brings about beyond the register: idle cores adopt the split (R118). -/
def csrEffect (s : State) (e : CsrEnv) (c : Nat) : State := if c = 0x101 then (cgCores e.die e.cg).foldl adoptSplit s else s

def execCsrw (d : Field) (c : BitVec 12) (s : State) : Result :=
  guarded { ops := [opR d], lvl := csrNeed s c.toNat true } s fun s =>
    let e := csrEnv s s.cur
    let s' := csrEffect (csrWrite s e c.toNat (readR s d).toNat) e c.toNat
    if stillRuns s' then done s' else .next s'

def execEret (s : State) : Result :=
  sysForm [] 1 s fun s =>
    match s.cur with
    | .control n => .next (eventReturn s n)
    | _ => raise .illegal 0 0 s

def execWfi (s : State) : Result :=
  sysForm [] 1 s fun s =>
    match s.cur with
    | .control n => .next (updCtl s n fun c => { c with mode := .wfi })
    | _ => raise .illegal 0 0 s

/-! Regions (R340, R389) -/

/-- RX and RY of an RREF; none when another bit is set. -/
def rref (x : Nat) : Option (Nat × Nat) := if x = maskBits x [(24, 16), (8, 0)] then some (bits x 8 0, bits x 24 16) else none

def execRgnflush (d a : Field) (s : State) : Result :=
  sysForm [opW d, opR a] 1 s fun s =>
    match rref (readR s a).toNat with
    | none => answer s d 7
    | some (rx, ry) =>
      let p := namedPart s
      match rotEntry s p rx ry with
      | none => answer s d 1
      | some _ => answer (setRegion s { regionGet s p rx ry with wrote := [] }) d 0

def execRgnq (d a : Field) (s : State) : Result :=
  sysForm [opW d, opR a] 1 s fun s =>
    match (rref (readR s a).toNat).bind fun r => rotEntry s (namedPart s) r.1 r.2 with
    | some v => answer s d (v % 2 ^ 16 + b2n (bitAt v 30) * 2 ^ 16)
    | none => answer s d 0xFFFFFFFF

/-- OWNXFER's checks: a status other than 0 ends it. Which one is answered when several hold is the model's choice, here and in `pstepCheck`
and `execLinktrn`: R340 gives no order (DESIGN CHOICE, log 18). -/
def ownxferCheck (s : State) (p rx ry b : Nat) : Nat :=
  let d := bits b 15 8
  let g := bits b 7 0
  if b ≠ b % 2 ^ 16 ∨ ¬(Config.isShading d ∧ diePresent s d) ∨ Config.coreGroups d ≤ g then 7
  else match rotEntry s p rx ry with
    | none => 1
    | some v =>
      if !isMember s p d g || partWorld s p != some (cgroup s d g).sec then 2
      else if bitAt v 30 then 3
      else if isDeparting s p d g then 4
      else 0

/-- A region's table entry is written. -/
def setRot (s : State) (p rx ry v : Nat) : State :=
  match rotIndex s p rx ry with
  | some i => dregSet s 0 (0x100000 + 8 * i) v
  | none => s

def execOwnxfer (d a b : Field) (s : State) : Result :=
  sysForm [opW d, opR a, opR b] 1 s fun s =>
    match rref (readR s a).toNat with
    | none => answer s d 7
    | some (rx, ry) =>
      let p := namedPart s
      let t := (readR s b).toNat
      match ownxferCheck s p rx ry t with
      | 0 => startForm (setRot s p rx ry (setBits ((rotEntry s p rx ry).getD 0) 30 30 1)) d (.ownxfer p rx ry (bits t 15 8) (bits t 7 0))
      | st => answer s d st

/-- The ROW lines of a region: the lines of its tile in each registered target (R308, R345). -/
def regionLines (s : State) (p rx ry : Nat) : List Nat :=
  (List.range 4).flatMap fun i =>
    let g := csrGet s (0x111 + 2 * i) p
    if bitAt g 31 && rx < bits g 9 0 && ry < bits g 19 10 then
      let n := 1024 * esz g
      let a := csrGet s (0x110 + 2 * i) p + (ry * bits g 9 0 + rx) * n
      (List.range (n / 128)).map fun k => lineOf a + k
    else []

/-- The old owner has acted on every fragment of a region that it has released (R340): none is left, nor a packet in its raster
unit, and its blending is not suspended. -/
def regionQuiet (s : State) (p rx ry : Nat) : Bool :=
  !(s.packets.any fun k => k.stage == .raster && k.part == p && k.rx == rx && k.ry == ry)
  && !(s.frags.any fun f => f.part == p && f.rx == rx && f.ry == ry)
  && !(regionGet s p rx ry).held

/-- Seals numbered anew from a number on. -/
def numberSeals (n : Nat) : List Seal → List Seal
  | [] => []
  | x :: l => { x with id := n } :: numberSeals (n + 1) l

/-- The seals that go with a region whose expected batch is e from its old owner to its new one (R390): a held one of a batch not passed,
and one still on its way to the old owner that the new owner has had and dropped. -/
def sealsAlong (s : State) (p e d0 g0 d g : Nat) : List Seal :=
  let copy (x : Seal) (f : Seal → Bool) : Bool := s.seals.any fun y => y.cast == x.cast && y.die == d && y.cg == g && f y
  if d0 = d ∧ g0 = g then []
  else (s.seals.filter fun x => x.part == p && x.die == d0 && x.cg == g0 && !seqBefore x.bseq e
    && (if x.held then !copy x (·.held) else !copy x fun _ => true)).map fun x => { x with die := d, cg := g }

/-- Lines of a ROW page leave the caches of a core group, their words written back (R340): its L1s and its die's L2 slices, which no other
owner of the region uses. -/
def dropRows (s : State) (d g : Nat) (lines : List Nat) : State :=
  dropL2 (lines.foldl (fun s l => (cgCores d g).foldl (fun s c => writeBackLine s c l true) s) s) d fun y => lines.contains y.line

/-- The move itself (R340, R390): the region is flushed, its lines leave the old owner's caches, its packets and seals and its table
entry move, and the packets that the Hearth holds follow in order. -/
def moveRegion (s : State) (p rx ry d0 g0 d g : Nat) : State :=
  let r := regionGet s p rx ry
  let s := dropRows (setRegion s { r with wrote := [] }) d0 g0 (regionLines s p rx ry)
  let s := setRot s p rx ry (2 ^ 31 + d * 256 + g)
  let mine (k : Packet) : Bool := k.part == p && k.rx == rx && k.ry == ry
  let move (k : Packet) : Packet := if mine k && k.stage == .proof then { k with die := d, cg := g } else k
  let s := { s with packets := s.packets.map move }
  let l := sealsAlong s p r.e d0 g0 d g
  let s := { s with seals := s.seals ++ numberSeals s.nextId l, nextId := s.nextId + l.length }
  adoptIdle (stepUnit (stepUnit (hearthDrain s.packets.length s p rx ry) d g) d0 g0) d0 g0

/-- OWNXFER_COMPLETE (R340): a transfer whose old owner has finished. -/
def execOwnxferComplete (form : Nat) (s : State) : Result :=
  match s.forms.find? fun f => f.id == form with
  | some f =>
    match f.kind with
    | .ownxfer p rx ry d g =>
      match rotOwner s p rx ry with
      | some (d0, g0, true) =>
        if regionQuiet s p rx ry && cgRuns s d0 g0 && cgRuns s d g then .next (finishForm (moveRegion s p rx ry d0 g0 d g) f 0)
        else off s
      | _ => off s
    | _ => off s
  | none => off s

/-! Clocks and power (R83, R340, R415-R417) -/

/-- A core group's clock stops: its counters stand still (R81). -/
def stopClock (s : State) (d g : Nat) : State :=
  let x := cgroup s d g
  if x.stopped.isSome then s else setCg s d g { x with stopped := some (coreRaw s (d * 256 + 8 * g), coreNacc s (d * 256 + 8 * g)) }

/-- A core group's clock goes on from where its counters stand, when nothing else holds it. -/
def startClock (s : State) (d g : Nat) : State :=
  let x := cgroup s d g
  match x.stopped with
  | some (r, n) =>
    if x.power = 0 ∧ (die s d).tripped = false then setCg s d g { x with stopped := none, lostRaw := dieRaw s d - r, lostNacc := dieNacc s d - n }
    else s
  | none => s

/-- Power gating is refused to a core group (R415), and to one that departs and has not emptied yet (R383). -/
def gateRefused (s : State) (d g : Nat) : Bool :=
  cgResident s d g || cgHeld s d g || cgQueued s d g
  || ((List.range 64).any (fun p => isDeparting s p d g) && (cgSuspended s d g || s.fwds.any fun f => cidDie f.cid == d && cidCg f.cid == g))

/-- What the units of a core group and its registers hold is lost: the entries of the regions it owns with their seals, its counters,
DISCNT of its cores and LSCFG (R415, R422). -/
def dropGroup (s : State) (d g : Nat) : State :=
  let u := d * 256 + g
  { s with
    regions := s.regions.filter fun r => !((rotOwner s r.part r.rx r.ry).any fun o => o.1 == d && o.2.1 == g)
    seals := s.seals.filter fun x => !(x.held && x.die == d && x.cg == g)
    counts := ((s.counts.erase (discKey u)).erase (protoKey u)).erase (fragKey u)
    csr := (cgCores d g).foldl (fun m c => m.erase (csrKey 4 c)) (s.csr.erase (csrKey 0x101 (cgKey d g))) }

/-- A core loses its state at power gating: its L1 is written back and invalidated first (R415). -/
def gateCore (s : State) (cid : Nat) : State :=
  let s := setCore (writeBackCore s cid true) cid {}
  { s with icache := s.icache.filter fun x => x.1 / 2 ^ 52 != cid }

/-- A core group takes a power state (R415). -/
def setPower (s : State) (d g st : Nat) : State :=
  let x := cgroup s d g
  if st = 2 then
    let s := if x.power = 2 then s else dropGroup ((cgCores d g).foldl gateCore (stopClock s d g)) d g
    setCg s d g { cgroup s d g with power := 2, upAt := none }
  else if x.power = 2 then setCg s d g { x with upAt := some (x.upAt.getD (timer s + 2000)), upTo := st }
  else if st = 1 then let s := stopClock s d g; setCg s d g { cgroup s d g with power := 1 }
  else startClock (setCg s d g { x with power := 0 }) d g

/-- Everything sent so far was held in the crossing FIFOs of a die that now resumes: it goes on by class order (R416). -/
def resumeCrossing (s : State) (d : Nat) : State := setDie s d { die s d with heldTo := s.nextId }

/-- A tripped die restarts (R417). -/
def clearTrip (s : State) (d : Nat) : State :=
  let o := if d = 0 then 0x28 else 0x20
  let x := die s d
  let s := setDie (dregSet s d o (setBits (dregGet s d o) 8 8 0)) d { x with tripped := false, holds := x.holds ++ [(x.tripTick, timer s)] }
  (List.range (Config.coreGroups d)).foldl (fun s g => startClock s d g) (resumeCrossing s d)

/-- A relock begins (R83, R416): the die finishes its raw cycle, and the interval begins at the first tick edge at or after its
end. -/
def startRelock (s : State) (d p : Nat) : State :=
  let x := die s d
  let c := Config.cycleUnits x.point
  let k := (s.now - x.baseT + c - 1) / c
  let e := x.baseT + k * c
  setDie s d { x with raw := x.raw + k, nacc := x.nacc + k * c, baseT := e,
                      relock := some { point := p, start := (e + Config.tickUnits - 1) / Config.tickUnits * Config.tickUnits } }

/-- PSTEP's checks on die d, the core groups gs, point p and power state st: BUSY comes before REFUSED (DESIGN CHOICE, log 18). -/
def pstepCheck (s : State) (d : Nat) (gs : List Nat) (p st : Nat) : Nat :=
  if (die s d).relock.isSome then 3
  else if p = 0 ∧ csrGet s 0x501 0 % 2 = 0 then 4
  else if st = 2 ∧ gs.any (gateRefused s d) then 4
  else if st = 0 ∧ (die s d).tripped ∧ 95 < sensor s then 4
  else 0

def execPstep (d a b : Field) (s : State) : Result :=
  sysForm [opW d, opR a, opR b] 2 s fun s =>
    let x := (readR s a).toNat
    let y := (readR s b).toNat
    let die' := bits x 15 8
    let cg := bits x 7 0
    let p := bits y 2 0
    let st := bits y 5 4
    if x ≠ x % 2 ^ 16 ∨ y ≠ maskBits y [(5, 4), (2, 0)] ∨ p = 6 then answer s d 7
    else if ¬(Config.isCompute die' ∧ diePresent s die') ∨ (cg ≠ 0xFF ∧ Config.coreGroups die' ≤ cg) then answer s d 1
    else
      let gs := if cg = 0xFF then List.range (Config.coreGroups die') else [cg]
      match pstepCheck s die' gs p st with
      | 0 =>
        let s := if st = 0 ∧ (die s die').tripped then clearTrip (useFree s) die' else s
        let s := if st = 3 then s else gs.foldl (fun s g => setPower s die' g st) s
        if p = 7 then answer s d 0 else startForm (startRelock s die' p) d (.pstep die')
      | e => answer (useFree s) d e

/-- RELOCK_END (R83, R416): after the tenth edge the die runs at the new point, and its PSTEP completes. -/
def execRelockEnd (d : Nat) (s : State) : Result :=
  let x := die s d
  match x.relock with
  | some r =>
    if r.start + 378 < s.now then
      let base := if s.now < r.start + 420 then s.now else r.start + 419
      let s := setDie s d { x with point := r.point, baseT := base, nacc := x.nacc + 420, relock := none, heldTo := s.nextId, holds := x.holds ++ [(r.start / Config.tickUnits, timer s)] }
      .next ((s.forms.filter fun f => f.kind == .pstep d).foldl (fun s f => finishForm s f 0) s)
    else off s
  | none => off s

/-- POWER_UP_COMPLETE (R415): 2,000 ticks after it left power gating a core group has power. -/
def execPowerUpComplete (d g : Nat) (s : State) : Result :=
  let x := cgroup s d g
  match x.upAt with
  | some t => if t ≤ timer s then .next (startClock (setCg s d g { x with power := x.upTo, upAt := none }) d g) else off s
  | none => off s

/-- THERMAL_TRIP (R417): a sensor reads 105 °C or more. -/
def execThermalTrip (d temp : Nat) (s : State) : Result :=
  if diePresent s d && decide (105 ≤ temp) then
    let o := if d = 0 then 0x28 else 0x20
    let s := (List.range (Config.coreGroups d)).foldl (fun s g => stopClock s d g) s
    .next { setDie (dregSet s d o 256) d { die s d with tripped := true, tripTick := if (die s d).tripped then (die s d).tripTick else timer s } with dieEvents := s.dieEvents + 1 }
  else off s

/-! Larders (R137, R340, R419) -/

/-- A launch with a resident workgroup holds Larder-read permission for a die (R137). -/
def larderInUse (s : State) (d : Nat) : Bool :=
  s.wgs.any fun x => x.2.cid?.isSome && (launch? s x.2.part x.2.lid).any fun l => larderPerm l.record d

/-- The checks that LWOPEN and LWCLOSE share. That a[63:8] must be 0 is the model's reading: R340 lists no BADARG here (DEDUCED, log 18). -/
def larderCheck (s : State) (x : Nat) : Nat :=
  if x ≠ x % 256 then 7
  else if ¬(Config.isShading x ∧ diePresent s x) then 1
  else if (me s).sec = false ∧ (die s x).lbg ≠ 0 then 2
  else 0

def execLwopen (d a : Field) (s : State) : Result :=
  sysForm [opW d, opR a] 2 s fun s =>
    let x := (readR s a).toNat
    match larderCheck s x with
    | 0 =>
      if (die s x).larderOpen then answer s d 0
      else if larderInUse s x then answer s d 4
      else answer (dregSet (setDie s x { die s x with larderOpen := true }) x 0x140 0) d 0
    | st => answer s d st

def execLwclose (d a : Field) (s : State) : Result :=
  sysForm [opW d, opR a] 2 s fun s =>
    let x := (readR s a).toNat
    match larderCheck s x with
    | 0 =>
      if !(die s x).larderOpen then answer s d 0
      else
        let ops := ((die s x).closing.getD (s.copies.map (·.id)))
        if s.copies.any fun o => ops.contains o.id && o.aimsLarder s x then
          startForm (setDie s x { die s x with closing := some ops }) d (.lwclose x ops)
        else answer (setDie s x { die s x with larderOpen := false, closing := none }) d 0
    | st => answer s d st

/-- Some row of a Larder is poisoned. -/
def larderBad (s : State) (d : Nat) : Bool :=
  s.larderPoison.any fun l => decide ((larderBase + d * 2 ^ 30) / 128 ≤ l) && decide (l < (larderBase + d * 2 ^ 30 + larderBytes) / 128)

/-- The bytes of a Larder; those of a poisoned row are free values (R421, log 2). -/
def larderBytesOf (s : State) (d : Nat) : List Byte :=
  let lo := larderBase + d * 2 ^ 30
  if larderBad s d then
    (List.range larderBytes).map fun k =>
      if s.larderPoison.contains ((lo + k) / 128) then (Config.freeValue (s.free + k)).setWidth 8 else Memory.get s.mem (lo + k)
  else Memory.read s.mem lo larderBytes

/-- The digest of a die's Larder, which is then valid (R419). -/
def digestLarder (s : State) (d : Nat) : State :=
  let h := Config.shake256 (larderBytesOf s d)
  let s := if larderBad s d then { s with free := s.free + larderBytes } else s
  dregSet ((List.range 8).foldl (fun s k => dregSet s d (0x100 + 8 * k) (bits h.toNat (64 * k + 63) (64 * k))) s) d 0x140 1

/-- LARDER_DIGEST_DONE (R419): the digest of a closed Larder is ready. -/
def execLarderDigestDone (d : Nat) (s : State) : Result :=
  if Config.isShading d && !(die s d).larderOpen && dregGet s d 0x140 % 2 == 0 then .next (digestLarder s d) else off s

/-! Channels, barriers, die registers and links (R340, R393, R402) -/

/-- The numbers of channels bound on the core of a workgroup by others. -/
def channelTaken (s : State) (w ch : Nat) (g : Workgroup) : Bool :=
  match g.cid? with
  | some cid => (residents s cid).any fun x => x.1 != w && (x.2.chans.find ch).isSome
  | none => false

def execChbind (d a b : Field) (s : State) : Result :=
  sysForm [opW d, opR a, opR b] 1 s fun s =>
    let x := (readR s b).toNat
    let ch := x % 16
    if x ≠ maskBits x [(8, 8), (3, 0)] then answer s d 7
    else match wrefWg s (readR s a).toNat with
      | none => answer s d 1
      | some (w, g) =>
        let old := g.chans.find ch
        if bitAt x 8 then
          if channelTaken s w ch g || old.any (fun c => !c.recvs.isEmpty || !c.sends.isEmpty) then answer s d 4
          else answer (updWg s w fun g => { g with chans := g.chans.erase ch }) d 0
        else if old.isSome then answer s d 0
        else if channelTaken s w ch g then answer s d 4
        else answer (setChan s w ch {}) d 0

def execPbset (d a b : Field) (s : State) : Result :=
  sysForm [opW d, opR a, opR b] 1 s fun s =>
    let pb := (readR s a).toNat
    let n := (readR s b).toNat
    if 64 ≤ pb ∨ 2 ^ 20 ≤ n then answer s d 7
    else if !pbAssigned s (namedPart s) pb then answer s d 2
    else
      let x := s.pbs.get {} pb
      if !x.arr.isEmpty then answer s d 3 else answer { s with pbs := s.pbs.put pb { x with n := n } } d 0

/-- An operand of DIERD and DIEWR with no other bit set: die and offset. -/
def dieOperand (x : Nat) : Option (Nat × Nat) := if x = maskBits x [(63, 56), (23, 3)] then some (bits x 63 56, bits x 23 3 * 8) else none

def execDierd (d a : Field) (s : State) : Result :=
  sysForm [opW d, opR a] 2 s fun s =>
    match dieOperand (readR s a).toNat with
    | some (n, o) => answer (useFree s) d (dieRead s n o)
    | none => answer s d 0

def execDiewr (d a b : Field) (s : State) : Result :=
  sysForm [opW d, opR a, opR b] 2 s fun s =>
    match dieOperand (readR s a).toNat with
    | none => answer s d 7
    | some (n, o) =>
      if !diePresent s n then answer s d 1
      else if !dregAssigned n o then answer s d 7
      else let r := dieWrite s n o (readR s b).toNat; answer r.1 d r.2

/-- A die is between two states (R333, log 65): it relocks, or a reset of it has been asked for. -/
def dieInTransition (s : State) (n : Nat) : Bool := (die s n).relock.isSome || dregGet s n 0x80 % 4 != 0

/-- A port has trained: the die is present, and its QUAR bit is clear (R393). -/
def trained (s : State) (n : Nat) : State :=
  { dregSet s 0 0x18 (setBits (dregGet s 0 0x18) n n 0) with absentDies := s.absentDies.filter (· != n) }

/-- LINKTRN (R393): whether the training succeeds is a free value. That a[63:4] must be 0 (DEDUCED) and that REFUSED comes before BUSY
(DESIGN CHOICE) are the model's, log 18. -/
def execLinktrn (d a : Field) (s : State) : Result :=
  sysForm [opW d, opR a] 2 s fun s =>
    let x := (readR s a).toNat
    if x ≠ x % 16 then answer s d 7
    else if !dieFitted (x + 1) then answer s d 1
    else if dieInUse s (x + 1) then answer s d 4
    else if dieInTransition s (x + 1) then answer s d 3
    else
      let ok := (freeValue s).getLsbD 0
      answer (useFree (if ok then trained s (x + 1) else s)) d (if ok then 0 else 8)

end Sys2Proof.Machine
end

