-- ==== Sys2Proof/Machine/Boot.lean ====
section
/-! DEFINITION. Package reset, the boot ROM and its attestation report (R411-R414, R418, R419). -/

namespace Sys2Proof.Machine

open Sys2Proof

/-- PACKAGE_RESET (R6, R324, R411, R412): the part starts anew; memory outside the package, the fused MINVER with its raise, and
what is the model's own stay. -/
def execPackageReset (s : State) : Result :=
  let kept := s.mem.filter fun c => match area c.1 with | .host | .peer _ => true | _ => false
  .next { State.reset with
    agenda := s.agenda, cur := s.cur, round := s.round, ir := s.ir, free := s.free, out := s.out, mem := kept,
    minver := Max.max s.minver s.minverNext, minverNext := Max.max s.minver s.minverNext }

/-! Boot (R411-R414) -/

/-- BOOTSTAT (R411). -/
def bootStat (s : State) : Nat := pregGet s devicePart 0x900
def setBootStat (s : State) (stage err : Nat) : State := pregSet s devicePart 0x900 (err * 256 + stage)

/-- A failed stage: the context stops until the next package reset (R411). -/
def bootFail (s : State) (stage err : Nat) : State :=
  let s := setBootStat s stage err
  { setCtl (csrSet s 0x400 0 (setBits (csrGet s 0x400 0) 31 31 0)) 0 {} with bootDead := true }

/-- A little-endian word of an image. -/
def imageWord (l : List Byte) (o : Nat) : Nat := ofBytes ((l.drop o).take 4)

/-- n bytes of an image from an offset, zeros where it has none. -/
def imageBytes (l : List Byte) (o n : Nat) : List Byte := ((l.drop o).take n) ++ List.replicate (n - ((l.drop o).take n).length) 0

/-- The body and the digest D of an image (R412). -/
def imageBody (l : List Byte) : List Byte := imageBytes l 0x1000 (imageWord l 8)
def imageDigest (l : List Byte) : BitVec 512 := Config.shake256 (imageBytes l 0 0x10 ++ imageBody l)

/-- The first check of R412 that an image fails, as its code of R411; 0 when it passes. -/
def imageCheck (s : State) (l : List Byte) : Nat :=
  let pub := imageBytes l 0x10 1793
  if (Config.shake256 pub).setWidth 256 ≠ Config.keyHash then 2
  else if !Config.falconValid pub (imageBytes l 0x720 1280) (imageDigest l) then 3
  else if imageWord l 4 < s.minver then 4
  else 0

/-- The dies on the ports that fail to train, each port's outcome a free value (R393, R414). -/
def untrained (s : State) : List Nat := ((List.range 12).map (· + 1)).filter fun n => !((Config.freeValue (s.free + n)).getLsbD 0)

/-- The dies that enumeration excludes: those it records absent and those that did not pass their self-test (R414). -/
def failedDies (s : State) : List Nat :=
  ((List.range 12).map (· + 1)).filter fun n => (untrained s).contains n || !((Config.ddesc1 n).getLsbD 0)

/-- Stage 3 of R411: a die whose port fails to train is recorded absent, and the port of every die that is excluded is quarantined (R414). -/
def trainPorts (s : State) : State :=
  { (failedDies s).foldl (fun s n => dregSet s 0 0x18 (setBits (dregGet s 0 0x18) n n 1)) s with free := s.free + 13, absentDies := untrained s }

/-- Stage 4: the device pool with its table, in the master image and in every replica (R347, R411). -/
def buildPool (s : State) : State :=
  let (base, n, ridx) := Config.devicePool
  let l := Config.deviceEntries.flatMap fun e => toBytes 8 e.toNat
  let s := { s with mem := Memory.write s.mem base l, pools := s.pools.put devicePart { base := base, count := n, ridx := ridx } }
  ((List.range 13).filter Config.isCompute).foldl (fun s d => { s with tbl := Memory.write s.tbl (replicaAddr d ridx 0 0) l }) s

/-- The present shading dies, ascending. -/
def shadingDies (s : State) : List Nat := (List.range 13).filter fun d => Config.isShading d && diePresent s d

/-- Where the boot ROM puts the image in the boot SRAM (log 4). -/
def imageBase : Nat := 0x1000

/-- Stages 3 to 5 for an image that has passed. -/
def bootOn (s : State) (l : List Byte) : State :=
  let bad := failedDies s
  let s := trainPorts s
  if bad.any fun n => Config.dieKind n == .memory then bootFail s 3 5
  else
    let s := buildPool s
    let s := (shadingDies s).foldl digestLarder s
    let s := setBootStat { s with fwDigest := imageDigest l, bootRam := Memory.write s.bootRam imageBase (imageBytes l 0 0x1000 ++ imageBody l) } 5 0
    updCtl s 0 fun c => { c with pc := imageBase + 0x1000 + imageWord l 0xC, lvl := 2, sec := true, mode := .ready }

/-- BOOT_IMAGE_FETCH (R411-R414): the boot ROM on control context 0, from the image it is sent to the firmware's entry. -/
def execBootImageFetch (image : List Byte) (s : State) : Result :=
  if (ctl s 0).run ∧ bootStat s = 0 ∧ s.bootDead = false then
    if 0x400000 - 0x1000 < Max.max image.length (0x1000 + imageWord image 8) then .next (bootFail s 1 1)
    else match imageCheck s image with
      | 0 => .next (bootOn s image)
      | e => .next (bootFail s 2 e)
  else off s

/-! Attestation (R419) -/

/-- The bytes of a 512-bit digest. -/
def digestBytes (h : BitVec 512) : List Byte := toBytes 64 h.toNat

/-- The configuration registers that PDIG covers, in ascending address: those of the register blocks, of the dies and of the CSRs, BWORLD of each
core group as a CSRR reads it, of a die without core groups once. How the
three spaces follow one another is the model's choice (DESIGN CHOICE, log 85). -/
def configBytes (s : State) : List Byte :=
  let dw (l : List Nat) : List Byte := l.flatMap (toBytes 8)
  dw ((List.range 64).flatMap fun p => (List.range 13).map fun d => cgmask s p d)
  ++ dw ((List.range 64).map fun p => dregGet s 0 (0x1000 + 8 * p))
  ++ dw ((List.range 32).map fun e => dregGet s (1 + e / 16) (0x3000 + 8 * (e % 16)))
  ++ dw ((List.range 192).map fun n => csrGet s (0x440 + n) 0)
  ++ dw ((List.range 13).flatMap fun d =>
    if Config.coreGroups d = 0 then [csrGet s bworldDie d]
    else (List.range (Config.coreGroups d)).map fun g => csrGet s bworldDie d + csrGet s 0x500 (cgKey d g))

/-- The digest of each present shading die's Larder. -/
def larderDigests (s : State) : List Byte :=
  (shadingDies s).flatMap fun d => (List.range 8).flatMap fun k => toBytes 8 (dregGet s d (0x100 + 8 * k))

/-- Bytes 0x000 to 0x0FF of a report. -/
def reportHead (s : State) (nonce : List Byte) : List Byte :=
  toBytes 8 1 ++ nonce ++ digestBytes s.fwDigest ++ digestBytes (Config.shake256 (larderDigests s)) ++ digestBytes (Config.shake256 (configBytes s))
  ++ toBytes 8 (timer s) ++ List.replicate 16 0

/-- A report with its signature, padded with zeros. -/
def report (s : State) (nonce : List Byte) : List Byte :=
  let h := reportHead s nonce
  h ++ (Config.falconSign identitySeed (Config.shake256 h) ++ List.replicate 1280 0).take 1280

/-- ATTESTATION_REPORT (R419): nothing is signed while a digest is invalid. -/
def execAttestationReport (nonce : List Byte) (dest : Nat) (s : State) : Result :=
  if nonce.length ≠ 32 ∨ dest % 4096 ≠ 0 then off s
  else if (shadingDies s).any fun d => dregGet s d 0x140 % 2 == 0 then .next s
  else
    let i : Issuer := { part := devicePart, lvl := 2, sec := true, die := 0, cid := none, wg := none, lid := 0 }
    match writeParts s i dest 8 (report s nonce) 192 with
    | .ok s => .next s
    | _ => off s

end Sys2Proof.Machine
end

