-- ==== Sys2Proof/Machine/Coherence.lean ====
section
/-! DEFINITION. The messages between homes and L1s (R119-R122, R388, R426) and the refresh windows of the Larders (R139). An
access of an instruction performs at its home at once (log 1); these acts are requests that a cache makes of its own, and while
one is under way no access to its line is performed. -/

namespace Sys2Proof.Machine

open Sys2Proof

/-- The home has gathered every acknowledgement for the transactions of a line (R388). -/
def homeFree (s : State) (line : Nat) : Bool := s.cohMsgs.all fun m => m.line != line || (m.toL1.isEmpty && m.acks.isEmpty && m.reply)

/-- A translation under which an L1 of a die caches words of a line that a home tracks: an RC or UO page, not ROW, and a LOCAL one only on
its own die (R121, R128, R132). -/
def cachesUnder (d line : Nat) (t : TlbEnt) : Bool :=
  let e := t.pte.toNat
  t.die == d && ptePa t.lvl e 0 / ptCover t.lvl == line * 128 / ptCover t.lvl && pteOrd e != 0 && !pteRow e
  && (pteSlm e != 1 || ptePinDie e == d)

/-- The home that a core's translation gives a line it may cache (R121, R128). -/
def cacheHome (s : State) (cid line : Nat) : Option Nat :=
  (s.tlb.find? (cachesUnder (cidDie cid) line)).map fun t => homeOf t.pte.toNat (line * 128)

/-- A core that has an L1, and a line of HBM or host memory whose words it may hold (R119, R121, R128, R397). -/
def requestOk (s : State) (cid line : Nat) (w : Word32) : Bool :=
  Config.isCompute (cidDie cid) && decide (cid % 256 < Config.coreCount (cidDie cid)) && !quarantined s (cidDie cid)
  && (match area (line * 128) with | .hbm | .host => true | _ => false) && (cacheHome s cid line).isSome
  && !areaGone s (line * 128) && !s.frozen.contains line && w != 0

/-- Cores that hold, or are about to get, some of the words as a test on the L1 state and on a reply has it. -/
def holders (s : State) (cid line : Nat) (hold : L1Line → Bool) (coming : Trans → Bool) : List Nat :=
  ((lineState s line).filter fun x => x.1 != cid && hold x.2).map (·.1)
  ++ (((s.cohMsgs.filter fun m => m.line == line && m.cid != cid && coming m).map (·.cid)).filter fun c =>
      !((lineState s line).find c).any hold).eraseDups

/-- A request starts at the home that the core's translation gives its line: its messages are sent, and without anything to gather its
reply leaves at once. -/
def startTrans (s : State) (m : Trans) : State :=
  let h := (cacheHome s m.cid m.line).getD (homeHash (m.line * 128))
  { s with cohMsgs := s.cohMsgs ++ [{ m with reply := m.toL1.isEmpty, home := h, ord := s.nextId, rord := s.nextId, tick := timer s }],
           nextId := s.nextId + 1 }

/-- HOME_READ_REQUEST (R388, R426): holders of D words are recalled, among them the L2 slices but the one that the reader goes through. -/
def execHomeReadRequest (cid line : Nat) (words : Word32) (s : State) : Result :=
  if requestOk s cid line words ∧ homeFree s line then
    let s := hostShare (combine s line) line
    let s := recallL2 s line words (some (sliceFor (cidDie cid) ((cacheHome s cid line).getD (homeHash (line * 128))) line))
    let dest := holders s cid line (fun l => l.d &&& words != 0) fun m => m.own && m.dw &&& ~~~m.drop &&& words != 0
    .next (startTrans (hostPermit s line) { cid := cid, line := line, words := words, own := false, toL1 := dest, acks := [], reply := false, drop := 0, dw := 0 })
  else off s

/-- HOME_OWNERSHIP_REQUEST (R120, R388, R396): it waits for the pushes toward the subscriptions of its line (R245). -/
def execHomeOwnershipRequest (cid line : Nat) (words : Word32) (s : State) : Result :=
  if requestOk s cid line words ∧ homeFree s line ∧ !(s.subs.any fun x => lineOf x.pa == line && x.push.isSome) then
    let s := hostOwn (combine s line) line
    let s := clearL2 s line words (some (sliceFor (cidDie cid) ((cacheHome s cid line).getD (homeHash (line * 128))) line))
    let dest := holders s cid line (fun l => (l.v ||| l.w ||| l.d) &&& words != 0) fun m => m.words &&& ~~~m.drop &&& words != 0
    .next (startTrans (hostPermit s line) { cid := cid, line := line, words := words, own := true, toL1 := dest, acks := [], reply := false, drop := 0, dw := 0 })
  else off s

/-- The first transaction of a line with a message on its way to a core. -/
def toward (s : State) (cid line : Nat) : Option Trans := s.cohMsgs.find? fun m => m.line == line && m.toL1.contains cid

/-- A core loses words of a line, and drops those still on their way to it (R388). With `keep`, for a read elsewhere, it gives up the words
it holds D, or is about to, and keeps V (R426). -/
def loseWords (s : State) (cid line : Nat) (w : Word32) (keep : Bool) : State :=
  let m := lineState s line
  let l := m.get {} cid
  let l' : L1Line := if keep then l.recalled w else { l with v := l.v &&& ~~~w, w := l.w &&& ~~~w, d := l.d &&& ~~~w }
  let late (x : Trans) : Trans :=
    if x.line == line && x.cid == cid then { x with drop := x.drop ||| (if keep then (if x.own then x.dw &&& w else 0) else w) } else x
  let s := setLine s line (m.put cid l')
  { s with cohMsgs := s.cohMsgs.map late }

/-- A message has reached its L1, whose acknowledgement is on its way, with the dirty words it gives up; until it has arrived the home has the
core for the owner of what it owned (R392). -/
def gotMessage (s : State) (cid : Nat) (m : Trans) (dw : Word32) (owned : Bool) : State :=
  let upd (x : Trans) : Trans :=
    if x.line == m.line && x.toL1.contains cid then
      { x with toL1 := x.toL1.filter (· != cid), acks := x.acks ++ [cid], tick := timer s, dw := if x.own then x.dw ||| dw else x.dw,
               owners := if owned then insertAsc x.owners cid else x.owners.filter (· != cid) }
    else x
  { s with cohMsgs := s.cohMsgs.map upd }

/-- Whether the message of a transaction to a core is a recall: it holds dirty words, or the request is a read (R388). -/
def isRecall (s : State) (cid : Nat) (m : Trans) : Bool := !m.own || ((lineState s m.line).get {} cid).d &&& m.words != 0

/-- A core's L1 owns some of the words of a transaction. -/
def ownsWords (s : State) (cid : Nat) (m : Trans) : Bool :=
  let l := (lineState s m.line).get {} cid
  (l.w ||| l.d) &&& m.words != 0

/-- L1_INVALIDATION (R388). -/
def execL1Invalidation (cid line : Nat) (s : State) : Result :=
  match toward s cid line with
  | some m => if isRecall s cid m || !arrives s (m.down cid) then off s else .next (gotMessage (loseWords s cid line m.words false) cid m 0 (ownsWords s cid m))
  | none => off s

/-- L1_RECALL (R388, R426): of words already written back it is acknowledged without data. -/
def execL1Recall (cid line : Nat) (s : State) : Result :=
  match toward s cid line with
  | some m =>
    if isRecall s cid m && arrives s (m.down cid) then
      .next (gotMessage (loseWords s cid line m.words (!m.own)) cid m (((lineState s line).get {} cid).d &&& m.words) (ownsWords s cid m))
    else off s
  | none => off s

/-- HOME_ACK_RECEIVED (R150, R386, R388): with the last one the reply leaves. -/
def execHomeAckReceived (line cid : Nat) (s : State) : Result :=
  match s.cohMsgs.find? fun m => m.line == line && m.acks.contains cid with
  | some x =>
    if arrives s (x.up cid) then
      let upd (m : Trans) : Trans :=
        if m.line == line && m.acks.contains cid then
          let acks := m.acks.filter (· != cid)
          { m with acks := acks, reply := m.toL1.isEmpty && acks.isEmpty, rord := s.nextId, tick := timer s }
        else m
      .next { s with cohMsgs := s.cohMsgs.map upd, nextId := s.nextId + 1 }
    else off s
  | none => off s

/-- DATA_REPLY_ARRIVAL (R119, R120, R388): words that an invalidation overtook are dropped, and a full L1 gives up a line first (R20). -/
def execDataReplyArrival (cid line : Nat) (s : State) : Result :=
  match s.cohMsgs.find? fun m => m.cid == cid && m.line == line && m.reply && arrives s m.data with
  | some m =>
    let k := m.words &&& ~~~m.drop
    let h := m.home
    let s := sliceLine (makeRoom s cid line) cid h line
    let st := lineState s line
    let l := { st.get {} cid with home := keptHome h (line * 128) }
    let l' : L1Line := if m.own then { l with v := l.v ||| k, w := l.w ||| k, d := l.d ||| (m.dw &&& k) } else { l with v := l.v ||| k }
    let s := setLine s line (st.put cid l')
    .next { s with cohMsgs := s.cohMsgs.erase m }
  | none => off s

/-- HOME_WRITEBACK (R120, R388). -/
def execHomeWriteback (cid line : Nat) (words : Word32) (s : State) : Result :=
  let st := lineState s line
  let l := st.get {} cid
  if words ≠ 0 ∧ l.d &&& words = words then
    let h := l.home.getD (homeHash (line * 128))
    let s := if h < 256 && line * 128 < hbmBytes then touchLlc s h line true else s
    .next (setLine s line (st.put cid { l with d := l.d &&& ~~~words }))
  else off s

/-- HOME_U_REDUCTION (R122, R388): of the delta that a core holds for a word. -/
def execHomeUReduction (cid line word kind : Nat) (v : Word32) (s : State) : Result :=
  let st := lineState s line
  let l := st.get {} cid
  match l.u.find word with
  | some u =>
    if u.kind = kind ∧ u.val = v then
      if lineWatched s line then .next (setLine (applyDeltas s line [(word, u)]) line (st.put cid { l with u := l.u.erase word })) else .next s
    else off s
  | none => off s

/-- L1_EVICTION (R120, R122). -/
def execL1Eviction (cid line : Nat) (s : State) : Result :=
  if ((lineState s line).find cid).isSome then .next (writeBackLine s cid line true) else off s

/-- LARDER_REFRESH_START (R139). -/
def execLarderRefreshStart (d g : Nat) (s : State) : Result :=
  if Config.isShading d ∧ g < 8 ∧ refreshDue s d g ∧ !(die s d).refresh.contains g then
    .next (setDie s d { die s d with refresh := insertAsc (die s d).refresh g })
  else off s

/-- LARDER_REFRESH_END (R139): reads that reach the bank group complete from now on. -/
def execLarderRefreshEnd (d g : Nat) (s : State) : Result :=
  if (die s d).refresh.contains g ∧ refreshDue s d g = false then
    .next (setDie s d { die s d with refresh := (die s d).refresh.filter (· != g) })
  else off s

end Sys2Proof.Machine
end

