-- ==== Sys2Proof/Machine/Exact.lean ====
section
/-! DEFINITION. Exact rational arithmetic of the geometry, raster and ray units, rounded once (R296, R305, R314, R315). -/

namespace Sys2Proof

/-- A rational number: a numerator over a positive denominator. -/
structure Frac where
  n : Int
  d : Nat
  deriving DecidableEq, Repr, Inhabited

def Frac.le (x y : Frac) : Bool := decide (x.n * y.d ≤ y.n * x.d)
def Frac.lt (x y : Frac) : Bool := decide (x.n * y.d < y.n * x.d)
def Frac.max (x y : Frac) : Frac := if x.le y then y else x
def Frac.min (x y : Frac) : Frac := if x.le y then x else y

def Frac.add (x y : Frac) : Frac := ⟨x.n * y.d + y.n * x.d, x.d * y.d⟩
def Frac.sub (x y : Frac) : Frac := ⟨x.n * y.d - y.n * x.d, x.d * y.d⟩
def Frac.mul (x y : Frac) : Frac := ⟨x.n * y.n, x.d * y.d⟩
def Frac.ofInt (n : Int) : Frac := ⟨n, 1⟩

/-- a / b for a nonzero b. -/
def ratio (a b : Int) : Frac := if b < 0 then ⟨-a, b.natAbs⟩ else ⟨a, b.natAbs⟩

/-- A rational rounded once to nearest even in a format (R90). -/
def Fmt.ofRat (f : Fmt) (x : Frac) : Nat :=
  let k := 64 + bitLen x.d
  let m := x.n.natAbs * 2 ^ k
  f.encode .rne false 0 (m % x.d != 0) (.fin (decide (x.n < 0)) (m / x.d) (-(k : Int)))

/-- A rational rounded to the nearest integer, ties to even. -/
def Frac.round (x : Frac) : Int :=
  let q := x.n / (x.d : Int)
  let r := (x.n % (x.d : Int)).toNat
  if 2 * r > x.d ∨ (2 * r = x.d ∧ q % 2 = 1) then q + 1 else q

/-- A finite FP32 value in units of 2^-149, of which every one is a multiple. -/
def f32Int (x : Nat) : Option Int :=
  match Fmt.fp32.val x with
  | .fin neg m e => some (scaled neg m e (-149))
  | _ => none
def f32One : Int := 2 ^ 149

/-- Whether an FP32 encoding is finite. -/
def f32Finite (x : Nat) : Bool := (f32Int x).isSome

end Sys2Proof
end

