-- ==== Sys2Proof/Machine/Displays.lean ====
section
/-! DEFINITION. Virtual displays and the encode engines (R403-R410). -/

namespace Sys2Proof.Machine

open Sys2Proof

/-- The encode engine of a stream: its number, its die and its EID (R407). -/
def streamEngine (s : State) (p v : Nat) : Nat := (disp s p v).eng
def encDie (e : Nat) : Nat := 1 + e / 16
def encEid (e : Nat) : Nat := eidOf (encDie e) (0x20 + e % 16)

/-- Issuer of a stream's accesses. -/
def streamIssuer (s : State) (p v : Nat) : Issuer :=
  let e := streamEngine s p v
  { part := p, lvl := 0, sec := blockWorld s (encDie e) (48 + e % 16), die := encDie e, cid := none, wg := none, lid := 0, eng := true }

/-- An engine fault of a stream (R410). -/
def streamFault (s : State) (p v : Nat) (c : Cause) (faddr : Nat) : State :=
  let s := raiseEngine s (encEid (streamEngine s p v)) p 0 (streamIssuer s p v).sec 0 0 5 (2 * p + v) c faddr
  setDisp s p v { disp s p v with held := true }

/-- A frame not coded (R409, R410). -/
def skipFrame (s : State) (p v : Nat) : State := pregSet s p (dispOff v 0x80) ((dispReg s p v 0x80 % 2 ^ 32 + 1) % 2 ^ 32)

/-! Composition (R406) -/

def fracClamp (x : Frac) : Frac := Frac.min (Frac.max x (.ofInt 0)) (.ofInt 1)

/-- A plane or the cursor: base, pitch, whether its pixels are RGBA16F, origin and size. -/
structure Plane where
  base : Nat
  pitch : Nat
  wide : Bool
  x : Int
  y : Int
  w : Nat
  h : Nat
  deriving DecidableEq, Repr

/-- The sources that display registers enable, in order (R403, R406). -/
def planes (regs : SMap Word64) : List Plane :=
  let reg (o : Nat) : Nat := (regs.get 0 o).toNat
  let plane (k : Nat) : List Plane :=
    let g := reg (0x18 + 0x18 * k)
    let f := reg (0x20 + 0x18 * k)
    if bitAt f 63 then
      [{ base := reg (0x10 + 0x18 * k), pitch := bits f 49 32, wide := bitAt f 0, x := bits g 13 0, y := bits g 29 16,
         w := bits g 45 32 + 1, h := bits g 61 48 + 1 }]
    else []
  let c := reg 0x48
  let signed (n : Nat) : Int := if n < 8192 then n else (n : Int) - 16384
  plane 0 ++ plane 1 ++
    (if bitAt c 63 then [{ base := reg 0x40, pitch := 256, wide := false, x := signed (bits c 13 0), y := signed (bits c 29 16), w := 64, h := 64 }]
     else [])

/-- A half-precision component as a real: NaN reads as 0; of an infinity the spec states no real, so it is a free value. -/
def halfReal (s : State) (x : Nat) : Frac × State :=
  match Fmt.fp16.val x with
  | .nan => (.ofInt 0, s)
  | .inf _ => (.ofInt (freeValue s).toInt, useFree s)
  | .fin neg m e => (⟨scaled neg m e (-24), 2 ^ 24⟩, s)

/-- The components r, g, b, a of a pixel's bytes. -/
def pixelReals (s : State) (wide : Bool) (l : List Byte) : List Frac × State :=
  if wide then
    (List.range 4).foldl (fun r k => let x := halfReal r.2 (ofBytes ((l.drop (2 * k)).take 2)); (r.1 ++ [x.1], x.2)) ([], s)
  else (l.map fun b => ⟨b.toNat, 255⟩, s)

/-- The bytes of a source at the pixel (x, y), as an address and a size, if it covers the pixel. -/
def sourceAt (q : Plane) (x y : Int) : Option (Nat × Nat) :=
  if q.x ≤ x ∧ x < q.x + q.w ∧ q.y ≤ y ∧ y < q.y + q.h then
    let n := if q.wide then 8 else 4
    some ((q.base + (y - q.y).toNat * q.pitch + (x - q.x).toNat * n) % 2 ^ 64, n)
  else none

/-- One source laid over a colour, if it covers the pixel. -/
def overSource (s : State) (i : Issuer) (q : Plane) (x y : Int) (c : List Frac) : Out (List Frac × State) :=
  match sourceAt q x y with
  | some (va, n) =>
    (readMem s i va n).bind fun r =>
      let (px, s) := pixelReals r.2 q.wide r.1
      let a := px.getD 3 (.ofInt 0)
      .ok ((List.range 3).map (fun k => (px.getD k (.ofInt 0)).add ((c.getD k (.ofInt 0)).mul ((Frac.ofInt 1).sub a))), s)
  | none => .ok (c, s)

/-- The composed colour of a pixel. -/
def pixelColour (s : State) (i : Issuer) (x y : Int) : List Plane → List Frac → Out (List Frac × State)
  | [], c => .ok (c.map fracClamp, s)
  | q :: l, c => (overSource s i q x y c).bind fun r => pixelColour r.2 i x y l r.1

/-- The colours of the last n pixels of a display of width w and `total` pixels, in raster order. -/
def frameColours (s : State) (i : Issuer) (qs : List Plane) (w total : Nat) : Nat → Out (List (List Frac) × State)
  | 0 => .ok ([], s)
  | n + 1 =>
    let k := total - (n + 1)
    (pixelColour s i (k % w) (k / w) qs [.ofInt 0, .ofInt 0, .ofInt 0]).bind fun r =>
      (frameColours r.2 i qs w total n).bind fun z => .ok (r.1 :: z.1, z.2)

/-- The state after the reads of a frame up to the one that faults: a page used before stays reported (R354). -/
def framePages (s : State) (i : Issuer) (qs : List Plane) (w n : Nat) : State :=
  ((List.range n).flatMap fun (k : Nat) => qs.filterMap fun q => sourceAt q ((k % w : Nat) : Int) ((k / w : Nat) : Int)).foldl
    (fun (r : State × Bool) (x : Nat × Nat) =>
      if r.2 then r
      else match readMem r.1 i x.1 x.2 with
        | .ok u => (u.2, false)
        | _ => (r.1, true)) (s, false) |>.1

/-- BT.709 luminance of a colour. -/
def luminance (c : List Frac) : Frac :=
  ((Frac.mul ⟨2126, 10000⟩ (c.getD 0 (.ofInt 0))).add (Frac.mul ⟨7152, 10000⟩ (c.getD 1 (.ofInt 0)))).add (Frac.mul ⟨722, 10000⟩ (c.getD 2 (.ofInt 0)))

/-- The samples of a frame: Y of every pixel, then Cb and Cr of every 2 × 2 block, in raster order. -/
def frameSamples (w h : Nat) (l : List (List Frac)) : List Nat :=
  let a := l.toArray
  let block (k : Nat) : List Frac :=
    let x := 2 * (k % (w / 2))
    let y := 2 * (k / (w / 2))
    let at' (x y : Nat) : List Frac := a.getD (y * w + x) []
    (List.range 3).map fun j =>
      let f (c : List Frac) : Frac := c.getD j (.ofInt 0)
      Frac.mul ⟨1, 4⟩ (((f (at' x y)).add (f (at' (x + 1) y))).add ((f (at' x (y + 1))).add (f (at' (x + 1) (y + 1)))))
  let chroma (j : Nat) (den : Nat) (k : Nat) : Nat :=
    let b := block k
    (((Frac.ofInt 512).add (Frac.mul ⟨8960000, den⟩ ((b.getD j (.ofInt 0)).sub (luminance b)))).round).toNat
  (l.map fun c => (((Frac.ofInt 64).add (Frac.mul (.ofInt 876) (luminance c))).round).toNat)
  ++ (List.range (w / 2 * (h / 2))).map (chroma 2 18556) ++ (List.range (w / 2 * (h / 2))).map (chroma 0 15748)

/-- The first frame that is due leaves. -/
def dueGone (s : State) (p v : Nat) : State :=
  let d := disp s p v
  let d := { d with due := d.due.drop 1 }
  setDisp s p v { d with ending := d.ending && d.busy }

/-- FRAME_CAPTURE (R404-R406, R410): the planes of the first frame that is due are read under the registers of its tick, once they can be
read. A stream that is suspended, or whose engine pauses in a thermal trip (R417, log 46), skips the frame; one whose capture faults is not
coded, so SSKIP counts it (R407). -/
def execFrameCapture (p v : Nat) (s : State) : Result :=
  let d := disp s p v
  match d.due with
  | [] => off s
  | (n, tick, regs) :: _ =>
    let t := dueGone s p v
    if !d.stream && !d.ending then .next t
    else if d.held || !accepts s (encEid (streamEngine s p v)) || (die s (encDie (streamEngine s p v))).tripped then .next (skipFrame t p v)
    else
      let c := (regs.get 0 0).toNat
      let w := bits c 13 0 + 1
      let h := bits c 29 16 + 1
      match frameColours s (streamIssuer s p v) (planes regs) w (w * h) (w * h) with
      | .ok r =>
        let x := disp r.2 p v
        .next (setDisp r.2 p v { x with due := x.due.drop 1, cap := x.cap ++ [(n, tick, frameSamples w h r.1)] })
      | .bad c va =>
        .next (streamFault (skipFrame (dueGone (framePages s (streamIssuer s p v) (planes regs) w (w * h)) p v) p v) p v c va)
      | .wait => off s

/-! Coding (R408, R409) -/

/-- Bytes written by an engine, at most n writes, each within one aligned word (R147); what was written before a fault stays. -/
def engineWrite (s : State) (i : Issuer) : Nat → Nat → List Byte → State × Out Unit
  | 0, _, _ => (s, .ok ())
  | n + 1, va, l =>
    let k := Min.min l.length (4 - va % 4)
    if k = 0 then (s, .ok ())
    else match resolve s i { va := va, size := k, wr := true, eng := true, elem := true } with
      | .ok t => engineWrite (writeTgt s i t (l.take k)) i n (va + k) (l.drop k)
      | .bad c f => (s, .bad c f)
      | .wait => (s, .wait)

/-- The frame in front has been coded, or dropped; its engine may take up its world now (R327). -/
def frameGone (s : State) (p v : Nat) : State :=
  let d := disp s p v
  let d := { d with cap := d.cap.drop 1 }
  blocksAdopt (setDisp s p v { d with ending := d.ending && d.busy }) (encDie (streamEngine s p v))

/-- A frame is the stream's key frame (R407, R410): KINT frames or more, where a write has lowered it, since the last one. -/
def keyFrame (d : Disp) (kint : Nat) : Bool :=
  match d.sinceKey with
  | none => true
  | some k => kint != 0 && decide (kint ≤ k)

/-- The engine of a stream runs: its die is neither in a relock nor tripped (R416, R417). -/
def encRuns (s : State) (p v : Nat) : Bool :=
  let x := die s (encDie (streamEngine s p v))
  x.relock.isNone && !x.tripped

/-- The post of a coded frame (R160, R409): it waits for the pushes of what the frame has written. R410 names the faults of a capture and of a
ring write only; a post that itself faults suspends the stream too, is dropped for good, and RESUME has the stream go on at its next
capture (DESIGN CHOICE, log 46). -/
def postFrame (s : State) (p v : Nat) : State :=
  let a := dispReg s p v 0x70
  let rest (s : State) : State := blocksAdopt (setDisp s p v { disp s p v with posting := false }) (encDie (streamEngine s p v))
  if a = 0 then rest s
  else match postAdd s (streamIssuer s p v) none a 1 with
    | .ok s => rest s
    | .bad c va => streamFault (rest s) p v c va
    | .wait => s

/-- FRAME_ENCODE_DONE (R409, R410): the post of the frame that has been coded, else the next frame is coded and posted. -/
def execFrameEncodeDone (p v : Nat) (s : State) : Result :=
  let d := disp s p v
  if d.held || !encRuns s p v || !accepts s (encEid (streamEngine s p v)) then off s
  else if d.posting then .next (postFrame s p v)
  else match if d.stream || d.ending then d.cap.head? else none with
  | none => off s
  | some (n, tick, samples) =>
    let r := dispReg s p v 0x68
    let size := bits r 31 0
    let maxfr := bits r 63 32
    let sp := dispReg s p v 0x78
    let used := (bits sp 63 32 + 2 ^ 32 - bits sp 31 0) % 2 ^ 32
    if size < used + maxfr + 32 then .next (skipFrame (frameGone s p v) p v)
    else
      let key := keyFrame d (bits (dispReg s p v 0x50) 15 0)
      let regs := [0x50, 0x58, 0x68, 0, 0x08].map fun o => BitVec.ofNat 64 (dispReg s p v o)
      let u := (Config.av1Unit regs key samples s.free).take maxfr
      let head := toBytes 4 u.length ++ toBytes 4 n ++ toBytes 8 tick ++ toBytes 16 (b2n key)
      let o := d.off % size
      let gap := if size < o + 32 + u.length then size - o else 0
      let start := if gap = 0 then o else 0
      let i := streamIssuer s p v
      match engineWrite (useFree s) i (32 + u.length) ((dispReg s p v 0x60 + start) % 2 ^ 64) (head ++ u) with
      | (_, .wait) => off s
      | (s, .bad c va) => .next (streamFault s p v c va)
      | (s, .ok _) =>
        let since := if key then 1 else (d.sinceKey.getD 0) + 1
        let s := setDisp s p v { d with off := start + 32 + u.length, sinceKey := some since, posting := true }
        let s := pregSet s p (dispOff v 0x78) ((bits sp 63 32 + gap + 32 + u.length) % 2 ^ 32 * 2 ^ 32 + bits sp 31 0)
        .next (postFrame (frameGone s p v) p v)

end Sys2Proof.Machine
end

