-- ==== Sys2Proof/Machine/Geometry.lean ====
section
/-! DEFINITION. The geometry path: EMITVP and the binning units (R291-R299), packets and seals on their way (R299-R303). -/

namespace Sys2Proof.Machine

open Sys2Proof

/-! EMITVP (R293-R295) -/

/-- Bytes of a meshlet record by its first word (R294, R295). -/
def meshletBytes (hdr : Nat) : Nat := 16 + 16 * (bits hdr 7 0 + 1) + 4 * (bits hdr 15 8 + 1)

/-- The header of a meshlet record breaks a rule (R294, R295). -/
def meshletBad (s : State) (p hdr : Nat) : Bool :=
  bits hdr 7 6 != 0 || bitAt hdr 15 || bits hdr 127 96 != 0 || decide (csrGet s 0x103 p ≤ bits hdr 31 16)

/-- The binning queue takes a meshlet (R295): 8 of its 64 entries are kept for the die's lowest unretired batch. -/
def binRoom (s : State) (p d g bseq : Nat) : Bool :=
  let n := (s.binq.filter fun m => m.die == d && m.cg == g).length
  decide (n < 64) && (decide (n + 8 < 64) || lowestBatch s p d == some bseq)

/-- EMITVP (R295). -/
def execEmitvp (a : Field) (s : State) : Result :=
  guarded { ops := [opRp a], need := .geometry } s fun s =>
    let ea := (readP s a).toNat
    if ea % 16 ≠ 0 then raise .misalign ea 0 s
    else match canonical ea, rangeOf ea, curWg s with
      | true, .self o, some (w, g) =>
        match batchOf s g.part g.lid g.wid with
        | none => raise .illegal 0 0 s
        | some b =>
          (spadTarget s (me s) { va := ea, size := 16, rd := true } w o).run s fun t =>
            let h := readTgt s (me s) t 16
            let hdr := ofBytes h.1
            if meshletBad s g.part hdr then raise .illegal 0 0 s
            else
              let n := meshletBytes hdr
              (spadTarget s (me s) { va := ea, size := n, rd := true } w o).run s fun t =>
                let cid := g.cid?.getD 0
                let r := readTgt s (me s) t n
                if binRoom s g.part (cidDie cid) (cidCg cid) b.bseq then
                  done { r.2 with binq := s.binq ++ [{ part := g.part, die := cidDie cid, cg := cidCg cid, bseq := b.bseq, lvl := g.lvl, sec := g.sec,
                                                       lid := g.lid, bytes := r.1, tri := 0, reg := 0 }] }
                else .next s
      | _, _, _ => raise .xlateAttr ea 0 s

/-! Render state records (R292) -/

def rstWord (r : BitVec 512) (o : Nat) : Nat := bits r.toNat (8 * o + 31) (8 * o)
def rstWid (r : BitVec 512) : Nat := rstWord r 0x18 % 2 ^ 16
def rstHgt (r : BitVec 512) : Nat := rstWord r 0x18 / 2 ^ 16
def rstCfmt (r : BitVec 512) : Nat := bits (rstWord r 0x1C) 9 8
def rstBlend (r : BitVec 512) : Nat := bits (rstWord r 0x1C) 7 6
def rstDepthWr (r : BitVec 512) : Bool := bitAt (rstWord r 0x1C) 5
def rstDepthFn (r : BitVec 512) : Nat := bits (rstWord r 0x1C) 4 3
def rstFrontCw (r : BitVec 512) : Bool := bitAt (rstWord r 0x1C) 2
def rstCull (r : BitVec 512) : Nat := bits (rstWord r 0x1C) 1 0
def rstCbase (r : BitVec 512) : Nat := bits r.toNat 319 256
def rstZbase (r : BitVec 512) : Nat := bits r.toNat 383 320
def rstFentry (r : BitVec 512) : Nat := bits r.toNat 447 384

/-- A render state record is valid (R292). A WID or HGT outside 1 to 16,384 and a CBASE or ZBASE that is no multiple of 4,096 count among the
reserved values, since the table allows no others (DEDUCED, log 79). -/
def rstValid (r : BitVec 512) : Bool :=
  decide (1 ≤ rstWid r) && decide (rstWid r ≤ 16384) && decide (1 ≤ rstHgt r) && decide (rstHgt r ≤ 16384)
  && bits (rstWord r 0x1C) 31 10 == 0 && rstCfmt r != 3 && rstBlend r != 3 && rstCull r != 3 && bits r.toNat 511 448 == 0
  && rstCbase r % 4096 == 0 && rstZbase r % 4096 == 0

/-- The binning unit's read of a record: none when it fails or the record is invalid (R292). -/
def readRst (s : State) (i : Issuer) (n : Nat) : Out (Option (BitVec 512) × State) :=
  match readMem s i (csrGet s 0x102 i.part + 64 * n) 64 with
  | .ok (l, s) => let r := BitVec.ofNat 512 (ofBytes l); .ok (if rstValid r then some r else none, s)
  | .bad _ _ => .ok (none, s)
  | .wait => .wait

/-! Vertices and triangles (R296) -/

/-- A vertex as the unit computes it: X and Y in units of 1/256, Z and RW as FP32. -/
structure Vtx where
  x : Int
  y : Int
  z : Nat
  rw : Nat
  deriving DecidableEq, Repr, Inhabited

/-- scale × c / w + off of finite FP32 values given in units of 2^-149. -/
def viewport (scale off c w : Int) : Frac := ⟨scale * c + off * w, w.natAbs * f32One.natAbs⟩

/-- A vertex of a meshlet under a record: none when it is invalid, or |X| or |Y| is 2^20 or more (R296). -/
def vertexOf (r : BitVec 512) (c : List Nat) : Option Vtx :=
  let v (k : Nat) := f32Int (rstWord r (4 * k))
  match c.map f32Int, v 0, v 1, v 2, v 3, v 4, v 5 with
  | [some x, some y, some z, some w], some sx, some ox, some sy, some oy, some sz, some oz =>
    if w ≤ 0 then none
    else
      let px := (let q := viewport sx ox x w; ({ n := 256 * q.n, d := q.d } : Frac)).round
      let py := (let q := viewport sy oy y w; ({ n := 256 * q.n, d := q.d } : Frac)).round
      let pz := Fmt.fp32.ofRat (viewport sz oz z w)
      let rw := Fmt.fp32.ofRat (ratio f32One w)
      if f32Finite pz && f32Finite rw && decide (px.natAbs < 2 ^ 28) && decide (py.natAbs < 2 ^ 28) then some ⟨px, py, pz, rw⟩ else none
  | _, _, _, _, _, _, _ => none

/-- Twice the signed area of a triangle (R296). -/
def area2 (a b c : Vtx) : Int := (b.x - a.x) * (c.y - a.y) - (c.x - a.x) * (b.y - a.y)

/-- A triangle that survives: its vertices and whether it is front-facing (R296). -/
def triangleOf (r : BitVec 512) (a b c : Vtx) : Option Bool :=
  let t := area2 a b c
  let front := decide (0 < t) != rstFrontCw r
  let x0 := min a.x (min b.x c.x)
  let x1 := max a.x (max b.x c.x)
  let y0 := min a.y (min b.y c.y)
  let y1 := max a.y (max b.y c.y)
  if t = 0 ∨ (rstCull r = 1 ∧ !front) ∨ (rstCull r = 2 ∧ front) ∨ x1 < 0 ∨ y1 < 0 ∨ 256 * (rstWid r : Int) ≤ x0 ∨ 256 * (rstHgt r : Int) ≤ y0 then none
  else some front

/-- Regions from `lo` to `hi` of one axis that a range touches within the target (R296). -/
def axisRegions (lo hi : Int) (size : Nat) : List Nat :=
  let a := (max lo 0 / 8192).toNat
  let b := min ((hi / 8192).toNat) ((size - 1) / 32)
  (List.range (b + 1 - a)).map (a + ·)

/-- Every region that a triangle's bounding box touches within the target (R296). -/
def triangleRegions (r : BitVec 512) (a b c : Vtx) : List (Nat × Nat) :=
  (axisRegions (min a.y (min b.y c.y)) (max a.y (max b.y c.y)) (rstHgt r)).flatMap fun ry =>
    (axisRegions (min a.x (min b.x c.x)) (max a.x (max b.x c.x)) (rstWid r)).map fun rx => (rx, ry)

/-- The triangle record of a region (R298). -/
def triangleRecord (rx ry : Nat) (a b c : Vtx) (meshlet prim : Nat) (front : Bool) : List Word32 :=
  let px (v : Vtx) : Word32 := BitVec.ofInt 32 (v.x - 8192 * rx)
  let py (v : Vtx) : Word32 := BitVec.ofInt 32 (v.y - 8192 * ry)
  [px a, py a, px b, py b, px c, py c, BitVec.ofNat 32 a.z, BitVec.ofNat 32 b.z, BitVec.ofNat 32 c.z,
   BitVec.ofNat 32 a.rw, BitVec.ofNat 32 b.rw, BitVec.ofNat 32 c.rw, BitVec.ofNat 32 meshlet, BitVec.ofNat 32 prim,
   BitVec.ofNat 32 (b2n front), 0]

/-- Word `o` bytes into a meshlet's record. -/
def Meshlet.word (m : Meshlet) (o : Nat) : Nat := ofBytes ((m.bytes.drop o).take 4)
def Meshlet.nv (m : Meshlet) : Nat := bits (m.word 0) 7 0 + 1
def Meshlet.nt (m : Meshlet) : Nat := bits (m.word 0) 15 8 + 1
def Meshlet.unit (m : Meshlet) : Nat := m.die * 256 + m.cg
/-- Vertex v as its four coordinates. -/
def Meshlet.vertex (m : Meshlet) (v : Nat) : List Nat := (List.range 4).map fun k => m.word (16 + 16 * v + 4 * k)
/-- Issuer data of the reads made for a meshlet (R292). -/
def Meshlet.issuer (m : Meshlet) : Issuer :=
  { part := m.part, lvl := m.lvl, sec := m.sec, die := m.die, cid := none, wg := none, lid := m.lid, eng := true, grp := some (m.die, m.cg) }

/-- Triangle t of a meshlet, if it survives: its vertices and facing (R295, R296). -/
def Meshlet.triangle (m : Meshlet) (r : BitVec 512) (t : Nat) : Option (Vtx × Vtx × Vtx × Bool) :=
  let w := m.word (16 + 16 * m.nv + 4 * t)
  let i := bits w 7 0
  let j := bits w 15 8
  let k := bits w 23 16
  if w / 2 ^ 24 ≠ 0 ∨ m.nv ≤ i ∨ m.nv ≤ j ∨ m.nv ≤ k then none
  else match vertexOf r (m.vertex i), vertexOf r (m.vertex j), vertexOf r (m.vertex k) with
    | some a, some b, some c => (triangleOf r a b c).map fun f => (a, b, c, f)
    | _, _, _ => none

/-! Binning (R296, R297) -/

/-- Adds a triangle record to the packet of a region (R297): none while a packet that this closes has no place (R302). -/
def addTriangle (s : State) (m : Meshlet) (r : BitVec 512) (rx ry : Nat) (tri : List Word32) : Option State :=
  let st := m.word 0 / 2 ^ 16
  let mine (k : Packet) : Bool := gathers k m.part m.unit m.bseq rx ry
  let fresh : Packet := { id := 0, part := m.part, src := m.unit, bseq := m.bseq, rx := rx, ry := ry, pidx := 0, state := st, rst := r,
                          tris := [tri], codes := 0, stage := .gather, die := 0, cg := 0 }
  match s.packets.find? mine with
  | none => some { s with packets := s.packets ++ [fresh] }
  | some k =>
    if k.state ≠ st then
      if holdRoom s m.part m.die m.bseq then let s := closePacket s k; some { s with packets := s.packets ++ [fresh] } else none
    else
      let y : Packet := { k with tris := k.tris ++ [tri] }
      if y.tris.length < 16 then some { s with packets := s.packets.map fun x => if mine x then y else x }
      else if holdRoom s m.part m.die m.bseq then some (closePacket s y)
      else none

/-- Adds a triangle to its regions from the k-th on: the state, and the first region without room. -/
def addRegions (m : Meshlet) (r : BitVec 512) (v : Vtx × Vtx × Vtx × Bool) (t : Nat) : List (Nat × Nat) → State → Nat → State × Option Nat
  | [], s, _ => (s, none)
  | (rx, ry) :: l, s, k =>
    match addTriangle s m r rx ry (triangleRecord rx ry v.1 v.2.1 v.2.2.1 (m.word 4) ((m.word 8 + t) % 2 ^ 32) v.2.2.2) with
    | some s => addRegions m r v t l s (k + 1)
    | none => (s, some k)

/-- Bins n triangles of a meshlet from the t-th on, the first from its k-th region: the state, and where binning stalls. -/
def binTriangles (m : Meshlet) (r : Option (BitVec 512)) : Nat → State → Nat → Nat → State × Option (Nat × Nat)
  | 0, s, _, _ => (s, none)
  | n + 1, s, t, k =>
    match r.bind fun r => (m.triangle r t).map fun v => (r, v) with
    | none => binTriangles m r n (countUp s (discKey m.unit)) (t + 1) 0
    | some (q, v) =>
      match addRegions m q v t ((triangleRegions q v.1 v.2.1 v.2.2.1).drop k) s k with
      | (s, none) => binTriangles m r n s (t + 1) 0
      | (s, some k) => (s, some (t, k))

/-- The meshlet that a binning unit processes next: the first of the lowest batch in its queue (R296). -/
def nextMeshlet (s : State) (d g : Nat) : Option Meshlet :=
  (s.binq.filter fun m => m.die == d && m.cg == g).foldl (fun acc m =>
    match acc with
    | some x => if seqBefore m.bseq x.bseq then some m else some x
    | none => some m) none

/-- The queue without a meshlet, or with another in its place. -/
def replaceMeshlet (m : Meshlet) (y : Option Meshlet) : List Meshlet → List Meshlet
  | [] => []
  | x :: l => if x = m then y.toList ++ l else x :: replaceMeshlet m y l

/-- BINNING_MESHLET (R296, R297, R302): a meshlet whose packet finds no place stays with the progress made. -/
def execBinningMeshlet (d g : Nat) (s : State) : Result :=
  match if cgRuns s d g then nextMeshlet s d g else none with
  | some m =>
    match readRst s m.issuer (m.word 0 / 2 ^ 16) with
    | .ok (r, s) =>
      match binTriangles m r (m.nt - m.tri) s m.tri m.reg with
      | (s, none) => .next (adoptIdle (closeBatch { s with binq := replaceMeshlet m none s.binq } m.part m.bseq) d g)
      | (s, some (t, k)) => .next { s with binq := replaceMeshlet m (some { m with tri := t, reg := k }) s.binq }
    | _ => off s
  | none => off s

/-! Packets and seals on their way -/

/-- The region unit that a packet goes to runs, if it goes to one, and the crossing FIFOs let it pass (R416, R417). -/
def ownerRuns (s : State) (k : Packet) : Bool :=
  (match rotOwner s k.part k.rx k.ry with
    | some (d, g, false) => cgRuns s d g
    | _ => true)
  && (packetMsg s { k with stage := .hold }).all (arrives s)

/-- VIS_PACKET_ARRIVAL (R302, R386): a packet that waits for a place in the hold store takes it first, and stays there if it may not arrive
yet. -/
def execVisPacketArrival (pkt : Nat) (s : State) : Result :=
  match s.packets.find? fun k => k.id == pkt && (k.stage == .hold || k.stage == .full) with
  | some k =>
    if k.stage == .full && !holdRoom s k.part (k.src / 256) k.bseq then off s
    else if mayArrive s k && ownerRuns s k then .next (acceptPacket s k true)
    else if k.stage == .full then .next (setPacket s k.id fun x => { x with stage := .hold })
    else off s
  | none => off s

/-- PACKET_RESEND (R302, R390): a refused packet is sent again, by its die or by the Hearth. -/
def execPacketResend (pkt : Nat) (s : State) : Result :=
  match s.packets.find? fun k => k.id == pkt && k.stage == .refused with
  | some k => if mayArrive s k && ownerRuns s k then .next (acceptPacket s k true) else off s
  | none =>
    match hearthNext s pkt with
    | some k => if ownerRuns s k then .next (acceptPacket s k false) else off s
    | none => off s

/-- Shading core groups of a partition (R299). -/
def shadingGroups (s : State) (p : Nat) : List (Nat × Nat) :=
  (List.range 13).flatMap fun d => if Config.isShading d then ((List.range 16).filter (isMember s p d)).map fun g => (d, g) else []

/-- The seals of a batch, each of up to 65,535 entries, the last marked (R300). -/
def sealParts : Nat → List (Nat × Nat × Nat) → List (List (Nat × Nat × Nat) × Bool)
  | 0, l => [(l, true)]
  | n + 1, l => if l.length ≤ 65535 then [(l, true)] else (l.take 65535, false) :: sealParts n (l.drop 65535)

/-- A batch's seals set out to one region unit, the first as the broadcast of a number. -/
def sendSeals (s : State) (cast : Nat) (b : MeshBatch) (d g : Nat) : State :=
  let ents := b.sent.map fun x => (x.2.2, x.2.1, x.1)
  (sealParts 4 ents).zipIdx.foldl (fun s y =>
    let x := y.1
    { s with seals := s.seals ++ [{ id := s.nextId, cast := cast + y.2, part := b.part, bseq := b.bseq, src := b.die, last := x.2, die := d, cg := g, held := false,
                                    ents := x.1 }],
             nextId := s.nextId + 1 }) s

/-- BATCH_RETIRE (R291, R299, R300). -/
def execBatchRetire (part bseq : Nat) (s : State) : Result :=
  match s.batches.find? fun b => b.part == part && b.bseq == bseq && !b.retired with
  | some b =>
    if b.count ≤ b.ended ∧ batchQueued s part bseq = false ∧ batchOut s part bseq = false then
      let s := updBatch s part bseq fun b => { b with retired := true }
      .next ((shadingGroups s part).foldl (fun t x => sendSeals t s.nextId b x.1 x.2) s)
    else off s
  | none => off s

/-- SEAL_ARRIVAL (R301, R303): the seals of one die arrive in the order in which it broadcast them (R300); entries of a batch that a region has passed
are stale, unless it has passed it by another copy of this seal before it changed its owner (R390). -/
def execSealArrival (sl : Nat) (s : State) : Result :=
  match s.seals.find? fun x => x.id == sl && !x.held && cgRuns s x.die x.cg && !crossWait s x.src x.die with
  | some x =>
    if s.seals.any fun y => y.cast < x.cast && !y.held && y.part == x.part && y.src == x.src && y.die == x.die && y.cg == x.cg then off s
    else
      let old := (ownedRegions s x.part x.die x.cg).filter fun r =>
        stale x.bseq (regionGet s x.part r.1 r.2).e && !(regionGet s x.part r.1 r.2).took.contains x.cast && x.ents.any fun e => e.2.1 == r.2 && e.2.2 == r.1
      let s := old.foldl (fun s _ => countUp s (protoKey (x.die * 256 + x.cg))) s
      let s := { s with seals := s.seals.map fun y => if y.id == sl then { y with held := true } else y }
      .next (stepUnit s x.die x.cg)
  | none => off s

/-- RASTER_INPUT_FREE (R301): the region unit passes on what is ready. -/
def execRasterInputFree (die cg : Nat) (s : State) : Result :=
  if inputRoom s die cg && cgRuns s die cg then .next (stepUnit s die cg) else off s

end Sys2Proof.Machine
end

