-- ==== Sys2Proof/Machine/Fragments.lean ====
section
/-! DEFINITION. Fragments: the raster unit, BLND, DISCARD and DEPTHW, and the blend unit (R304-R308). -/

namespace Sys2Proof.Machine

open Sys2Proof

/-! The raster unit (R304, R305) -/

/-- Twice the signed area of edge a to b and a point, in units of 1/256 pixel. -/
def edgeAt (a b p : Int × Int) : Int := (b.1 - a.1) * (p.2 - a.2) - (b.2 - a.2) * (p.1 - a.1)

/-- A point is on the inner side of an edge, or on it where the edge owns its points (R304). -/
def insideEdge (a b p : Int × Int) : Bool :=
  let e := edgeAt a b p
  decide (0 < e) || (e == 0 && (decide (b.2 < a.2) || (b.2 == a.2 && decide (a.1 < b.1))))

/-- A point is covered by a triangle, normalised to a positive area (R304). -/
def covered (a b c p : Int × Int) : Bool :=
  if 0 < edgeAt a b c then insideEdge a b p && insideEdge b c p && insideEdge c a p
  else insideEdge a c p && insideEdge c b p && insideEdge b a p

/-- The values of a fragment: Z, B1 and B2 (R305). -/
def fragmentValues (a b c p : Int × Int) (z0 z1 z2 w0 w1 w2 : Int) : Nat × Nat × Nat :=
  let l0 := edgeAt b c p
  let l1 := edgeAt c a p
  let l2 := edgeAt a b p
  let z := ratio (l0 * z0 + l1 * z1 + l2 * z2) (edgeAt a b c)
  let den := l0 * w0 + l1 * w1 + l2 * w2
  (Fmt.fp32.ofRat { n := z.n, d := z.d * f32One.natAbs }, Fmt.fp32.ofRat (ratio (l1 * w1) den), Fmt.fp32.ofRat (ratio (l2 * w2) den))

/-- The pixels of a region within the target, rows and then columns ascending (R304). -/
def regionPixels (r : BitVec 512) (rx ry : Nat) : List (Nat × Nat) :=
  (List.range (min 32 (rstHgt r - 32 * ry))).flatMap fun y => (List.range (min 32 (rstWid r - 32 * rx))).map fun x => (x, y)

/-- The fragments of one triangle record, tags and names counted on from those given (R304, R305). -/
def triangleFrags (k : Packet) (tri : List Word32) : List (Nat × Nat) → Nat → Nat → List Frag
  | [], _, _ => []
  | (x, y) :: l, tag, id =>
    let v (n : Nat) : Int := (tri.getD n 0).toInt
    let f (n : Nat) : Int := (f32Int (tri.getD n 0).toNat).getD 0
    let a := (v 0, v 1)
    let b := (v 2, v 3)
    let c := (v 4, v 5)
    let p : Int × Int := (256 * (x : Int) + 128, 256 * (y : Int) + 128)
    if covered a b c p then
      let q := fragmentValues a b c p (f 6) (f 7) (f 8) (f 9) (f 10) (f 11)
      { id := id, part := k.part, die := k.die, cg := k.cg, rx := k.rx, ry := k.ry, x := x, y := y, tag := tag % 2 ^ 32,
        z := BitVec.ofNat 32 q.1, b1 := BitVec.ofNat 32 q.2.1, b2 := BitVec.ofNat 32 q.2.2, meshlet := tri.getD 12 0, prim := tri.getD 13 0,
        front := (tri.getD 14 0).getLsbD 0, rst := k.rst, thread := none, lvl := 1, sec := false, lid := 0, wid := 0, res := .no,
        stage := 0, pend := 0 } :: triangleFrags k tri l (tag + 1) (id + 1)
    else triangleFrags k tri l tag id

/-- One triangle record rasterised: its fragments take the region's next tags. -/
def rasterTriangle (k : Packet) (s : State) (tri : List Word32) : State :=
  let r := regionGet s k.part k.rx k.ry
  let fs := triangleFrags k tri (regionPixels k.rst k.rx k.ry) r.tag s.nextId
  setRegion { s with frags := s.frags ++ fs, nextId := s.nextId + fs.length } { r with tag := (r.tag + fs.length) % 2 ^ 32 }

/-- RASTER_PACKET (R304): the packet of the raster unit's input that was released first. -/
def execRasterPacket (die cg : Nat) (s : State) : Result :=
  match s.packets.find? fun k => k.stage == .raster && k.die == die && k.cg == cg && cgRuns s die cg with
  | some k => .next (adoptIdle (k.tris.foldl (rasterTriangle k) (dropPacket s k.id)) die cg)
  | none => off s

/-- The fragment workgroups of a partition on the cores of a core group (R379). -/
def fragHosts (s : State) (p d g : Nat) : List (Nat × Nat × Workgroup) :=
  (cgCores d g).flatMap fun c => ((residents s c).filter fun x => x.2.frag && x.2.part == p).map fun x => (c, x.1, x.2)

def freeTids (g : Workgroup) : Nat := g.tmax - g.threads.length

/-- The host with the most free tids, ties to the lower core (R305). -/
def fragHost (l : List (Nat × Nat × Workgroup)) : Option (Nat × Nat × Workgroup) :=
  l.foldl (fun acc x =>
    match acc with
    | some y => if freeTids y.2.2 < freeTids x.2.2 then some x else some y
    | none => some x) none

def updFrag (s : State) (id : Nat) (f : Frag → Frag) : State := { s with frags := s.frags.map fun x => if x.id == id then f x else x }
def dropFrag (s : State) (id : Nat) : State :=
  let t := { s with frags := s.frags.filter fun x => x.id != id }
  match s.frags.find? fun x => x.id == id with
  | some f => adoptIdle t f.die f.cg
  | none => t

/-- The fragment record (R305). -/
def fragRecord (f : Frag) : List Byte :=
  toBytes 32 (f.rx + 2 ^ 16 * f.ry + 2 ^ 32 * f.tag + 2 ^ 64 * f.meshlet.toNat + 2 ^ 96 * f.prim.toNat + 2 ^ 128 * f.b1.toNat
    + 2 ^ 160 * f.b2.toNat + 2 ^ 192 * f.z.toNat + 2 ^ 224 * (b2n f.front * 1024 + f.y * 32 + f.x))

/-- A fragment that is spawned nowhere, or whose core resets, resolves as DISCARD and is counted (R305, R318, R379). -/
def discardUnspawned (s : State) (f : Frag) : State :=
  countUp (updFrag s f.id fun f => { f with res := .discard }) (fragKey (f.die * 256 + f.cg))

/-- A die's cores reset: its fragments that are not resolved resolve as DISCARD and are counted (R318). -/
def resetFrags (s : State) (d : Nat) : State :=
  (s.frags.filter fun f => f.die == d && f.res == .no).foldl discardUnspawned s

/-- FRAGMENT_SPAWN (R305): the next fragment of a core group; it waits for a tid or for a frontier entry. -/
def execFragmentSpawn (die cg : Nat) (s : State) : Result :=
  match s.frags.find? fun f => f.die == die && f.cg == cg && f.thread.isNone && f.res == .no && cgRuns s die cg with
  | none => off s
  | some f =>
    match fragHost (fragHosts s f.part die cg) with
    | none => .next (discardUnspawned s f)
    | some (cid, w, g) =>
      match freeTid g with
      | none => off s
      | some t =>
        match checkEntryAs s { issuer s (.vthread w t) with ag := none } cid (rstFentry f.rst) with
        | .bad _ _ => .next (discardUnspawned s f)
        | .wait => off s
        | .ok (u, s1) =>
          let th := newThread s1 g t (BitVec.ofNat 32 (32 * t))
          match placeThread (spadWrite (addThread s1 w t { th with frag := some f.id }) w (32 * t) (fragRecord f)) w t u with
          | some s2 => .next (updFrag s2 f.id fun f => { f with thread := some (w, t), lvl := g.lvl, sec := g.sec, lid := g.lid, wid := g.wid })
          | none => off s

/-! BLND, DISCARD and DEPTHW (R306) -/

/-- A form on the thread's fragment: ILLEGAL without one, and no effect once it is resolved. -/
def fragForm (f : Frag → Frag) (s : State) : Result :=
  match curThread s with
  | some (w, _, t) =>
    match (thread? s w t).bind (·.frag) with
    | some id => done { s with frags := s.frags.map fun x => if x.id == id && x.res == .no then f x else x }
    | none => raise .illegal 0 0 s
  | none => .next s

def execBlnd (a : Field) (s : State) : Result :=
  guarded { ops := [opRq a], need := .shading } s fun s =>
    let v := readQ s a
    fragForm (fun f => { f with res := .blend (v.setWidth 32) ((v >>> 32).setWidth 32) ((v >>> 64).setWidth 32) ((v >>> 96).setWidth 32) }) s

def execDiscard (s : State) : Result :=
  guarded { need := .shading } s (fragForm fun f => { f with res := .discard })

def execDepthw (a : Field) (s : State) : Result :=
  guarded { ops := [opR a], need := .shading } s fun s => fragForm (fun f => { f with z := (readR s a).setWidth 32 }) s

/-! The blend unit (R307, R308, R336) -/

/-- Bytes of a colour element (R308). -/
def colourBytes (cfmt : Nat) : Nat := match cfmt with | 0 => 4 | 1 => 8 | _ => 16

/-- The offset of a pixel in a target of b bytes per element (R308). -/
def targetOffset (f : Frag) (b : Nat) : Nat :=
  (f.ry * ((rstWid f.rst + 31) / 32) + f.rx) * 1024 * b + (32 * f.y + f.x) * b

/-- The depth test (R307). -/
def depthPass (fn : Nat) (z zt : Nat) : Bool :=
  match fn with
  | 0 => true
  | 1 => Fmt.fp32.flt z zt
  | 2 => Fmt.fp32.fle z zt
  | _ => Fmt.fp32.flt zt z

/-- A source channel: a NaN is read as 0 (R307). -/
def sourceChannel (x : Word32) : FVal := let v := Fmt.fp32.val x.toNat; if v.isNan then .fin false 0 0 else v

/-- s, s + d (1 − A) or s + d (R307). -/
def blendValue (mode : Nat) (s d a : FVal) : FVal :=
  match mode with
  | 0 => s
  | 1 => s.add (d.mul ((FVal.fin false 1 0).add a.neg))
  | _ => s.add d

/-- enc for RGBA8, of 255 times the value (R307). -/
def encUnorm (v : FVal) : Nat :=
  match v with
  | .nan => 0
  | .inf neg => if neg then 0 else 255
  | .fin neg m e => if neg then 0 else min 255 (roundAt .rne false m e false 0 0)

/-- One channel of the target: its new bits from the old (R307). -/
def blendChannel (cfmt mode : Nat) (s a : FVal) (old : Nat) : Nat :=
  match cfmt with
  | 0 => encUnorm (blendValue mode ((FVal.fin false 255 0).mul s) (.fin false old 0) a)
  | 1 => Fmt.fp16.rne (blendValue mode s (Fmt.fp16.val old) a)
  | _ => Fmt.fp32.rne (blendValue mode s (Fmt.fp32.val old) a)

/-- The target's element after the blend (R307). -/
def blendElement (r : BitVec 512) (c : List Word32) (old : Nat) : Nat :=
  let w := 2 * colourBytes (rstCfmt r)
  let a := sourceChannel (c.getD 3 0)
  (List.range 4).foldl (fun n k =>
    n + blendChannel (rstCfmt r) (rstBlend r) (sourceChannel (c.getD k 0)) a (old / 2 ^ (w * k) % 2 ^ w) * 2 ^ (w * k)) 0

/-- Issuer data of the blend unit for a fragment (R323, R326). -/
def Frag.issuer (f : Frag) : Issuer :=
  { part := f.part, lvl := f.lvl, sec := f.sec, die := f.die, cid := none, wg := none, lid := f.lid, eng := true }

/-- The blend unit's read of an element of a target. -/
def blendRead (s : State) (f : Frag) (va n : Nat) : Out (Nat × State) :=
  (resolve s f.issuer { va := va, size := n, rd := true, blend := some (f.die, f.cg) }).bind fun t =>
    let r := heldBytes s t n
    .ok (ofBytes r.1, useTgt r.2 t false)

/-- The blend unit's write of an element: the region's bytes are undefined to loads until RGNFLUSH (R308). -/
def blendWrite (s : State) (f : Frag) (va n x : Nat) : Out State :=
  (resolve s f.issuer { va := va, size := n, wr := true, blend := some (f.die, f.cg) }).bind fun t =>
    let s := writeTgt s f.issuer t (toBytes n x)
    let r := regionGet s f.part f.rx f.ry
    .ok (if r.wrote.contains (t.pa, t.pa + n) then s else setRegion s { r with wrote := (t.pa, t.pa + n) :: r.wrote })

/-- The blend's accesses from stage to stage: the state when it ends, or with the stage at which it stops (R307, R336). -/
def blendRun (c : List Word32) : Nat → State → Frag → State × Frag × Out Unit
  | 0, s, f => (s, f, .ok ())
  | n + 1, s, f =>
    let za := (rstZbase f.rst + targetOffset f 4) % 2 ^ 64
    let b := colourBytes (rstCfmt f.rst)
    let ca := (rstCbase f.rst + targetOffset f b) % 2 ^ 64
    match f.stage with
    | 0 =>
      match blendRead s f za 4 with
      | .ok (zt, s) =>
        if depthPass (rstDepthFn f.rst) f.z.toNat zt then blendRun c n s { f with stage := if rstDepthWr f.rst then 1 else 2 } else (s, f, .ok ())
      | .bad x v => (s, f, .bad x v)
      | .wait => (s, f, .wait)
    | 1 =>
      match blendWrite s f za 4 f.z.toNat with
      | .ok s => blendRun c n s { f with stage := 2 }
      | .bad x v => (s, f, .bad x v)
      | .wait => (s, f, .wait)
    | 2 =>
      match blendRead s f ca b with
      | .ok (old, s) => blendRun c n s { f with stage := 3, pend := blendElement f.rst c old }
      | .bad x v => (s, f, .bad x v)
      | .wait => (s, f, .wait)
    | _ =>
      match blendWrite s f ca b f.pend with
      | .ok s => (s, f, .ok ())
      | .bad x v => (s, f, .bad x v)
      | .wait => (s, f, .wait)

def blendEid (f : Frag) : Nat := eidOf f.die (0x60 + f.cg)

/-- Every fragment of lower tag at the pixel has been acted on (R307). -/
def pixelFirst (s : State) (f : Frag) : Bool :=
  !(s.frags.any fun x => x.part == f.part && x.rx == f.rx && x.ry == f.ry && x.x == f.x && x.y == f.y && x.id != f.id && seqBefore x.tag f.tag)

/-- BLEND_FRAGMENT (R307, R308): a fault of a target access suspends the region's blending. -/
def execBlendFragment (frag : Nat) (s : State) : Result :=
  match s.frags.find? fun f => f.id == frag && cgRuns s f.die f.cg with
  | some f =>
    if pixelFirst s f && !(regionGet s f.part f.rx f.ry).held && accepts s (blendEid f) then
      match f.res with
      | .no => off s
      | .discard => .next (dropFrag s f.id)
      | .blend r g b a =>
        match blendRun [r, g, b, a] 4 s f with
        | (s, _, .ok ()) => .next (dropFrag s f.id)
        | (s, y, .wait) => .next (updFrag s f.id fun _ => y)
        | (s, y, .bad c v) =>
          let s := setRegion s { regionGet s f.part f.rx f.ry with held := true }
          .next (raiseEngine (updFrag s f.id fun _ => y) (blendEid f) f.part f.lvl f.sec f.lid f.wid 3 f.id c v)
    else off s
  | none => off s

end Sys2Proof.Machine
end

