-- ==== Sys2Proof/Machine/Hosts.lean ====
section
/-! DEFINITION. The host's and the peers' accesses to the part, and the completions of the part's accesses to a peer
(R165, R394-R401). What the part answers goes to `State.out`: a doubleword 1 (performed) or 0 (poison or refused), then the data. -/

namespace Sys2Proof.Machine

open Sys2Proof

/-- Doublewords of n bytes. -/
def dwordsOf : Nat → List Byte → List Word64
  | 0, _ => []
  | n + 1, l => BitVec.ofNat 64 (ofBytes (l.take 8)) :: dwordsOf n (l.drop 8)

/-- An answer to the outside. -/
def answerOut (s : State) (good : Bool) (l : List Byte) : State :=
  { s with out := BitVec.ofNat 64 (b2n good) :: dwordsOf ((l.length + 7) / 8) l ++ s.out }

/-- A refused access is counted (R395). -/
def hostRej (s : State) : State := dregSet s 0 0x20 ((dregGet s 0 0x20 + 1) % 2 ^ 64)

/-- The target of an access made by physical address: `e` is a leaf's value, or has CMP alone. -/
def physTarget (s : State) (p : Nat) (pa n : Nat) (rd wr : Bool) (e : Nat) : Out Tgt :=
  let t : TlbEnt := { die := 0, part := p, lvl := 3, page := pa / 65536, pte := BitVec.ofNat 64 e, addr := 0, ver := 0 }
  (pageTarget s { part := p, lvl := 0, sec := false, die := 0, cid := none, wg := none, lid := 0 }
    { va := pa, size := n, rd := rd, wr := wr } t pa).bind fun x => .ok { x with tlb := none }

/-- What the host knows of a page's attributes: whether its block holds a compressed code (R133). -/
def hostPte (s : State) (pa : Nat) : Nat := if s.bdi.get 0 (lineOf pa) = 0 then 0 else 2 ^ 12

/-- Issuer of a host or peer access: it has no L1 (R165). -/
def outside (p : Nat) : Issuer := { part := p, lvl := 0, sec := false, die := 0, cid := none, wg := none, lid := 0 }

/-- The host-line directory after the host has read a granule (R396): the set's first allocated entry leaves a full set. -/
def allocDir (l : List (Nat × Bool)) (g : Nat) (own : Bool) : List (Nat × Bool) :=
  if l.any (·.1 == g) then l.map fun x => if x.1 == g then (g, x.2 || own) else x
  else
    let set := l.filter fun x => x.1 % 524288 == g % 524288
    let l := if 16 ≤ set.length then l.filter fun x => x.1 != (set.headD (g, own)).1 else l
    l ++ [(g, own)]

/-- HOST_MEM_READ (R394-R396): of a 64-byte granule, `own` for a read for ownership. One outside every window, or of memory that is gone,
has poison for its answer. -/
def execHostMemRead (pa : Nat) (own : Bool) (s : State) : Result :=
  if pa % 64 ≠ 0 ∨ hbmBytes ≤ pa then off s
  else if !inHostWindow s pa 64 then .next (answerOut (hostRej s) false (List.replicate 64 0))
  else if areaGone s pa then .next (answerOut s false (List.replicate 64 0))
  else match physTarget s devicePart pa 64 true own (hostPte s pa) with
    | .ok t =>
      let dir := allocDir s.hostDir (pa / 64) own
      let r := readTgt s (outside devicePart) t 64
      let s := if own then lineOwn r.2 (lineOf pa) (wordMask pa 64) none else r.2
      .next (answerOut { s with hostDir := dir } true r.1)
    | .bad _ _ => .next (answerOut s false (List.replicate 64 0))
    | .wait => off s

/-- HOST_MEM_WRITE (R394-R396): of bytes of one granule. One outside every window is dropped and counted. -/
def execHostMemWrite (pa : Nat) (l : List Byte) (s : State) : Result :=
  if l.isEmpty ∨ 64 < pa % 64 + l.length ∨ hbmBytes ≤ pa then off s
  else if !inHostWindow s pa l.length then .next (hostRej s)
  else if areaGone s pa then off s
  else match physTarget s devicePart pa l.length false true (hostPte s pa) with
    | .ok t => .next { writeTgt s (outside devicePart) t l with hostDir := s.hostDir }
    | .bad _ _ => .next s
    | .wait => off s

/-- The device copies of a line of host memory are recalled, and the Hearth gives the host's permission for it back (R397). -/
def hostRecall (s : State) (line : Nat) : State :=
  let s := clearL2 (lineOwn s line (BitVec.allOnes 32) none) line (BitVec.allOnes 32) none
  { s with hostPerm := s.hostPerm.filter (· != line) }

/-- HOST_SNOOP (R397): the device copies of a line of host memory are recalled before it is answered. -/
def execHostSnoop (pa : Nat) (s : State) : Result :=
  match area pa with
  | .host => if s.cohMsgs.any fun m => m.line == lineOf pa then off s else .next (hostRecall s (lineOf pa))
  | _ => off s

/-- A store by the outside (log 78): by the host into a line of its memory, after the snoop that recalls the device copies (R397, R399),
or into a granule of HBM that it holds in A, whose bytes the home takes with the grant that follows (R396); by a peer into its own memory
(R400). A store to a line in a transaction waits for it, so that nothing is stored. -/
def outsideStore (s : State) (pa : Nat) (l : List Byte) : State :=
  if l.isEmpty || decide (64 < pa % 64 + l.length) || s.cohMsgs.any (fun m => m.line == lineOf pa) then s
  else match area pa with
    | .host => putBytes (hostRecall s (lineOf pa)) pa l
    | .peer _ => putBytes s pa l
    | .hbm =>
      if s.hostDir.contains (pa / 64, true) then recode (putBytes s pa l) pa l.length (pteCmp (hostPte s pa)) else s
    | _ => s

/-- The host loads the doubleword at an offset of BAR0: a register, or 0 above the register blocks (R394). -/
def hostLoad (s : State) (o : Nat) : State :=
  if o % 8 ≠ 0 ∨ 0x800000 ≤ o then s
  else answerOut s true (if o < 0x410000 then regsRead s o 8 else List.replicate 8 0)

/-! Peers (R400, R401) -/

/-- The leaves of a partition's tables that map the page of a physical address: level and value. -/
def leavesTo (s : State) (p pa : Nat) : List (Nat × Nat) := (poolLeaves s (pool s p)).filter fun x => mapsPage x.1 x.2 pa

/-- The bytes that a peer's atomic with a function code of R239 works on, of the data it brings: half of a compare and swap's. -/
def peerWidth (fn len : Nat) : Nat := if fn = 9 ∨ fn = 14 then len / 2 else len

/-- What a peer's atomic with a function code of R239 makes of an operand of n bytes, none where it writes nothing (log 45). -/
def peerAtomic (fn n x v : Nat) : Option Nat :=
  let m := 2 ^ (8 * n)
  let si (y : Nat) : Int := if m / 2 ≤ y then (y : Int) - m else y
  match fn with
  | 1 => some (if si x ≤ si v then x else v)
  | 2 => some (if si x ≥ si v then x else v)
  | 3 => some (Min.min x v)
  | 4 => some (Max.max x v)
  | 5 => some (x &&& v)
  | 6 => some (x ||| v)
  | 7 => some (x ^^^ v)
  | 8 => some v
  | 9 | 14 => if x = v % m then some (v / m) else none
  | 10 => some (if v ≤ x then 0 else x + 1)
  | 11 => some (fAddW .fp32 x v)
  | 12 => some (hadd2Word (BitVec.ofNat 32 x) (BitVec.ofNat 32 v)).toNat
  | _ => some ((x + v) % m)

/-- The peer protocol has the access: of bytes of one line, an atomic of 4 or 8 aligned bytes with a function code of R239. -/
def peerForm (o kind len : Nat) : Bool :=
  let n := peerWidth (kind - 2) len
  if kind < 2 then len != 0 && decide (o % 128 + len ≤ 128)
  else decide (kind < 17) && (n == 4 || (n == 8 && kind != 13 && kind != 14)) && o % n == 0

/-- An inbound access of a port whose window is BASE and LAST, as page numbers, in the partition's register value c: kind 0 reads n bytes,
kind 1 writes the data, kind 2 + fn is an atomic with function code fn (R400, R401). Of a Larder's page it can only read, since every write but
a copy's faults there (R137). -/
def peerAccess (base last c o kind n : Nat) (data : List Byte) (s : State) : Result :=
  let len := if kind = 0 then n else if kind = 1 then data.length else peerWidth (kind - 2) data.length
  if !peerForm o kind (if kind = 0 then n else data.length) then off s
  else
    let pa := base * 65536 + o
    match if bitAt c 31 && decide ((pa + len - 1) / 65536 ≤ last) then leavesTo s (c % 64) pa else [] with
    | [] => .next (answerOut (hostRej s) false [])
    | x :: l =>
      if (x :: l).any (fun y => pteSlm y.2 != 0) || areaGone s pa then .next (answerOut (hostRej s) false [])
      else if kind != 0 && (match area pa with | .larder _ _ => true | _ => false) then .next (answerOut s false [])
      else match physTarget s (c % 64) pa len (kind != 1) (kind != 0) x.2 with
        | .wait => off s
        | .bad _ _ => .next (answerOut s false [])
        | .ok t =>
          let i := outside (c % 64)
          if kind = 1 then .next (answerOut (writeTgt s i t data) true [])
          else
            let r := readTgt s i t len
            let v := if kind = 0 then none else peerAtomic (kind - 2) len (ofBytes r.1) (ofBytes data)
            .next (answerOut (v.elim r.2 fun v => writeTgt r.2 i t (toBytes len v)) true r.1)

/-- PEER_INBOUND_ACCESS (R400, R401): through the port's PEERWIN. -/
def execPeerInboundAccess (port o kind n : Nat) (data : List Byte) (s : State) : Result :=
  if 12 ≤ port then off s
  else
    let w := Config.peerWindow (BitVec.ofNat 64 (dregGet s 0 (0x4108 + 16 * port)))
    peerAccess w.1 w.2 (dregGet s 0 (0x4100 + 16 * port)) o kind n data s

/-- PEER_COMPLETION (R400): of the first access to a peer aperture that its port has outstanding, since a port answers in order. -/
def execPeerCompletion (op : Nat) (s : State) : Result :=
  match s.peerOut.find? fun x => x.id == op with
  | some x =>
    if (s.peerOut.find? fun y => y.port == x.port) = some x then .next { s with peerOut := s.peerOut.filter fun y => y.id != op } else off s
  | none => off s

end Sys2Proof.Machine
end

