-- ==== Sys2Proof/Machine/Integer.lean ====
section
/-! DEFINITION. Block, integer, bit-field, selection and immediate forms (R188-R199). -/

namespace Sys2Proof.Machine

open Sys2Proof

/-! The two widths (R188): 32 bits on a vector thread, 64 on a Scribe context -/

/-- A function of one operand at the width of the executing side. -/
def alu1 (s : State) (f : (n : Nat) → BitVec n → BitVec n) (x : Word64) : Word64 :=
  if isVector s then (f 32 (x.setWidth 32)).setWidth 64 else f 64 x

/-- A function of two operands at the width of the executing side. -/
def alu2 (s : State) (f : (n : Nat) → BitVec n → BitVec n → BitVec n) (x y : Word64) : Word64 :=
  if isVector s then (f 32 (x.setWidth 32) (y.setWidth 32)).setWidth 64 else f 64 x y

/-- A function of three operands at the width of the executing side. -/
def alu3 (s : State) (f : (n : Nat) → BitVec n → BitVec n → BitVec n → BitVec n) (x y z : Word64) : Word64 :=
  if isVector s then (f 32 (x.setWidth 32) (y.setWidth 32) (z.setWidth 32)).setWidth 64 else f 64 x y z

/-! The functions of R191-R196 on n bits -/

def iSat (n : Nat) (x : Int) : BitVec n :=
  BitVec.ofInt n (Max.max (-(2 ^ (n - 1) : Int)) (Min.min x (2 ^ (n - 1) - 1)))
def iBool (n : Nat) (c : Bool) : BitVec n := BitVec.ofNat n (b2n c)
def iAdd (n : Nat) (x y : BitVec n) : BitVec n := x + y
def iSub (n : Nat) (x y : BitVec n) : BitVec n := x - y
def iAnd (n : Nat) (x y : BitVec n) : BitVec n := x &&& y
def iOr (n : Nat) (x y : BitVec n) : BitVec n := x ||| y
def iXor (n : Nat) (x y : BitVec n) : BitVec n := x ^^^ y
def iAndn (n : Nat) (x y : BitVec n) : BitVec n := x &&& ~~~y
def iShl (n : Nat) (x y : BitVec n) : BitVec n := x <<< (y.toNat % n)
def iShr (n : Nat) (x y : BitVec n) : BitVec n := x >>> (y.toNat % n)
def iSar (n : Nat) (x y : BitVec n) : BitVec n := x.sshiftRight (y.toNat % n)
def iRotl (n : Nat) (x y : BitVec n) : BitVec n := x.rotateLeft (y.toNat % n)
def iMin (n : Nat) (x y : BitVec n) : BitVec n := if x.toInt ≤ y.toInt then x else y
def iMax (n : Nat) (x y : BitVec n) : BitVec n := if x.toInt ≥ y.toInt then x else y
def iMinu (n : Nat) (x y : BitVec n) : BitVec n := if x.toNat ≤ y.toNat then x else y
def iMaxu (n : Nat) (x y : BitVec n) : BitVec n := if x.toNat ≥ y.toNat then x else y
def iAdds (n : Nat) (x y : BitVec n) : BitVec n := iSat n (x.toInt + y.toInt)
def iSubs (n : Nat) (x y : BitVec n) : BitVec n := iSat n (x.toInt - y.toInt)
def iMul (n : Nat) (x y : BitVec n) : BitVec n := x * y
def iMulh (n : Nat) (x y : BitVec n) : BitVec n := BitVec.ofInt n ((x.toInt * y.toInt) / (2 ^ n : Int))
def iMulhu (n : Nat) (x y : BitVec n) : BitVec n := BitVec.ofNat n ((x.toNat * y.toNat) / 2 ^ n)
def iMad (n : Nat) (x y d : BitVec n) : BitVec n := x * y + d
/-- Division truncates toward zero; R86 and R192 give the edge cases. -/
def iDiv (n : Nat) (x y : BitVec n) : BitVec n := if y = 0 then BitVec.allOnes n else x.sdiv y
def iDivu (n : Nat) (x y : BitVec n) : BitVec n := if y = 0 then BitVec.allOnes n else x / y
def iRem (n : Nat) (x y : BitVec n) : BitVec n := if y = 0 then x else x.srem y
def iRemu (n : Nat) (x y : BitVec n) : BitVec n := if y = 0 then x else x % y
def iSeq (n : Nat) (x y : BitVec n) : BitVec n := iBool n (x == y)
def iSne (n : Nat) (x y : BitVec n) : BitVec n := iBool n (x != y)
def iSlt (n : Nat) (x y : BitVec n) : BitVec n := iBool n (x.toInt < y.toInt)
def iSge (n : Nat) (x y : BitVec n) : BitVec n := iBool n (x.toInt ≥ y.toInt)
def iSltu (n : Nat) (x y : BitVec n) : BitVec n := iBool n (x.toNat < y.toNat)
def iSgeu (n : Nat) (x y : BitVec n) : BitVec n := iBool n (x.toNat ≥ y.toNat)
def iMov (n : Nat) (x : BitVec n) : BitVec n := x
def iNot (n : Nat) (x : BitVec n) : BitVec n := ~~~x
def iNeg (n : Nat) (x : BitVec n) : BitVec n := 0 - x
def iAbs (n : Nat) (x : BitVec n) : BitVec n := if x.toInt ≥ 0 then x else 0 - x
def iClz (n : Nat) (x : BitVec n) : BitVec n := BitVec.ofNat n (n - bitLen x.toNat)
/-- Trailing zero bits among the low n bits. -/
def trailing : Nat → Nat → Nat
  | 0, _ => 0
  | n + 1, x => if x % 2 = 1 then 0 else trailing n (x / 2) + 1
def iCtz (n : Nat) (x : BitVec n) : BitVec n := BitVec.ofNat n (trailing n x.toNat)
def iPopc (n : Nat) (x : BitVec n) : BitVec n := BitVec.ofNat n (popCount n x.toNat)
def iBrev (n : Nat) (x : BitVec n) : BitVec n := x.reverse
def iSxb (n : Nat) (x : BitVec n) : BitVec n := (x.setWidth 8).signExtend n
def iSxh (n : Nat) (x : BitVec n) : BitVec n := (x.setWidth 16).signExtend n
def iZxb (n : Nat) (x : BitVec n) : BitVec n := (x.setWidth 8).setWidth n
def iZxh (n : Nat) (x : BitVec n) : BitVec n := (x.setWidth 16).setWidth n
def iBswap (n : Nat) (x : BitVec n) : BitVec n := BitVec.ofNat n (ofBytes (toBytes (n / 8) x.toNat).reverse)
def iSel (n : Nat) (x y d : BitVec n) : BitVec n := if d = 0 then y else x
/-- The field b names for BITF: lowest bit and width (R196). -/
def bfLsb (n : Nat) (y : BitVec n) : Nat := y.toNat % n
def bfWidth (n : Nat) (y : BitVec n) : Nat := y.toNat / 256 % n + 1
def iBfxu (n : Nat) (x y : BitVec n) : BitVec n := BitVec.ofNat n (x.toNat / 2 ^ bfLsb n y % 2 ^ bfWidth n y)
def iBfx (n : Nat) (x y : BitVec n) : BitVec n := BitVec.ofInt n (toSigned (bfWidth n y) (x.toNat / 2 ^ bfLsb n y))
def iBfi (n : Nat) (x y d : BitVec n) : BitVec n :=
  let m := BitVec.ofNat n ((2 ^ bfWidth n y - 1) * 2 ^ bfLsb n y)
  (d &&& ~~~m) ||| ((x <<< bfLsb n y) &&& m)

/-! Forms and shared meanings -/

def formWRR (d a b : Field) : Form := { ops := [opW d, opR a, opR b] }
def formMRR (d a b : Field) : Form := { ops := [opM d, opR a, opR b] }
def formWR (d a : Field) : Form := { ops := [opW d, opR a] }

/-- d := f(a, b). -/
def intWRR (f : (n : Nat) → BitVec n → BitVec n → BitVec n) (d a b : Field) (s : State) : Result :=
  guarded (formWRR d a b) s fun s => done (writeR s d (alu2 s f (readR s a) (readR s b)))

/-- d := f(a, b, d). -/
def intMRR (f : (n : Nat) → BitVec n → BitVec n → BitVec n → BitVec n) (d a b : Field) (s : State) : Result :=
  guarded (formMRR d a b) s fun s => done (writeR s d (alu3 s f (readR s a) (readR s b) (readR s d)))

/-- d := f(a). -/
def intWR (f : (n : Nat) → BitVec n → BitVec n) (d a : Field) (s : State) : Result :=
  guarded (formWR d a) s fun s => done (writeR s d (alu1 s f (readR s a)))

/-- d := f(a, sext(imm11)) (R197). -/
def intWRI (f : (n : Nat) → BitVec n → BitVec n → BitVec n) (d a : Field) (i : BitVec 11) (s : State) : Result :=
  guarded (formWR d a) s fun s => done (writeR s d (alu2 s f (readR s a) (i.signExtend 64)))

/-! The meanings -/

/-- BLOCK (R189): a no-op of one issue slot on the Scribe; within a block it breaks R175. -/
def execBlock (_p : BitVec 12) (_l : BitVec 8) (_f : BitVec 2) (_c : BitVec 1) (s : State) : Result :=
  if canRun s then (if isVector s then raise .blockfmt 0 0 s else done s) else .fault .noAgent


/-! IALU (R191) -/

def execAdd (d a b : Field) (s : State) : Result := intWRR iAdd d a b s
def execSub (d a b : Field) (s : State) : Result := intWRR iSub d a b s
def execAnd (d a b : Field) (s : State) : Result := intWRR iAnd d a b s
def execOr (d a b : Field) (s : State) : Result := intWRR iOr d a b s
def execXor (d a b : Field) (s : State) : Result := intWRR iXor d a b s
def execAndn (d a b : Field) (s : State) : Result := intWRR iAndn d a b s
def execShl (d a b : Field) (s : State) : Result := intWRR iShl d a b s
def execShr (d a b : Field) (s : State) : Result := intWRR iShr d a b s
def execSar (d a b : Field) (s : State) : Result := intWRR iSar d a b s
def execRotl (d a b : Field) (s : State) : Result := intWRR iRotl d a b s
def execMin (d a b : Field) (s : State) : Result := intWRR iMin d a b s
def execMax (d a b : Field) (s : State) : Result := intWRR iMax d a b s
def execMinu (d a b : Field) (s : State) : Result := intWRR iMinu d a b s
def execMaxu (d a b : Field) (s : State) : Result := intWRR iMaxu d a b s
def execAdds (d a b : Field) (s : State) : Result := intWRR iAdds d a b s
def execSubs (d a b : Field) (s : State) : Result := intWRR iSubs d a b s

/-! IMUL (R192) -/

def execMul (d a b : Field) (s : State) : Result := intWRR iMul d a b s
def execMulh (d a b : Field) (s : State) : Result := intWRR iMulh d a b s
def execMulhu (d a b : Field) (s : State) : Result := intWRR iMulhu d a b s
def execDiv (d a b : Field) (s : State) : Result := intWRR iDiv d a b s
def execDivu (d a b : Field) (s : State) : Result := intWRR iDivu d a b s
def execRem (d a b : Field) (s : State) : Result := intWRR iRem d a b s
def execRemu (d a b : Field) (s : State) : Result := intWRR iRemu d a b s

/-! ICMP (R193) -/

def execSeq (d a b : Field) (s : State) : Result := intWRR iSeq d a b s
def execSne (d a b : Field) (s : State) : Result := intWRR iSne d a b s
def execSlt (d a b : Field) (s : State) : Result := intWRR iSlt d a b s
def execSge (d a b : Field) (s : State) : Result := intWRR iSge d a b s
def execSltu (d a b : Field) (s : State) : Result := intWRR iSltu d a b s
def execSgeu (d a b : Field) (s : State) : Result := intWRR iSgeu d a b s

/-! BITF (R196) -/

def execBfx (d a b : Field) (s : State) : Result := intWRR iBfx d a b s
def execBfxu (d a b : Field) (s : State) : Result := intWRR iBfxu d a b s

/-! MAD, SEL and BFI read their destination (R192, R195, R196) -/

def execMad (d a b : Field) (s : State) : Result := intMRR iMad d a b s
def execSel (d a b : Field) (s : State) : Result := intMRR iSel d a b s
def execBfi (d a b : Field) (s : State) : Result := intMRR iBfi d a b s

/-! IUN (R194) -/

def execMov (d a : Field) (s : State) : Result := intWR iMov d a s
def execNot (d a : Field) (s : State) : Result := intWR iNot d a s
def execNeg (d a : Field) (s : State) : Result := intWR iNeg d a s
def execAbs (d a : Field) (s : State) : Result := intWR iAbs d a s
def execClz (d a : Field) (s : State) : Result := intWR iClz d a s
def execCtz (d a : Field) (s : State) : Result := intWR iCtz d a s
def execPopc (d a : Field) (s : State) : Result := intWR iPopc d a s
def execBrev (d a : Field) (s : State) : Result := intWR iBrev d a s
def execSxb (d a : Field) (s : State) : Result := intWR iSxb d a s
def execSxh (d a : Field) (s : State) : Result := intWR iSxh d a s
def execZxb (d a : Field) (s : State) : Result := intWR iZxb d a s
def execZxh (d a : Field) (s : State) : Result := intWR iZxh d a s
def execBswap (d a : Field) (s : State) : Result := intWR iBswap d a s

/-! Immediate forms (R197) -/

def execAddi (d a : Field) (i : BitVec 11) (s : State) : Result := intWRI iAdd d a i s
def execAndi (d a : Field) (i : BitVec 11) (s : State) : Result := intWRI iAnd d a i s
def execOri (d a : Field) (i : BitVec 11) (s : State) : Result := intWRI iOr d a i s
def execXori (d a : Field) (i : BitVec 11) (s : State) : Result := intWRI iXor d a i s
def execShli (d a : Field) (i : BitVec 11) (s : State) : Result := intWRI iShl d a i s
def execShri (d a : Field) (i : BitVec 11) (s : State) : Result := intWRI iShr d a i s
def execSari (d a : Field) (i : BitVec 11) (s : State) : Result := intWRI iSar d a i s
def execSlti (d a : Field) (i : BitVec 11) (s : State) : Result := intWRI iSlt d a i s
def execSltui (d a : Field) (i : BitVec 11) (s : State) : Result := intWRI iSltu d a i s
def execMuli (d a : Field) (i : BitVec 11) (s : State) : Result := intWRI iMul d a i s

/-- MOVI (R198). -/
def execMovi (d : Field) (i : BitVec 18) (s : State) : Result :=
  guarded { ops := [opW d] } s fun s => done (writeR s d (i.signExtend 64))

/-- MOVHI (R198): imm18 above the low 14 bits of d, sign-extended on the Scribe. -/
def execMovhi (d : Field) (i : BitVec 18) (s : State) : Result :=
  guarded { ops := [opM d] } s fun s =>
    let x : Word32 := i ++ (readR s d).setWidth 14
    done (writeR s d (x.signExtend 64))

/-- PCADR (R199): an address relative to this word. -/
def execPcadr (d : Field) (i : BitVec 18) (s : State) : Result :=
  guarded { ops := [opWp d] } s fun s => done (writeP s d (BitVec.ofNat 64 (curPc s) + i.signExtend 64 * 4))

end Sys2Proof.Machine
end

