-- ==== Sys2Proof/Machine/Flags.lean ====
section
/-! DEFINITION. The wide running sums and their flags INEXACT, OVERFLOW, NAN, INF and ISGN (R97, R98, R106, R287, R288).
The part has no other flags: comparisons write registers (R193, R218). -/

namespace Sys2Proof.Machine

open Sys2Proof

/-- A NaN arises: NAN is set and INF and ISGN are cleared (R97). -/
def Wrs.setNan (w : Wrs) : Wrs := { w with nan := true, inf := false, isgn := false }

/-- An infinity of a sign arises (R98). -/
def Wrs.setInf (w : Wrs) (sg : Bool) : Wrs :=
  if w.nan then w else if w.inf && w.isgn != sg then w.setNan else { w with inf := true, isgn := sg }

/-- An integer added to V, saturated at its ends (R98). -/
def Wrs.addInt (w : Wrs) (y : Int) : Wrs :=
  let s := w.v.toInt + y
  if s > 2 ^ 255 - 1 then { w with v := BitVec.ofInt 256 (2 ^ 255 - 1), overflow := true }
  else if s < -(2 ^ 255) then { w with v := BitVec.ofInt 256 (-(2 ^ 255)), overflow := true }
  else { w with v := BitVec.ofInt 256 s }

/-- floor(x × 2^192) of a finite value and whether that discards anything (R98). -/
def wrsFloor (neg : Bool) (m : Nat) (e : Int) : Int × Bool :=
  let x : Int := if neg then -(m : Int) else m
  if 0 ≤ e + 192 then (x * 2 ^ (e + 192).toNat, false)
  else
    let d : Int := 2 ^ (-(e + 192)).toNat
    (x / d, x % d != 0)

/-- R98: an exact value or a special added to a sum. -/
def Wrs.add (w : Wrs) (x : FVal) : Wrs :=
  match x with
  | .nan => w.setNan
  | .inf sg => w.setInf sg
  | .fin neg m e =>
    let (y, lost) := wrsFloor neg m e
    Wrs.addInt { w with inexact := w.inexact || lost } y

/-- An image added to a sum (R288). -/
def Wrs.addImage (w y : Wrs) : Wrs :=
  let w := if y.nan then w.setNan else w
  let w := if y.inf then w.setInf y.isgn else w
  Wrs.addInt { w with inexact := w.inexact || y.inexact, overflow := w.overflow || y.overflow } y.v.toInt

/-- The 40 bytes of an image (R287). -/
def Wrs.bytes (w : Wrs) : List Byte :=
  toBytes 32 w.v.toNat ++ toBytes 8 (b2n w.inexact + 2 * b2n w.overflow + 4 * b2n w.nan + 8 * b2n w.inf + 16 * b2n w.isgn)

/-- The image that 40 bytes hold (R287). -/
def Wrs.ofImage (l : List Byte) : Wrs :=
  let f := ofBytes (l.drop 32)
  { v := BitVec.ofNat 256 (ofBytes (l.take 32)), inexact := bitAt f 0, overflow := bitAt f 1, nan := bitAt f 2, inf := bitAt f 3,
    isgn := bitAt f 4 }

/-- The exact value of V (R97). -/
def Wrs.val (w : Wrs) : FVal := .fin (decide (w.v.toInt < 0)) w.v.toInt.natAbs (-192)

/-- wrs_round to a float format (R106): E4M3 saturates by R95. -/
def Wrs.toFloat (w : Wrs) (f : Fmt) (md : Rnd) (r : Nat) : Nat :=
  let sat := f.sp == .nanOnly
  f.encode md sat r false
    (if w.nan then .nan else if w.inf then .inf w.isgn else if w.overflow then .inf (decide (w.v.toInt < 0)) else w.val)

/-- wrs_round to INT32 (R106). -/
def Wrs.toInt32 (w : Wrs) (md : Rnd) (r : Nat) : Nat :=
  let neg := decide (w.v.toInt < 0)
  if w.nan then 0
  else if w.inf then (if w.isgn then 0x80000000 else 0x7FFFFFFF)
  else if w.overflow then (if neg then 0x80000000 else 0x7FFFFFFF)
  else
    let y : Int := roundInt md neg w.v.toInt.natAbs (-192) r
    wrap 32 (Max.max (-(2 ^ 31)) (Min.min (2 ^ 31 - 1) (if neg then -y else y)))

end Sys2Proof.Machine
end

