-- ==== Sys2Proof/Machine/Matrix.lean ====
section
/-! DEFINITION. The MAT forms and the matrix engine (R74-R76, R272-R290). -/

namespace Sys2Proof.Machine

open Sys2Proof

/-! Accumulators (R74) -/

/-- The place of an element of a shape M: its accumulator and its element, as a key of `Ctx.acc`. -/
def accKey (m n i j : Nat) : Nat :=
  if m = 64 then 1024 * (2 * (i / 32) + j / 32) + 32 * (i % 32) + j % 32 else 1024 * n + 32 * i + j

def ctxOf (s : State) (w : Nat) : Ctx := (((wg? s w).bind fun g => g.ctx)).getD {}
def accGet (c : Ctx) (m n i j : Nat) : Wrs := c.acc.get {} (accKey m n i j)

/-! What an operation reads and writes (R272, R275) -/

/-- Row and column counts of an operation's active outputs (R275). -/
def MatOp.shape (o : MatOp) : Nat :=
  match o.fn with
  | 1 | 2 => tdTr o.da
  | 0 => 32
  | _ => tdTr o.db
def MatOp.rows (o : MatOp) : Nat := Min.min o.ract o.shape
def MatOp.cols (o : MatOp) : Nat := Min.min o.cact o.shape

/-- Tile elements of a descriptor within `rows` and `cols` that lie in range, by tile coordinates. -/
def tileElems (x : Desc) (rows cols : Nat) : List (Nat × Nat) :=
  (List.range rows).flatMap fun i => ((List.range cols).filter fun j => decide (tdRow0 x + i < tdRows x) && decide (tdCol0 x + j < tdCols x)).map
    fun j => (i, j)

/-- The bytes that reading tile elements with their scales takes. -/
def tileSpans (x : Desc) (rows cols : Nat) : List (Nat × Nat) :=
  (tileElems x rows cols).flatMap fun e =>
    let r := tdRow0 x + e.1
    let c := tdCol0 x + e.2
    readSpans x r c ++ (if tdSfmt x = 0 then [] else [(scaleVa x r c, 1)])

/-- The permutation entries of the groups of a weight tile (R283), 16 bytes each. -/
def permSpans (x : Desc) (kt cols : Nat) : List (Nat × Nat) :=
  let g := tdG x
  if g = 0 then []
  else (List.range cols).flatMap fun j => (List.range ((kt + g - 1) / g)).flatMap fun k =>
    let r := tdRow0 x + k * g
    let c := tdCol0 x + j
    if r < tdRows x ∧ c < tdCols x then
      (List.range (g / 16)).map fun p => (tdVa x (tdPerm x + (c * (tdRows x / g) + r / g) * g + 16 * p), 16)
    else []

/-- The spans of an operation's operands: of a, of b, and of the destination. -/
def MatOp.spans (o : MatOp) : List (Nat × Nat) × List (Nat × Nat) × List (Nat × Nat) :=
  match o.fn with
  | 1 | 2 =>
    let kt := tdTc o.da
    (tileSpans o.da o.rows kt, tileSpans o.db kt o.cols ++ permSpans o.db kt o.cols, [])
  | 3 | 5 => ([], [], (tileElems o.db o.rows o.cols).flatMap fun e => elemSpans o.db (tdRow0 o.db + e.1) (tdCol0 o.db + e.2))
  | 4 => (tileSpans o.db o.rows o.cols, [], [])
  | 7 => ([], [], [(o.addr, 8)])
  | _ => ([], [], [])

/-- The first byte of the page of an address, or the address itself in a window (R272). -/
def pageStart (s : State) (i : Issuer) (va : Nat) : Nat :=
  match rangeOf va with
  | .pages => match findLeaf s (walkDie i.die) i.part va with
    | some t => va - va49 va % ptCover t.lvl
    | none => va - va % 65536
  | _ => va

/-- The failure of the lowest address among spans (R272): poison and frozen lines are not checked at acceptance. -/
def spansFail (s : State) (i : Issuer) (rd wr : Bool) (l : List (Nat × Nat)) : Option (Cause × Nat) :=
  (l.foldl (fun (best : Option (Cause × Nat)) x =>
    if best.any fun b => b.2 ≤ x.1 then best
    else match resolve s i { va := x.1, size := x.2, rd := rd, wr := wr, eng := true, elem := true } with
      | .bad c v => if c = .poison ∨ c = .frozen then best else some (c, v)
      | _ => best) none).map fun y => (y.1, pageStart s i y.2)

/-- The memory checks of step 2 of R272: operands a, b, then the destination, which MCOMP also reads (R290). -/
def MatOp.memFail (o : MatOp) (s : State) (i : Issuer) : Option (Cause × Nat) :=
  let (a, b, d) := o.spans
  ((spansFail s i true false a).or (spansFail s i true false b)).or (spansFail s i (o.fn == 7) true d)

/-! Issue -/

/-- The EID of a core's matrix engine (R329). -/
def matEid (cid : Nat) : Nat := eidOf (cidDie cid) (0x80 + cid % 256)

/-- A MAT form other than MROWS and MCOLS has to wait (R262): a full queue, full suspension slots, or the engine with another set while
the exchange area is off. -/
def matStall (s : State) (w : Nat) (queued : Bool) : Bool :=
  match wg? s w with
  | some g =>
    match g.cid? with
    | some cid =>
      let c := coreAt s cid
      (queued && (decide (Config.matrixQueue ≤ c.mq.length) || !accepts s (matEid cid)))
      || (!bitAt (dregGet s (cidDie cid) 0x60) 0 && c.resident.isSome && c.resident != some w)
    | none => true
  | none => true

/-- The translations of the pages that an operation names are held from its acceptance on (R361), whatever the lines of the page wait for
or fail with when the operation reads them. -/
def holdSpans (i : Issuer) (wr : Bool) (l : List (Nat × Nat)) (s : State) : State :=
  l.foldl (fun s x =>
    match rangeOf x.1 with
    | .pages => (findLeaf s (walkDie i.die) i.part x.1).elim s fun t => useLeaf s t wr
    | _ => s) s

/-! The accumulator exchange (R75, R76) -/

/-- Bytes of a set's WRS images (R75, R287). -/
def setBytes : Nat := 163840

/-- The slot of a context of a core in the exchange area of its die (R76). -/
def slotPa (s : State) (cid scid : Nat) : Nat := bits (dregGet s (cidDie cid) 0x60) 51 16 * 65536 + (8 * (cid % 256) + scid) * 196608

/-- The images of a context's accumulators in order, then RACT and CACT, whose place R76 leaves open (DESIGN CHOICE, log 69). -/
def Ctx.setImage (c : Ctx) : List Byte :=
  ((List.range 4096).flatMap fun k => (c.acc.get {} k).bytes) ++ toBytes 4 c.ract ++ toBytes 4 c.cact

/-- The accumulators of an image. -/
def accOfImage (l : List Byte) : SMap Wrs :=
  (List.range 4096).foldl (fun m k => SMap.putD {} m k (Wrs.ofImage ((l.drop (40 * k)).take 40))) []

/-- The set of a context goes to its slot. -/
def storeSet (s : State) (cid w : Nat) : State :=
  let c := ctxOf s w
  let pa := slotPa s cid c.scid
  updCtx (recodeRange (putBytes s pa c.setImage) pa (setBytes + 8)) w fun c => { c with acc := [], inSlot := true }

/-- The set of a context comes from its slot, if it lies there. A slot with a poisoned or frozen line returns nothing (R136, R392): the set is
lost then, which no rule says what becomes of (DESIGN CHOICE, log 96). -/
def loadSet (s : State) (cid w : Nat) : State :=
  let c := ctxOf s w
  let pa := slotPa s cid c.scid
  if c.inSlot then
    match badLine s pa setBytes with
    | some x => updCtx s w fun c => { c with inSlot := false, bad := some x.1 }
    | none =>
      let (l, s) := physRead s pa setBytes
      updCtx s w fun c => { c with acc := accOfImage l, inSlot := false }
  else s

/-- The engine takes a context's set, after it has written the one it holds to its slot (R75). -/
def takeEngine (s : State) (cid w : Nat) : State :=
  let r := (coreAt s cid).resident
  if r = some w then s
  else updCore (loadSet (r.elim s (storeSet s cid)) cid w) cid fun c => { c with resident := some w }

/-- A restored set goes to the engine, else to the context's slot, else it waits for the engine with its context (R75, log 22). -/
def placeSet (s : State) (cid w : Nat) : State :=
  if (coreAt s cid).resident.isNone then takeEngine s cid w
  else if bitAt (dregGet s (cidDie cid) 0x60) 0 then storeSet s cid w
  else s

/-- An operation enters the queue (R272): the context has used the engine, which takes its set if it holds none. -/
def acceptOp (s : State) (o : MatOp) : State :=
  match (wg? s o.wg).bind (·.cid?) with
  | some cid =>
    let i := issuer s (.scribe o.wg)
    let s := holdSpans i true o.spans.2.2 (holdSpans i false o.spans.2.1 (holdSpans i false o.spans.1 s))
    let s := updCtx s o.wg fun c => { c with used := true }
    let s := if (coreAt s cid).resident.isNone then takeEngine s cid o.wg else s
    setMatQueue s cid ((coreAt s cid).mq ++ [o])
  | none => s

/-- Issues an operation that has passed its operand checks. -/
def issueMat (s : State) (o : MatOp) : Result :=
  if matStall s o.wg true then .next s
  else match o.memFail s (me s) with
    | some (c, v) => raise c v 0 s
    | none => done (acceptOp s o)

/-- The field checks of a MAT form (R172), with its workgroup. While operations of the context are held after an engine fault it stalls
(R262, R277), before its operand checks: R277 says until they are performed or discarded, R262 until the operation is resumed, and the
model takes it that they are held no more once all of them have entered the queue again (DEDUCED, log 74). -/
def matForm (fm : Form) (s : State) (k : Nat → State → Result) : Result :=
  guarded { fm with need := .matrix } s fun s => match curWg s with
    | some (w, _) => if (ctxOf s w).held.isEmpty then k w s else .next s
    | none => .next s

/-- An operation of the executing context with its captured counts. -/
def newOp (s : State) (w fn acc : Nat) (da db : Desc) : MatOp :=
  let c := ctxOf s w
  { wg := w, fn := fn, acc := acc, da := da, db := db, mode := 0, ract := c.ract, cact := c.cact, addr := 0, inc := 0, tag := (0, 0) }

/-- MZERO (R288). -/
def execMzero (d : Field) (s : State) : Result :=
  matForm { lits := [(d.toNat, 4)] } s fun w s => issueMat s (newOp s w 0 d.toNat 0 0)

/-- The operand checks of MMD and MMP in their order (R280). -/
def mulCheck (mmp : Bool) (acc : Nat) (a b : Desc) : Option Cause :=
  let m := tdTr a
  let kt := tdTc a
  let f := tdFmt b
  if !(m == tdTc b && (m == 32 || m == 64) && kt == tdTr b && kt % 32 == 0 && kt != 0) then some .tdesc
  else if !(1 ≤ tdFmt a && tdFmt a ≤ 0x0A) then some .tdesc
  else if mmp && !(f == 0x10 && tdG b != 0 && kt % tdG b == 0) then some .tdesc
  else if !mmp && !((1 ≤ f && f ≤ 0x0A) || f == 0x10) then some .tdesc
  else if (tdSfmt a != 0 && tdLay a != 0) || (tdSfmt b != 0 && tdLay b == 0) then some .tdesc
  else if m == 64 && acc != 0 then some .illegal
  else none

/-- MMD and MMP (R280). -/
def mulForm (fn : Nat) (d a b : Field) (s : State) : Result :=
  matForm { lits := [(d.toNat, 4), (a.toNat, 64), (b.toNat, 64)] } s fun w s =>
    match myHandle s a.toNat, myHandle s b.toNat with
    | some x, some y =>
      match mulCheck (fn == 2) d.toNat x y with
      | some c => raise c 0 0 s
      | none =>
        let ver := (((curWg s).bind fun g => g.2.tds.find b.toNat).map (·.ver)).getD 0
        issueMat s { newOp s w fn d.toNat x y with tag := (b.toNat, ver) }
    | _, _ => raise .tdesc 0 0 s

def execMmd (d a b : Field) (s : State) : Result := mulForm 1 d a b s
def execMmp (d a b : Field) (s : State) : Result := mulForm 2 d a b s

/-- A format and its tile are those of MSTORE (R289). -/
def storeOk (x : Desc) : Bool :=
  let f := tdFmt x
  ((1 ≤ f && f ≤ 5) || f == 0x0B) && tdLay x != 2 && tdSfmt x == 0 && tdTr x == tdTc x && (tdTr x == 32 || tdTr x == 64)

/-- MSTORE (R289). -/
def execMstore (d a b : Field) (s : State) : Result :=
  matForm { ops := [opR b], lits := [(d.toNat, 4), (a.toNat, 64)] } s fun w s =>
    let md := (readR s b).toNat % 8
    if 5 < md then raise .illegal 0 0 s
    else match myHandle s a.toNat with
      | none => raise .tdesc 0 0 s
      | some x =>
        if !storeOk x then raise .tdesc 0 0 s
        else if tdTr x = 64 ∧ d ≠ 0 then raise .illegal 0 0 s
        else issueMat s { newOp s w 3 d.toNat 0 x with mode := md }

/-- MLDW and MSTW (R288). -/
def imageForm (fn : Nat) (d a : Field) (s : State) : Result :=
  matForm { lits := [(d.toNat, 4), (a.toNat, 64)] } s fun w s =>
    match myHandle s a.toNat with
    | none => raise .tdesc 0 0 s
    | some x =>
      if !(tdFmt x == 0x0C && tdTr x == tdTc x && (tdTr x == 32 || tdTr x == 64)) then raise .tdesc 0 0 s
      else if tdTr x = 64 ∧ d ≠ 0 then raise .illegal 0 0 s
      else issueMat s (newOp s w fn d.toNat 0 x)

def execMldw (d a : Field) (s : State) : Result := imageForm 4 d a s
def execMstw (d a : Field) (s : State) : Result := imageForm 5 d a s

/-- An unperformed operation of the context names the accumulator (R290). -/
def accPending (s : State) (w n : Nat) : Bool :=
  match (wg? s w).bind (·.cid?) with
  | some cid => (coreAt s cid).mq.any fun o => o.wg == w && o.fn != 7 && (o.acc == n || (o.fn != 0 && o.shape == 64))
  | none => false

/-- The flags of an accumulator ORed over its elements (R290). -/
def accFlags (c : Ctx) (n : Nat) : Nat :=
  let l := ((c.acc.filter fun x => x.1 / 1024 == n).map (·.2))
  b2n (l.any (·.inexact)) + 2 * b2n (l.any (·.overflow)) + 4 * b2n (l.any (·.nan)) + 8 * b2n (l.any (·.inf))

/-- The core of the executing agent. -/
def myCid (s : State) : Nat := ((me s).cid).getD 0

/-- MFLAG (R290): a MAT form, before which the engine takes the context's set (R75); of a set that was lost it faults (log 96). -/
def execMflag (d a : Field) (s : State) : Result :=
  matForm { ops := [opW d], lits := [(a.toNat, 4)] } s fun w s =>
    if matStall s w false || accPending s w a.toNat then .next s
    else
      let t := takeEngine (updCtx s w fun c => { c with used := true }) (myCid s) w
      match (ctxOf t w).bad with
      | some c => raise c 0 0 s
      | none => done (writeR t d (BitVec.ofNat 64 (accFlags (ctxOf t w) a.toNat)))

/-- MCOMP (R290): the counter is checked as an 8-byte atomic, then the post is queued. -/
def execMcomp (a b : Field) (s : State) : Result :=
  matForm { ops := [opR a, opR b] } s fun w s =>
    let va := (readR s a).toNat
    if va % 8 ≠ 0 then raise .misalign va 0 s
    else issueMat s { newOp s w 7 0 0 0 with addr := va, inc := (readR s b).toNat }

/-- MROWS and MCOLS (R274). -/
def countForm (f : Ctx → Nat → Ctx) (a : Field) (s : State) : Result :=
  matForm { ops := [opR a] } s fun w s =>
    let n := (readR s a).toNat
    if n = 0 ∨ 64 < n then raise .illegal 0 0 s
    else done (updCtx s w fun c => f c n)

def execMrows (a : Field) (s : State) : Result := countForm (fun c n => { c with ract := n }) a s
def execMcols (a : Field) (s : State) : Result := countForm (fun c n => { c with cact := n }) a s

/-! Performance (R273, R281, R284, R288, R289) -/

/-- The issuer data of an engine's accesses for a context. -/
def matIssuer (s : State) (w cid : Nat) : Issuer :=
  match wg? s w with
  | some g => { part := g.part, lvl := g.lvl, sec := g.sec, die := cidDie cid, cid := none, wg := some w, lid := g.lid,
                grp := some (cidDie cid, cidCg cid), src := some cid }
  | none => default

/-- The bytes of spans read, by address. -/
def gather (s : State) (i : Issuer) (m : SMap Byte) : List (Nat × Nat) → Out (SMap Byte × State)
  | [] => .ok (m, s)
  | (va, n) :: l => (readAs s i false va n).bind fun r =>
    gather r.2 i ((r.1.zipIdx).foldl (fun m y => m.put (va + y.2) y.1) m) l

def bytesAt (m : SMap Byte) (l : List (Nat × Nat)) : List Byte := l.flatMap fun x => (List.range x.2).map fun k => m.get 0 (x.1 + k)

/-- A tile element expanded from gathered bytes; none out of range (R275). -/
def xfAt (m : SMap Byte) (x : Desc) (i j : Nat) : Option FVal :=
  let r := tdRow0 x + i
  let c := tdCol0 x + j
  if r < tdRows x ∧ c < tdCols x then
    let v := elemVal x (elemOf x r c (bytesAt m (readSpans x r c)))
    some (if tdSfmt x = 0 then v else v.mul (scaleVal x (m.get 0 (scaleVa x r c)).toNat))
  else none

/-- The permutation entry of tile row k of column j: the K position it pairs with (R281, R283). -/
def pairK (m : SMap Byte) (x : Desc) (k j : Nat) : Nat :=
  let g := tdG x
  if g = 0 then k
  else
    let r := tdRow0 x + k
    let c := tdCol0 x + j
    k / g * g + (m.get 0 (tdVa x (tdPerm x + (c * (tdRows x / g) + r / g) * g + r % g))).toNat % g

/-- An activation's value in a group: +0 where it is out of range (R275, R284). -/
def orZero (x : Option FVal) : FVal := x.getD (.fin false 0 0)

/-- The product of two elements. One that is out of range contributes +0 and causes no flag, whatever it is multiplied with (R275). -/
def addProduct (w : Wrs) (x y : Option FVal) : Wrs :=
  match x, y with
  | some x, some y => w.add (x.mul y)
  | _, _ => w

/-- One output of MMD (R281): the products are added in ascending k, where R278 leaves the order to the engine (DESIGN CHOICE, log 71). A
permutation entry that leads beyond Kt pairs with nothing, and adds nothing (DESIGN CHOICE, log 72). -/
def mmdSum (m : SMap Byte) (a b : Desc) (i j : Nat) (w : Wrs) : Wrs :=
  (List.range (tdTc a)).foldl (fun w k =>
    let y := xfAt m b k j
    let p := pairK m b k j
    if p < tdTc a then addProduct w (xfAt m a i p) y else w) w

/-- Exponent of the leading bit of a finite nonzero value. -/
def leadExp (x : FVal) : Option Int :=
  match x with
  | .fin _ m e => if m = 0 then none else some ((m.log2 : Int) + e)
  | _ => none

/-- A finite value in a scan word aligned to E: units of 2^(E − 48), toward −∞, and whether that discards anything
(R103). -/
def scanWord (e : Int) (x : FVal) : Int × Bool :=
  match x with
  | .fin neg m f =>
    let v : Int := if neg then -(m : Int) else m
    let k := f - (e - 48)
    if 0 ≤ k then (v * 2 ^ k.toNat, false) else (v / 2 ^ (-k).toNat, v % 2 ^ (-k).toNat != 0)
  | _ => (0, false)

/-- The steps and suffix sums of a group (R102): Σ d T, T being the sums from each place on. -/
def byParts : Int → List (Int × Int) → Int
  | _, [] => 0
  | prev, (q, a) :: l => (q - prev) * ((a :: l.map (·.2)).foldl (· + ·) 0) + byParts q l

/-- The rows of a weight group lie in range (R275, R284). -/
def groupIn (b : Desc) (g : Nat) : Bool := decide (tdRow0 b + tdG b * g < tdRows b)
/-- A column of a weight tile lies in range. -/
def columnIn (b : Desc) (j : Nat) : Bool := decide (tdCol0 b + j < tdCols b)

/-- The stored bits of element k of a group in a column. -/
def groupBits (m : SMap Byte) (b : Desc) (j g k : Nat) : Nat :=
  let r := tdRow0 b + tdG b * g + k
  let c := tdCol0 b + j
  elemOf b r c (bytesAt m (readSpans b r c))

/-- The nonzero steps of a group after the first (R24, R102); the weights of a column out of range are +0. -/
def groupSteps (m : SMap Byte) (b : Desc) (j g : Nat) : Nat :=
  if columnIn b j then
    let q (k : Nat) : Int := lamQ b (groupBits m b j g k)
    ((List.range (tdG b - 1)).filter fun k => q (k + 1) != q k).length
  else 0

/-- The contribution of one group to one output of MMP (R103-R105, R284); weights out of range contribute nothing and cause no flag
(R275). -/
def mmpGroup (m : SMap Byte) (a b : Desc) (i j g : Nat) (w : Wrs) : Wrs :=
  let n := tdG b
  let k0 := n * g
  if !groupIn b g || !columnIn b j then w
  else
    let bit (k : Nat) : Nat := groupBits m b j g k
    let xs : List (Nat × FVal) := (List.range n).map fun k => (k, orZero (xfAt m a i (pairK m b (k0 + k) j)))
    let sw : FVal := if tdSfmt b = 0 then .fin false 1 0 else scaleVal b (m.get 0 (scaleVa b (tdRow0 b + k0) (tdCol0 b + j))).toNat
    let w := xs.foldl (fun (w : Wrs) (x : Nat × FVal) =>
      match x.2 with
      | .fin _ _ _ => w
      | v => w.add (v.mul ((intVal (lamVal b (bit x.1))).mul sw))) w
    match xs.foldl (fun (e : Option Int) (x : Nat × FVal) =>
        match leadExp x.2, e with
        | some y, some z => some (Max.max y z)
        | some y, none => some y
        | none, z => z) none with
    | some e =>
      let sc : List (Int × (Int × Bool)) := xs.map fun x => (lamQ b (bit x.1), scanWord e x.2)
      let dt := byParts 0 (sc.map fun x => (x.1, x.2.1))
      let t0 : Int := (sc.map fun x => x.2.1).foldl (· + ·) 0
      let p := tdP b - tdPr b
      let ctr : Int := if tdCtr b ∧ 0 < p then 1 else 0
      let c2 : FVal := ofScaled (2 * dt + ctr * t0) (e - 49 + p) false
      Wrs.add { w with inexact := w.inexact || sc.any fun x => x.2.2 } (c2.mul sw)
    | none => if sw == .nan && (List.range n).any (fun k => (xfAt m a i (pairK m b (k0 + k) j)).isSome) then w.setNan else w

/-- One output of MMP: its groups in ascending order, where R278 leaves the order to the engine (DESIGN CHOICE, log 71). -/
def mmpSum (m : SMap Byte) (a b : Desc) (i j : Nat) (w : Wrs) : Wrs :=
  (List.range (tdTc a / tdG b)).foldl (fun w g => mmpGroup m a b i j g w) w

/-! Time (R24, R282) -/

/-- Multiply-adds of a core-cycle for an operand's format (R282). -/
def matRate (x : Desc) : Nat :=
  match tdFmt x with
  | 1 => 1024
  | 2 | 3 => 4096
  | 4 | 5 | 9 => 8192
  | 0x10 => if 5 ≤ tdPr x then 8192 else 16384
  | _ => 16384

/-- Core-cycles of an MMD: its multiply-adds over the lower rate, rounded up (R282). -/
def mmdCycles (a b : Desc) : Nat :=
  let q := Min.min (matRate a) (matRate b)
  (tdTr a * tdTr a * tdTc a + q - 1) / q

/-- Core-cycles of an MMP (R24): max(G, 4 (s + 1)) for a group and an active output, and G for an inactive one, in units of 1/32768, over
the groups whose rows lie in range, rounded up once. -/
def mmpCycles (m : SMap Byte) (o : MatOp) : Nat :=
  let b := o.db
  let n := tdG b
  let column (g j : Nat) : Nat :=
    let c := if j < o.cols then Max.max n (4 * (groupSteps m b j g + 1)) else n
    o.rows * c + (o.shape - o.rows) * n
  let groups := (List.range (tdTc o.da / n)).filter (groupIn b)
  ((groups.map fun g => ((List.range o.shape).map (column g)).foldl (· + ·) 0).foldl (· + ·) 0 + 32767) / 32768

/-- Active outputs in ascending row, then column (R275). -/
def MatOp.active (o : MatOp) : List (Nat × Nat) := (List.range o.rows).flatMap fun i => (List.range o.cols).map fun j => (i, j)

/-- Every active accumulator element renewed. -/
def updActive (s : State) (o : MatOp) (f : Nat → Nat → Wrs → Wrs) : State :=
  updCtx s o.wg fun c => { c with acc := o.active.foldl (fun m e =>
    let k := accKey o.shape o.acc e.1 e.2
    SMap.putD {} m k (f e.1 e.2 (SMap.get {} m k))) c.acc }

/-- The weight record of an MMP: its spans, and the tile that tags it (R285). -/
def MatOp.tile (o : MatOp) : List Nat := [tdRow0 o.db, tdCol0 o.db, tdTr o.db, tdTc o.db, o.ract, o.cact]

/-- Bytes of a weight record (R285). -/
def recordBytes (o : MatOp) : Nat :=
  let kt := tdTr o.db
  let m := tdTc o.db
  kt * m * tdPr o.db / 8 + kt * m + (if tdSfmt o.db = 0 then 0 else m * kt / tdB o.db)

/-- The weight bytes of an MMP: from the buffer while it holds the record, else from memory (R285). A write made after the record was loaded
is not seen, where R285 allows the old or the new value (DESIGN CHOICE, log 73). -/
def weightBytes (s : State) (cid : Nat) (i : Issuer) (o : MatOp) (l : List (Nat × Nat)) : Out (SMap Byte × State) :=
  match (coreAt s cid).wbuf with
  | some b =>
    if b.wg = o.wg ∧ b.handle = o.tag.1 ∧ b.ver = o.tag.2 ∧ b.tile = o.tile then .ok (b.bytes, s) else load
  | none => load
where
  load : Out (SMap Byte × State) :=
    (gather s i [] l).bind fun r =>
      .ok (r.1, if 262144 < recordBytes o then r.2
        else updCore r.2 cid fun c => { c with wbuf := some { wg := o.wg, handle := o.tag.1, ver := o.tag.2, tile := o.tile, bytes := r.1 } })

/-- Bytes by address, the first table's before the second's. -/
def mergeBytes (m n : SMap Byte) : SMap Byte := m.foldl (fun x y => x.put y.1 y.2) n

/-- MSTORE's writes with their draws, in order (R289). -/
def storeAll (s : State) (i : Issuer) (o : MatOp) : List (Nat × Nat) → Out State
  | [] => .ok s
  | (r, c) :: l =>
    let x := o.db
    let w := accGet (ctxOf s o.wg) o.shape o.acc r c
    let md := Rnd.ofCode o.mode
    let (g, d) := if md = .rsr then rngDraw (ctxOf s o.wg).g else ((ctxOf s o.wg).g, 0)
    let v := match fmtFloat (tdFmt x) with
      | some f => w.toFloat f md d
      | none => w.toInt32 md d
    (writeElem (updCtx s o.wg fun c => { c with g := g }) i { va := 0, size := 1, eng := true, deaf := true } x (tdRow0 x + r) (tdCol0 x + c) v).bind
      fun s => storeAll s i o l

/-- MSTW's writes (R288). -/
def imageAll (s : State) (i : Issuer) (o : MatOp) : List (Nat × Nat) → Out State
  | [] => .ok s
  | (r, c) :: l =>
    let w := accGet (ctxOf s o.wg) o.shape o.acc r c
    (writeElem s i { va := 0, size := 1, eng := true, deaf := true } o.db (tdRow0 o.db + r) (tdCol0 o.db + c) (ofBytes w.bytes)).bind
      fun s => imageAll s i o l

/-- The post of an MCOMP (R290). It never takes a fault of a poisoned or frozen line (R277); the add is lost there (DESIGN CHOICE,
log 70). -/
def postMcomp (o : MatOp) (s : State) (cid : Nat) : Out State :=
  match postAdd s (matIssuer s o.wg cid) (some cid) o.addr o.inc with
  | .bad c v => if c = .poison ∨ c = .frozen then .ok s else .bad c v
  | r => r

/-- An accepted operation performed: the state after it and the core-cycles it takes. One on a set that was lost, any but MCOMP, faults
(log 96). -/
def MatOp.run (o : MatOp) (s : State) (cid : Nat) : Out (State × Nat) :=
  match (if o.fn = 7 then none else (ctxOf s o.wg).bad) with
  | some c => .bad c 0
  | none =>
  let i := matIssuer s o.wg cid
  let (sa, sb, _) := o.spans
  let free (x : Out State) : Out (State × Nat) := x.bind fun s => .ok (s, 0)
  match o.fn with
  | 0 => .ok (updCtx s o.wg fun c => { c with acc := c.acc.filter fun x => x.1 / 1024 != o.acc }, 0)
  | 1 => (gather s i [] sa).bind fun r => (gather r.2 i r.1 sb).bind fun q =>
      .ok (updActive q.2 o fun r c w => mmdSum q.1 o.da o.db r c w, mmdCycles o.da o.db)
  | 2 => (gather s i [] sa).bind fun r => (weightBytes r.2 cid i o sb).bind fun q =>
      let m := mergeBytes r.1 q.1
      .ok (updActive q.2 o fun r c w => mmpSum m o.da o.db r c w, mmpCycles m o)
  | 3 => free (storeAll s i o (tileElems o.db o.rows o.cols))
  | 4 => (gather s i [] sa).bind fun q =>
      .ok (updActive q.2 o fun r c w =>
        let tr := tdRow0 o.db + r
        let tc := tdCol0 o.db + c
        if tr < tdRows o.db ∧ tc < tdCols o.db then w.addImage (Wrs.ofImage (bytesAt q.1 (elemSpans o.db tr tc))) else w, 0)
  | 5 => free (imageAll s i o (tileElems o.db o.rows o.cols))
  | _ => free (postMcomp o s cid)

/-- An engine fault of a matrix operation (R277): it and the context's later operations are held. -/
def matFault (s : State) (cid : Nat) (o : MatOp) (c : Cause) (v : Nat) : State :=
  let q := (coreAt s cid).mq
  let s := setMatQueue s cid (q.filter (·.wg != o.wg))
  let s := updCtx s o.wg fun x => { x with held := q.filter (·.wg == o.wg) ++ x.held }
  match wg? s o.wg with
  | some g => raiseEngine s (matEid cid) g.part g.lvl g.sec g.lid g.wid 4 o.wg c v
  | none => s

/-- Places of a core's matrix queue that are free (R272). -/
def queueRoom (s : State) (cid : Nat) : Nat := Config.matrixQueue - (coreAt s cid).mq.length

/-- The recorded matrix operations of a restored context are accepted again while the queue has room; one whose check fails is an engine
fault and holds the rest (R279). -/
def reaccept (cid w : Nat) : List MatOp → State → State
  | [], s => updCtx s w fun c => { c with saved := [] }
  | o :: l, s =>
    if queueRoom s cid = 0 ∨ accepts s (matEid cid) = false then updCtx s w fun c => { c with saved := o :: l }
    else match o.memFail s (matIssuer s w cid) with
    | none => reaccept cid w l (acceptOp s o)
    | some (c, v) =>
      let s := updCtx s w fun x => { x with held := o :: l, saved := [] }
      match wg? s w with
      | some g => raiseEngine s (matEid cid) g.part g.lvl g.sec g.lid g.wid 4 w c v
      | none => s

/-- An engine fault holds a context's operations (R277). -/
def matSuspended (s : State) (w : Nat) : Bool := s.susp.any fun x => x.cls == 4 && x.op == w

/-- The operations of a context that no fault holds enter the queue while it has room: those that were held, at its end, whose place among
the operations of other contexts R277 leaves open (DESIGN CHOICE, log 74), then those recorded by a save. -/
def refillContext (cid : Nat) (s : State) (w : Nat) : State :=
  let c := ctxOf s w
  if matSuspended s w then s
  else if c.held.isEmpty then (if c.saved.isEmpty then s else reaccept cid w c.saved s)
  else
    let n := queueRoom s cid
    setMatQueue (updCtx s w fun c => { c with held := c.held.drop n }) cid ((coreAt s cid).mq ++ c.held.take n)

/-- Every context of a core whose operations wait for room. -/
def refillQueue (s : State) (cid : Nat) : State :=
  ((residents s cid).filter fun x => x.2.ctx.any fun c => !c.held.isEmpty || !c.saved.isEmpty).foldl (fun s x => refillContext cid s x.1) s

/-- The engine may serve the head of its queue: the set is resident, or can be exchanged (R75, R76). -/
def engineFree (s : State) (cid w : Nat) : Bool :=
  let c := coreAt s cid
  c.resident.isNone || c.resident == some w || bitAt (dregGet s (cidDie cid) 0x60) 0

/-- The engine performs the head of its queue (R273) and takes up the next, with the core-cycles that it takes. -/
def matStep (s : State) (cid : Nat) (o : MatOp) : Out (State × Nat) :=
  (o.run (takeEngine s cid o.wg) cid).bind fun r =>
    .ok (refillQueue (updCore r.1 cid fun c => { c with mq := c.mq.drop 1, mqSince := coreRaw s cid }) cid, r.2)

/-- MATRIX_OP_PERFORM (R273), once the core-cycles of R24 and R282 have passed since the engine took the operation up. -/
def execMatrixOpPerform (cid : Nat) (s : State) : Result :=
  match (coreAt s cid).mq with
  | o :: _ =>
    if engineFree s cid o.wg && accepts s (matEid cid) && coreRuns s cid then
      match matStep s cid o with
      | .ok r => if (coreAt s cid).mqSince + r.2 ≤ coreRaw s cid then .next r.1 else off s
      | .bad c v => .next (matFault s cid o c v)
      | .wait => .next s
    else off s
  | [] =>
    let s := refillQueue s cid
    .next s

end Sys2Proof.Machine
end

