-- ==== Sys2Proof/Machine/Nib.lean ====
section
/-! DEFINITION. The Nib (R40-R45), the retries of a core (R44, R55) and the return of spilled entries (R56). -/

namespace Sys2Proof.Machine

open Sys2Proof

/-! Selection (R40, R41) -/

/-- The workgroup and tid of a slot of a core. -/
def slotThread (s : State) (cid slot : Nat) : Option (Nat × Nat) :=
  ((residents s cid).find? fun x => x.2.rows.contains (slot / 32)).bind fun x =>
    (x.2.rows.findIdx? (· == slot / 32)).map fun i => (x.1, 32 * i + slot % 32)

/-- No batch is formed from threads of a workgroup whose save has its forwarding entry (R374). -/
def slotReady (s : State) (cid slot : Nat) : Bool :=
  match slotThread s cid slot with
  | some (w, _) => (wg? s w).all fun g => g.saving.all (!·.claimed)
  | none => false

/-- The waiting slots of an entry that take part in selection now: those placed in an earlier raw cycle (R39). -/
def seenSlots (s : State) (cid : Nat) (e : Entry) : List Nat :=
  let c := coreAt s cid
  if c.freshRaw = coreRaw s cid then e.wset.filter fun n => !c.fresh.contains n else e.wset

/-- The waiting slots of an entry from which a batch can be formed. -/
def readySlots (s : State) (cid : Nat) (e : Entry) : List Nat := (seenSlots s cid e).filter (slotReady s cid)

/-- The threshold of a fill class (R34). -/
def fillThreshold (fill : Nat) : Nat := match fill with | 1 => 32 | 2 => 128 | 3 => 1024 | _ => 0

/-- The record of a context's launch. -/
def ctxRecord (s : State) (c : Core) (k : Nat) : BitVec 1024 :=
  (((c.ctxs.find k).bind fun x => launch? s x.1 x.2).map (·.record)).getD 0

/-- An entry is unfilled (R40). -/
def unfilled (s : State) (cid : Nat) (e : Entry) : Bool :=
  !e.res && e.fill != 0 && !e.opn && decide ((seenSlots s cid e).length < fillThreshold e.fill)
  && decide (entryAge s cid e < recFillTimer (ctxRecord s (coreAt s cid) e.ctx))

/-- The non-empty entries of a context. -/
def ctxEntries (s : State) (cid k : Nat) : List Entry := (coreAt s cid).fr.filter fun e => e.ctx == k && !(readySlots s cid e).isEmpty

/-- The eligible entries of a context (R40). -/
def eligible (s : State) (cid k : Nat) : List Entry :=
  let l := ctxEntries s cid k
  let f := l.filter fun e => !unfilled s cid e
  if f.isEmpty then l else f

/-- The order of R40: the first is chosen first. -/
def betterEntry (s : State) (cid : Nat) (x y : Entry) : Bool :=
  if x.prio != y.prio then y.prio < x.prio
  else if x.res != y.res then x.res
  else if entryAge s cid x != entryAge s cid y then entryAge s cid y < entryAge s cid x
  else x.baddr < y.baddr

/-- The first of a list in an order. Where the keys of R40, R41 or R56 leave a tie (two resume entries of a context with
equal PRIO, AGE and BADDR), the spec does not break it: the model takes the first in the list (DESIGN CHOICE, log 57). -/
def firstBy {α : Type} (lt : α → α → Bool) (l : List α) : Option α :=
  l.foldl (fun acc x =>
    match acc with
    | some y => if lt x y then some x else some y
    | none => some x) none

def bestEntry (s : State) (cid k : Nat) : Option Entry := firstBy (betterEntry s cid) (eligible s cid k)

/-- Cost of an entry in words (R40). -/
def entryCost (e : Entry) : Nat := e.len - e.roff

/-- The forced entry (R41). -/
def forcedEntry (s : State) (cid : Nat) : Option Entry :=
  firstBy (fun x y =>
    if entryAge s cid x != entryAge s cid y then entryAge s cid y < entryAge s cid x
    else if x.ctx != y.ctx then x.ctx < y.ctx
    else x.baddr < y.baddr)
    ((coreAt s cid).fr.filter fun e => !(readySlots s cid e).isEmpty && decide (65536 ≤ entryAge s cid e))

/-- Weight of a context (R41). -/
def ctxWeight (s : State) (c : Core) (k : Nat) : Nat := recClass (ctxRecord s c k) + 1

/-- The deficit round robin of R41: the core after it and the entry chosen; the first number bounds the visits. -/
def chooseEntry : Nat → State → Nat → State × Option Entry
  | 0, s, _ => (s, none)
  | n + 1, s, cid =>
    let c := coreAt s cid
    let k := c.ptr
    match bestEntry s cid k with
    | none => chooseEntry n (setCore s cid { c with deficit := c.deficit.putD 0 k 0, ptr := (k + 1) % 8, credited := false }) cid
    | some e =>
      let d : Int := c.deficit.get 0 k + (if c.credited then 0 else 64 * (ctxWeight s c k : Int))
      if (entryCost e : Int) ≤ d then
        (setCore s cid { c with deficit := c.deficit.putD 0 k (d - entryCost e), credited := true }, some e)
      else chooseEntry n (setCore s cid { c with deficit := c.deficit.putD 0 k d, ptr := (k + 1) % 8, credited := false }) cid

/-! Batches (R42, R45) -/

/-- The free batch context that the Nib takes: the lowest (log 11). -/
def freeBatch (c : Core) : Option Nat := (List.range Config.batchContexts).find? fun b => (c.batches.find b).isNone

/-- The slots of a batch: for each lane the waiting slot in the lowest row (R42). -/
def batchSlots (l : List Nat) : List Nat := (List.range 32).filterMap fun lane => l.find? fun x => x % 32 == lane

/-- A lane of a batch context takes a thread (R38, R45): its transients are those of its record when it is resumed, what the
lane last held when that was of its own workgroup, and 0 otherwise. -/
def bindLane (s : State) (cid b w t : Nat) : State :=
  match thread? s w t with
  | some th =>
    let k := laneKey b (t % 32)
    let l := (coreAt s cid).lanes.get {} k
    let ts : SMap Word32 := match th.resumeAt with
      | some (_, ts) => (List.range 16).map fun i => (i, ts.getD i 0)
      | none => if l.wg = some w then l.t else []
    updThread (updCore s cid fun c => { c with lanes := c.lanes.put k { wg := some w, t := ts } }) w t
      fun th => { th with st := .running b, resumeAt := none }
  | none => s

/-- The bytes of a block as they are now, by the physical addresses that a core's die translates it to (R142). -/
def blockBytes (s : State) (cid p va n : Nat) : List (Nat × List Byte) :=
  (pageParts va n).filterMap fun x => (findLeaf s (walkDie (cidDie cid)) p x.1).map fun t =>
    let pa := ptePa t.lvl t.pte.toNat (va49 x.1)
    (pa, Memory.read s.mem pa x.2)

/-- Forms a batch from an entry in a free batch context (R42). -/
def formBatch (s : State) (cid b : Nat) (e : Entry) : State :=
  let slots := batchSlots (readySlots s cid e)
  let who := slots.filterMap (slotThread s cid)
  let lanes : SMap (Nat × Nat) := who.map fun x => (x.2 % 32, x)
  let rest := e.wset.filter fun x => !slots.contains x
  let now := coreRaw s cid
  let code := blockBytes s cid (((coreAt s cid).ctxs.get (0, 0) e.ctx).1) (sextNat 49 64 e.baddr) (4 * e.len + 4)
  let upd (x : Entry) : Option Entry := if sameEntry x e then (if rest.isEmpty then none else some { x with wset := rest, opn := true, since := now }) else some x
  let s := updCore s cid fun c =>
    { c with fr := c.fr.filterMap upd, nibRaw := some now,
             batches := c.batches.put b { blk := e.baddr, len := e.len, word := e.roff, lanes := lanes, todo := SMap.keys lanes, code := code } }
  who.foldl (fun s x => bindLane s cid b x.1 x.2) s

/-! A block that is rewritten while a batch executes it (R142) -/

/-- A program has rewritten the block of a batch in flight. -/
def torn (s : State) (cid b : Nat) : Bool :=
  ((coreAt s cid).batches.find b).any fun x => x.code.any fun y => Memory.read s.mem y.1 y.2.length != y.2

/-- A table whose entries that have changed hold free values from the counter `f` on, and the counter after them. -/
def looseTable {n : Nat} (old new : SMap (BitVec n)) (f : Nat) : SMap (BitVec n) × Nat :=
  (SMap.diff 0 old new).foldl (fun r k => (r.1.putD 0 k ((Config.freeValue r.2).setWidth n), r.2 + 1)) (new, f)

/-- Tables by key, each loosened against the one of its key before. -/
def looseAll {α : Type} {n : Nat} (get : α → SMap (BitVec n)) (set : α → SMap (BitVec n) → α) (old : Nat → α) (new : SMap α) (f : Nat) :
    SMap α × Nat :=
  new.foldr (fun x r => let y := looseTable (get (old x.1)) (get x.2) r.2; ((x.1, set x.2 y.1) :: r.1, y.2)) ([], f)

/-- Memory bytes that a torn batch has changed are free values; a block that held a code is coded anew (R133). -/
def looseMem (s t : State) : State :=
  let ks := SMap.diff 0 s.mem t.mem
  let m := looseTable s.mem t.mem t.free
  let t := { t with mem := m.1, free := m.2 }
  (ks.map lineOf).eraseDups.foldl (fun t blk =>
    if t.bdi.get 0 blk = 0 || poisonedBlock t blk then t
    else { t with bdi := t.bdi.putD 0 blk (bdiCode (Memory.num t.mem (blk * 128) 128)) }) t

/-- A pushed value that is new is a free value. -/
def looseSubs (s t : State) : State :=
  let f (x : Sub) : Sub :=
    let o := (s.subs.find? (·.id == x.id)).getD { x with push := none, merged := none }
    { x with push := if x.push = o.push then x.push else x.push.map fun v => (Config.freeValue (t.free + 2 * x.id), v.2)
             merged := if x.merged = o.merged then x.merged else x.merged.map fun v => (Config.freeValue (t.free + 2 * x.id + 1), v.2) }
  if t.subs = s.subs then t else { t with subs := t.subs.map f, free := t.free + 2 * t.nextId }

/-- The results of a word that a torn batch has issued, from the state before it: the carried slots, transients, scratchpad and memory bytes
and pushed values that it has changed are undefined-valued (R14, R142). The model takes as results these stored values alone: where the
threads go, what faults and what is asked of units follow the words executed (DESIGN CHOICE, log 95). -/
def tornResults (s t : State) : State :=
  let t := looseSubs s (looseMem s t)
  let old (w : Nat) : Workgroup := s.wgs.get default w
  let r := looseAll (·.spad) (fun g m => { g with spad := m }) old t.wgs t.free
  let q := r.1.foldr (fun x (q : SMap Workgroup × Nat) =>
    let y := looseAll (·.v) (fun (th : Thread) m => { th with v := m }) (fun k => (old x.1).threads.get {} k) x.2.threads q.2
    ((x.1, { x.2 with threads := y.1 }) :: q.1, y.2)) ([], r.2)
  let c := t.cores.foldr (fun x (q : SMap Core × Nat) =>
    let y := looseAll (·.t) (fun (l : LaneT) m => { l with t := m }) (fun k => (coreAt s x.1).lanes.get {} k) x.2.lanes q.2
    ((x.1, { x.2 with lanes := y.1 }) :: q.1, y.2)) ([], q.2)
  { t with wgs := q.1, cores := c.1, free := c.2 }

/-- Enough visits for R41's loop to end: each round of eight adds 64 words or more to a context that stays eligible. -/
def visits (c : Core) : Nat := 8 * (8 + (c.deficit.map fun x => x.2.natAbs).foldl (· + ·) 0)

/-- NIB_BATCH_FORMATION (R41, R42): at most one batch in a raw cycle. -/
def execNibBatchFormation (cid : Nat) (s : State) : Result :=
  match if coreRuns s cid ∧ (coreAt s cid).nibRaw ≠ some (coreRaw s cid) then freeBatch (coreAt s cid) else none with
  | some b =>
    match forcedEntry s cid with
    | some e => .next (formBatch (updCore s cid fun c => { c with deficit := c.deficit.putD 0 e.ctx (c.deficit.get 0 e.ctx - entryCost e) }) cid b e)
    | none =>
      match chooseEntry (visits (coreAt s cid)) s cid with
      | (s, some e) => .next (formBatch s cid b e)
      | (_, none) => off s
  | none => off s

/-- FILL_TIMER_EXPIRY (R40): an entry's age has reached its context's fill timer. It writes nothing: `eligible` reads the age. -/
def execFillTimerExpiry (_cid _baddr : Nat) (s : State) : Result := .next s

/-- ENTRY_AGE_FORCE (R41): an entry's age has reached 65,536, so it is forced. It writes nothing: `forcedEntry` reads the age. -/
def execEntryAgeForce (_cid _baddr : Nat) (s : State) : Result := .next s

/-! Retries -/

/-- FAULTED_THREAD_RECORD (R44): the oldest stalled fault of a core takes a record that has freed. -/
def execFaultedThreadRecord (cid : Nat) (s : State) : Result :=
  match (coreAt s cid).stalls, freeRecord (coreAt s cid) with
  | h :: l, some k =>
    let s := updCore s cid fun c => { c with stalls := l }
    let run (th : Thread) : Thread := match th.st with | .stalled b => { th with st := .running b } | _ => th
    .next (takeRecord (updThread s h.wg h.tid run) cid k h)
  | _, _ => off s

/-- PLACEMENT_RETRY (R55). -/
def execPlacementRetry (wg tid : Nat) (s : State) : Result :=
  match thread? s wg tid, (wg? s wg).bind fun g => g.cid? with
  | some th, some _ => if th.st = .waiting .place then .next (wake s wg tid) else off s
  | _, _ => off s

/-! Spilled entries (R56) -/

/-- Distance of an ordinal from the oldest outstanding one (R56). -/
def sordDist (c : Core) (r : Spilled) : Nat := (r.sord + 2 ^ 15 - (c.spilled.map (·.sord)).headD 0) % 2 ^ 15

/-- The record that is reloaded first: highest PRIO, then the lowest distance (R56). -/
def reloadFirst (c : Core) : Option Spilled :=
  firstBy (fun x y => if x.ent.prio != y.ent.prio then y.ent.prio < x.ent.prio else sordDist c x < sordDist c y) c.spilled

/-- A record's entry as it comes back on chip at a raw cycle: its stored age goes on. -/
def Spilled.back (r : Spilled) (now : Nat) : Entry := { r.ent with since := now - r.ent.since }

/-- The launch record that a spilled entry of a core lies in. -/
def Spilled.holder (r : Spilled) (c : Core) : Holder :=
  let k := (c.ctxs.find r.ent.ctx).getD (0, 0)
  .record k.1 k.2 r.idx

/-- The entry that a record gives back. Of a record that software has written into, every field but the waiting set is undefined-valued
(R16, R52; which threads wait is not taken from it, log 39). -/
def recordBack (s : State) (cid : Nat) (r : Spilled) : Entry × State :=
  let now := coreRaw s cid
  let h := r.holder (coreAt s cid)
  if s.spoiled.contains h then
    let x := (freeValue s).toNat
    let y := (freeValue (useFree s)).toNat
    ({ r.ent with baddr := bits x 48 2 * 4, prio := bits y 11 0, fill := bits y 13 12, cold := bitAt y 14, opn := bitAt y 15, since := now - bits y 34 16 },
     unspoil (useFree (useFree s)) h)
  else (r.back now, s)

/-- SPILL_RELOAD (R56). -/
def execSpillReload (cid : Nat) (s : State) : Result :=
  let c := coreAt s cid
  match reloadFirst c with
  | some r =>
    if c.fr.length < Config.frontierEntries ∧ coreRuns s cid then
      let x := recordBack s cid r
      let s' := updCore x.2 cid fun c => { c with spilled := c.spilled.filter (· != r) }
      match addEntry s' cid x.1 with
      | some s => .next s
      | none => off s
    else off s
  | none => off s

/-- SPILL_SWAP (R56): 65,536 raw cycles after the last swap, or since the frontier is full, the oldest record changes places
with the victim of R54. -/
def execSpillSwap (cid : Nat) (s : State) : Result :=
  let c := coreAt s cid
  match c.spilled, victim s cid c.fr with
  | r :: _, some v =>
    if c.fr.length = Config.frontierEntries ∧ c.swapRaw + 65536 ≤ coreRaw s cid then
      let x := recordBack s cid r
      let s' := updCore x.2 cid fun c => { c with spilled := c.spilled.filter (· != r) }
      match spillEntry s' cid v with
      | some s' => .next (updCore s' cid fun c =>
          { c with fr := (c.fr.filter fun x => !sameEntry x v) ++ [x.1], swapRaw := coreRaw s cid })
      | none => off s
    else off s
  | _, _ => off s

end Sys2Proof.Machine
end

