-- ==== Sys2Proof/Machine/Rays.lean ====
section
/-! DEFINITION. Ray queries: RAYQ, the acceleration structure, the exact candidate hits and the ray unit (R309-R317). -/

namespace Sys2Proof.Machine

open Sys2Proof

/-- Queries a ray unit holds (R311). -/
def rayQueries : Nat := 512
def rayEid (cid : Nat) : Nat := eidOf (cidDie cid) (0x40 + cidCg cid)

/-- Word k of a ray slot given as a number. -/
def slotWord (r k : Nat) : Nat := bits r (32 * k + 31) (32 * k)

/-- RAYQ (R311). -/
def execRayq (a b : Field) (s : State) : Result :=
  guarded { ops := [opR a, opRp b], need := .shading } s fun s =>
    let o := (readR s a).toNat
    let h := (readP s b).toNat
    if o % 64 ≠ 0 then raise .misalign (selfVa o) 0 s
    else if h % 64 ≠ 0 then raise .misalign h 0 s
    else
      (resolve s (me s) { va := selfVa o, size := 64, rd := true }).run s fun t =>
        let read := readTgt s (me s) t 64
        let r := ofBytes read.1
        let s := read.2
        if bits (slotWord r 15) 31 11 ≠ 0 then raise .illegal 0 0 s
        else
          let ca := bits r 447 384
          if ca % 8 ≠ 0 then raise .misalign ca 0 s
          else (resolve s (me s) { va := h, size := 64, rd := true }).run s fun q =>
            match curWg s with
            | some (w, g) =>
              let eid := rayEid (g.cid?.getD 0)
              if accepts s eid && decide ((s.rays.filter fun x => x.eid == eid).length < rayQueries) then
                let y : RayQ := { id := s.nextId, eid := eid, wg := w, lid := g.lid, wid := g.wid, part := g.part, lvl := g.lvl, sec := g.sec, off := o,
                                  slot := (List.range 16).map fun k => BitVec.ofNat 32 (slotWord r k), hdr := h, held := false,
                                  cid := g.cid?.getD 0 }
                let s := useTgt s q false
                done { s with rays := s.rays ++ [y], nextId := s.nextId + 1 }
              else .next s
            | none => .next s

/-! Exact geometry (R313-R315); every FP32 value is an integer in units of 2^-149 -/

/-- A bound of a segment: a rational or an infinity. -/
inductive Bound where
  | neg | pos
  | at (x : Frac)
  deriving DecidableEq, Repr, Inhabited

def Bound.le : Bound → Bound → Bool
  | .neg, _ => true
  | _, .pos => true
  | .pos, _ => false
  | _, .neg => false
  | .at x, .at y => x.le y
def Bound.max (x y : Bound) : Bound := if x.le y then y else x
def Bound.min (x y : Bound) : Bound := if x.le y then x else y

/-- A bound of R310, none for a NaN. -/
def boundOf (x : Nat) : Option Bound :=
  match Fmt.fp32.val x with
  | .nan => none
  | .inf sg => some (if sg then .neg else .pos)
  | .fin sg m e => some (.at ⟨scaled sg m e (-149), f32One.natAbs⟩)

/-- A vector in units of 2^-149. -/
abbrev V3 := Int × Int × Int
def V3.sub (a b : V3) : V3 := (a.1 - b.1, a.2.1 - b.2.1, a.2.2 - b.2.2)
def V3.cross (a b : V3) : V3 := (a.2.1 * b.2.2 - a.2.2 * b.2.1, a.2.2 * b.1 - a.1 * b.2.2, a.1 * b.2.1 - a.2.1 * b.1)
def V3.dot (a b : V3) : Int := a.1 * b.1 + a.2.1 * b.2.1 + a.2.2 * b.2.2

/-- A vector of three FP32 encodings, none unless each is finite. -/
def vec3 (x y z : Nat) : Option V3 :=
  match f32Int x, f32Int y, f32Int z with
  | some a, some b, some c => some (a, b, c)
  | _, _, _ => none

/-- A ray that may hit something: origin, nonzero direction, bounds (R315). -/
structure Ray where
  o : V3
  d : V3
  lo : Bound
  hi : Bound
  deriving DecidableEq, Repr

/-- The segment where a ray lies between two planes of an axis; an interval that is empty is never met. -/
def slab (o d lo hi : Int) (x : Bound × Bound) : Option (Bound × Bound) :=
  if hi < lo then none
  else if d = 0 then (if lo ≤ o ∧ o ≤ hi then some x else none)
  else
    let a := ratio (lo - o) d
    let b := ratio (hi - o) d
    let l := Bound.max x.1 (.at (a.min b))
    let h := Bound.min x.2 (.at (a.max b))
    if l.le h then some (l, h) else none

/-- A box meets the ray's closed segment (R315). -/
def boxMeets (r : Ray) (lo hi : V3) : Bool :=
  match slab r.o.1 r.d.1 lo.1 hi.1 (r.lo, r.hi) with
  | some x =>
    match slab r.o.2.1 r.d.2.1 lo.2.1 hi.2.1 x with
    | some x => (slab r.o.2.2 r.d.2.2 lo.2.2 hi.2.2 x).any fun x => x.1.le x.2 && x.1 != .pos && x.2 != .neg
    | none => false
  | none => false

/-- A hit: distance, barycentrics, instance and primitive. -/
structure Hit where
  t : Frac
  u : Frac
  v : Frac
  inst : Nat
  prim : Nat
  deriving DecidableEq, Repr, Inhabited

/-- The hit of a ray with a triangle, if it hits (R315): flags CULLF and CULLB. -/
def triHit (r : Ray) (cullf cullb : Bool) (v0 v1 v2 : V3) (inst prim : Nat) : Option Hit :=
  let e1 := v1.sub v0
  let e2 := v2.sub v0
  let face := (e1.cross e2).dot r.d
  if face = 0 ∨ (cullf ∧ face < 0) ∨ (cullb ∧ 0 < face) then none
  else
    let s := r.o.sub v0
    let p := r.d.cross e2
    let q := s.cross e1
    let den := e1.dot p
    let t := ratio (e2.dot q) den
    let u := ratio (s.dot p) den
    let v := ratio (r.d.dot q) den
    if 0 ≤ u.n ∧ 0 ≤ v.n ∧ u.n + v.n ≤ u.d ∧ r.lo.le (.at t) ∧ (Bound.at t).le r.hi then
      some { t := t, u := u, v := v, inst := inst, prim := prim }
    else none

/-- The ray of a query, none when it can hit nothing (R315). -/
def rayOf (o d : Option V3) (lo hi : Option Bound) : Option Ray :=
  match o, d, lo, hi with
  | some o, some d, some lo, some hi => if d = (0, 0, 0) ∨ !(lo.le hi) then none else some { o := o, d := d, lo := lo, hi := hi }
  | _, _, _, _ => none

/-! The structure (R312-R316) -/

/-- Word k of a block. -/
def blkWord (b k : Nat) : Nat := bits b (32 * k + 31) (32 * k)

/-- A header is well formed: its level and zero fields (R312, R316). -/
def headerLevel (b : Nat) : Option Nat := if blkWord b 0 ≤ 1 ∧ bits b 511 64 = 0 then some (blkWord b 0) else none

/-- A signed exponent byte. -/
def exponent (b k : Nat) : Int := toSigned 8 (bits b (96 + 8 * k + 7) (96 + 8 * k))
def childKind (b i : Nat) : Nat := bits b (160 + 8 * i + 7) (160 + 8 * i + 6)
def childCnt (b i : Nat) : Nat := bits b (160 + 8 * i + 5) (160 + 8 * i)
/-- Field c of child i's box (R313). -/
def childBox (b i c : Nat) : Nat := bits b (224 + 36 * i + 6 * c + 5) (224 + 36 * i + 6 * c)

/-- A node block is well formed, apart from the blocks it names (R316). -/
def nodeOk (b : Nat) : Bool :=
  (vec3 (blkWord b 0) (blkWord b 1) (blkWord b 2)).isSome && bits b 127 120 == 0
  && (List.range 8).all fun i =>
    let k := childKind b i
    k != 3 && (k == 2 || childCnt b i == 0) && (k != 0 || (List.range 6).all fun c => childBox b i c == 0)

/-- A plane of a child's box: origin + q × 2^exponent, in units of 2^-149. -/
def boxPlane (o : Int) (e : Int) (q : Nat) : Int := o + (q : Int) * 2 ^ (e + 149).toNat

/-- The box of a child (R313). -/
def childSpan (b i : Nat) : V3 × V3 :=
  let o := (vec3 (blkWord b 0) (blkWord b 1) (blkWord b 2)).getD (0, 0, 0)
  ((boxPlane o.1 (exponent b 0) (childBox b i 0), boxPlane o.2.1 (exponent b 1) (childBox b i 1), boxPlane o.2.2 (exponent b 2) (childBox b i 2)),
   (boxPlane o.1 (exponent b 0) (childBox b i 3 + 1), boxPlane o.2.1 (exponent b 1) (childBox b i 4 + 1),
    boxPlane o.2.2 (exponent b 2) (childBox b i 5 + 1)))

/-- Children of a node with the index of their first block: child, kind, index (R313). -/
def childBlocks (b : Nat) : Nat → Nat → List (Nat × Nat × Nat)
  | 0, _ => []
  | n + 1, at' =>
    let i := 7 - n
    let k := childKind b i
    (i, k, at') :: childBlocks b n (at' + (match k with | 1 => 1 | 2 => childCnt b i + 1 | _ => 0))

/-- A walk of a structure: the state with the reads made, the hits found, whether a malformed block was met, and the fault of the read that
ended the walk. -/
structure RayWalk where
  st : State
  hits : List Hit := []
  bad : Bool := false
  fault : Option (Cause × Nat) := none

/-- Reads block n of a structure of `count` blocks; a block beyond the count is malformed (R316). After a fault nothing more is read, and the
reads before it stay made (R354). -/
def readBlock (i : Issuer) (h count n : Nat) (x : RayWalk) : Out (Option Nat × RayWalk) :=
  if x.fault.isSome then .ok (none, x)
  else if count ≤ n then .ok (none, { x with bad := true })
  else match readMem x.st i ((h + 64 * n) % 2 ^ 64) 64 with
    | .ok r => .ok (some (ofBytes r.1), { x with st := r.2 })
    | .bad c v => .ok (none, { x with fault := some (c, v) })
    | .wait => .wait

/-- A leaf's blocks from one on, each given to `f`. -/
def leafBlocks (i : Issuer) (h count : Nat) (f : Nat → RayWalk → Out RayWalk) : Nat → Nat → RayWalk → Out RayWalk
  | 0, _, x => .ok x
  | n + 1, at', x =>
    (readBlock i h count at' x).bind fun r =>
      match r.1 with
      | some b => (f b r.2).bind (leafBlocks i h count f n (at' + 1))
      | none => leafBlocks i h count f n (at' + 1) r.2

/-- A node and what is below it; the first number is what is left of the depth of 64 (R313, R315, R316). Nodes alone count toward the depth,
and leaf blocks do not, which the spec does not say (DESIGN CHOICE, log 35). -/
def walkNode (i : Issuer) (h count : Nat) (ray : Ray) (f : Nat → RayWalk → Out RayWalk) : Nat → Nat → RayWalk → Out RayWalk
  | 0, _, x => .ok { x with bad := true }
  | n + 1, at', x =>
    (readBlock i h count at' x).bind fun r =>
      match r.1 with
      | none => .ok r.2
      | some b =>
        if nodeOk b then
          (childBlocks b 8 (blkWord b 4)).foldl (fun acc c => acc.bind fun x =>
            let box := childSpan b c.1
            if c.2.1 = 0 || !boxMeets ray box.1 box.2 then .ok x
            else if c.2.1 = 1 then walkNode i h count ray f n c.2.2 x
            else leafBlocks i h count f (childCnt b c.1 + 1) c.2.2 x) (.ok r.2)
        else .ok { r.2 with bad := true }

/-- A structure of one level from its header on: `want` is the level it must have, if any. -/
def walkTree (i : Issuer) (h : Nat) (ray : Ray) (want : Option Nat) (f : Nat → Nat → RayWalk → Out RayWalk) (x : RayWalk) : Out RayWalk :=
  (readBlock i h 1 0 x).bind fun r =>
    match r.1.bind fun b => (headerLevel b).map fun l => (l, blkWord b 1) with
    | some (l, count) =>
      if want.all (· == l) then walkNode i h count ray (f l) 64 1 r.2 else .ok { r.2 with bad := true }
    | none => .ok { r.2 with bad := true }

/-- A triangle block (R314). -/
def triangleLeaf (ray : Ray) (flags inst b : Nat) (x : RayWalk) : Out RayWalk :=
  if bits b 511 320 ≠ 0 then .ok { x with bad := true }
  else
    let v (k : Nat) := vec3 (blkWord b (3 * k)) (blkWord b (3 * k + 1)) (blkWord b (3 * k + 2))
    match v 0, v 1, v 2 with
    | some a, some p, some q => .ok { x with hits := x.hits ++ (triHit ray (bitAt flags 10) (bitAt flags 9) a p q inst (blkWord b 9)).toList }
    | _, _, _ => .ok x

/-- One component of an object ray, rounded once (R314): row r of M applied to v, and the translation where `w` is 1. -/
def objectPart (b r : Nat) (v : V3) (w : Int) : Option Int :=
  let m (k : Nat) := f32Int (blkWord b (4 * r + k))
  match m 0, m 1, m 2, m 3 with
  | some a, some p, some q, some t =>
    f32Int (Fmt.fp32.ofRat { n := a * v.1 + p * v.2.1 + q * v.2.2 + w * t * f32One, d := (f32One * f32One).natAbs })
  | some a, some p, some q, none =>
    if w = 0 then f32Int (Fmt.fp32.ofRat { n := a * v.1 + p * v.2.1 + q * v.2.2, d := (f32One * f32One).natAbs }) else none
  | _, _, _, _ => none

/-- The object ray of an instance (R314). -/
def objectRay (ray : Ray) (b : Nat) : Option Ray :=
  let p (v : V3) (w : Int) : Option V3 :=
    match objectPart b 0 v w, objectPart b 1 v w, objectPart b 2 v w with
    | some x, some y, some z => some (x, y, z)
    | _, _, _ => none
  rayOf (p ray.o 1) (p ray.d 0) (some ray.lo) (some ray.hi)

/-- An instance block (R314, R316). One whose BLAS is no multiple of 64 counts as malformed, which R316 does not list (DESIGN CHOICE,
log 35). -/
def instanceLeaf (i : Issuer) (ray : Ray) (flags b : Nat) (x : RayWalk) : Out RayWalk :=
  let blas := bits b 447 384
  if bits (blkWord b 15) 31 8 ≠ 0 ∨ blas % 64 ≠ 0 then .ok { x with bad := true }
  else if blkWord b 15 % 256 &&& flags % 256 = 0 then .ok x
  else match objectRay ray b with
    | none => .ok x
    | some r => walkTree i blas r (some 0) (fun _ => triangleLeaf r flags (blkWord b 14)) x

/-- A walk of the whole structure for a query (R315). -/
def walkQuery (i : Issuer) (h flags : Nat) (ray : Ray) (s : State) : Out RayWalk :=
  walkTree i h ray none (fun l b => if l = 0 then triangleLeaf ray flags 0 b else instanceLeaf i ray flags b) { st := s }

/-- The closest hit: least t, then lower INST, then lower PRIM (R315). -/
def closest (l : List Hit) : Option Hit :=
  l.foldl (fun acc x =>
    match acc with
    | some y =>
      if x.t.lt y.t || (x.t.le y.t && y.t.le x.t && (x.inst < y.inst || (x.inst == y.inst && x.prim < y.prim))) then some x else some y
    | none => some x) none

/-- A hit record from its words (R310). -/
def hitBytes (prim inst t u v : Nat) : List Byte := toBytes 4 prim ++ toBytes 4 inst ++ toBytes 4 t ++ toBytes 2 u ++ toBytes 2 v

/-- The record of a query's result (R315). -/
def hitRecord : Option Hit → List Byte
  | some x => hitBytes x.prim x.inst (Fmt.fp32.ofRat x.t) (Fmt.fp16.ofRat x.u) (Fmt.fp16.ofRat x.v)
  | none => hitBytes 0xFFFFFFFF 0xFFFFFFFF 0x7F800000 0 0
/-- The record that a malformed block may give (R316). -/
def badRecord : List Byte := hitBytes 0xFFFFFFFE 0xFFFFFFFF 0x7FC00000 0 0

/-- The hit record of a query, or the fault of its reads, and the state after the reads made; what the part chooses among allowed results is a
free value (R315, R316). -/
def rayResult (q : RayQ) (i : Issuer) (s : State) : Out (Except (Cause × Nat) (List Byte) × State) :=
  let w (k : Nat) : Nat := (q.slot.getD k 0).toNat
  match rayOf (vec3 (w 0) (w 1) (w 2)) (vec3 (w 4) (w 5) (w 6)) (boundOf (w 3)) (boundOf (w 7)) with
  | none => .ok (.ok (hitRecord none), s)
  | some ray =>
    (walkQuery i q.hdr (w 15) ray s).bind fun x =>
      match x.fault with
      | some f => .ok (.error f, x.st)
      | none =>
      let any := bitAt (w 15) 8
      let s := if any || x.bad then useFree x.st else x.st
      let v := (freeValue x.st).toNat
      if x.bad && v % 2 == 1 then .ok (.ok badRecord, s)
      else .ok (.ok (hitRecord (if any then x.hits[v / 2 % max 1 x.hits.length]? else closest x.hits)), s)

/-! The ray unit (R317, R336) -/

def RayQ.issuer (q : RayQ) (s : State) : Issuer :=
  { part := q.part, lvl := q.lvl, sec := q.sec, die := cidDie q.eid, cid := none, wg := liveWg s q.wg q.lid q.part, lid := q.lid, eng := true,
    grp := some (cidDie q.eid, q.eid % 16), src := some q.cid }

/-- A query is gone; its ray unit may take up its world now (R327). -/
def dropRay (s : State) (id : Nat) : State :=
  let s' := { s with rays := s.rays.filter (·.id != id) }
  match s.rays.find? (·.id == id) with
  | some q => blocksAdopt s' (cidDie q.eid)
  | none => s'

/-- The hit record reaches its slot (R317); that of a workgroup that has ended is discarded and counted at the issuing core (R337, R377). -/
def putHit (s : State) (q : RayQ) (i : Issuer) (l : List Byte) : State :=
  if i.wg.isSome then countItem (spoilSlots (spadWrite s q.wg (q.off + 0x20) l) q.wg (q.off + 0x20) l.length) q.wg else countStale s q.cid 1

/-- A fault of a query's read or post suspends it (R317, R336). -/
def rayFault (s : State) (q : RayQ) (c : Cause) (v : Nat) : State :=
  let s := { s with rays := s.rays.map fun x => if x.id == q.id then { x with held := true } else x }
  raiseEngine s q.eid q.part q.lvl q.sec q.lid q.wid 2 q.id c v

/-- RAY_QUERY_COMPLETE (R317): the hit record, after the items that still queue for the workgroup (R376), then the post. -/
def execRayQueryComplete (q : Nat) (s : State) : Result :=
  match s.rays.find? fun x => x.id == q && !x.held with
  | some x =>
    if accepts s x.eid && cgRuns s (cidDie x.eid) (x.eid % 16) && !(s.items.any fun y => y.wg == x.wg) then
      let i := x.issuer s
      match rayResult x i s with
      | .ok (.error f, s1) => .next (rayFault s1 x f.1 f.2)
      | .ok (.ok l, s1) =>
        let t := putHit s1 x i l
        let ca := (x.slot.getD 12 0).toNat + 2 ^ 32 * (x.slot.getD 13 0).toNat
        if ca = 0 then .next (dropRay t x.id)
        else match postAdd t i (some x.cid) ca (x.slot.getD 14 0).toNat with
          | .ok u => .next (dropRay u x.id)
          | .bad c v => .next (rayFault t x c v)
          | .wait => off s
      | .bad c v => .next (rayFault s x c v)
      | .wait => off s
    else off s
  | none => off s

end Sys2Proof.Machine
end

