-- ==== Sys2Proof/Machine/Saves.lean ====
section
/-! DEFINITION. Saves, restores and migrations (R371-R378), forwarding (R376, R377), the placement of workgroups beside them
(R58, R368) and time-slicing (R370). -/

namespace Sys2Proof.Machine

open Sys2Proof

/-! Save areas (R371-R374) -/

/-- SAVESZ of a launch (R372). -/
def saveSize (r : BitVec 1024) : Nat :=
  let n := 131072 + recSpad r + recTmax r * 1152 + (if recSentry r = 0 then 0 else 196608)
  (n + 4095) / 4096 * 4096

/-- Save slots of a launch that are held (R371). -/
def heldSlots (s : State) (p l : Nat) : List Nat :=
  s.wgs.filterMap fun x =>
    if x.2.part == p && x.2.lid == l then
      match x.2.place, x.2.saving with
      | .saved a, _ => a.slot
      | .resident _, some r => r.area.slot
      | _, _ => none
    else none

/-- The lowest free save slot of a launch (R371): `auto` for the slicer and a shrink, which skip a launch whose area failed its
check (R374). -/
def freeSaveSlot (s : State) (l : Launch) (auto : Bool) : Option Nat :=
  if auto && timer s < l.noSlot then none
  else
    let used := heldSlots s l.part l.lid
    ((List.range (used.length + 1)).find? fun k => !used.contains k).filter (· < recSaveN l.record)

/-- The address of a save slot (R371). -/
def slotVa (l : Launch) (k : Nat) : Nat := recSaveBase l.record + k * saveSize l.record

/-- Why the part of a save area in one page fails its check, if it does (R374): a write of all of it by the partition, on a GLOBAL RC
page in HBM with R and W. What a write would wait for is no failure. -/
def savePageFail (s : State) (i : Issuer) (x : Nat × Nat) : Option Cause :=
  match resolve { s with cohMsgs := [], spares := [] } i { va := x.1, size := 1, wr := true, eng := true } with
  | .bad c _ => some c
  | .wait => none
  | .ok t =>
    let hbm := match area t.pa with | .hbm => true | _ => false
    if !t.isPhys || !hbm || pteOrd t.pte != 1 || pteSlm t.pte != 0 then some .xlateAttr
    else if !bitAt t.pte 1 then some .xlatePerm
    else if s.frozen.any fun l => decide (t.pa / 128 ≤ l) && decide (l * 128 < t.pa + x.2) then some .frozen
    else none

/-- The check of a save area (R374): the cause of the first page that fails and its first byte. -/
def checkSaveArea (s : State) (l : Launch) (va : Nat) : Option (Cause × Nat) :=
  let i := launchIssuer l.part l.lvl l.sec l.record
  (pageParts va (saveSize l.record)).findSome? fun x => (savePageFail s i x).map fun c => (c, pageStart s i x.1)

/-- The pages of a range of a partition are used for reading or writing (R353, R354): a save area's, which the Hearth reads and writes by
the translations of its own walkers, as R374 names no other die (DESIGN CHOICE, log 39). -/
def usePages (s : State) (p va n : Nat) (wr : Bool) : State :=
  (pageParts va n).foldl (fun s x =>
    match findLeaf s (walkDie 0) p x.1 with
    | some t => useLeaf s t wr
    | none => s) s

/-- The next quantum boundary of a partition (R370). -/
def quantumTicks (s : State) (p : Nat) : Nat := 20000 * pregVal s p 0x200
def nextBoundary (s : State) (p : Nat) : Nat := (timer s / quantumTicks s p + 1) * quantumTicks s p

/-- Forwarding entries that a core holds (R376). -/
def fwdCount (s : State) (cid : Nat) : Nat := (s.fwds.filter fun f => f.cid == cid).length

/-- The core claims a forwarding entry for a save while fewer than 16 are held (R374, R376). -/
def claimFwd (s : State) (w : Nat) : Option State :=
  match wg? s w with
  | some g =>
    match g.cid?, g.saving with
    | some cid, some r =>
      if r.claimed || 16 ≤ fwdCount s cid then none
      else some (setWg { s with fwds := s.fwds ++ [{ cid := cid, wgs := [w], ops := [], homes := [], dies := [cidDie cid] }] } w { g with saving := some { r with claimed := true } })
    | _, _ => none
  | none => none

/-- INFO of the entry that a failed save area posts (R332): the status of a form, REFUSED. -/
def SaveGoal.info (x : SaveGoal) : Word64 :=
  match x with
  | .form | .migrate _ => 4
  | .slice | .depart => 0

/-- Starts a save into an area (R374): false and a kind-3 entry when the area fails its check. -/
def startSave (s : State) (w va : Nat) (slot : Option Nat) (goal : SaveGoal) : State × Bool :=
  match wg? s w with
  | some g =>
    match launch? s g.part g.lid with
    | some l =>
      match checkSaveArea s l va with
      | some (c, f) =>
        let s := postKind3 s g.part g.lvl g.sec c g.lid g.wid f goal.info
        (if goal = .slice ∨ goal = .depart then updLaunch s g.part g.lid fun x => { x with noSlot := nextBoundary s g.part } else s, false)
      | none =>
        let s := setWg (usePages s g.part va (saveSize l.record) true) w { g with saving := some { area := { va := va, slot := slot }, claimed := false, goal := goal } }
        ((claimFwd s w).getD s, true)
    | none => (s, false)
  | none => (s, false)

/-! What a save takes along (R260, R279, R374) -/

/-- The stalled SENDs of a workgroup complete into its channels (R260): all of them, also where they leave more messages in a channel than
the 96 that R260 gives as the most held (DESIGN CHOICE, log 51). -/
def completeSends (s : State) (w : Nat) : State :=
  match wg? s w with
  | some g => (SMap.keys g.chans).foldl (fun s ch =>
      match (wg? s w).bind fun g => g.chans.find ch with
      | some c =>
        let s := setChan s w ch { c with sends := [] }
        c.sends.foldl (fun s x =>
          match (wg? s w).bind fun g => g.chans.find ch with
          | some c => advanceA (deliver s w ch c x.2) x.1
          | none => s) s
      | none => s) s
  | none => s

/-- Threads of a workgroup that a batch in flight carries. -/
def inFlight (g : Workgroup) : Bool :=
  g.threads.any fun t => match t.2.st with | .running _ => true | .stalled b => b != noBatch | _ => false

/-- The unperformed matrix operations of a context that no fault holds, in issue order (R277, R279). -/
def matUndone (s : State) (cid w : Nat) : List MatOp :=
  ((coreAt s cid).mq.filter fun o => o.wg == w) ++ (if matSuspended s w then [] else (ctxOf s w).held)

/-- The engine has performed what precedes the first multiply or load of a context's queue (R279). -/
def matDrained (s : State) (cid w : Nat) : Bool := (matUndone s cid w).head?.all fun o => o.fn == 1 || o.fn == 2 || o.fn == 4

/-- The slots of a workgroup leave the frontier and the spill records; what becomes empty is freed (R374). -/
def pullSlots (s : State) (cid : Nat) (rows : List Nat) : State :=
  let keep (e : Entry) : Entry := { e with wset := e.wset.filter fun x => !rows.contains (x / 32) }
  updCore s cid fun c =>
    { c with fr := (c.fr.map keep).filter fun e => !e.wset.isEmpty,
             spilled := (c.spilled.map fun r => { r with ent := keep r.ent }).filter fun r => !r.ent.wset.isEmpty }

/-- A virtual address lies in the scratchpad of a workgroup, as a workgroup `w'` of its launch or itself sees it (R113, R114). -/
def aimsAt (s : State) (w w' : Nat) (va : Nat) : Bool :=
  canonical va && (match rangeOf va with
    | .self _ => w == w'
    | .peer x _ =>
      match wg? s w, wg? s w' with
      | some g, some g' => g.part == g'.part && g.lid == g'.lid && g.wid == g'.wid / 2 ^ 20 * 2 ^ 20 + x
      | _, _ => false
    | _ => false)

/-- Engine operations with a destination or a record in a workgroup's scratchpad (R376). -/
def aimedOps (s : State) (w : Nat) : List Nat :=
  (s.copies.filter fun o => aimsAt s w o.wg (match o.tensor with | some (_, y) => tdVa y (tdBase y) | none => o.dst)).map (·.id)
  ++ (s.rays.filter fun q => q.wg == w).map (·.id)

/-- Homes that hold a subscription of a workgroup (R376). -/
def subHomes (s : State) (w : Nat) : List Nat := ((s.subs.filter fun x => x.wg == w).map (·.home)).foldl insertAsc []

/-- Held fault records of a workgroup (R373). -/
def heldCount (s : State) (w : Nat) : Nat :=
  ((s.cores.map fun c =>
    let n (m : SMap FRec) : Nat := (m.filter fun x => x.2.held.any fun h => h.wg == w).length
    n c.2.vrec + n c.2.srec).foldl (· + ·) 0)

/-- The header of a save area (R373). -/
def saveHeader (s : State) (g : Workgroup) (cid held : Nat) : List Byte :=
  toBytes 4 (1 + 256 * b2n (!g.pbRel.isEmpty)) ++ toBytes 4 g.lid ++ toBytes 4 g.wid ++ toBytes 2 cid ++ toBytes 2 held ++ toBytes 8 (timer s) ++ toBytes 4 0

/-- The agents of a workgroup have no access to a peer outstanding and no write whose pushes are under way, so that the save's release of
each of them takes effect (R145). -/
def saveReady (s : State) (w : Nat) : Bool :=
  !pushesOut s && !(s.peerOut.any fun x => match x.ag with | some (.vthread v _) | some (.scribe v) => v == w | _ => false)

/-- What the device writes into a range of memory without stating its contents: no cache keeps a copy of it, every block is coded anew and
its poison is gone, and the subscriptions of the range count the write (R120, R136, R245). -/
def coverPhys (s : State) (pa n : Nat) : State :=
  let apart (k : Nat) : Bool := !(decide (pa / 128 ≤ k) && decide (k * 128 < pa + n))
  let s := endCopies s pa n
  noteWrite { s with bdi := s.bdi.filter (apart ·.1), lines := s.lines.filter (apart ·.1), hostDir := s.hostDir.filter (apart ·.1), frozen := s.frozen.filter apart
                     l2 := s.l2.map fun x => (x.1, x.2.filter (apart ·.line)) } pa n

/-- The same over a virtual range of a partition, as the Hearth translates it. -/
def coverArea (s : State) (p va n : Nat) : State :=
  (pageParts va n).foldl (fun s x =>
    match findLeaf s (walkDie 0) p x.1 with
    | some t => coverPhys s (ptePa t.lvl t.pte.toNat (va49 x.1)) x.2
    | none => s) s

/-- The fault of reading a save area: its first page with a line that is poisoned or frozen, and the virtual address of that line, or of the
page where its translation is in a poisoned block. -/
def areaFault (s : State) (p va n : Nat) : Option (Cause × Nat) :=
  if s.frozen.isEmpty && s.bdi.isEmpty then none
  else (pageParts va n).findSome? fun x => if walkBad s (walkDie 0) p x.1 then some (.poison, x.1) else (findLeaf s (walkDie 0) p x.1).bind fun t =>
    let pa := ptePa t.lvl t.pte.toNat (va49 x.1)
    (badLine s pa x.2).map fun y => (y.1, x.1 + (y.2 - pa))

/-- The size of a saved workgroup's area. -/
def areaSize (s : State) (g : Workgroup) : Nat := ((launch? s g.part g.lid).map fun l => saveSize l.record).getD 131072

/-- The image is written: the workgroup is saved, its reservation returned, its core's caches released (R374, R145); the dispatcher of the
core's die is taken to cache the residency (log 53). -/
def writeImage (s : State) (w : Nat) (g : Workgroup) (cid : Nat) (a : SaveArea) : State :=
  let s := pullSlots (releaseCore (loadSet s cid w) cid 2) cid g.rows
  let ops := matUndone s cid w
  let mine := matSuspended s w
  let hd := saveHeader s g cid (heldCount s w)
  let s := updCore s cid fun c => (c.setQueue (c.mq.filter fun o => o.wg != w) (coreRaw s cid)).without w
  let keep (c : Ctx) : Ctx := { c with saved := ops ++ c.saved, held := if mine then c.held else [] }
  let s := setWg s w { g with place := .saved a, saving := none, rows := [], since := timer s, lastCid := cid, fwd := 0,
                              ctx := (wg? s w).bind fun g => g.ctx.map keep }
  let s := refillQueue (freeContext s cid g.part g.lid) cid
  let size := areaSize s g
  let s := coverArea (usePages (unspoil s (.image w)) g.part a.va size true) g.part a.va size
  let s := markLaid s 0 g.part (a.va + 4096) (size - 4096) (.image w) true
  let s := headerPut (markLaid s 0 g.part a.va 4096 (.image w) false) g.part a 0 hd
  let fill (f : Fwd) : Fwd := if f.cid == cid && f.wgs.contains w && f.ops.isEmpty && f.homes.isEmpty then { f with ops := aimedOps s w, homes := subHomes s w } else f
  adoptIdle { s with fwds := s.fwds.map fill } (cidDie cid) (cidCg cid)

/-! Restores (R375) -/

/-- The die kinds a workgroup may be restored on (R279, R362). -/
def restoreKinds (l : Launch) (g : Workgroup) : Nat :=
  let dk := recDk l.record
  if g.ctx.any (·.used) then (if bitAt dk 1 then 2 else 0) else dk

/-- Words of a lane bank that a workgroup's threads hold above A (R71). -/
def extraWords (g : Workgroup) (lane : Nat) : Nat :=
  ((g.threads.filter fun t => t.1 % 32 == lane).map fun t => t.2.allot - g.a).foldl (· + ·) 0

/-- The numbers in use by a workgroup are free on a core: handles, pattern tables and channels (R77, R78, R340). -/
def numbersFree (s : State) (cid : Nat) (g : Workgroup) : Bool :=
  (residents s cid).all fun x =>
    !(g.tds.any fun t => t.2.live && (x.2.tds.find t.1).any (·.live))
    && !(g.pts.any fun t => (x.2.pts.find t.1).isSome)
    && !(g.chans.any fun t => (x.2.chans.find t.1).isSome)

/-- A core holds what a saved workgroup needs now (R375). -/
def restoreFits (s : State) (l : Launch) (g : Workgroup) (cid : Nat) : Bool :=
  coreFits s l cid
  && (List.range 32).all (fun b => decide (recA l.record * recRows l.record + extraWords g b ≤ bankFree s cid b))
  && numbersFree s cid g

/-- A core could ever hold it (R375). -/
def couldFit (s : State) (l : Launch) (g : Workgroup) : Bool :=
  let extra := listMax ((List.range 32).map (extraWords g))
  (stayingCores s l.part (restoreKinds l g)).any (fitsEmpty s l.record extra)

/-- The core that R58 chooses among some: the die with the most free rows on a core of those where one holds the workgroup,
then the core with the most free rows. -/
def chooseCore (s : State) (ok : Nat → Bool) (cs : List Nat) : Option Nat :=
  let f (d : Nat) := listMax ((cs.filter fun c => cidDie c == d).map fun c => (freeRows s c).length)
  let d := (List.range 13).foldl (fun acc d =>
    if (cs.filter fun c => cidDie c == d).any ok then
      match acc with
      | some e => if f e < f d then some d else some e
      | none => some d
    else acc) none
  d.bind fun d => mostRows s ok (cs.filter fun c => cidDie c == d)

/-- The core that a saved workgroup is restored onto when none is named (R58, R368). -/
def restoreTarget (s : State) (l : Launch) (g : Workgroup) : Option Nat :=
  if larderHold s l then none else chooseCore s (restoreFits s l g) (permittedCores s l.part (restoreKinds l g))

/-- A resume entry for a thread (R38), which takes part in selection from the next cycle on (R39); a full frontier spills an ordinary victim (R335): none without a spill record. -/
def placeResume (s : State) (cid p l slot roff : Nat) (u : Succ) : Option State :=
  match ctxNumber (coreAt s cid) p l with
  | some k =>
    (addEntry s cid { ctx := k, baddr := u.baddr, prio := u.prio, fill := u.fill, cold := u.cold, len := u.len, res := true, roff := roff,
                      wset := [slot], opn := false, since := coreRaw s cid }).map fun s => noteFresh s cid slot
  | none => none

/-- A pending thread of a restored workgroup goes into its entry; one whose entry failed enters its block anew (R29, R375). -/
def placePending (s : State) (cid w t : Nat) (th : Thread) (g : Workgroup) : Option State :=
  match th.resumeAt with
  | some (roff, _) => placeResume s cid g.part g.lid (g.slot t) roff th.succ
  | none => if th.succ.len = 0 then some (enterThread s cid w t (sextNat 49 64 th.succ.baddr)) else placeThread s w t th.succ

/-- The pending threads in tid order; none when the frontier cannot take them (R54). -/
def placeAll (cid w : Nat) (g : Workgroup) : List (Nat × Thread) → State → Option State
  | [], s => some s
  | (t, th) :: l, s => if th.st = .pending then (placePending s cid w t th g).bind (placeAll cid w g l) else placeAll cid w g l s

/-- The saved waits of a workgroup are evaluated by fresh reads (R242, R246, R260). -/
def rewait (s : State) (a : Agent) : State :=
  match waitOf s a with
  | some (.watch sp pa f b d) => (reread s a (.watch sp pa f b d)).getD s
  | some (.slot o _ _) => (match a with | .vthread w _ => slotWake s w o | _ => s)
  | some .place => wakeAgent s a
  | _ => s

/-- The held records of a restored workgroup name the new slots of its threads and their generations (R27). -/
def renameRecords (s : State) (w : Nat) : State :=
  let rec1 (r : FRec) : FRec := { r with held := r.held.map fun h => if h.wg = w then h.ofThread s else h }
  { s with cores := s.cores.map fun c => (c.1, { c.2 with vrec := c.2.vrec.map fun x => (x.1, rec1 x.2) }) }

/-- What follows once a restored workgroup is in place (R375): records, late faults, waits by fresh reads, barrier releases and matrix
operations. -/
def afterLoad (s : State) (cid w : Nat) (g : Workgroup) (ops : List MatOp) (rel : List Nat) : State :=
  let s := g.late.foldl takeFault (renameRecords s w)
  let s := (SMap.keys g.threads).foldl (fun s t => rewait s (.vthread w t)) s
  let s := rel.foldl (fun s pb => pbDeliver s w pb) (rewait s (.scribe w))
  let s := updCtx (if g.ctx.any (·.used) then placeSet s cid w else s) w fun c => { c with saved := ops }
  refillContext cid s w

/-- Free values by number. -/
def freeAt (s : State) (n : Nat) : Word64 := Config.freeValue (s.free + n)

/-- Free values for what a restored thread or context waits with: the compared value of a watch. -/
def Wait.loose (x : Wait) (v : Nat) : Wait :=
  match x with
  | .watch sp pa f _ d => .watch sp pa f v d
  | .slot o _ d => .slot o v d
  | w => w

/-- A number of k undefined-valued words of 64 bits. -/
def looseNum (s : State) (n : Nat) : Nat → Nat
  | 0 => 0
  | k + 1 => (freeAt s n).toNat + 2 ^ 64 * looseNum s (n + 1) k

/-- What a restore finds in an image that software has written into: the registers, windows, generators, accumulators with their flags,
instruction address and counts of a context, compared values, handles, pattern tables, messages and scratchpad bytes are undefined-valued,
each within what the machine lets it be (R16, R372, log 39). -/
def spoiltImage (s : State) (g : Workgroup) : Workgroup :=
  let thr (x : Nat × Thread) : Nat × Thread :=
    let e := 2 ^ 22 + 32 * x.1
    let wait (y : TState) : TState := match y with | .waiting q => .waiting (q.loose (freeAt s (e + 1)).toNat) | y => y
    (x.1, { x.2 with g := (freeAt s (512 * x.1)).setWidth 32, wbase := (freeAt s e).toNat % 32 * 8, st := wait x.2.st,
                     resumeAt := x.2.resumeAt.map fun y => (y.1, (List.range y.2.length).map fun k => (freeAt s (e + 2 + k)).setWidth 32),
                     v := (List.range x.2.allot).foldl (fun m k => m.putD 0 k ((freeAt s (512 * x.1 + 1 + k)).setWidth 32)) [] })
  let b := 512 * 4096
  let wrs (k : Nat) : Wrs :=
    let f := (freeAt s (2 ^ 22 + 2 ^ 18 + k)).toNat
    { v := (freeAt s (b + 4 * k) ++ freeAt s (b + 4 * k + 1)) ++ (freeAt s (b + 4 * k + 2) ++ freeAt s (b + 4 * k + 3)),
      inexact := bitAt f 0, overflow := bitAt f 1, nan := bitAt f 2, inf := bitAt f 3, isgn := bitAt f 4 }
  let c := b + 4 * 4096
  let q := 2 ^ 22 + 2 ^ 19
  let ctx (x : Ctx) : Ctx :=
    { x with pc := (freeAt s q).toNat / 4 * 4, ract := (freeAt s (q + 1)).toNat % 64 + 1, cact := (freeAt s (q + 2)).toNat % 64 + 1,
             mode := (match x.mode with | .waiting y => .waiting (y.loose (freeAt s (q + 3)).toNat) | y => y), s := (List.range 112).foldl (fun m k => m.putD 0 k (freeAt s (c + k))) [], g := (freeAt s (c + 112)).setWidth 32,
             acc := (List.range 4096).foldl (fun m k => m.putD {} k (wrs k)) [] }
  let td (x : Nat × Tensor) : Nat × Tensor :=
    let img := BitVec.ofNat 512 (looseNum s (q + 16 + 8 * x.1) 8)
    (x.1, if tdOk img then { x.2 with img := img } else x.2)
  let pt (x : Nat × BitVec 512) : Nat × BitVec 512 := (x.1, BitVec.ofNat 512 (looseNum s (q + 2 ^ 16 + 8 * x.1) 7))
  let ch (x : Nat × Chan) : Nat × Chan :=
    (x.1, { x.2 with fifo := (List.range x.2.fifo.length).map fun k => (freeAt s (q + 2 ^ 17 + 4096 * x.1 + k)).setWidth 32 })
  { g with threads := g.threads.map thr, ctx := g.ctx.map ctx, tds := g.tds.map td, pts := g.pts.map pt, chans := g.chans.map ch,
           spad := (List.range g.spadLen).foldl (fun m o => m.putD 0 o ((freeAt s (c + 113 + o)).setWidth 8)) [] }

/-- A saved workgroup as its image gives it back, and the state after. -/
def imageBack (s : State) (w : Nat) (g : Workgroup) : Workgroup × State :=
  if s.spoiled.contains (.image w) then (spoiltImage s g, unspoil { s with free := s.free + 2 ^ 24 } (.image w)) else (g, s)

/-- A saved workgroup is loaded onto a core that holds it (R375); none when the frontier cannot take its threads. The load takes no time
of its own, so STATE passes 2 within the step and no item comes meanwhile (DESIGN CHOICE, log 75). -/
def loadImage (s : State) (w : Nat) (g : Workgroup) (a : SaveArea) (cid : Nat) : Option State :=
  let (g, s) := imageBack s w g
  let s := takeContext (adoptPending s cid) cid g.part g.lid
  let rows := (freeRows s cid).take ((g.tmax + 31) / 32)
  let scid := (freeScids s cid).headD 0
  let ops := (g.ctx.map (·.saved)).getD []
  let rel := g.pbRel
  let late := g.late
  let s := headerPut (usePages s g.part a.va (areaSize s g) false) g.part a 0 [2]
  let move (c : Ctx) : Ctx := { c with scid := scid, saved := [] }
  let g : Workgroup := { g with place := .resident cid, rows := rows, since := timer s, lastCid := cid, pbRel := [], late := [],
                                sec := (cgroup s (cidDie cid) (cidCg cid)).sec, ctx := g.ctx.map move }
  let s := (SMap.keys g.threads).foldl (fun s t => bumpSlot s cid (g.slot t)) s
  let name (t : Nat × Thread) : Nat × Thread := (t.1, { t.2 with sgen := (coreAt s cid).slotGen.get 0 (g.slot t.1) })
  let g : Workgroup := { g with threads := g.threads.map name }
  let s := setWg s w g
  (placeAll cid w g g.threads s).map fun s => headerPut (afterLoad s cid w { g with late := late } ops rel) g.part a 0 [0]

/-- The core that a restore goes to, `tgt` or else the one that R58 chooses, if it holds the workgroup now. -/
def restoreCore (s : State) (l : Launch) (g : Workgroup) (tgt : Option Nat) : Option Nat :=
  match tgt with
  | some c => if !larderHold s l && (permittedCores s l.part (restoreKinds l g)).contains c && restoreFits s l g c then some c else none
  | none => restoreTarget s l g

/-- A restore waits for the crossing FIFOs of the die that it goes to (R416, R417). -/
def restoreWaits (s : State) (w : Nat) (tgt : Option Nat) : Bool :=
  (wg? s w).any fun g => g.cid?.isNone && (launch? s g.part g.lid).any fun l => couldFit s l g && (restoreCore s l g tgt).any fun c => crossHeld s (cidDie c)

/-- A RESTORE (R375): the status and the state; `tgt` names a core, or none for the one that R58 chooses. A poisoned or frozen line of the
area lets the image not be read: it stays saved, with NOCAP and a kind-3 entry of that cause, for which R375 has no line (DESIGN CHOICE,
log 97). -/
def restoreWg (s : State) (w : Nat) (tgt : Option Nat) : Nat × State :=
  match wg? s w with
  | some g =>
    match g.place, launch? s g.part g.lid with
    | .saved a, some l =>
      if !couldFit s l g then (6, postKind3 s g.part g.lvl g.sec .capacity g.lid g.wid 0 6)
      else
        match restoreCore s l g tgt with
        | some c =>
          match areaFault s g.part a.va (areaSize s g) with
          | some f => (5, postKind3 s g.part g.lvl g.sec f.1 g.lid g.wid f.2 5)
          | none => match loadImage s w g a c with
          | some s => (0, s)
          | none => (5, postKind3 s g.part g.lvl g.sec .spill g.lid g.wid 0 5)
        | none => (5, s)
    | _, _ => (1, s)
  | none => (1, s)

/-! Time-slicing (R370) -/

/-- A launch whose workgroups may wait (R370). -/
def waitingLaunch (l : Launch) : Bool := l.st == .ready || l.st == .draining

/-- A launch whose workgroups the slicer may save (R370, R379). -/
def slicedLaunch (l : Launch) : Bool := waitingLaunch l && !recFrag l.record && !recNoSlice l.record

/-- Orders of the slicer: the earlier tick, then the lower launch id, then the lower wid. -/
def waitsLonger (x y : Nat × Nat × Nat) : Bool :=
  if x.1 != y.1 then x.1 < y.1 else if x.2.1 != y.2.1 then x.2.1 < y.2.1 else x.2.2 < y.2.2

/-- The eligible workgroup with the longest residence whose launch has a free save slot (R370). -/
def sliceVictim (s : State) (p : Nat) : Option (Nat × Workgroup × Launch × Nat) :=
  let l := s.wgs.filterMap fun x =>
    match launch? s p x.2.lid with
    | some l =>
      if x.2.part == p && x.2.cid?.isSome && x.2.saving.isNone && slicedLaunch l
          && decide (x.2.since + quantumTicks s p ≤ timer s) then
        (freeSaveSlot s l true).map fun k => (x.1, x.2, l, k)
      else none
    | none => none
  l.foldl (fun acc x =>
    match acc with
    | some y => if waitsLonger (x.2.1.since, x.2.1.lid, x.2.1.wid) (y.2.1.since, y.2.1.lid, y.2.1.wid) then some x else some y
    | none => some x) none

/-- The lowest wid of a launch that has not been placed: one handed out or returned comes before those never handed out. -/
def unplacedWid (l : Launch) : Option Nat :=
  match (l.handed.map (·.2) ++ l.back).foldl insertAsc [] with
  | w :: _ => some w
  | [] => (pendingRun l 1).head?

/-- A candidate: a saved workgroup, or the launch of an unplaced one. -/
inductive Cand where
  | saved (w : Nat)
  | unplaced (lid : Nat)
  deriving DecidableEq, Repr

/-- The candidates of a partition that still wait, with what orders them (R370). -/
def candidates (s : State) (p : Nat) : List (Cand × Nat × Nat × Nat) :=
  let x := part s p
  (x.candWgs.filterMap fun w => (wg? s w).bind fun g => if g.cid?.isNone then some (.saved w, g.since, g.lid, g.wid) else none)
  ++ (x.candLids.filterMap fun y => (launch? s p y.1).bind fun l =>
      if y.2 = 0 then none else (unplacedWid l).map fun w => (.unplaced y.1, l.readyAt, y.1, w))

def firstCand (l : List (Cand × Nat × Nat × Nat)) : Option Cand :=
  (l.foldl (fun acc x =>
    match acc with
    | some y => if waitsLonger x.2 y.2 then some x else some y
    | none => some x) none).map (·.1)

/-- A save of the slicer is under way in a partition. -/
def slicing (s : State) (p : Nat) : Bool := s.wgs.any fun x => x.2.part == p && x.2.saving.any fun r => r.goal == .slice

/-- A GROW has taken words on a core in its present raw cycle: what is placed in that cycle was to come before it (R210), so that a
placement is left for the next one. -/
def grewNow (s : State) (cid : Nat) : Bool := (coreAt s cid).growRaw.any fun r => r == coreRaw s cid
def growing (s : State) : Bool := s.cores.any fun c => grewNow s c.1

/-- The slicer starts its next swap (R370): the first number bounds the launches whose save area fails. -/
def sliceNext : Nat → State → Nat → State
  | 0, s, _ => s
  | n + 1, s, p =>
    if slicing s p || (part s p).half || (candidates s p).isEmpty then s
    else match sliceVictim s p with
      | some (w, _, l, k) =>
        match startSave s w (slotVa l k) (some k) .slice with
        | (s, true) => setPart s p { part s p with victim := some w }
        | (s, false) => sliceNext n s p
      | none => s

/-- The cores that an unplaced workgroup of a launch may be placed on (R291, R379, R380). -/
def coresFor (s : State) (l : Launch) (w : Nat) : List Nat :=
  let cs := permittedCores s l.part (recDk l.record)
  if recFrag l.record then cs.filter fun c => l.cores.getD w 0 == c
  else if recBsize l.record = 0 then cs
  else match batchOf s l.part l.lid w with
    | some b => cs.filter fun c => cidDie c == b.die
    | none => cs.filter fun c => dieOpen s l (cidDie c) w

/-- The next unplaced workgroup of a launch and the core that R58 gives it; none when it fits nowhere. -/
def sliceCore (s : State) (l : Launch) : Option (Nat × Nat) :=
  (unplacedWid l).bind fun w => if larderHold s l then none else (chooseCore s (coreFits s l) (coresFor s l w)).map fun c => (w, c)

/-- An unplaced workgroup of a launch is placed by the slicer as R58 has it; none when it fits nowhere. -/
def slicePlace (s : State) (l : Launch) : Option State :=
  (sliceCore s l).map fun x =>
    let s := assignBatch s l (cidDie x.2) x.1
    let s := updLaunch s l.part l.lid fun y => { y with back := y.back.filter (· != x.1), next := Max.max y.next (x.1 + 1) }
    startWorkgroup s l x.1 x.2

/-- A candidate's place has to wait: for the next raw cycle after a GROW (R210), or for the crossing FIFOs of its die (R416, R417). -/
def candWaits (s : State) (p : Nat) (c : Cand) : Bool :=
  growing s || (match c with
    | .saved w => restoreWaits s w none
    | .unplaced l => ((launch? s p l).bind (sliceCore s)).any fun x => crossHeld s (cidDie x.2))

def dropCand (s : State) (p : Nat) (c : Cand) : State :=
  let x := part s p
  match c with
  | .saved w => setPart s p { x with candWgs := x.candWgs.filter (· != w) }
  | .unplaced l => setPart s p { x with candLids := x.candLids.map fun y => if y.1 == l then (y.1, y.2 - 1) else y }

/-- Step 2 of a swap and the next swap (R370): a candidate that fits nowhere stops the slicer until the next boundary. -/
def sliceSwap (s : State) (p : Nat) : State :=
  let s := setPart s p { part s p with victim := none, half := false }
  match firstCand (candidates s p) with
  | none => s
  | some c =>
    if candWaits s p c then setPart s p { part s p with half := true }
    else
    let s := dropCand s p c
    let r : Option State := match c with
      | .saved w => let r := restoreWg s w none; if r.1 = 0 then some r.2 else none
      | .unplaced l => (launch? s p l).bind (slicePlace s)
    match r with
    | some s => sliceNext (s.wgs.length + 1) s p
    | none =>
      let s := match c with | .saved w => (restoreWg s w none).2 | .unplaced _ => s
      setPart s p { part s p with candWgs := [], candLids := [] }

/-- The second half of a swap is outstanding (R370): its placement, also where the workgroup that it was saving has ended meanwhile. -/
def swapOpen (s : State) (p : Nat) : Bool :=
  (part s p).half || (part s p).victim.any fun w => !((wg? s w).any fun g => g.saving.any fun r => r.goal == .slice)

/-- QUANTUM_BOUNDARY (R370): at the tick of a boundary the slicer takes its candidates and starts its swaps; between boundaries it goes on
with a swap whose placement is outstanding. -/
def execQuantumBoundary (p : Nat) (s : State) : Result :=
  if p < 64 ∧ swapOpen s p ∧ !((firstCand (candidates s p)).any (candWaits s p)) then .next (sliceSwap s p)
  else if p < 64 ∧ timer s % quantumTicks s p = 0 ∧ timer s ≠ (part s p).bnd then
    let ws := (s.wgs.filter fun x => x.2.part == p && x.2.cid?.isNone && (launch? s p x.2.lid).any waitingLaunch).map (·.1)
    let ls := (s.launches.filter fun l => l.part == p && l.st == .ready).map fun l => (l.lid, recW l.record - l.placed)
    let s := setPart s p { part s p with bnd := timer s, candWgs := ws, candLids := ls }
    .next (sliceNext (s.wgs.length + 1) s p)
  else off s

/-! The acts of saving and restoring -/

/-- What follows a save (R370, R378, R382): the form's status, the slicer's other half, or the move of a shrink. -/
def afterSave (s : State) (w : Nat) (g : Workgroup) (goal : SaveGoal) : State :=
  match goal with
  | .form => (saveForms s w).foldl (fun s f => finishForm s f 0) s
  | .migrate t =>
    let r := restoreWg s w (if t = 0xFFFF then none else some t)
    (saveForms r.2 w).foldl (fun s f => finishForm s f r.1) r.2
  | .slice => sliceSwap s g.part
  | .depart => (restoreWg s w none).2

/-- What follows a save waits: for the next raw cycle after a GROW (R210), or for the crossing FIFOs of the die that the workgroup moves to
(R416, R417). -/
def moveWaits (s t : State) (w : Nat) (goal : SaveGoal) : Bool :=
  match goal with
  | .form => false
  | .migrate n => growing s || restoreWaits t w (if n = 0xFFFF then none else some n)
  | .slice => growing s
  | .depart => growing s || restoreWaits t w none

/-- A workgroup of a departing core group that a shrink moves next (R382): in name order on its core, one whose launch has a free
save slot. -/
def departSlot (s : State) (w : Nat) : Option (Launch × Nat) :=
  match wg? s w with
  | some g =>
    match g.cid? with
    | some cid =>
      if isDeparting s g.part (cidDie cid) (cidCg cid) && g.saving.isNone && !g.frag then
        (launch? s g.part g.lid).bind fun l => (freeSaveSlot s l true).map fun k => (l, k)
      else none
    | none => none
  | none => none

/-- WORKGROUP_SAVE (R374): the next part of a save: a shrink begins it, the core claims its forwarding entry, stalled SENDs
complete, and once nothing is in flight the image is written. A clock-gated core group pauses (R383). -/
def execWorkgroupSave (wg : Nat) (s : State) : Result :=
  match wg? s wg with
  | some g =>
    match g.cid?, g.saving with
    | some cid, some r =>
      if !coreRuns s cid then off s
      else if !r.claimed then (match claimFwd s wg with | some s => .next s | none => off s)
      else if g.chans.any fun c => !c.2.sends.isEmpty then .next (completeSends s wg)
      else if inFlight g || !matDrained s cid wg || !saveReady s wg then off s
      else
        let t := writeImage s wg g cid r.area
        if moveWaits s t wg r.goal then off s else .next (afterSave t wg g r.goal)
    | some cid, none =>
      match departSlot s wg with
      | some (l, k) =>
        if !coreRuns s cid || (residents s cid).any fun x => x.1 < wg && (departSlot s x.1).isSome then off s
        else .next (startSave s wg (slotVa l k) (some k) .depart).1
      | none => off s
    | none, _ => off s
  | none => off s

/-- Saved workgroups of a partition in save slots, with what orders them (R368); one whose image cannot be read is passed over (log 97). -/
def slotWaiters (s : State) (p : Nat) : List (Nat × Workgroup) :=
  s.wgs.filter fun x => x.2.part == p && (match x.2.place with
    | .saved a => a.slot.isSome && (areaFault s p a.va (areaSize s x.2)).isNone
    | .resident _ => false)

/-- A saved workgroup in a save slot could be restored onto a core now (R368). -/
def slotFits (s : State) (cid : Nat) (x : Nat × Workgroup) : Bool :=
  match launch? s x.2.part x.2.lid with
  | some l => !larderHold s l && (permittedCores s x.2.part (restoreKinds l x.2)).contains cid && restoreFits s l x.2 cid
  | none => false

/-- WORKGROUP_RESTORE (R368, R375): the saved workgroup that has waited longest for the room of a core. -/
def execWorkgroupRestore (wg cid : Nat) (s : State) : Result :=
  match (slotWaiters s ((wg? s wg).elim 64 (·.part))).find? fun x => x.1 == wg with
  | some x =>
    match launch? s x.2.part x.2.lid with
    | some l =>
      if growing s = false ∧ crossHeld s (cidDie cid) = false ∧ restoreTarget s l x.2 = some cid
          ∧ !((slotWaiters s x.2.part).any fun y => waitsLonger (y.2.since, y.2.lid, y.2.wid) (x.2.since, x.2.lid, x.2.wid) && slotFits s cid y) then
        .next (restoreWg s wg (some cid)).2
      else off s
    | none => off s
  | none => off s

/-- WORKGROUP_PLACE (R29, R58, R59, R368): the first workgroup of the run handed to a die is placed on a core whose room no saved workgroup fits, or
goes back to the global dispatcher. -/
def execWorkgroupPlace (p lid wid : Nat) (s : State) : Result :=
  match launch? s p lid with
  | some l =>
    match l.handed.find? fun x => x.2 == wid with
    | some (d, _) =>
      if larderHold s l || crossHeld s d || !(l.handed.head?.any fun x => x.2 == wid) then off s
      else match placeTarget s l d wid with
        | some c =>
          if (slotWaiters s p).any (slotFits s c) || grewNow s c then off s
          else .next (startWorkgroup s l wid c)
        | none => .next (updLaunch s p lid fun x => { x with handed := x.handed.filter fun y => y.2 != wid, back := insertAsc x.back wid })
    | none => off s
  | none => off s

/-! Forwarding (R376, R377) -/

/-- FORWARDED_ITEM (R376, R377): the oldest item of a core goes to its workgroup's current place, once the crossing FIFOs let it (R416). -/
def execForwardedItem (cid : Nat) (s : State) : Result :=
  match s.items.find? fun x => x.cid == cid with
  | some x =>
    if !arrives s (itemMsg s x) then off s
    else
    let s := { s with items := s.items.erase x }
    match x.kind with
    | .push sub => .next (applyPush s sub)
    | .release pb => .next (pbDeliver s x.wg pb)
  | none => off s

/-- FORWARDING_DRAIN_ACK (R376): an operation that has completed, a home with no push under way, or a die's dispatcher sends no more to
the core; an entry without a source and without an item retires. -/
def execForwardingDrainAck (cid : Nat) (s : State) : Result :=
  let busy (w : Nat) : Bool := s.wgs.any fun x => x.1 == w && x.2.saving.isSome
  let idleOp (n : Nat) : Bool := !(s.copies.any fun o => o.id == n) && !(s.rays.any fun q => q.id == n)
  let idleHome (f : Fwd) (h : Nat) : Bool := !(s.subs.any fun x => x.home == h && f.wgs.contains x.wg && x.fwd)
  let step (f : Fwd) : Option (Option Fwd) :=
    if f.cid != cid || f.wgs.any busy then none
    else
      let ops := f.ops.filter fun n => !idleOp n
      let homes := match f.homes.find? (idleHome f) with
        | some h => if ops = f.ops then f.homes.filter (· != h) else f.homes
        | none => f.homes
      let dies := if ops = f.ops ∧ homes = f.homes then f.dies.drop 1 else f.dies
      let items := s.items.any fun x => x.cid == cid && f.wgs.contains x.wg
      if ops.isEmpty && homes.isEmpty && dies.isEmpty && !items then some none
      else if ops = f.ops ∧ homes = f.homes ∧ dies = f.dies then none
      else some (some { f with ops := ops, homes := homes, dies := dies })
  let rec go : List Fwd → Option (List Fwd)
    | [] => none
    | f :: l =>
      match step f with
      | some y => some (y.toList ++ l)
      | none => (go l).map (f :: ·)
  match go s.fwds with
  | some l => .next { s with fwds := l }
  | none => off s

end Sys2Proof.Machine
end

