-- ==== Sys2Proof/Machine/Tables.lean ====
section
/-! DEFINITION. Table updates (R346-R361): PTUPD, the commands of the table-update engine, accessed and dirty reports, walks and
shootdowns. -/

namespace Sys2Proof.Machine

open Sys2Proof

/-! The command image (R355) -/

abbrev Img := BitVec 512
def Img.op (x : Img) : Nat := bits x.toNat 7 0
def Img.sd (x : Img) : Bool := bitAt x.toNat 8
def Img.keepg (x : Img) : Bool := bitAt x.toNat 9
def Img.lvl (x : Img) : Nat := bits x.toNat 11 10
def Img.count (x : Img) : Nat := bits x.toNat 63 32
def Img.va (x : Img) : Nat := bits x.toNat 127 64
def Img.val (x : Img) : Nat := bits x.toNat 191 128
def Img.caddr (x : Img) : Nat := bits x.toNat 255 192
def Img.inc (x : Img) : Nat := bits x.toNat 287 256
def Img.raddr (x : Img) : Nat := bits x.toNat 383 320
/-- RIDX and number of the pool that POOL sets. -/
def Img.ridx (x : Img) : Nat := bits x.val 9 0
def Img.pool (x : Img) : Nat := bits x.val 22 16

/-- Entries of a table of a level (R346). -/
def tableEntries (lvl : Nat) : Nat := if lvl = 1 then 128 else 8192

/-- Entry i of a FILL (R356). -/
def fillEntry (lvl val i : Nat) : Nat :=
  if bitAt val 0 then setBits val 51 16 ((bits val 51 16 + i * (ptCover lvl / 65536)) % 2 ^ 36) else val

/-- The image of a queued command. -/
def PtCmd.im (c : PtCmd) : Img := c.img

/-! The checks at issue (R357) -/

/-- The places of the fields are those of the operation. -/
def fieldsOk (x : Img) : Bool :=
  bits x.toNat 31 12 == 0 && bits x.toNat 319 288 == 0 && bits x.toNat 511 384 == 0
  && decide (x.op ≤ 5)
  && (if x.op ≤ 2 then x.lvl != 0 else x.lvl == 0)
  && (!x.sd || decide (x.op ≤ 1)) && (!x.keepg || x.op == 3)
  && (if x.op = 1 then x.count != 0 else if x.op = 5 then decide (1 ≤ x.count ∧ x.count ≤ 1024) else x.count == 0)

/-- Two ranges overlap. -/
def overlaps (a n b m : Nat) : Bool := decide (a < b + m) && decide (b < a + n)

/-- A range overlaps a pool other than one of them. -/
def overlapsPool (s : State) (skip : Option Nat) (a n : Nat) : Bool :=
  s.pools.any fun x => some x.1 != skip && overlaps a n x.2.base (x.2.count * 65536)

/-- A valid entry obeys R346 and R348 and names what it may. -/
def entryOk (s : State) (p lvl e : Nat) : Bool :=
  if pteLeaf e then
    !bitAt e 63 && lvl != 1 && (lvl != 2 || bits e 28 16 == 0) && pteOrd e != 3 && pteSlm e != 3
    && !overlapsPool s none (bits e 51 16 * 65536) (ptCover lvl)
  else
    let q := pool s p
    let a := bits e 51 16 * 65536
    lvl != 3 && e == maskBits e [(51, 16), (0, 0)] && decide (q.base + 65536 ≤ a) && decide (a < q.base + q.count * 65536)

/-- The range of POOL (R347, R357). -/
def poolOk (s : State) (lvl : Nat) (x : Img) : Bool :=
  lvl == 2 && x.val == maskBits x.val [(22, 16), (9, 0)] && decide (x.pool ≤ 64) && decide (x.ridx + x.count ≤ 1024)
  && x.va % 65536 == 0 && decide (x.va + x.count * 65536 ≤ hbmBytes)
  && !overlapsPool s (some x.pool) x.va (x.count * 65536)
  && !(s.pools.any fun y => y.1 != x.pool && overlaps x.ridx x.count y.2.ridx y.2.count)

/-- A command passes the checks of R357; a FILL whose pages would run past the PA field fails them (DEDUCED, log 54). -/
def commandOk (s : State) (p lvl : Nat) (x : Img) : Bool :=
  fieldsOk x && canonical x.va
  && (match x.op with
    | 0 => !bitAt x.val 0 || entryOk s p x.lvl x.val
    | 1 => decide (ptIndex x.lvl (va49 x.va) + x.count ≤ tableEntries x.lvl)
        && (!bitAt x.val 0 || (pteLeaf x.val && decide (bits x.val 51 16 + x.count * (ptCover x.lvl / 65536) ≤ 2 ^ 36)
          && (List.range x.count).all fun i => entryOk s p x.lvl (fillEntry x.lvl x.val i)))
    | 5 => poolOk s lvl x
    | _ => true)

/-- PTUPD (R340, R355). -/
def execPtupd (d a : Field) (s : State) : Result :=
  sysForm [opW d, opR a] 1 s fun s =>
    let i := me s
    let p := namedPart s
    (readMem s i (readR s a).toNat 64).run s fun r =>
      let x : Img := BitVec.ofNat 512 (ofBytes r.1)
      if !commandOk r.2 p i.lvl x then answer r.2 d 7
      else if 64 ≤ (r.2.ptq.filter fun c => c.part == p).length then answer r.2 d 3
      else
        let c : PtCmd := { part := p, lvl := i.lvl, sec := i.sec, die := i.die, img := x, done := none, held := false, wrote := false,
                            wg := i.wg, cid := i.cid, lid := i.lid, wid := ((i.wg.bind (wg? r.2)).map (·.wid)).getD 0 }
        answer { r.2 with ptq := r.2.ptq ++ [c] } d 0

/-! Entries of the master image and the replicas (R347, R359) -/

/-- The replica of an entry on a die, by its master address. -/
def replicaOf (q : Pool) (d addr : Nat) : Nat := d * 2 ^ 26 + (q.ridx * 65536 + (addr - q.base)) % 2 ^ 26

/-- Bytes written in the master image and in the replica of every compute die. -/
def writeTables (s : State) (q : Pool) (addr : Nat) (l : List Byte) : State :=
  let tbl := (List.range 9).foldl (fun m d => if Config.isCompute d then Memory.write m (replicaOf q d addr) l else m) s.tbl
  recodeRange { s with mem := Memory.write s.mem addr l, tbl := tbl } addr l.length

/-- An entry written. -/
def writeEntry (s : State) (q : Pool) (addr v : Nat) : State := writeTables s q addr (toBytes 8 v)

/-- A version goes on with a WRITE or FILL of the entry (R354). -/
def bumpVer (s : State) (addr : Nat) : State := { s with pteVer := s.pteVer.put addr (s.pteVer.get 0 addr + 1) }

/-- An entry of the master image as the table-update engine reads it: a free value in a poisoned block (R421, log 2). -/
def masterEntry (s : State) (a : Nat) : Nat :=
  if linePoisoned s (lineOf a) then (Config.freeValue (s.free + a / 8)).toNat else Memory.num s.mem a 8

/-- A pool has a poisoned block. -/
def poolPoisoned (s : State) (q : Pool) : Bool :=
  s.bdi.any fun x => decide (0xB ≤ x.2) && decide (q.base / 128 ≤ x.1) && decide (x.1 * 128 < q.base + q.count * 65536)

/-- The free values that the engine may have taken for the entries of a pool are used up. -/
def useEntries (s : State) (q : Pool) : State := if poolPoisoned s q then { s with free := s.free + hbmBytes / 8 } else s

/-- The crossing FIFOs of some die hold, so that what goes to every replica waits (R416, R417). -/
def someHeld (s : State) : Bool := (List.range 13).any (crossHeld s)

/-- The master address of the entry of a level on a path; none where an entry above is invalid or a leaf (R358). -/
def entryPath (s : State) (q : Pool) (va : Nat) : Nat → Nat → Nat → Option Nat
  | 0, lvl, t => some (masterAddr q t (ptIndex lvl va))
  | n + 1, lvl, t =>
    let e := masterEntry s (masterAddr q t (ptIndex lvl va))
    if !bitAt e 0 || pteLeaf e then none else entryPath s q va n (lvl + 1) (pteTable q e)

def entryAddr (s : State) (p lvl va : Nat) : Option Nat :=
  let q := pool s p
  if q.count = 0 then none else entryPath s q (va49 va) (lvl - 1) 1 0

/-- Valid non-leaf entries of a table: master address and pool table named. -/
def links (s : State) (q : Pool) (t n : Nat) : List (Nat × Nat) :=
  (List.range n).filterMap fun i =>
    let a := masterAddr q t i
    let e := masterEntry s a
    if bitAt e 0 && !pteLeaf e then some (a, pteTable q e) else none

/-- A pool table is linked by an entry other than one. -/
def linked (s : State) (q : Pool) (t skip : Nat) : Bool :=
  let root := links s q 0 128
  root.any (fun x => x.1 != skip && x.2 == t) || root.any fun x => (links s q x.2 8192).any fun y => y.1 != skip && y.2 == t

/-! Reports (R354) -/

/-- The old value that a WRITE under way returns gets the bits of a report made under it. -/
def latchReport (s : State) (r : Report) (b : Word64) : State :=
  let f (c : PtCmd) : PtCmd :=
    match c.done with
    | some (v, 0) => if c.part = r.part ∧ c.im.op ≤ 1 ∧ entryAddr s c.part c.im.lvl c.im.va = some r.addr then { c with done := some (v ||| b, 0) } else c
    | _ => c
  { s with ptq := s.ptq.map f }

/-- Some bits of the low byte of an entry are set where each image holds it: in every replica, and in the master image unless its block is
poisoned, of which nothing is used (R421). -/
def setEntryBits (s : State) (q : Pool) (addr : Nat) (b : Byte) : State :=
  let tbl := (List.range 9).foldl (fun m d => if Config.isCompute d then Memory.set m (replicaOf q d addr) (Memory.get m (replicaOf q d addr) ||| b) else m) s.tbl
  if linePoisoned s (lineOf addr) then { s with tbl := tbl }
  else recodeRange { s with mem := Memory.set s.mem addr (Memory.get s.mem addr ||| b), tbl := tbl } addr 1

/-- A report reaches the engine: the bit is set in the master image and every replica, or dropped when its version is stale. -/
def applyReport (s : State) (r : Report) : State :=
  let q := pool s r.part
  let b : Word64 := if r.dirty then 0x80 else 0x40
  let ver := s.pteVer.get 0 r.addr
  if ver = r.ver then
    if q.base ≤ r.addr ∧ r.addr < q.base + q.count * 65536 then setEntryBits s q r.addr (b.setWidth 8) else s
  else if ver = r.ver + 1 then latchReport s r b
  else s

/-- Every report of a partition that is on its way reaches the engine. -/
def applyReports (s : State) (p : Nat) : State :=
  let s' := { s with reports := s.reports.filter fun r => r.part != p }
  (s.reports.filter fun r => r.part == p).foldl applyReport s'

/-- AD_REPORT (R354): the oldest report arrives, when the crossing FIFOs toward every image let it (R416, R417) and its row is not being copied
(R420). -/
def execAdReport (s : State) : Result :=
  match s.reports with
  | r :: l => if someHeld s || rowCopying s r.addr then off s else .next (applyReport { s with reports := l } r)
  | [] => off s

/-- PAGE_WALK (R351-R353): a walker of a die makes a translation, when the die runs and nothing that it reads is being copied (R416, R417,
R420); none from a poisoned block (R421). -/
def execPageWalk (d p va : Nat) (s : State) : Result :=
  if (Config.isCompute d || Config.dieKind d == .memory) && decide (p ≤ devicePart) && rangeOf va == .pages && canonical va
      && !(s.tlb.any fun t => tlbHit t d p va) && !crossHeld s d && !walkWaits s d p va then
    match findLeaf s d p va with
    | some t => .next (useLeaf s t false)
    | none => off s
  else off s

/-! Commands (R356, R358) -/

/-- The first command of a partition. -/
def headCmd (s : State) (p : Nat) : Option PtCmd := s.ptq.find? fun c => c.part == p

/-- The first command of a partition becomes another, or ends. -/
def setHeadCmd (p : Nat) (y : Option PtCmd) : List PtCmd → List PtCmd
  | [] => []
  | c :: l => if c.part = p then y.toList ++ l else c :: setHeadCmd p y l

def tableEid : Nat := eidOf 0 0x10

/-- The issuer under which a command accesses its record and its counter: that of the PTUPD, with its workgroup while it has not ended
and its core group (R355). -/
def PtCmd.issuer (c : PtCmd) (s : State) : Issuer :=
  { part := if c.lvl = 2 then devicePart else c.part, lvl := c.lvl, sec := c.sec, die := c.die, cid := none,
    wg := c.wg.filter fun w => (wg? s w).isSome, lid := 0, eng := true, grp := c.cid.map fun x => (cidDie x, cidCg x), src := c.cid }

/-- The virtual range whose translations a command shoots down (R360). -/
def PtCmd.range (c : PtCmd) : Nat × Nat :=
  let k := ptCover c.im.lvl
  (va49 c.im.va / k * k, (if c.im.op = 1 then c.im.count else 1) * k)

/-- A command ends with a shootdown. -/
def PtCmd.shoots (c : PtCmd) : Bool := (match c.done with | some (_, 0) => true | _ => false) && (c.im.op == 3 || c.im.sd)

/-- A command's engine fault, with the launch id and wid of its issuer (R332, R336, R355). -/
def faultCmd (s : State) (c : PtCmd) (x : Cause) (v : Nat) : State :=
  raiseEngine { s with ptq := setHeadCmd c.part (some { c with held := true }) s.ptq } tableEid c.part c.lvl c.sec c.lid c.wid 6 c.part x v

/-- Step 5 of R358: the post, and the end of the command. -/
def postCmd (s : State) (c : PtCmd) : State :=
  let gone (s : State) : State := { s with ptq := setHeadCmd c.part none s.ptq }
  if c.im.caddr = 0 then gone s
  else match postAdd s (c.issuer s) c.cid c.im.caddr c.im.inc with
    | .ok s => gone s
    | .bad x v => faultCmd s c x v
    | .wait => s

/-- Steps 4 and 5 of R358 for a command whose tables have changed: the result record, then the post. -/
def finishCmd (s : State) (c : PtCmd) : State :=
  match c.done with
  | none => s
  | some (v, st) =>
    if c.wrote || c.im.raddr = 0 then postCmd s c
    else match writeMem s (c.issuer s) c.im.raddr (toBytes 8 v.toNat ++ toBytes 8 st) with
      | .ok s =>
        let c := { c with wrote := true }
        postCmd { s with ptq := setHeadCmd c.part (some c) s.ptq } c
      | .bad x w => faultCmd s c x w
      | .wait => s

/-- A row that a command's tables, or those that POOL makes, lie in is being copied to its spare (R420). -/
def poolCopying (s : State) (c : PtCmd) : Bool :=
  let q := pool s c.part
  copyingAt s q.base (q.count * 65536) || (c.im.op == 5 && copyingAt s c.im.va 1024)

/-- A command of an operation that its partition's queue has come to: it waits while a die's crossing FIFOs hold (R416, R417) or a row of the
tables is being copied (R420). -/
def dueCmd (s : State) (p op : Nat) : Option PtCmd :=
  (headCmd s p).filter fun c => c.im.op == op && c.done.isNone && accepts s tableEid && !someHeld s && !poolCopying s c

/-- The tables have changed, with VALUE and RSTAT: a command without a shootdown goes on at once. -/
def doneCmd (s : State) (c : PtCmd) (v st : Nat) : Result :=
  let c := { c with done := some (BitVec.ofNat 64 v, st) }
  let s := { s with ptq := setHeadCmd c.part (some c) s.ptq }
  .next (if c.shoots then s else finishCmd s c)

/-- PTUPD_WRITE (R356). -/
def execPtupdWrite (p : Nat) (s : State) : Result :=
  match dueCmd s p 0 with
  | none => off s
  | some c =>
    let s := applyReports s p
    match entryAddr s p c.im.lvl c.im.va with
    | none => doneCmd (useEntries s (pool s p)) c 0 1
    | some a =>
      let q := pool s p
      let old := masterEntry s a
      let link (e : Nat) : Bool := bitAt e 0 && !pteLeaf e
      let t := pteTable q c.im.val
      if link c.im.val && linked s q t a then doneCmd (useEntries s q) c old 2
      else
        let s := if link c.im.val && !link old then writeTables s q (q.base + t * 65536) (List.replicate 65536 0) else s
        doneCmd (bumpVer (writeEntry (useEntries s q) q a c.im.val) a) c old 0

/-- PTUPD_FILL (R356). -/
def execPtupdFill (p : Nat) (s : State) : Result :=
  match dueCmd s p 1 with
  | none => off s
  | some c =>
    let s := applyReports s p
    match entryAddr s p c.im.lvl c.im.va with
    | none => doneCmd (useEntries s (pool s p)) c 0 1
    | some a =>
      let q := pool s p
      let old := masterEntry s a
      let s := useEntries s q
      let one (s : State) (i : Nat) : State := bumpVer (writeEntry s q (a + 8 * i) (fillEntry c.im.lvl c.im.val i)) (a + 8 * i)
      doneCmd ((List.range c.im.count).foldl one s) c old 0

/-- PTUPD_READ (R356). -/
def execPtupdRead (p : Nat) (s : State) : Result :=
  match dueCmd s p 2 with
  | none => off s
  | some c =>
    let s := applyReports s p
    match entryAddr s p c.im.lvl c.im.va with
    | none => doneCmd (useEntries s (pool s p)) c 0 1
    | some a => doneCmd (useEntries s (pool s p)) c (masterEntry s a) 0

/-- PTUPD_FLUSH (R356). -/
def execPtupdFlush (p : Nat) (s : State) : Result :=
  match dueCmd s p 3 with
  | none => off s
  | some c => doneCmd s c 0 0

/-- PTUPD_SYNC (R356). -/
def execPtupdSync (p : Nat) (s : State) : Result :=
  match dueCmd s p 4 with
  | none => off s
  | some c => doneCmd s c 0 0

/-- PTUPD_POOL (R356): refused while the pool's partition has a resident launch, which the spec does not define: a launch with a workgroup on a
core now, and not one whose workgroups are all saved (DESIGN CHOICE, log 99). -/
def execPtupdPool (p : Nat) (s : State) : Result :=
  match dueCmd s p 5 with
  | none => off s
  | some c =>
    let n := c.im.pool
    if s.wgs.any fun x => x.2.part == n && x.2.cid?.isSome then doneCmd s c 0 3
    else
      let q : Pool := { base := c.im.va, count := c.im.count, ridx := c.im.ridx }
      doneCmd (writeTables { s with pools := s.pools.put n q } q q.base (List.replicate 1024 0)) c 0 0

/-! Shootdowns (R360, R361) -/

/-- A cached translation falls under a command's shootdown. -/
def shotBy (c : PtCmd) (t : TlbEnt) : Bool :=
  t.part == c.part
  && (if c.im.op = 3 then !(c.im.keepg && bitAt t.pte.toNat 5)
      else overlaps (t.page * ptCover t.lvl) (ptCover t.lvl) c.range.1 c.range.2)

/-- An accepted matrix operation of the partition holds a page under the shootdown. -/
def matrixHolds (s : State) (c : PtCmd) : Bool :=
  s.cores.any fun x => x.2.mq.any fun o =>
    (wg? s o.wg).any (fun g => g.part == c.part)
    && (o.spans.1 ++ o.spans.2.1 ++ o.spans.2.2).any fun y =>
      rangeOf y.1 == .pages && (c.im.op == 3 || overlaps (va49 y.1) y.2 c.range.1 c.range.2)

/-- What was written under a translation and is still in an L1 or an L2 slice goes back to its home. -/
def flushPage (s : State) (t : TlbEnt) : State :=
  let lo := ptePa t.lvl t.pte.toNat 0
  let s := drainL2Lines s lo (ptCover t.lvl)
  s.lines.foldl (fun s x =>
    if lo ≤ x.1 * 128 ∧ x.1 * 128 < lo + ptCover t.lvl then (SMap.keys x.2).foldl (fun s c => writeBackLine s c x.1 false) s else s) s

/-- SHOOTDOWN_COMPLETE (R358, R360): the translations go once everything under them has been performed, the partition's accesses to peer
apertures among it (R400), and the command ends. -/
def execShootdownComplete (p : Nat) (s : State) : Result :=
  match headCmd s p with
  | some c =>
    if c.done.isNone || c.held || !accepts s tableEid || someHeld s then off s
    else if !c.shoots then .next (finishCmd s c)
    else if matrixHolds s c || s.peerOut.any (fun x => x.part == c.part) then off s
    else
      let s := applyReports s p
      let gone := s.tlb.filter (shotBy c)
      let s := gone.foldl flushPage { s with tlb := s.tlb.filter fun t => !shotBy c t }
      match headCmd s p with
      | some c => .next (finishCmd s c)
      | none => .next s
  | none => off s

/-- RESUME of a suspended command (R336): the failing write is retried. -/
def resumeCmd (s : State) (p : Nat) : State :=
  match headCmd s p with
  | some c =>
    if c.held then
      let c := { c with held := false }
      finishCmd { s with ptq := setHeadCmd p (some c) s.ptq } c
    else s
  | none => s

/-- THKILL of a suspended command (R336). -/
def killCmd (s : State) (p : Nat) : State :=
  match headCmd s p with
  | some c => if c.held then { s with ptq := setHeadCmd p none s.ptq } else s
  | none => s

end Sys2Proof.Machine
end

