-- ==== Sys2Proof/Machine/Recovery.lean ====
section
/-! DEFINITION. The privileged forms on workgroups, fault records and suspension slots (R335-R337, R341). -/

namespace Sys2Proof.Machine

open Sys2Proof

/-! WGSAVE, WGLOAD, WGMIGR, WGKILL (R341) -/

/-- The issuing context belongs to a workgroup. -/
def issuedBy (s : State) (w : Nat) : Bool := (me s).wg == some w

/-- What keeps WGSAVE and WGMIGR from a workgroup before its save area is looked at. -/
def saveCheck (s : State) (x : Option (Nat × Workgroup)) : Nat :=
  match x with
  | none => 1
  | some (w, g) =>
    if g.cid?.isNone || g.saving.isSome then 3
    else if issuedBy s w || g.frag then 4
    else 0

def execWgsave (d a b : Field) (s : State) : Result :=
  sysForm [opW d, opR a, opR b] 1 s fun s =>
    let va := (readR s b).toNat
    let x := wrefWg s (readR s a).toNat
    if va % 4096 ≠ 0 then answer s d 7
    else match saveCheck s x, x with
      | 0, some (w, _) =>
        match startSave s w va none .form with
        | (s, true) => startForm s d (.wgsave w va)
        | (s, false) => answer s d 4
      | st, _ => answer s d st

def execWgload (d a b : Field) (s : State) : Result :=
  sysForm [opW d, opR a, opR b] 1 s fun s =>
    let c := (readR s b).toNat
    if 2 ^ 16 ≤ c then answer s d 7
    else match wrefWg s (readR s a).toNat with
      | none => answer s d 1
      | some (w, g) =>
        if g.saving.isSome then answer s d 3
        else if g.cid?.isSome then answer s d 4
        else if growing s || restoreWaits s w (if c = 0xFFFF then none else some c) then .next s
        else let r := restoreWg s w (if c = 0xFFFF then none else some c); answer r.2 d r.1

def execWgmigr (d a b : Field) (s : State) : Result :=
  sysForm [opW d, opR a, opR b] 1 s fun s =>
    let c := (readR s b).toNat
    let x := wrefWg s (readR s a).toNat
    if 2 ^ 16 ≤ c then answer s d 7
    else match saveCheck s x, x with
      | 0, some (w, g) =>
        match (launch? s g.part g.lid).bind fun l => (freeSaveSlot s l false).map fun k => (k, slotVa l k) with
        | none => answer s d 5
        | some (k, va) =>
          match startSave s w va (some k) (.migrate c) with
          | (s, true) => startForm s d (.wgmigr w c)
          | (s, false) => answer s d 4
      | st, _ => answer s d st

/-- A workgroup is ended from outside (R31, R341): its threads leave their batches and entries first. -/
def killWg (s : State) (w : Nat) : State :=
  match wg? s w with
  | some g =>
    let run (th : Thread) : Thread := match th.st with | .stalled b => { th with st := .running b } | _ => th
    let s := g.threads.foldl (fun s t => leaveBatch (updThread s w t.1 run) w t.1) s
    endWorkgroup (match g.cid? with | some cid => pullSlots s cid g.rows | none => s) w
  | none => s

def execWgkill (d a : Field) (s : State) : Result :=
  sysForm [opW d, opR a] 1 s fun s =>
    match wrefWg s (readR s a).toNat with
    | none => answer s d 1
    | some (w, _) => answer (killWg s w) d 0

/-! Fault references (R329, R330) -/

/-- What a fault reference names. -/
inductive Named where
  | vector (cid k : Nat) (h : Held)
  | context (cid k : Nat) (h : Held)
  | slot (x : Susp)
  deriving DecidableEq, Repr

/-- A record names the thread that now has its slot (R27). -/
def heldCurrent (s : State) (h : Held) : Bool := (thread? s h.wg h.tid).any fun t => t.sgen == h.sgen

/-- The held record or slot of a fault reference; none when it is stale. -/
def named (s : State) (a : Nat) : Option Named :=
  let loc := bits a 31 16
  let gen := bits a 15 9
  let k := bits a 6 0
  if a ≠ maskBits a [(31, 9), (6, 0)] then none
  else if k < 64 then let r := (coreAt s loc).vrec.get {} k; if r.gen = gen then (r.held.filter (heldCurrent s)).map (.vector loc k) else none
  else if k < 72 then let r := (coreAt s loc).srec.get {} (k - 64); if r.gen = gen then r.held.map (.context loc (k - 64)) else none
  else if k < 112 then none
  else if s.suspGen.get 0 (suspKey loc (k - 112)) = gen then (s.susp.find? fun x => x.eid == loc && x.idx == k - 112).map .slot
  else none

/-- The partition of a named record or slot. -/
def Named.part (n : Named) (s : State) : Option Nat :=
  match n with
  | .vector _ _ h | .context _ _ h => (wg? s h.wg).map (·.part)
  | .slot x => some x.part

def freeVrec (s : State) (cid k : Nat) : State :=
  updCore s cid fun c => { c with vrec := c.vrec.put k { c.vrec.get {} k with held := none } }
def freeSrec (s : State) (cid k : Nat) : State :=
  updCore s cid fun c => { c with srec := c.srec.put k { c.srec.get {} k with held := none } }

/-! Engine slots (R336, R337) -/

/-- The held matrix operations of a context follow in order, without the first n of them, as the queue has room (R277). -/
def resumeMatrix (s : State) (w n : Nat) : State :=
  let s := updCtx s w fun c => { c with held := c.held.drop n }
  match (wg? s w).bind fun g => g.cid? with
  | some cid => refillContext cid s w
  | none => updCtx s w fun c => { c with held := [], saved := c.held ++ c.saved }

/-- A suspended copy operation ends without a further write or a post. -/
def killCopy (s : State) (id : Nat) : State :=
  match s.copies.find? fun o => o.id == id with
  | some o =>
    match o.inst with
    | some n =>
      let cut (x : CopyInst) : CopyInst := if x.id == n then { x with cut := true, open' := x.open' - 1 } else x
      settleCloses (finishCopyInst { dropCopy s id with copyInsts := s.copyInsts.map cut } n)
    | none => settleCloses (dropCopy s id)
  | none => s

/-- The region whose blending a fragment suspends goes on. -/
def resumeBlend (s : State) (id : Nat) : State :=
  match s.frags.find? fun f => f.id == id with
  | some f => setRegion s { regionGet s f.part f.rx f.ry with held := false }
  | none => s

/-- The frames that a stream has taken and that nothing will code any more leave it, counted by SSKIP (R407); its suspension ends, and its
engine may take up its world (R327). -/
def dropFrames (s : State) (k : Nat) : State :=
  let d := s.disps.get {} k
  let s := pregSet s (k / 2) (dispOff (k % 2) 0x80) ((dispReg s (k / 2) (k % 2) 0x80 % 2 ^ 32 + d.cap.length + d.due.length) % 2 ^ 32)
  blocksAdopt { s with disps := s.disps.put k { d with held := false, sinceKey := none, cap := [], due := [], ending := false } } (1 + d.eng / 16)

/-- A suspended stream restarts at its next capture with a key frame: the frames captured before and those that have become due meanwhile are
skipped (R410). -/
def resumeStream (s : State) (k : Nat) : State := dropFrames s k

/-- THKILL of a stream sets EN := 0 (R410). -/
def killStream (s : State) (k : Nat) : State :=
  let o := dispOff (k % 2) 0x50
  dropFrames (pregSet { s with disps := s.disps.put k { s.disps.get {} k with stream := false, posting := false } } (k / 2) o
    (setBits (pregGet s (k / 2) o) 63 63 0)) k

/-- RESUME of an engine slot (R336, R337), by the class of its operation (R332). -/
def slotResume (s : State) (x : Susp) : State :=
  let s := freeSusp s x.eid x.idx
  match x.cls with
  | 2 => let go (q : RayQ) : RayQ := if q.id == x.op then { q with held := false } else q; { s with rays := s.rays.map go }
  | 3 => resumeBlend s x.op
  | 4 => resumeMatrix s x.op 0
  | 5 => resumeStream s x.op
  | 6 => resumeCmd s x.op
  | _ => updCopy s x.op fun o => { o with held := false }

/-- THKILL of an engine slot (R336). -/
def slotKill (s : State) (x : Susp) : State :=
  let s := freeSusp s x.eid x.idx
  match x.cls with
  | 2 => dropRay s x.op
  | 3 => dropFrag (resumeBlend s x.op) x.op
  | 4 => resumeMatrix s x.op 1
  | 5 => killStream s x.op
  | 6 => killCmd s x.op
  | _ => killCopy s x.op

/-! RESUME and THKILL (R335) -/

/-- An instruction word is a terminator's (R33). -/
def isTerminator (w : Word32) : Bool :=
  match decode (wordBytes w) with
  | .ok (i, _) =>
    match i with
    | .br _ | .bnz _ _ | .bz _ _ | .jmpr _ | .callr _ _ | .call _ _ | .exit | .barw _ | .pbarw _ | .cradd _ _ | .crfadd _ _ | .crmin _ _
    | .crmax _ _ | .cscan _ _ | .cfscan _ _ | .cbcast _ _ _ | .xperm _ _ _ | .cshuf _ _ _ | .recv _ _ | .waitge _ _ _ | .waitne _ _ _
    | .waiteq _ _ _ | .unsub _ _ | .slotwait _ _ _ => true
    | _ => false
  | .error _ => false

/-- The 16 words of an image of transients. -/
def imageWords (l : List Byte) : List Word32 := (List.range 16).map fun k => BitVec.ofNat 32 (ofBytes ((l.drop (4 * k)).take 4))

/-- A thread whose entry into its first block has faulted enters it anew, or will at its restore. -/
def resumeEntry (s : State) (cid k : Nat) (h : Held) : State :=
  let s := updThread (freeVrec s cid k) h.wg h.tid fun th => { th with st := .pending, succ := { h.hdr with len := 0 }, resumeAt := none }
  match (wg? s h.wg).bind fun g => g.cid? with
  | some c => enterThread s c h.wg h.tid (sextNat 49 64 h.hdr.baddr)
  | none => s

/-- A faulted thread is resumed at a word of its block with transients: status and state (R335). -/
def resumeThread (s : State) (cid k : Nat) (h : Held) (off : Nat) (ts : List Word32) : Nat × State :=
  match wg? s h.wg with
  | some g =>
    let s' := updThread (freeVrec s cid k) h.wg h.tid fun th => { th with st := .pending, succ := h.hdr, resumeAt := some (off, ts) }
    match g.cid? with
    | none => (0, s')
    | some c =>
      match placeResume s' c g.part g.lid (g.slot h.tid) off h.hdr with
      | some s' => (0, s')
      | none => (5, s)
  | none => (1, s)

/-- RESUME of a vector record (R335): `flags` are SKIP and LOADT, `va` the image. -/
def resumeVector (s : State) (d : Field) (cid k : Nat) (h : Held) (flags va : Nat) : Result :=
  if bitAt flags 0 && (isTerminator h.word || h.ts.isEmpty) then answer s d 7
  else (if bitAt flags 1 then readMem s (me s) va 64 else .ok ([], s)).run s fun r =>
    if h.ts.isEmpty then answer (resumeEntry r.2 cid k h) d 0
    else
      let x := resumeThread r.2 cid k h (h.roff + flags % 2) (if bitAt flags 1 then imageWords r.1 else h.ts)
      answer x.2 d x.1

/-- RESUME (R335). -/
def execResume (d a b : Field) (s : State) : Result :=
  sysForm [opW d, opR a, opR b] 1 s fun s =>
    let x := (readR s a).toNat
    let y := (readR s b).toNat
    if bits y 5 2 ≠ 0 ∨ (bitAt y 1 ∧ 63 < x % 128) ∨ (bitAt y 0 ∧ 112 ≤ x % 128) then answer s d 7
    else match named s x with
      | none => answer s d 1
      | some n =>
        if n.part s ≠ some (namedPart s) then answer s d 2
        else match n with
          | .vector cid k h => resumeVector s d cid k h (y % 64) (y / 64 * 64)
          | .context cid k h =>
            let go (c : Ctx) : Ctx := { c with mode := .ready, pc := (c.pc + 4 * (y % 2)) % 2 ^ 64 }
            answer (updCtx (freeSrec s cid k) h.wg go) d 0
          | .slot q => answer (slotResume s q) d 0

/-- THKILL of a context (R335): its unperformed matrix operations are discarded. -/
def killContext (s : State) (w : Nat) : State :=
  let s := freeMatrixSlots (updCtx s w fun c => { c with mode := .ended, held := [], saved := [] }) w
  let s := match (wg? s w).bind fun g => g.cid? with
    | some cid => refillQueue (setMatQueue s cid ((coreAt s cid).mq.filter fun o => o.wg != w)) cid
    | none => s
  checkEnd s w

/-- THKILL (R335). -/
def execThkill (d a : Field) (s : State) : Result :=
  sysForm [opW d, opR a] 1 s fun s =>
    match named s (readR s a).toNat with
    | none => answer s d 1
    | some n =>
      if n.part s ≠ some (namedPart s) then answer s d 2
      else match n with
        | .vector cid k h => answer (endThread (freeVrec s cid k) h.wg h.tid) d 0
        | .context cid k h => answer (killContext (freeSrec s cid k) h.wg) d 0
        | .slot q => answer (slotKill s q) d 0

end Sys2Proof.Machine
end

