-- ==== Sys2Proof/Machine/Reliability.lean ====
section
/-! DEFINITION. Lost flits and quarantine (R387, R391, R392), soft and hard errors of the memory arrays (R420, R421), die resets
(R422) and engine faults as acts of their own (R336). -/

namespace Sys2Proof.Machine

open Sys2Proof

/-! Links (R387, R391, R392) -/

/-- No cache holds anything of a line (R127, R392, R421). -/
def dropCached (s : State) (line : Nat) : State :=
  { clearL2 (setLine s line []) line 0xFFFFFFFF none with llc := s.llc.map fun x => (x.1, x.2.filter fun y => y.line != line) }

/-- Every cached copy of a line and every message for it is gone. -/
def dropLine (s : State) (line : Nat) : State := { dropCached s line with cohMsgs := s.cohMsgs.filter fun m => m.line != line }

/-- A line is poisoned: the subscribed records of its locations are LOST (R136, R245). -/
def poisonHome (s : State) (line : Nat) : State := loseSubs (poisonLine s line) line

/-- A line freezes (R392): poisoned, its sharers invalidated and its subscribed records LOST. -/
def freezeLine (s : State) (line : Nat) : State :=
  let s := dropLine (poisonHome s line) line
  { s with frozen := insertAsc s.frozen line }

/-- A line lies in a ROW page that is in use: no home tracks it (R132). -/
def rowLine (s : State) (line : Nat) : Bool :=
  s.tlb.any fun t => pteRow t.pte.toNat && ptePa t.lvl t.pte.toNat 0 / ptCover t.lvl == line * 128 / ptCover t.lvl

/-- The lines for which the homes record a die as owner of words, in an L1, in an L2 slice, by a grant on its way or until the acknowledgement
that gives them up arrives, or as U holder (R392). -/
def linesOwned (s : State) (d : Nat) : List Nat :=
  let l1 := (s.lines.filter fun x => x.2.any fun l => cidDie l.1 == d && (l.2.w != 0 || l.2.d != 0 || !l.2.u.isEmpty)).map (·.1)
  let l2 := (s.l2.filter fun x => x.1 / 64 == d).flatMap fun x => (x.2.filter fun y => (y.w ||| y.d) != 0).map (·.line)
  let way := (s.cohMsgs.filter fun m => (m.own && m.reply && cidDie m.cid == d) || m.acks.any fun c => cidDie c == d && m.owners.contains c).map (·.line)
  (l1 ++ l2 ++ way).eraseDups.filter fun k => !rowLine s k

/-- The caches of a die hold nothing any more. -/
def dropCopies (s : State) (d : Nat) : State :=
  let s := s.lines.foldl (fun s x => setLine s x.1 (x.2.filter fun l => cidDie l.1 != d)) s
  { s with
    l2 := s.l2.filter fun x => x.1 / 64 != d
    cohMsgs := (s.cohMsgs.filter fun m => cidDie m.cid != d).map fun m =>
      let dest := m.toL1.filter fun c => cidDie c != d
      let acks := m.acks.filter fun c => cidDie c != d
      { m with toL1 := dest, acks := acks, reply := dest.isEmpty && acks.isEmpty } }

/-- The partitions that lose their work with a die: those that hold a block of it; for a memory die every one (R392). -/
def partsOf (s : State) (d : Nat) : List Nat := (List.range 64).filter fun p => Config.dieKind d == .memory || partHoldsDie s p d

/-- Every queue of a partition takes EN := 0 and ERR := 1 (R392). -/
def stopQueues (s : State) (p : Nat) : State :=
  (List.range 16).foldl (fun s q => pregSet s p (0x20 * q + 8) (setBits (pregGet s p (0x20 * q + 8)) 31 30 1)) s

/-- Step 4 of a quarantine for one partition. -/
def losePart (s : State) (info : Word64) (p : Nat) : State :=
  let s := postKind5 s p .poison info
  let s := ((s.wgs.filter fun g => g.2.part == p).map (·.1)).foldl killWg s
  stopQueues s p

/-- QUARANTINE of a die, in the order of R392. -/
def quarantine (s : State) (d : Nat) : State :=
  let s := dregSet s 0 0x18 (setBits (dregGet s 0 0x18) d d 1)
  let lines := linesOwned s d
  let s := dropCopies (resetFrags (lines.foldl poisonHome s) d) d
  let s := (s.subs.filter fun x => homeDie x.home == d).foldl (fun s x => endSub s x 4) s
  let info : Word64 := BitVec.ofNat 64 (d + lines.length * 2 ^ 32)
  let s := { postKind5 s devicePart .poison info with dieEvents := s.dieEvents + 1 }
  let s := (partsOf s d).foldl (fun s p => losePart s info p) s
  let s := { s with copies := s.copies.filter fun o => cidDie o.eid != d, rays := s.rays.filter fun q => cidDie q.eid != d,
                    susp := s.susp.filter fun x => cidDie x.eid != d }
  blocksAdopt s d

/-- What follows for a flit that was lost (R392): 0 data of the line of an address, 1 a message about that line, 2 a header. Of an address
that no home tracks, data alone can be lost. -/
def loseFlit (s : State) (d kind addr : Nat) : State :=
  match kind, area addr with
  | 0, .hole => s
  | 0, _ => poisonHome s (lineOf addr)
  | 1, .hbm | 1, .host => freezeLine s (lineOf addr)
  | 2, _ => quarantine s d
  | _, _ => s

/-- LINK_REPLAY (R391, R392): within four attempts the replay succeeds, else it fails and flits are lost: `lost` mod 4 says what one
carried, and from 4 on that it is a further flit of the port's last replay, which has failed (DESIGN CHOICE, log 87). -/
def execLinkReplay (port attempts lost addr : Nat) (s : State) : Result :=
  let d := port + 1
  let c := dregGet s 0 0x10
  if 12 ≤ port ∨ quarantined s d ∨ attempts = 0 then off s
  else if attempts ≤ 4 then
    .next { dregSet s 0 0x10 (c / 2 ^ 32 * 2 ^ 32 + (c + 1) % 2 ^ 32) with replays := s.replays.filter (· != port) }
  else if 4 ≤ lost ∧ !s.replays.contains port then off s
  else
    let s := if lost < 4 then { dregSet s 0 0x10 ((c / 2 ^ 32 + 1) % 2 ^ 32 * 2 ^ 32 + c % 2 ^ 32) with replays := insertAsc s.replays port } else s
    .next (loseFlit s d (lost % 4) addr)

/-! Errors of the arrays (R420, R421). A location of the tracker is 4 × row + array: 0 an HBM row, 1 a cache set and way, 2 a Larder
row, 3 an Inkwell row. Of a cache set and way, row / 65,536 is the cache: on a compute die a core's L1 by the core, from 128 on an L2 slice;
on a memory die an LLC slice (DESIGN CHOICE, log 86). -/

/-- The cache of a cache location, as `giveUp` numbers it. -/
def wayKey (d row : Nat) : Nat :=
  let u := row / 65536
  if Config.isCompute d then (if u < Config.coreCount d then 256 * d + u else 65536 + 64 * d + u % 64)
  else 131072 + 64 * (d - 9) + u % 64

/-- The times of a location's errors with the newest, and whether it had been found without a spare. -/
def trackLoc (s : State) (d loc : Nat) : RasLoc :=
  match s.ras.find? fun x => x.die == d && x.loc == loc with
  | some x => { x with times := (timer s :: x.times).take 15 }
  | none => { die := d, loc := loc, times := [timer s], noSpare := false }

/-- The tracker of a die takes a location; a full one replaces the entry whose newest error is oldest. -/
def putLoc (s : State) (x : RasLoc) : State :=
  let l := s.ras.filter fun y => !(y.die == x.die && y.loc == x.loc)
  let mine := l.filter fun y => y.die == x.die
  let l :=
    if mine.length < 256 then l
    else
      let newest (y : RasLoc) : Nat := y.times.headD 0
      let old := mine.foldl (fun b y => if newest y < newest b then y else b) (mine.headD x)
      l.filter fun y => !(y.die == old.die && y.loc == old.loc)
  { s with ras := l ++ [x] }

/-- THRESH errors, the newest among them, lie within WINDOW hours (R420). -/
def lasting (s : State) (x : RasLoc) : Bool :=
  let c := dregGet s x.die 0x40
  match x.times[bits c 3 0 - 1]? with
  | some t => decide (timer s ≤ t + bits c 31 16 * 3600 * 200000000)
  | none => false

/-- A corrected error is counted in RASCNT (R420): the field at bit `lo`, of w bits. -/
def rasCount (s : State) (d lo w : Nat) : State :=
  let c := dregGet s d 0x48
  dregSet s d 0x48 (setBits c (lo + w - 1) lo ((bits c (lo + w - 1) lo + 1) % 2 ^ w))

/-- A lasting location is retired (R420): onto a spare row, whose copy begins, or by disabling a cache way. -/
def retire (s : State) (x : RasLoc) : State :=
  let arr := x.loc % 4
  let key := 4 * x.die + arr
  if arr = 1 ∨ s.sparesUsed.get 0 key < Config.spareRows x.die arr then
    let s := { rasCount s x.die 16 16 with
      ras := s.ras.filter (fun y => !(y.die == x.die && y.loc == x.loc)),
      dieEvents := s.dieEvents + 1,
      sparesUsed := if arr = 1 then s.sparesUsed else s.sparesUsed.put key (s.sparesUsed.get 0 key + 1) }
    if arr = 0 ∨ arr = 2 then { s with spares := s.spares ++ [(x.die, x.loc)] }
    else if arr = 1 then disableWay s (wayKey x.die (x.loc / 4))
    else s
  else if x.noSpare then s
  else putLoc (rasCount s x.die 0 16) { x with noSpare := true }

/-- CORRECTED_ERROR (R420). -/
def execCorrectedError (d loc : Nat) (s : State) : Result :=
  if diePresent s d then
    let x := trackLoc s d loc
    let s := putLoc (rasCount s d 32 32) x
    .next (if lasting s x then retire s x else s)
  else off s

/-- SPARE_ROW_COPY_END (R420): accesses to the row go on. -/
def execSpareRowCopyEnd (d loc : Nat) (s : State) : Result :=
  if s.spares.contains (d, loc) then .next { s with spares := s.spares.filter (· != (d, loc)) } else off s

/-- UNCORRECTABLE_ERROR (R421): array 0 an HBM block, 1 a cached line, both by address; 2 a scratchpad word, by 2^20 × workgroup +
offset; 3 a Larder row, by an address in it; 4 an Inkwell word, by 2^20 × workgroup + 2^9 × tid + slot. -/
def execUncorrectableError (array addr : Nat) (s : State) : Result :=
  match array, area addr with
  | 0, .hbm => .next (poisonHome s (lineOf addr))
  | 1, .hbm | 1, .host => .next (dropCached (poisonHome s (lineOf addr)) (lineOf addr))
  | 2, _ =>
    match wg? s (addr / 2 ^ 20) with
    | some g =>
      if addr % 2 ^ 20 < g.spadLen then .next (updWg s (addr / 2 ^ 20) fun g => { g with spadBad := insertAsc g.spadBad (addr % 2 ^ 20 / 4) })
      else off s
    | none => off s
  | 3, .larder d o =>
    let row := (List.range (larderBytes / 128)).filter fun k => Config.rowOf 2 (128 * k) == Config.rowOf 2 (o / 128 * 128)
    .next (row.foldl (fun s k => poisonLine s ((larderBase + d * 2 ^ 30) / 128 + k)) s)
  | 4, _ =>
    match thread? s (addr / 2 ^ 20) (addr % 2 ^ 20 / 512) with
    | some th =>
      if addr % 512 < th.allot then .next (updThread s (addr / 2 ^ 20) (addr % 2 ^ 20 / 512) fun t => { t with bad := insertAsc t.bad (addr % 512) })
      else off s
    | none => off s
  | _, _ => off s

/-! Die resets (R422) -/

/-- A die resets: its registers, its units, its cores' counters and caches, its error tracker and its replica take their reset values, its
Larder is closed and zero-filled, its caches hold nothing, and its QUAR bit is set until LINKTRN (R81, R137, R419, R422). -/
def resetDie (s : State) (d : Nat) : State :=
  let on (k n : Nat) : Bool := k / n == d
  let lo := larderBase + d * 2 ^ 30
  let s := (List.range (Config.coreGroups d)).foldl (fun s g => dropGroup s d g) (dropCopies s d)
  let s := { s with
    dreg := s.dreg.filter fun x => !(on x.1 (2 ^ 24)),
    dies := s.dies.put d { baseT := s.now },
    cgs := s.cgs.filter fun x => !(on x.1 256),
    cores := s.cores.filter fun x => !(on x.1 256),
    icache := s.icache.filter fun x => cidDie (x.1 / 2 ^ 52) != d,
    tlb := s.tlb.filter fun t => t.die != d,
    llc := s.llc.filter fun x => x.1 / 64 + 9 != d,
    tbl := s.tbl.filter fun x => !(on x.1 (2 ^ 26)),
    susp := s.susp.filter fun x => cidDie x.eid != d,
    ras := s.ras.filter fun x => x.die != d,
    spares := s.spares.filter fun x => x.1 != d,
    mem := s.mem.filter fun c => !(lo ≤ c.1 && c.1 < lo + larderBytes),
    larderPoison := s.larderPoison.filter fun l => !(lo / 128 ≤ l && l < (lo + larderBytes) / 128) }
  dregSet s 0 0x18 (setBits (dregGet s 0 0x18) d d 1)

/-- The L1s and L2 slices of a die write every dirty word and U delta back to its home (R422). -/
def drainDie (s : State) (d : Nat) : State :=
  drainL2 ((List.range (Config.coreCount d)).foldl (fun s k => writeBackCore s (256 * d + k) true) s) d

/-- DIE_ORDERLY_RESET (R422): RSTCTL.ORDERLY has been set, while no partition held a block of the die. Should one hold a block by now, the write
is ignored after all. -/
def execDieOrderlyReset (d : Nat) (s : State) : Result :=
  if 1 ≤ d ∧ d ≤ 12 ∧ bitAt (dregGet s d 0x80) 0 then
    if dieInUse s d then .next (dregSet s d 0x80 (setBits (setBits (dregGet s d 0x80) 0 0 0) 2 2 1))
    else .next (resetDie (drainDie s d) d)
  else off s

/-- DIE_FORCED_RESET (R392, R422): RSTCTL.FORCED has been written. -/
def execDieForcedReset (d : Nat) (s : State) : Result :=
  if 1 ≤ d ∧ d ≤ 12 ∧ bitAt (dregGet s d 0x80) 1 then .next (resetDie (quarantine s d) d) else off s

/-! Engine faults (R336) -/

/-- What the engine of an operation does next: by the class of R332, a copy slice, a tensor copy, a ray query, a fragment, the
matrix engine of a core, a capture or a frame of display 2 p + v, or the table-update command of a partition. -/
def engineActs (cls op : Nat) (s : State) : List Result :=
  match cls with
  | 0 => [execCopySlicePerform op s]
  | 1 => [execCopytPerform op s]
  | 2 => [execRayQueryComplete op s]
  | 3 => [execBlendFragment op s]
  | 4 => [execMatrixOpPerform op s]
  | 5 => [execFrameCapture (op / 2) (op % 2) s, execFrameEncodeDone (op / 2) (op % 2) s]
  | 6 => [execPtupdWrite op s, execPtupdFill op s, execPtupdRead op s, execPtupdFlush op s, execPtupdSync op s, execPtupdPool op s,
          execShootdownComplete op s]
  | _ => []

/-- ENGINE_FAULT (R336): the operation's next act, where it ends in a suspension. -/
def execEngineFault (cls op : Nat) (s : State) : Result :=
  let faults (r : Result) : Bool := match r with | .next t => decide (s.susp.length < t.susp.length) | _ => false
  match (engineActs cls op s).find? faults with
  | some r => r
  | none => off s

end Sys2Proof.Machine
end

