-- ==== Sys2Proof/Machine/Turns.lean ====
section
/-! DEFINITION. Who acts next (log 1) and the events of a control context between two instructions (R338, R339). -/

namespace Sys2Proof.Machine

open Sys2Proof

/-- The lowest event that is pending and enabled in a control context (R338, R339). -/
def pendingEvent (s : State) (n : Nat) : Option Nat :=
  let x := epend s n &&& (ctl s n).een.toNat
  (List.range 4).find? (bitAt x)

/-- A control context takes its lowest pending event (R339). -/
def eventEntry (s : State) (n b : Nat) : State :=
  let s' := takeEvent s n (ctl s n).pc (0x80 + b) 0
  if b = 3 ∧ (ctl s n).lvl = 2 then { s' with dieEvents := 0 } else s'

/-- Between two instructions (R339): a context in WFI goes on at its next word once an enabled event is pending, and a
context with EIE takes it. None when neither happens. -/
def betweenWords (s : State) (n : Nat) : Option State :=
  let c := ctl s n
  match pendingEvent s n with
  | none => none
  | some b =>
    if c.run ∧ c.mode = .wfi then
      let s := updCtl s n fun c => { c with mode := .ready, pc := (c.pc + 4) % 2 ^ 64 }
      some (if c.estat.getLsbD 0 then eventEntry s n b else s)
    else if c.run ∧ c.mode = .ready ∧ c.estat.getLsbD 0 then some (eventEntry s n b)
    else none

/-! Issue (R43, R48, R207, R263) -/

/-- What a core has issued in the present raw cycle. -/
def issueNow (s : State) (cid : Nat) : Issue :=
  let c := coreAt s cid
  let x := c.issue
  if x.raw = coreRaw s cid then x else { raw := coreRaw s cid, last := x.last }

/-- The threads that a batch context's next word issues for, in ascending home lane (R43, R48). -/
def batchHeads (s : State) (cid b : Nat) : List Agent :=
  match (coreAt s cid).batches.find b with
  | some x => x.todo.filterMap fun l => (x.lanes.find l).map fun y => .vthread y.1 y.2
  | none => []

/-- A batch context may issue a word now: at most two of a core do in a raw cycle and one batch at most one word (R43). Those of one
cycle issue in ascending number and before the Scribe, so that the order of steps is the issue order (R48, R207). -/
def batchMay (s : State) (cid b : Nat) : Bool :=
  let x := issueNow s cid
  decide (x.batches.length < 2) && x.batches.all (· < b) && x.words.isEmpty

/-- A batch context issues in the present raw cycle. -/
def noteBatch (s : State) (cid b : Nat) : State :=
  let x := issueNow s cid
  updCore s cid fun c => { c with issue := { x with batches := x.batches ++ [b] } }

/-- Forms of which at most one of two words issued together may be (R263): memory, atomics, tensor handles, channels, time, MAT,
SPAWN, control transfers, and here every privileged form too. -/
def soloOp (w : Word32) : Bool := w.toNat / 2 ^ 25 == 0x23 || decide (0x28 ≤ w.toNat / 2 ^ 25)

/-- Every register field that a word of some format holds. -/
def wordFields (w : Word32) : List Nat := [0, 7, 11, 14, 18].map fun lo => bits w.toNat (lo + 6) lo

/-- A second word issues with a first when it cannot read a register that the first may write, and at most one of them is of the
forms that R263 names. The device may issue one word where two would be allowed, so fields are compared whatever their role. -/
def pairs (x y : Word32) : Bool :=
  !(soloOp x && soloOp y)
  && (wordFields x).all fun p => decide (112 ≤ p) || (wordFields y).all fun q => p != q && p + 1 != q && p != q + 1

/-- The Ready context that a Scribe selects: the first after the one it selected last (R263). -/
def scribeNext (last : Nat) (ready : Nat → Bool) : Option Nat := ((List.range 8).map fun k => (last + 1 + k) % 8).find? ready

/-- A context may issue now: it is the one selected for the cycle, or issues the second word of a pair. -/
def scribeMay (x : Issue) (ready : Nat → Bool) (k : Nat) (w : Word32) : Bool :=
  match x.words with
  | [] => scribeNext x.last ready == some k
  | [v] => x.last == k && pairs v w
  | _ => false

/-- The word that an agent would execute next, 0 where it cannot be fetched. -/
def peekWord (s : State) (a : Agent) : Word32 :=
  match fetchWord { s with cur := a } a (curPc { s with cur := a }) with
  | .ok (w, _) => w
  | _ => 0

/-- The Scribe of an agent: its core, its context number, and its context of each number (R263, R427). -/
def scribeOf (s : State) (a : Agent) : Option (Nat × Nat × (Nat → Option Agent)) :=
  match a with
  | .scribe w => (wg? s w).bind fun g => g.cid?.bind fun cid => g.ctx.map fun c =>
      (cid, c.scid, fun k => ((residents s cid).find? fun x => x.2.ctx.any fun y => y.scid == k).map fun x => .scribe x.1)
  | .control n => some (n / 8, n % 8, fun k => some (.control (n / 8 * 8 + k)))
  | .vthread _ _ => none

/-- A context's next word is a transfer that can issue and leads to itself, so that it changes nothing and the context issues it again. -/
def loops (s : State) (a : Agent) : Bool :=
  let s := { s with cur := a }
  let own (va : Nat) : Bool := va == curPc s && (match transferTarget s va with | .ok _ => true | _ => false)
  match decode (wordBytes (peekWord s a)) with
  | .ok (.br o, _) | .ok (.call _ o, _) => own (relative s o)
  | .ok (.bnz r o, _) => readR s r != 0 && own (relative s o)
  | .ok (.bz r o, _) => readR s r == 0 && own (relative s o)
  | .ok (.jmpr r, _) | .ok (.callr _ r, _) => own (readP s r).toNat
  | .ok (.eret, _) => releaseReady s && (match a with | .control n => (ctl s n).epc.toNat == curPc s | _ => false)
  | _ => false

/-- A context is Ready (R262): it runs, and its next word, by `word`, does something or leads to itself; one whose word cannot issue yet is
Stalled. -/
def contextReady (word : Agent → State → Result) (s : State) (a : Agent) : Bool :=
  canRun { s with cur := a }
  && ((match word a s with
    | .next t => decide ({ t with cur := s.cur, ir := s.ir } ≠ s)
    | _ => false) || loops s a)

/-- A Scribe context may issue now: its Scribe selects among the Ready ones (R263). -/
def contextMay (word : Agent → State → Result) (s : State) (a : Agent) : Bool :=
  match scribeOf s a with
  | some (cid, k, at') => scribeMay (issueNow s cid) (fun k => (at' k).any (contextReady word s)) k (peekWord s a)
  | none => false

/-- A word is SPAWN's or LAUNCH's, whose children follow one order over the lanes of its batch (R48). -/
def createsChildren (w : Word32) : Bool :=
  match decode (wordBytes w) with
  | .ok (i, _) => match i with
    | .spawn _ _ _ | .launch _ _ => true
    | _ => false
  | .error _ => false

/-- Some thread of a batch has still to execute the word `k` that the batch stands at. -/
def laneLeft (s : State) (cid b k : Nat) : Bool :=
  ((coreAt s cid).batches.find b).any fun x => x.word == k && x.todo.any fun l => (x.lanes.find l).any fun y =>
    (thread? s y.1 y.2).any fun t => t.st == .running b

/-- A Scribe's context issues a word in the present raw cycle. -/
def noteScribe (s : State) (cid k : Nat) (w : Word32) : State :=
  let x := issueNow s cid
  updCore s cid fun c => { c with issue := { x with words := x.words ++ [w], last := k } }

/-- A context issues its next word in the present raw cycle. -/
def noteContext (s : State) (a : Agent) : State :=
  match scribeOf s a with
  | some (cid, k, _) => noteScribe s cid k (peekWord s a)
  | none => s

/-- Stores words where control context 0 fetches its next instruction (R411, log 4). -/
def placeWord (s : State) (w : Nat) : State :=
  { s with bootRam := Memory.write s.bootRam (ctl s 0).pc (toBytes 4 w) }

end Sys2Proof.Machine
end

