-- ==== Sys2Proof/Machine/Settings.lean ====
section
/-! DEFINITION. Acts that write registers of the part (R12, R76, R118, R324, R327, R331, R364, R381, R382, R389, R398, R403-R408,
R412, R425), what follows from them, and the acts of events and fault logs (R331, R338, R339). -/

namespace Sys2Proof.Machine

open Sys2Proof

/-- Whether anything but BOOTSTAT and the device mailbox is served: not after a failed boot (R411). -/
def running (s : State) (r : Result) : Result := if s.bootDead then off s else r

/-! Control contexts and events -/

/-- CTXCFG_WRITE (R324). -/
def execCtxcfgWrite (n : Nat) (v : Word64) (s : State) : Result :=
  running s (if n < 32 then .next (ctxcfgWrite s n v.toNat) else off s)

/-- CONTROL_EVENT_TAKE (R339). -/
def execControlEventTake (n : Nat) (s : State) : Result :=
  match if (die s 0).tripped then none else betweenWords s n with
  | some s => .next s
  | none => off s

/-- ETCMP_EXPIRY (R338): the TIMER event is pending from the tick on at which the timer has reached ETCMP. It writes nothing: `epend`
reads the timer. -/
def execEtcmpExpiry (_n : Nat) (s : State) : Result := .next s

/-! Fault logs (R331) -/

/-- The entry of a post as it is written: its words with SEQ. -/
def Post.bytes (x : Post) (head : Nat) : List Byte := (x.words.set 13 (BitVec.ofNat 32 head)).flatMap fun w => toBytes 4 w.toNat

/-- What kind of agent a post is about (R332). -/
def Post.kind (x : Post) : Nat := bits (x.words.headD 0).toNat 10 8

/-- Two posts have one source, a core or an engine. -/
def Post.sameSource (x y : Post) : Bool := y.log == x.log && y.src == x.src && decide (y.kind ≤ 1) == decide (x.kind ≤ 1)

/-- No older fault of its source waits before a post, nor, of a core, one that has no record yet (R331). -/
def firstOfSource (s : State) (x : Post) : Bool :=
  s.posts.all (fun y => !x.sameSource y || decide (x.ord ≤ y.ord))
  && (decide (1 < x.kind) || (coreAt s x.src).stalls.all fun h => decide (x.ord ≤ h.ord) || !((wg? s h.wg).any fun g => g.part == x.log))

/-- What a post needs of the die of its source waits in the crossing FIFOs: the entry itself on its way to the Hearth, or a write-back of the
core's release (R124, R331, R416, R417). -/
def Post.crossing (s : State) (x : Post) : Bool :=
  (decide (x.kind ≤ 2) && crossWait s (cidDie x.src) 0) || (decide (x.kind ≤ 1) && backHeld s x.src)

/-- An agent is of the core, or is the control context, that a post is about. -/
def Post.about (s : State) (x : Post) (a : Agent) : Bool :=
  match a with
  | .control n => x.kind == 4 && n == x.src
  | _ => decide (x.kind ≤ 1) && (issuer s a).cid == some x.src

/-- The release of SYS scope before an entry write can take effect (R331): the agent's accesses to peers have completed and every push of
a write is acknowledged. -/
def Post.ready (s : State) (x : Post) : Bool :=
  (x.kind == 3 || x.kind == 5 || !pushesOut s) && !(s.peerOut.any fun y => y.ag.any (x.about s)) && (x.kind != 2 || x.log = devicePart || enginesOk s x.log)

/-- A faulting core's release of SYS scope (R124, R331); an engine's writes stand at their homes already. -/
def Post.release (s : State) (x : Post) : State := if x.kind ≤ 1 then releaseCore s x.src 3 else s

/-- FAULT_LOG_POST (R331). -/
def execFaultLogPost (post : Nat) (s : State) : Result :=
  match s.posts.find? fun x => x.id == post with
  | some x =>
    let size := csrGet s 0x105 x.log
    let head := csrGet s 0x106 x.log
    if size = 0 ∨ 2 ^ size ≤ (head + 2 ^ 32 - csrGet s 0x107 x.log) % 2 ^ 32 ∨ firstOfSource s x = false ∨ x.ready s = false ∨ x.crossing s = true then off s
    else if homeHeld s 0 (csrGet s 0x104 x.log + 128 * (head % 2 ^ size)) then off s
    else
      let pa := csrGet s 0x104 x.log + 128 * (head % 2 ^ size)
      let s := x.release s
      let s := recode (putBytes (lineOwn s (lineOf pa) (wordMask pa 128) none) pa (x.bytes head)) pa 128 false
      .next (csrSet { s with posts := s.posts.filter fun y => y.id != post } 0x106 x.log ((head + 1) % 2 ^ 32))
  | none => off s

/-- FLOG_TAIL_WRITE (R331): of a partition's log, or of the device log 64. -/
def execFlogTailWrite (log v : Nat) (s : State) : Result :=
  running s (if log ≤ devicePart then .next (logWrite s log 0x107 v) else off s)

/-- FLOG_CONFIG_WRITE (R331): of the size, or of the base. -/
def execFlogConfigWrite (log : Nat) (size : Bool) (v : Word64) (s : State) : Result :=
  running s (if log ≤ devicePart then .next (logWrite s log (if size then 0x105 else 0x104) v.toNat) else off s)

/-! Worlds and splits (R118, R327) -/

/-- BWORLD_WRITE (R327, R344): as named by a die and a core group. -/
def execBworldWrite (d g : Nat) (v : Word64) (s : State) : Result :=
  running s <| if d < 256 ∧ g < 255 then
    let e : CsrEnv := { part := devicePart, die := d, cg := g, cid := 0, ctl := none, lvl := 2, sec := true }
    .next (csrWrite s e 0x500 v.toNat)
  else off s

/-- BWORLD_TAKE_EFFECT (R327): an idle block adopts its world. -/
def execBworldTakeEffect (d blk : Nat) (s : State) : Result :=
  if blk < 72 ∧ bworldBit s d blk ≠ blockWorld s d blk ∧ blockIdle s d blk then .next (blockAdopt s d blk) else off s

/-- LSCFG_WRITE (R118): cores without a resident workgroup adopt it at once. -/
def execLscfgWrite (d g : Nat) (v : Word64) (s : State) : Result :=
  running s <| if Config.isCompute d ∧ g < Config.coreGroups d then .next ((cgCores d g).foldl adoptSplit (csrSet s 0x101 (cgKey d g) (v.toNat % 4)))
  else off s

/-- A split or a world was ever set, so that some core or block may have one to adopt. -/
def everSet (s : State) : Bool :=
  s.csr.any (fun x => x.1 / 65536 == 0x101 || x.1 / 65536 == 0x500 || x.1 / 65536 == bworldDie)
  || s.cgs.any (fun x => x.2.sec) || s.dies.any (fun x => x.2.lbg != 0 || x.2.cpy != 0 || x.2.enc != 0) || s.cores.any fun x => x.2.spsel != 0

/-- Every core that holds no workgroup adopts its split, and every idle block its world, at the first such moment (R118, R327): at the end of
every step. -/
def takeUp (s : State) : State :=
  if everSet s then
    (List.range 13).foldl (fun s d =>
      blocksAdopt (((List.range (Config.coreGroups d)).flatMap (cgCores d)).foldl adoptSplit s) d) s
  else s

/-- LSCFG_ADOPT (R118). -/
def execLscfgAdopt (cid : Nat) (s : State) : Result :=
  if (residents s cid).isEmpty ∧ csrGet s 0x101 (cgKey (cidDie cid) (cidCg cid)) % 4 ≠ (coreAt s cid).spsel then .next (adoptSplit s cid)
  else off s

/-! Die registers (R76, R389, R407, R425) -/

/-- A DIEWR of a register of a die whose place is as a condition has it. -/
def dieAct (ok : Bool) (s : State) (d o : Nat) (v : Word64) : Result :=
  running s <| if ok && diePresent s d && dregAssigned d o then .next (dieWrite s d o v.toNat).1 else off s

/-- ACCX_WRITE (R76). -/
def execAccxWrite (d : Nat) (v : Word64) (s : State) : Result := dieAct (Config.isShading d) s d 0x60 v
/-- CPYOWN_WRITE (R425). -/
def execCpyownWrite (d e : Nat) (v : Word64) (s : State) : Result := dieAct (d != 0) s d (0x3100 + 8 * e) v
/-- ENCOWN_WRITE (R407). -/
def execEncownWrite (d e : Nat) (v : Word64) (s : State) : Result := dieAct (d != 0 && decide (e < 16)) s d (0x3000 + 8 * e) v
/-- FABCTL_WRITE (R389). -/
def execFabctlWrite (v : Word64) (s : State) : Result := dieAct true s 0 0 v
/-- ROT_ENTRY_WRITE (R389). -/
def execRotEntryWrite (n : Nat) (v : Word64) (s : State) : Result := dieAct (decide (n < 16384)) s 0 (0x100000 + 8 * n) v

/-! Partition registers (R364, R381, R382, R398) -/

/-- REGISTER_WRITE (R12): the host writes a doubleword of a partition's block, or of the device block 64. -/
def execRegisterWrite (block o : Nat) (v : Word64) (s : State) : Result :=
  if block ≤ devicePart ∧ o % 8 = 0 ∧ o < 65536 then .next (pregWrite s .host block o v.toNat (2 ^ 64 - 1)) else off s

/-- QCTL_WRITE (R364): its 32 bits alone. -/
def execQctlWrite (p q : Nat) (v : Word32) (s : State) : Result :=
  running s <| if p < 64 ∧ q < 16 then .next (pregWrite s .pm p (0x20 * q + 8) v.toNat (2 ^ 32 - 1)) else off s

/-- CGMASK_MEMBER_WRITE (R381). -/
def execCgmaskMemberWrite (p d : Nat) (v : Word64) (s : State) : Result :=
  running s <| if p < 64 ∧ d < 13 then .next (cgmaskWrite s p d v.toNat) else off s

/-- CGMASK_DEPART_WRITE (R382). -/
def execCgmaskDepartWrite (p d : Nat) (v : Word64) (s : State) : Result :=
  running s <| if p < 64 ∧ d < 13 then .next (cgmaskWrite s p d v.toNat) else off s

/-- A departing core group holds nothing more (R382). -/
def groupEmpty (s : State) (d g : Nat) : Bool :=
  !cgResident s d g && !cgHeld s d g && !cgQueued s d g && !cgSuspended s d g && !(s.fwds.any fun f => cidDie f.cid == d && cidCg f.cid == g)

/-- DEPARTURE_COMPLETE (R382): the L1s and the L2 slices write back and invalidate, and MEMBER and DEPART are cleared together. -/
def execDepartureComplete (d g : Nat) (s : State) : Result :=
  match (List.range 64).find? fun p => isMember s p d g && isDeparting s p d g with
  | some p =>
    if g < Config.coreGroups d ∧ groupEmpty s d g then
      let s := shareBack s d (cgCores d g)
      .next (pregSet s p (0x400 + 8 * d) (setBits (setBits (cgmask s p d) g g 0) (16 + g) (16 + g) 0))
    else off s
  | none => off s

/-! Mailboxes (R398) -/

/-- A mailbox of a partition, or of the device block, which alone is served after a failed boot (R398, R411). -/
def mailbox (s : State) (p : Nat) : Bool := decide (p ≤ devicePart) && served s p 0x880

/-- The eight doublewords of a message are written. -/
def putMessage (s : State) (p o : Nat) (m : BitVec 512) : State :=
  (List.range 8).foldl (fun s k => pregSet s p (o + 8 * k) (bits m.toNat (64 * k + 63) (64 * k))) s

/-- MBIN_POST (R398): the host has written MBIN and sets IFULL. -/
def execMbinPost (p : Nat) (msg : BitVec 512) (s : State) : Result :=
  if mailbox s p ∧ bitAt (pregGet s p 0x880) 0 = false then .next (mbctlWrite (putMessage s p 0x800 msg) .host p 1) else off s

/-- MBIN_RELEASE (R398): the device clears IFULL. -/
def execMbinRelease (p : Nat) (s : State) : Result :=
  if mailbox s p ∧ bitAt (pregGet s p 0x880) 0 then .next (mbctlWrite s .dm p 1) else off s

/-- MBOUT_POST (R398): the device has written MBOUT and sets OFULL; the host gets its vector. -/
def execMboutPost (p : Nat) (msg : BitVec 512) (s : State) : Result :=
  if mailbox s p ∧ bitAt (pregGet s p 0x880) 1 = false then
    .next (mbctlWrite (putMessage s p 0x840 msg) .dm p 2)
  else off s

/-- MBOUT_RELEASE (R398): the host clears OFULL. -/
def execMboutRelease (p : Nat) (s : State) : Result :=
  if mailbox s p ∧ bitAt (pregGet s p 0x880) 1 then .next (mbctlWrite s .host p 2) else off s

/-! Displays and streams (R403, R405, R408, R410) -/

/-- DISPLAY_ENABLE (R403): a write of DCTL that sets EN. -/
def execDisplayEnable (p v : Nat) (x : Word64) (s : State) : Result :=
  running s <| if p < 64 ∧ v < 2 ∧ x.getLsbD 31 then .next (dctlWrite s p v x.toNat) else off s

/-- DISPLAY_HOLD_RELEASE (R405): a write of DCTL that clears HOLD. -/
def execDisplayHoldRelease (p v : Nat) (x : Word64) (s : State) : Result :=
  running s <| if p < 64 ∧ v < 2 ∧ x.getLsbD 30 = false ∧ bitAt (dispReg s p v 0) 30 then .next (dctlWrite s p v x.toNat) else off s

/-- STREAM_ENABLE (R408): a write of SCTL that sets EN. -/
def execStreamEnable (p v : Nat) (x : Word64) (s : State) : Result :=
  running s <| if p < 64 ∧ v < 2 ∧ x.getLsbD 63 ∧ bitAt (dispReg s p v 0x50) 63 = false then .next (sctlWrite s p v x.toNat) else off s

/-- STREAM_DISABLE (R410): a write of SCTL that clears EN. -/
def execStreamDisable (p v : Nat) (x : Word64) (s : State) : Result :=
  running s <| if p < 64 ∧ v < 2 ∧ x.getLsbD 63 = false ∧ bitAt (dispReg s p v 0x50) 63 then .next (sctlWrite s p v x.toNat) else off s

/-! The fuse of the rollback counter (R412) -/

/-- FUSE_MINVER_RAISE (R412): a raise takes effect at the next package reset and cannot be undone. -/
def execFuseMinverRaise (v : Nat) (s : State) : Result :=
  running s <| .next { s with minverNext := Max.max (Max.max s.minverNext s.minver) (v % 2 ^ 32) }

end Sys2Proof.Machine
end

