-- ==== Sys2Proof/Machine/Dispatch.lean ====
section
/-! DEFINITION. The meaning of each step of spec/opcode_table.json, one arm each. -/

namespace Sys2Proof.Machine

open Sys2Proof

def exec (i : Instr) (s : State) : Host.Outcome State Fault Refusal :=
  match i with
  | .block p l f c => Sys2Proof.Machine.execBlock p l f c s
  | .add d a b => Sys2Proof.Machine.execAdd d a b s
  | .sub d a b => Sys2Proof.Machine.execSub d a b s
  | .and d a b => Sys2Proof.Machine.execAnd d a b s
  | .or d a b => Sys2Proof.Machine.execOr d a b s
  | .xor d a b => Sys2Proof.Machine.execXor d a b s
  | .andn d a b => Sys2Proof.Machine.execAndn d a b s
  | .shl d a b => Sys2Proof.Machine.execShl d a b s
  | .shr d a b => Sys2Proof.Machine.execShr d a b s
  | .sar d a b => Sys2Proof.Machine.execSar d a b s
  | .rotl d a b => Sys2Proof.Machine.execRotl d a b s
  | .min d a b => Sys2Proof.Machine.execMin d a b s
  | .max d a b => Sys2Proof.Machine.execMax d a b s
  | .minu d a b => Sys2Proof.Machine.execMinu d a b s
  | .maxu d a b => Sys2Proof.Machine.execMaxu d a b s
  | .adds d a b => Sys2Proof.Machine.execAdds d a b s
  | .subs d a b => Sys2Proof.Machine.execSubs d a b s
  | .mul d a b => Sys2Proof.Machine.execMul d a b s
  | .mulh d a b => Sys2Proof.Machine.execMulh d a b s
  | .mulhu d a b => Sys2Proof.Machine.execMulhu d a b s
  | .mad d a b => Sys2Proof.Machine.execMad d a b s
  | .div d a b => Sys2Proof.Machine.execDiv d a b s
  | .divu d a b => Sys2Proof.Machine.execDivu d a b s
  | .rem d a b => Sys2Proof.Machine.execRem d a b s
  | .remu d a b => Sys2Proof.Machine.execRemu d a b s
  | .seq d a b => Sys2Proof.Machine.execSeq d a b s
  | .sne d a b => Sys2Proof.Machine.execSne d a b s
  | .slt d a b => Sys2Proof.Machine.execSlt d a b s
  | .sge d a b => Sys2Proof.Machine.execSge d a b s
  | .sltu d a b => Sys2Proof.Machine.execSltu d a b s
  | .sgeu d a b => Sys2Proof.Machine.execSgeu d a b s
  | .mov d a => Sys2Proof.Machine.execMov d a s
  | .not d a => Sys2Proof.Machine.execNot d a s
  | .neg d a => Sys2Proof.Machine.execNeg d a s
  | .abs d a => Sys2Proof.Machine.execAbs d a s
  | .clz d a => Sys2Proof.Machine.execClz d a s
  | .ctz d a => Sys2Proof.Machine.execCtz d a s
  | .popc d a => Sys2Proof.Machine.execPopc d a s
  | .brev d a => Sys2Proof.Machine.execBrev d a s
  | .sxb d a => Sys2Proof.Machine.execSxb d a s
  | .sxh d a => Sys2Proof.Machine.execSxh d a s
  | .zxb d a => Sys2Proof.Machine.execZxb d a s
  | .zxh d a => Sys2Proof.Machine.execZxh d a s
  | .bswap d a => Sys2Proof.Machine.execBswap d a s
  | .sel d a b => Sys2Proof.Machine.execSel d a b s
  | .bfx d a b => Sys2Proof.Machine.execBfx d a b s
  | .bfxu d a b => Sys2Proof.Machine.execBfxu d a b s
  | .bfi d a b => Sys2Proof.Machine.execBfi d a b s
  | .addi d a m => Sys2Proof.Machine.execAddi d a m s
  | .andi d a m => Sys2Proof.Machine.execAndi d a m s
  | .ori d a m => Sys2Proof.Machine.execOri d a m s
  | .xori d a m => Sys2Proof.Machine.execXori d a m s
  | .shli d a m => Sys2Proof.Machine.execShli d a m s
  | .shri d a m => Sys2Proof.Machine.execShri d a m s
  | .sari d a m => Sys2Proof.Machine.execSari d a m s
  | .slti d a m => Sys2Proof.Machine.execSlti d a m s
  | .sltui d a m => Sys2Proof.Machine.execSltui d a m s
  | .muli d a m => Sys2Proof.Machine.execMuli d a m s
  | .movi d m => Sys2Proof.Machine.execMovi d m s
  | .movhi d m => Sys2Proof.Machine.execMovhi d m s
  | .pcadr d m => Sys2Proof.Machine.execPcadr d m s
  | .fadd d a b => Sys2Proof.Machine.execFadd d a b s
  | .fsub d a b => Sys2Proof.Machine.execFsub d a b s
  | .fmul d a b => Sys2Proof.Machine.execFmul d a b s
  | .fma d a b => Sys2Proof.Machine.execFma d a b s
  | .fnma d a b => Sys2Proof.Machine.execFnma d a b s
  | .fmin d a b => Sys2Proof.Machine.execFmin d a b s
  | .fmax d a b => Sys2Proof.Machine.execFmax d a b s
  | .fminm d a b => Sys2Proof.Machine.execFminm d a b s
  | .fmaxm d a b => Sys2Proof.Machine.execFmaxm d a b s
  | .fcpsgn d a b => Sys2Proof.Machine.execFcpsgn d a b s
  | .feq d a b => Sys2Proof.Machine.execFeq d a b s
  | .flt d a b => Sys2Proof.Machine.execFlt d a b s
  | .fle d a b => Sys2Proof.Machine.execFle d a b s
  | .fun d a b => Sys2Proof.Machine.execFun d a b s
  | .fclass d a => Sys2Proof.Machine.execFclass d a s
  | .fabs d a => Sys2Proof.Machine.execFabs d a s
  | .fneg d a => Sys2Proof.Machine.execFneg d a s
  | .fsqrt d a => Sys2Proof.Machine.execFsqrt d a s
  | .frcp d a => Sys2Proof.Machine.execFrcp d a s
  | .frsq d a => Sys2Proof.Machine.execFrsq d a s
  | .fex2 d a => Sys2Proof.Machine.execFex2 d a s
  | .flg2 d a => Sys2Proof.Machine.execFlg2 d a s
  | .fsinp d a => Sys2Proof.Machine.execFsinp d a s
  | .fcosp d a => Sys2Proof.Machine.execFcosp d a s
  | .ftanh d a => Sys2Proof.Machine.execFtanh d a s
  | .fflr d a => Sys2Proof.Machine.execFflr d a s
  | .fceil d a => Sys2Proof.Machine.execFceil d a s
  | .ftrc d a => Sys2Proof.Machine.execFtrc d a s
  | .frnd d a => Sys2Proof.Machine.execFrnd d a s
  | .hadd2 d a b => Sys2Proof.Machine.execHadd2 d a b s
  | .hsub2 d a b => Sys2Proof.Machine.execHsub2 d a b s
  | .hmul2 d a b => Sys2Proof.Machine.execHmul2 d a b s
  | .hfma2 d a b => Sys2Proof.Machine.execHfma2 d a b s
  | .hmin2 d a b => Sys2Proof.Machine.execHmin2 d a b s
  | .hmax2 d a b => Sys2Proof.Machine.execHmax2 d a b s
  | .hdot2 d a b => Sys2Proof.Machine.execHdot2 d a b s
  | .badd2 d a b => Sys2Proof.Machine.execBadd2 d a b s
  | .bsub2 d a b => Sys2Proof.Machine.execBsub2 d a b s
  | .bmul2 d a b => Sys2Proof.Machine.execBmul2 d a b s
  | .bfma2 d a b => Sys2Proof.Machine.execBfma2 d a b s
  | .bmin2 d a b => Sys2Proof.Machine.execBmin2 d a b s
  | .bmax2 d a b => Sys2Proof.Machine.execBmax2 d a b s
  | .bdot2 d a b => Sys2Proof.Machine.execBdot2 d a b s
  | .cvt x r d a k => Sys2Proof.Machine.execCvt x r d a k s
  | .dadd d a b => Sys2Proof.Machine.execDadd d a b s
  | .dsub d a b => Sys2Proof.Machine.execDsub d a b s
  | .dmul d a b => Sys2Proof.Machine.execDmul d a b s
  | .dfma d a b => Sys2Proof.Machine.execDfma d a b s
  | .dmin d a b => Sys2Proof.Machine.execDmin d a b s
  | .dmax d a b => Sys2Proof.Machine.execDmax d a b s
  | .deq d a b => Sys2Proof.Machine.execDeq d a b s
  | .dlt d a b => Sys2Proof.Machine.execDlt d a b s
  | .dle d a b => Sys2Proof.Machine.execDle d a b s
  | .ladd d a b => Sys2Proof.Machine.execLadd d a b s
  | .lsub d a b => Sys2Proof.Machine.execLsub d a b s
  | .lmul d a b => Sys2Proof.Machine.execLmul d a b s
  | .lshl d a b => Sys2Proof.Machine.execLshl d a b s
  | .lshr d a b => Sys2Proof.Machine.execLshr d a b s
  | .lsar d a b => Sys2Proof.Machine.execLsar d a b s
  | .cmake d a => Sys2Proof.Machine.execCmake d a s
  | .join d a => Sys2Proof.Machine.execJoin d a s
  | .leave a => Sys2Proof.Machine.execLeave a s
  | .csize d a => Sys2Proof.Machine.execCsize d a s
  | .bara a => Sys2Proof.Machine.execBara a s
  | .pbara b => Sys2Proof.Machine.execPbara b s
  | .barw a => Sys2Proof.Machine.execBarw a s
  | .pbarw b => Sys2Proof.Machine.execPbarw b s
  | .cradd d a => Sys2Proof.Machine.execCradd d a s
  | .crfadd d a => Sys2Proof.Machine.execCrfadd d a s
  | .crmin d a => Sys2Proof.Machine.execCrmin d a s
  | .crmax d a => Sys2Proof.Machine.execCrmax d a s
  | .cscan d a => Sys2Proof.Machine.execCscan d a s
  | .cfscan d a => Sys2Proof.Machine.execCfscan d a s
  | .cbcast d a b => Sys2Proof.Machine.execCbcast d a b s
  | .xperm d a b => Sys2Proof.Machine.execXperm d a b s
  | .cshuf d a b => Sys2Proof.Machine.execCshuf d a b s
  | .send a b => Sys2Proof.Machine.execSend a b s
  | .recv d b => Sys2Proof.Machine.execRecv d b s
  | .chpoll d b => Sys2Proof.Machine.execChpoll d b s
  | .ldb d a m => Sys2Proof.Machine.execLdb d a m s
  | .ldbu d a m => Sys2Proof.Machine.execLdbu d a m s
  | .ldh d a m => Sys2Proof.Machine.execLdh d a m s
  | .ldhu d a m => Sys2Proof.Machine.execLdhu d a m s
  | .ldw d a m => Sys2Proof.Machine.execLdw d a m s
  | .ldd d a m => Sys2Proof.Machine.execLdd d a m s
  | .ldq d a m => Sys2Proof.Machine.execLdq d a m s
  | .stb d a m => Sys2Proof.Machine.execStb d a m s
  | .sth d a m => Sys2Proof.Machine.execSth d a m s
  | .stw d a m => Sys2Proof.Machine.execStw d a m s
  | .std d a m => Sys2Proof.Machine.execStd d a m s
  | .stq d a m => Sys2Proof.Machine.execStq d a m s
  | .ldaq x z d a => Sys2Proof.Machine.execLdaq x z d a s
  | .strl x z d a => Sys2Proof.Machine.execStrl x z d a s
  | .fence k x => Sys2Proof.Machine.execFence k x s
  | .atomAdd x d a b => Sys2Proof.Machine.execAtomAdd x d a b s
  | .atomMin x d a b => Sys2Proof.Machine.execAtomMin x d a b s
  | .atomMax x d a b => Sys2Proof.Machine.execAtomMax x d a b s
  | .atomMinu x d a b => Sys2Proof.Machine.execAtomMinu x d a b s
  | .atomMaxu x d a b => Sys2Proof.Machine.execAtomMaxu x d a b s
  | .atomAnd x d a b => Sys2Proof.Machine.execAtomAnd x d a b s
  | .atomOr x d a b => Sys2Proof.Machine.execAtomOr x d a b s
  | .atomXor x d a b => Sys2Proof.Machine.execAtomXor x d a b s
  | .atomSwap x d a b => Sys2Proof.Machine.execAtomSwap x d a b s
  | .atomCas x d a b => Sys2Proof.Machine.execAtomCas x d a b s
  | .atomIncw x d a b => Sys2Proof.Machine.execAtomIncw x d a b s
  | .atomFadd x d a b => Sys2Proof.Machine.execAtomFadd x d a b s
  | .atomHadd2 x d a b => Sys2Proof.Machine.execAtomHadd2 x d a b s
  | .atomLadd x d a b => Sys2Proof.Machine.execAtomLadd x d a b s
  | .atomLcas x d a b => Sys2Proof.Machine.execAtomLcas x d a b s
  | .waitge d a b => Sys2Proof.Machine.execWaitge d a b s
  | .waitne d a b => Sys2Proof.Machine.execWaitne d a b s
  | .waiteq d a b => Sys2Proof.Machine.execWaiteq d a b s
  | .ldsub d a b => Sys2Proof.Machine.execLdsub d a b s
  | .ldsubD d a b => Sys2Proof.Machine.execLdsubD d a b s
  | .unsub d b => Sys2Proof.Machine.execUnsub d b s
  | .slotwait d a b => Sys2Proof.Machine.execSlotwait d a b s
  | .slotrd d b => Sys2Proof.Machine.execSlotrd d b s
  | .slotst d b => Sys2Proof.Machine.execSlotst d b s
  | .copy a b => Sys2Proof.Machine.execCopy a b s
  | .copyt a => Sys2Proof.Machine.execCopyt a s
  | .pref a => Sys2Proof.Machine.execPref a s
  | .ldel d a b => Sys2Proof.Machine.execLdel d a b s
  | .ldeli d a b => Sys2Proof.Machine.execLdeli d a b s
  | .stel d a b => Sys2Proof.Machine.execStel d a b s
  | .ptload a b => Sys2Proof.Machine.execPtload a b s
  | .ptread d a b => Sys2Proof.Machine.execPtread d a b s
  | .br o => Sys2Proof.Machine.execBr o s
  | .bnz a o => Sys2Proof.Machine.execBnz a o s
  | .bz a o => Sys2Proof.Machine.execBz a o s
  | .call a o => Sys2Proof.Machine.execCall a o s
  | .jmpr a => Sys2Proof.Machine.execJmpr a s
  | .callr d a => Sys2Proof.Machine.execCallr d a s
  | .spawn d a b => Sys2Proof.Machine.execSpawn d a b s
  | .launch d a => Sys2Proof.Machine.execLaunch d a s
  | .setwb a => Sys2Proof.Machine.execSetwb a s
  | .grow d a => Sys2Proof.Machine.execGrow d a s
  | .shrink a => Sys2Proof.Machine.execShrink a s
  | .rdtime d => Sys2Proof.Machine.execRdtime d s
  | .rdcyc d => Sys2Proof.Machine.execRdcyc d s
  | .rdncyc d => Sys2Proof.Machine.execRdncyc d s
  | .rdlrw d a => Sys2Proof.Machine.execRdlrw d a s
  | .emitvp a => Sys2Proof.Machine.execEmitvp a s
  | .blnd a => Sys2Proof.Machine.execBlnd a s
  | .depthw a => Sys2Proof.Machine.execDepthw a s
  | .rayq a b => Sys2Proof.Machine.execRayq a b s
  | .mzero d => Sys2Proof.Machine.execMzero d s
  | .mmd d a b => Sys2Proof.Machine.execMmd d a b s
  | .mmp d a b => Sys2Proof.Machine.execMmp d a b s
  | .mstore d a b => Sys2Proof.Machine.execMstore d a b s
  | .mldw d a => Sys2Proof.Machine.execMldw d a s
  | .mstw d a => Sys2Proof.Machine.execMstw d a s
  | .mflag d a => Sys2Proof.Machine.execMflag d a s
  | .mcomp a b => Sys2Proof.Machine.execMcomp a b s
  | .mrows a => Sys2Proof.Machine.execMrows a s
  | .mcols a => Sys2Proof.Machine.execMcols a s
  | .tdset d a => Sys2Proof.Machine.execTdset d a s
  | .tdget a b => Sys2Proof.Machine.execTdget a b s
  | .tdclr d => Sys2Proof.Machine.execTdclr d s
  | .trap m => Sys2Proof.Machine.execTrap m s
  | .brk m => Sys2Proof.Machine.execBrk m s
  | .csrr d c => Sys2Proof.Machine.execCsrr d c s
  | .csrw d c => Sys2Proof.Machine.execCsrw d c s
  | .ptupd d a => Sys2Proof.Machine.execPtupd d a s
  | .rgnflush d a => Sys2Proof.Machine.execRgnflush d a s
  | .ownxfer d a b => Sys2Proof.Machine.execOwnxfer d a b s
  | .rgnq d a => Sys2Proof.Machine.execRgnq d a s
  | .pstep d a b => Sys2Proof.Machine.execPstep d a b s
  | .wgsave d a b => Sys2Proof.Machine.execWgsave d a b s
  | .wgload d a b => Sys2Proof.Machine.execWgload d a b s
  | .wgmigr d a b => Sys2Proof.Machine.execWgmigr d a b s
  | .wgkill d a => Sys2Proof.Machine.execWgkill d a s
  | .resume d a b => Sys2Proof.Machine.execResume d a b s
  | .thkill d a => Sys2Proof.Machine.execThkill d a s
  | .lwopen d a => Sys2Proof.Machine.execLwopen d a s
  | .lwclose d a => Sys2Proof.Machine.execLwclose d a s
  | .chbind d a b => Sys2Proof.Machine.execChbind d a b s
  | .pbset d a b => Sys2Proof.Machine.execPbset d a b s
  | .dierd d a => Sys2Proof.Machine.execDierd d a s
  | .diewr d a b => Sys2Proof.Machine.execDiewr d a b s
  | .linktrn d a => Sys2Proof.Machine.execLinktrn d a s
  | .icinvCore => Sys2Proof.Machine.execIcinvCore s
  | .icinvDie => Sys2Proof.Machine.execIcinvDie s
  | .icinvDev => Sys2Proof.Machine.execIcinvDev s
  | .icinvSys => Sys2Proof.Machine.execIcinvSys s
  | .exit => Sys2Proof.Machine.execExit s
  | .discard => Sys2Proof.Machine.execDiscard s
  | .eret => Sys2Proof.Machine.execEret s
  | .wfi => Sys2Proof.Machine.execWfi s
  | .channelSendResume wg ch => Sys2Proof.Machine.execChannelSendResume wg ch s
  | .waitReread ag => Sys2Proof.Machine.execWaitReread ag s
  | .subscriptionPush sub => Sys2Proof.Machine.execSubscriptionPush sub s
  | .unsubComplete sub => Sys2Proof.Machine.execUnsubComplete sub s
  | .copySlicePerform op => Sys2Proof.Machine.execCopySlicePerform op s
  | .copytPerform op => Sys2Proof.Machine.execCopytPerform op s
  | .rayQueryComplete q => Sys2Proof.Machine.execRayQueryComplete q s
  | .matrixOpPerform cid => Sys2Proof.Machine.execMatrixOpPerform cid s
  | .ownxferComplete form => Sys2Proof.Machine.execOwnxferComplete form s
  | .relockEnd die => Sys2Proof.Machine.execRelockEnd die s
  | .larderDigestDone die => Sys2Proof.Machine.execLarderDigestDone die s
  | .packageReset => Sys2Proof.Machine.execPackageReset s
  | .bootImageFetch image => Sys2Proof.Machine.execBootImageFetch image s
  | .fuseMinverRaise v => Sys2Proof.Machine.execFuseMinverRaise v s
  | .attestationReport nonce dest => Sys2Proof.Machine.execAttestationReport nonce dest s
  | .ctxcfgWrite n v => Sys2Proof.Machine.execCtxcfgWrite n v s
  | .controlEventTake n => Sys2Proof.Machine.execControlEventTake n s
  | .etcmpExpiry n => Sys2Proof.Machine.execEtcmpExpiry n s
  | .faultLogPost post => Sys2Proof.Machine.execFaultLogPost post s
  | .flogTailWrite log v => Sys2Proof.Machine.execFlogTailWrite log v s
  | .flogConfigWrite log size v => Sys2Proof.Machine.execFlogConfigWrite log size v s
  | .bworldWrite die cg v => Sys2Proof.Machine.execBworldWrite die cg v s
  | .bworldTakeEffect die block => Sys2Proof.Machine.execBworldTakeEffect die block s
  | .lscfgWrite die cg v => Sys2Proof.Machine.execLscfgWrite die cg v s
  | .lscfgAdopt cid => Sys2Proof.Machine.execLscfgAdopt cid s
  | .accxWrite die v => Sys2Proof.Machine.execAccxWrite die v s
  | .cpyownWrite die e v => Sys2Proof.Machine.execCpyownWrite die e v s
  | .encownWrite die e v => Sys2Proof.Machine.execEncownWrite die e v s
  | .fabctlWrite v => Sys2Proof.Machine.execFabctlWrite v s
  | .rotEntryWrite m v => Sys2Proof.Machine.execRotEntryWrite m v s
  | .registerWrite block off v => Sys2Proof.Machine.execRegisterWrite block off v s
  | .qctlWrite part q v => Sys2Proof.Machine.execQctlWrite part q v s
  | .queueRecordTake part q => Sys2Proof.Machine.execQueueRecordTake part q s
  | .deviceLaunchTake part => Sys2Proof.Machine.execDeviceLaunchTake part s
  | .launchDependenceMet part lid => Sys2Proof.Machine.execLaunchDependenceMet part lid s
  | .dispatcherReport die => Sys2Proof.Machine.execDispatcherReport die s
  | .workgroupRunHandoff part lid => Sys2Proof.Machine.execWorkgroupRunHandoff part lid s
  | .workgroupPlace part lid wid => Sys2Proof.Machine.execWorkgroupPlace part lid wid s
  | .launchComplete part lid => Sys2Proof.Machine.execLaunchComplete part lid s
  | .nibBatchFormation cid => Sys2Proof.Machine.execNibBatchFormation cid s
  | .fillTimerExpiry cid baddr => Sys2Proof.Machine.execFillTimerExpiry cid baddr s
  | .entryAgeForce cid baddr => Sys2Proof.Machine.execEntryAgeForce cid baddr s
  | .faultedThreadRecord cid => Sys2Proof.Machine.execFaultedThreadRecord cid s
  | .placementRetry wg tid => Sys2Proof.Machine.execPlacementRetry wg tid s
  | .spillReload cid => Sys2Proof.Machine.execSpillReload cid s
  | .spillSwap cid => Sys2Proof.Machine.execSpillSwap cid s
  | .quantumBoundary part => Sys2Proof.Machine.execQuantumBoundary part s
  | .workgroupSave wg => Sys2Proof.Machine.execWorkgroupSave wg s
  | .workgroupRestore wg cid => Sys2Proof.Machine.execWorkgroupRestore wg cid s
  | .forwardedItem cid => Sys2Proof.Machine.execForwardedItem cid s
  | .forwardingDrainAck cid => Sys2Proof.Machine.execForwardingDrainAck cid s
  | .cgmaskMemberWrite part die v => Sys2Proof.Machine.execCgmaskMemberWrite part die v s
  | .cgmaskDepartWrite part die v => Sys2Proof.Machine.execCgmaskDepartWrite part die v s
  | .departureComplete die cg => Sys2Proof.Machine.execDepartureComplete die cg s
  | .homeReadRequest cid line words => Sys2Proof.Machine.execHomeReadRequest cid line words s
  | .homeOwnershipRequest cid line words => Sys2Proof.Machine.execHomeOwnershipRequest cid line words s
  | .homeWriteback cid line words => Sys2Proof.Machine.execHomeWriteback cid line words s
  | .homeUReduction cid line word kind v => Sys2Proof.Machine.execHomeUReduction cid line word kind v s
  | .homeAckReceived line cid => Sys2Proof.Machine.execHomeAckReceived line cid s
  | .l1Invalidation cid line => Sys2Proof.Machine.execL1Invalidation cid line s
  | .l1Recall cid line => Sys2Proof.Machine.execL1Recall cid line s
  | .l1Eviction cid line => Sys2Proof.Machine.execL1Eviction cid line s
  | .larderRefreshStart die g => Sys2Proof.Machine.execLarderRefreshStart die g s
  | .larderRefreshEnd die g => Sys2Proof.Machine.execLarderRefreshEnd die g s
  | .pageWalk die part va => Sys2Proof.Machine.execPageWalk die part va s
  | .adReport => Sys2Proof.Machine.execAdReport s
  | .ptupdWrite part => Sys2Proof.Machine.execPtupdWrite part s
  | .ptupdFill part => Sys2Proof.Machine.execPtupdFill part s
  | .ptupdRead part => Sys2Proof.Machine.execPtupdRead part s
  | .ptupdFlush part => Sys2Proof.Machine.execPtupdFlush part s
  | .ptupdSync part => Sys2Proof.Machine.execPtupdSync part s
  | .ptupdPool part => Sys2Proof.Machine.execPtupdPool part s
  | .shootdownComplete part => Sys2Proof.Machine.execShootdownComplete part s
  | .engineFault kind op => Sys2Proof.Machine.execEngineFault kind op s
  | .binningMeshlet die cg => Sys2Proof.Machine.execBinningMeshlet die cg s
  | .visPacketArrival pkt => Sys2Proof.Machine.execVisPacketArrival pkt s
  | .packetResend pkt => Sys2Proof.Machine.execPacketResend pkt s
  | .batchRetire part bseq => Sys2Proof.Machine.execBatchRetire part bseq s
  | .sealArrival sl => Sys2Proof.Machine.execSealArrival sl s
  | .rasterInputFree die cg => Sys2Proof.Machine.execRasterInputFree die cg s
  | .rasterPacket die cg => Sys2Proof.Machine.execRasterPacket die cg s
  | .fragmentSpawn die cg => Sys2Proof.Machine.execFragmentSpawn die cg s
  | .blendFragment frag => Sys2Proof.Machine.execBlendFragment frag s
  | .pbarrierRootArrival pb wg => Sys2Proof.Machine.execPbarrierRootArrival pb wg s
  | .pbarrierRelease pb => Sys2Proof.Machine.execPbarrierRelease pb s
  | .dltoRecovery port cls => Sys2Proof.Machine.execDltoRecovery port cls s
  | .linkReplay port attempts lost addr => Sys2Proof.Machine.execLinkReplay port attempts lost addr s
  | .hostMemRead addr own => Sys2Proof.Machine.execHostMemRead addr own s
  | .hostMemWrite addr data => Sys2Proof.Machine.execHostMemWrite addr data s
  | .hostSnoop addr => Sys2Proof.Machine.execHostSnoop addr s
  | .peerInboundAccess port off kind n data => Sys2Proof.Machine.execPeerInboundAccess port off kind n data s
  | .mbinPost part msg => Sys2Proof.Machine.execMbinPost part msg s
  | .mbinRelease part => Sys2Proof.Machine.execMbinRelease part s
  | .mboutPost part msg => Sys2Proof.Machine.execMboutPost part msg s
  | .mboutRelease part => Sys2Proof.Machine.execMboutRelease part s
  | .displayEnable part disp v => Sys2Proof.Machine.execDisplayEnable part disp v s
  | .displayHoldRelease part disp v => Sys2Proof.Machine.execDisplayHoldRelease part disp v s
  | .frameCapture part disp => Sys2Proof.Machine.execFrameCapture part disp s
  | .frameEncodeDone part disp => Sys2Proof.Machine.execFrameEncodeDone part disp s
  | .streamEnable part disp v => Sys2Proof.Machine.execStreamEnable part disp v s
  | .streamDisable part disp v => Sys2Proof.Machine.execStreamDisable part disp v s
  | .powerUpComplete die cg => Sys2Proof.Machine.execPowerUpComplete die cg s
  | .thermalTrip die temp => Sys2Proof.Machine.execThermalTrip die temp s
  | .correctedError die loc => Sys2Proof.Machine.execCorrectedError die loc s
  | .uncorrectableError array addr => Sys2Proof.Machine.execUncorrectableError array addr s
  | .dieOrderlyReset die => Sys2Proof.Machine.execDieOrderlyReset die s
  | .dieForcedReset die => Sys2Proof.Machine.execDieForcedReset die s
  | .dataReplyArrival cid line => Sys2Proof.Machine.execDataReplyArrival cid line s
  | .peerCompletion op => Sys2Proof.Machine.execPeerCompletion op s
  | .spareRowCopyEnd die loc => Sys2Proof.Machine.execSpareRowCopyEnd die loc s

end Sys2Proof.Machine
end

