-- ==== Sys2Proof/Machine/Schedule.lean ====
section
/-! DEFINITION. What the part does by itself when the agenda names no one (log 1): the acts that are due at a tick, and a round
over everything that may act, so that every batch, wait, queue and operation under way gets its turn again (R60, R62). -/

namespace Sys2Proof.Machine

open Sys2Proof

/-- Something that may be done next, the turn of an agent or an act of a unit, under a name of its own. -/
structure Doing where
  name : Nat × Nat × Nat
  run : State → Result

/-- An act of kind `k` about `a` and `b`. -/
def act (k a b : Nat) (f : State → Result) : Doing := ⟨(k, a, b), f⟩

/-- The name of an agent's waiting, as one number. -/
def agentName (a : Agent) : Nat × Nat :=
  match a with
  | .vthread w t => (2 * w, t)
  | .scribe w => (2 * w + 1, 0)
  | .control n => (2 * n + 1, 1)

/-- The partitions that have launches, queues or workgroups. -/
def livePartitions (s : State) : List Nat :=
  ((s.wgs.map fun x => x.2.part) ++ (s.launches.map fun l => l.part) ++ (s.dlq.map fun x => x.part)).eraseDups

/-- Acts that a tick makes due (R83, R370, R402, R404, R415), a captured frame's coding, which R410 bounds, the recovery of a queue that has
stood for its time (R387), and a die reset that has been asked for (R422). -/
def dueActs (s : State) : List Doing :=
  ((livePartitions s).map fun p => act 0 p 0 (execQuantumBoundary p))
  ++ ((SMap.keys s.pbs).map fun b => act 1 b 0 (execPbarrierRelease b))
  ++ (s.disps.flatMap fun x => [act 2 x.1 0 (execFrameCapture (x.1 / 2) (x.1 % 2)), act 2 x.1 1 (execFrameEncodeDone (x.1 / 2) (x.1 % 2))])
  ++ ((SMap.keys s.dies).map fun d => act 3 d 0 (execRelockEnd d))
  ++ ((SMap.keys s.cgs).map fun k => act 4 k 0 (execPowerUpComplete (k / 256) (k % 256)))
  ++ ((List.range 25).flatMap fun p => ((List.range 6).filter (stalled s p)).map fun c => act 46 p c (execDltoRecovery p c))
  ++ ((List.range 13).flatMap fun d => [act 47 d 0 (execDieOrderlyReset d), act 47 d 1 (execDieForcedReset d)])

/-- The contexts of the four control Scribes. -/
def controlActs (turn : Act → State → Result) : List Doing := (List.range 32).map fun n => act 5 n 0 (turn (.control n))

/-- Agents that wait for a condition that a read may meet. -/
def waiters (s : State) : List Agent :=
  (s.wgs.flatMap fun x => ((x.2.threads.filter fun t => match t.2.st with | .waiting _ => true | _ => false).map fun t => Agent.vthread x.1 t.1)
    ++ (if x.2.ctx.any fun c => c.mode != .ready && c.mode != .ended then [.scribe x.1] else []))
  ++ ((s.ctl.filter fun c => match c.2.mode with | .waiting _ => true | _ => false).map fun c => .control c.1)

/-- What one core may do: issue batches, let its Scribe issue, form a batch, and retry what waits for room. -/
def coreActs (turn : Act → State → Result) (s : State) (cid : Nat) : List Doing :=
  ((SMap.keys (coreAt s cid).batches).map fun b => act 6 cid b (turn (.batch cid b)))
  ++ ((residents s cid).filterMap fun x => x.2.ctx.map fun _ => act 7 x.1 0 (turn (.scribe x.1)))
  ++ [act 8 cid 0 (execNibBatchFormation cid), act 8 cid 1 (execFaultedThreadRecord cid), act 8 cid 2 (execSpillReload cid),
      act 8 cid 3 (execSpillSwap cid), act 8 cid 4 (execMatrixOpPerform cid), act 8 cid 5 (execLscfgAdopt cid),
      act 8 cid 6 (execForwardedItem cid), act 8 cid 7 (execForwardingDrainAck cid)]

/-- Waits, pushes and the operations of engines under way. -/
def workActs (s : State) : List Doing :=
  ((waiters s).map fun a => act 9 (agentName a).1 (agentName a).2 (execWaitReread a))
  ++ (s.wgs.flatMap fun x =>
      ((x.2.threads.filter fun t => t.2.st == .waiting .place).map fun t => act 10 x.1 t.1 (execPlacementRetry x.1 t.1))
      ++ ((SMap.keys x.2.chans).map fun c => act 11 x.1 c (execChannelSendResume x.1 c))
      ++ [act 12 x.1 0 (execWorkgroupSave x.1)]
      ++ (match x.2.place with
          | .saved _ => (permittedCores s x.2.part 3).map fun c => act 13 x.1 c (execWorkgroupRestore x.1 c)
          | .resident _ => []))
  ++ (s.subs.flatMap fun x => [act 14 x.id 0 (execSubscriptionPush x.id), act 14 x.id 1 (execUnsubComplete x.id)])
  ++ (s.copies.flatMap fun x => [act 15 x.id 0 (execCopySlicePerform x.id), act 15 x.id 1 (execCopytPerform x.id)])
  ++ (s.rays.map fun x => act 16 x.id 0 (execRayQueryComplete x.id))
  ++ (s.forms.map fun f => act 17 f.id 0 (execOwnxferComplete f.id))
  ++ (s.pbFlight.map fun x => act 18 x.1 x.2.1 (execPbarrierRootArrival x.1 x.2.1))
  ++ (s.posts.map fun x => act 19 x.id 0 (execFaultLogPost x.id))
  ++ (s.cohMsgs.flatMap fun m =>
      (m.toL1.flatMap fun c => [act 20 c m.line (execL1Invalidation c m.line), act 21 c m.line (execL1Recall c m.line)])
      ++ (m.acks.map fun c => act 22 c m.line (execHomeAckReceived m.line c)) ++ [act 23 m.cid m.line (execDataReplyArrival m.cid m.line)])
  ++ (if s.reports.isEmpty then [] else [act 24 0 0 execAdReport])
  ++ ((s.ptq.map fun c => c.part).eraseDups.flatMap fun p =>
      [act 25 p 0 (execPtupdWrite p), act 25 p 1 (execPtupdFill p), act 25 p 2 (execPtupdRead p), act 25 p 3 (execPtupdFlush p),
       act 25 p 4 (execPtupdSync p), act 25 p 5 (execPtupdPool p), act 25 p 6 (execShootdownComplete p)])
  ++ (s.spares.map fun x => act 26 x.1 x.2 (execSpareRowCopyEnd x.1 x.2))

/-- Geometry, raster and display paths. -/
def imageActs (s : State) : List Doing :=
  ((s.binq.map fun m => (m.die, m.cg)).eraseDups.map fun x => act 27 x.1 x.2 (execBinningMeshlet x.1 x.2))
  ++ (s.packets.flatMap fun p => match p.stage with
      | .hold | .full => [act 28 p.id 0 (execVisPacketArrival p.id)]
      | .refused | .hearth => [act 28 p.id 1 (execPacketResend p.id)]
      | .proof => [act 29 p.die p.cg (execRasterInputFree p.die p.cg)]
      | .raster => [act 30 p.die p.cg (execRasterPacket p.die p.cg)]
      | _ => [])
  ++ ((s.batches.filter fun b => !b.retired).map fun b => act 31 b.part b.bseq (execBatchRetire b.part b.bseq))
  ++ ((s.seals.filter fun x => !x.held).map fun x => act 32 x.id 0 (execSealArrival x.id))
  ++ ((s.frags.map fun f => (f.die, f.cg)).eraseDups.map fun x => act 33 x.1 x.2 (execFragmentSpawn x.1 x.2))
  ++ (s.frags.map fun f => act 34 f.id 0 (execBlendFragment f.id))

/-- Queues, launches and placement (R365-R369). -/
def launchActs (s : State) : List Doing :=
  (s.launches.flatMap fun l =>
    [act 35 l.part l.lid (execLaunchDependenceMet l.part l.lid), act 36 l.part l.lid (execWorkgroupRunHandoff l.part l.lid),
     act 37 l.part l.lid (execLaunchComplete l.part l.lid)]
    ++ l.handed.map fun x => act 38 (64 * l.lid + l.part) x.2 (execWorkgroupPlace l.part l.lid x.2))
  ++ ((s.dlq.map fun x => x.part).eraseDups.map fun p => act 39 p 0 (execDeviceLaunchTake p))
  ++ ((List.range 64).filterMap fun p => (nextQueue s p).map fun q => act 40 p q (execQueueRecordTake p q))

/-- Settings that a part takes up once it is idle, and reports (R58, R118, R139, R327, R382). -/
def idleSettings : List Doing :=
  ((List.range 13).flatMap fun d =>
    ((List.range 72).map fun b => act 41 d b (execBworldTakeEffect d b))
    ++ ((List.range (Config.coreGroups d)).map fun g => act 42 d g (execDepartureComplete d g)))
  ++ ((List.range 13).flatMap fun d => [act 43 d 0 (execDispatcherReport d), act 43 d 1 (execLarderDigestDone d)])
  ++ ((List.range 13).flatMap fun d => (List.range 8).flatMap fun g =>
      [act 44 d g (execLarderRefreshStart d g), act 45 d g (execLarderRefreshEnd d g)])

/-- The cores with a resident workgroup, an item or an entry that forwards. -/
def liveCores (s : State) : List Nat :=
  ((s.wgs.filterMap fun x => x.2.cid?) ++ (s.items.map fun x => x.cid) ++ (s.fwds.map fun x => x.cid)).eraseDups

/-- Everything that may act. -/
def idleActs (turn : Act → State → Result) (s : State) : List Doing :=
  controlActs turn ++ (liveCores s).flatMap (coreActs turn s) ++ workActs s ++ imageActs s ++ launchActs s ++ idleSettings

/-- The first of a list that does something: its name and the state after it. -/
def firstActing (s : State) : List Doing → Option ((Nat × Nat × Nat) × State)
  | [] => none
  | f :: l =>
    match f.run s with
    | .next s' => if s' = s then firstActing s l else some (f.name, s')
    | _ => firstActing s l

/-- Cycles of 700 MHz in the longest raw cycle (R82): so long a round waits for what has not acted in it, since what its core has issued in a
raw cycle may keep a batch from issuing until the next one (R43). -/
def lullCycles : Nat := 3

/-- The round after a cycle in which nothing acts that had not acted in it: `again` is what has acted once more. -/
def roundOn (s : State) (again : List (Nat × Nat × Nat)) (t : State) : State :=
  if s.lull + 1 < lullCycles then { t with round := s.round, lull := s.lull + 1 } else { t with round := again, lull := 0 }

/-- With nothing on the agenda the part goes on by itself (log 1): an act that is due at this tick, else, one cycle of 700 MHz
later, one of a round over everything that may act. What has not acted in the round comes first; once for a whole raw cycle nothing of that
kind could act, a new round begins. So everything that stays able to act does act, whatever has come and gone meanwhile (R60, R62). -/
def idleStep (turn : Act → State → Result) (s : State) : State :=
  match firstActing s (dueActs s) with
  | some (_, s) => s
  | none =>
    let s := passTime s 12
    let l := idleActs turn s
    match firstActing s (l.filter fun f => !s.round.contains f.name) with
    | some (n, t) => { t with round := n :: s.round, lull := 0 }
    | none =>
      match firstActing s (l.filter fun f => s.round.contains f.name) with
      | some (n, t) => roundOn s [n] t
      | none => roundOn s [] s

end Sys2Proof.Machine
end

