-- ==== Sys2Proof/Machine/Run.lean ====
section
/-! DEFINITION. What one turn does: an agent's instruction word, the word of a batch for all its lanes, an event of a control context, an
act of a unit, or what the world outside does. -/

namespace Sys2Proof.Machine

open Sys2Proof

/-- An agent fetches, decodes and executes its next instruction word (R141, R177); one that does not run does nothing. -/
def runWord (a : Agent) (s : State) : Result :=
  let s := { s with cur := a }
  if canRun s then
    match fetchWord s a (curPc s) with
    | .ok (w, s) =>
      match decode (wordBytes w) with
      | .ok (i, _) => exec i { s with ir := w }
      | .error _ => raise .illegal 0 0 { s with ir := w }
    | .bad c v => raise c v 0 { useFree s with ir := (freeValue s).setWidth 32 }
    | .wait => .next s
  else .next s

/-- A word issues for the threads of its batch in ascending home lane (R43, R48). -/
def runLanes : List Agent → State → State
  | [], s => s
  | a :: l, s => runLanes l (match runWord a s with | .next t => t | _ => s)

/-- The word index that a batch stands at. -/
def wordAt (s : State) (cid b : Nat) : Nat := (((coreAt s cid).batches.find b).map (·.word)).getD 0

/-- A batch context's turn: its next word, for every thread that has still to execute it (R43). A SPAWN or LAUNCH issues once every thread
can execute it, so that its children follow ascending home lane (R48, R206-R208). What a batch does whose block has been rewritten under it
is undefined-valued (R142). -/
def runBatch (cid b : Nat) (s : State) : Result :=
  if batchMay s cid b && (batchHeads s cid b).any (fun a => canRun { s with cur := a }) then
    let u := runLanes (batchHeads s cid b) (noteBatch s cid b)
    let t := if torn s cid b then tornResults s u else u
    .next (if createsChildren t.ir && laneLeft t cid b (wordAt s cid b) then s else t)
  else .next s

/-- A Scribe context's turn: its next word, when its Scribe selects it (R263). -/
def runContext (a : Agent) (s : State) : Result :=
  if contextMay runWord s a then runWord a (noteContext s a) else .next s

/-- A control context's turn: an event between two instructions (R339), else its next word; nothing while the Hearth has tripped (R417). -/
def runControl (n : Nat) (s : State) : Result :=
  if (die s 0).tripped then .next s
  else match betweenWords s n with
  | some s => .next s
  | none => if (ctl s n).mode = .wfi then .next s else runContext (.control n) s

/-- One turn. An instruction word is executed by the agent that fetches it and is no act of a unit, so that a turn which names one does
nothing. -/
def runTurn (t : Act) (s : State) : Result :=
  match t with
  | .batch cid b => runBatch cid b s
  | .scribe w => runContext (.scribe w) s
  | .control n => runControl n s
  | .unit i => if (encode i).isSome then .next s else exec i s
  | .outside pa l => .next (outsideStore s pa l)
  | .hostLoad o => .next (hostLoad s o)

/-- What ends every step: what has become idle takes up its settings (R118, R327). -/
def settled (r : Result) : Result :=
  match r with
  | .next s => .next (takeUp s)
  | r => r

end Sys2Proof.Machine
end

