-- ==== Sys2Proof/Machine/Step.lean ====
section
/-! DEFINITION. One step of the part. -/

namespace Sys2Proof.Machine

open Sys2Proof

/-- ONE STEP: the agenda's next turn, or, with nothing on it, what the part does by itself (log 1); then what has become idle takes up its
settings (R118, R327). -/
def step (s : State) : Result :=
  match s.agenda with
  | t :: l => settled (runTurn t.act (passTime { s with agenda := l } t.dt))
  | [] => settled (.next (idleStep runTurn s))

/-- The state with an instruction word placed where the next step fetches (log 1, log 4). -/
def State.withFetchWord (s : State) (nbits w : Nat) : State := placeWord s (w % 2 ^ nbits)

end Sys2Proof.Machine
end

