-- ==== Sys2Proof/Laws/Checks.lean ====
section
/-! SUPPORT. What the shared forms answer: the checks of R177, an access's outcome, and taking a fault. -/

namespace Sys2Proof.Laws

open Sys2Proof Sys2Proof.Machine

/-- With every check passed an instruction has its own effect. -/
theorem guarded_passed {fm : Form} {s : State} {k : State → Result} (h : canRun s = true) (hc : checkForm s fm = none) :
    guarded fm s k = k s := by simp [guarded, h, hc]

/-- With a check failed it faults and has no other effect. -/
theorem guarded_failed {fm : Form} {s : State} {k : State → Result} {c : Cause} (h : canRun s = true) (hc : checkForm s fm = some c) :
    guarded fm s k = raise c 0 0 s := by simp [guarded, h, hc]

theorem run_ok {β : Type} {x : Out β} {s : State} {k : β → Result} {a : β} (h : x = .ok a) : x.run s k = k a := by simp [h, Out.run]

/-- A fault is taken in a next state. -/
theorem raise_next (c : Cause) (f : Nat) (i : Word64) (s : State) : raise c f i s = .next (raiseState c f i s) := rfl

theorem done_next (s : State) : done s = .next (advance s) := rfl

/-- A checked read whose target resolves. -/
theorem readMem_ok {s : State} {i : Issuer} {va n : Nat} {t : Tgt} (h : resolve s i { va := va, size := n, rd := true } = .ok t) :
    readMem s i va n = .ok (readTgt s i t n) := by simp [readMem, h, Out.bind]

/-- A checked write whose target resolves. -/
theorem writeMem_ok {s : State} {i : Issuer} {va : Nat} {l : List Byte} {t : Tgt}
    (h : resolve s i { va := va, size := l.length, wr := true } = .ok t) : writeMem s i va l = .ok (writeTgt s i t l) := by
  simp [writeMem, h, Out.bind]

end Sys2Proof.Laws
end

