-- ==== Sys2Proof/Laws/Encoding.lean ====
section
/-! SUPPORT. The fields of an encoded word are the fields it was made of (R167), and a word's bytes decode as the word. -/

namespace Sys2Proof.Laws

open Sys2Proof

/-- Bits of the low part of a concatenation. -/
theorem extract_low {m n : Nat} (x : BitVec m) (y : BitVec n) (k l : Nat) (h : k + l ≤ n) :
    (x ++ y).extractLsb' k l = y.extractLsb' k l := by
  apply BitVec.eq_of_getLsbD_eq
  intro i hi
  simp [BitVec.getLsbD_append, show k + i < n by omega]

/-- Bits of the high part of a concatenation. -/
theorem extract_high {m n : Nat} (x : BitVec m) (y : BitVec n) (k l : Nat) (h : n ≤ k) :
    (x ++ y).extractLsb' k l = x.extractLsb' (k - n) l := by
  apply BitVec.eq_of_getLsbD_eq
  intro i hi
  simp [BitVec.getLsbD_append, show ¬ (k + i < n) by omega, show k + i - n = k - n + i by omega]

/-- The whole of a vector. -/
theorem extract_all {n : Nat} (x : BitVec n) : x.extractLsb' 0 n = x := by
  apply BitVec.eq_of_getLsbD_eq
  intro i hi
  simp [hi]

@[simp] theorem opOf_rr (op : BitVec 7) (fn : BitVec 4) (d a b : Field) : opOf (rr op fn d a b) = op := by
  unfold opOf rr
  rw [extract_high _ _ _ _ (by decide), extract_high _ _ _ _ (by decide), extract_high _ _ _ _ (by decide),
    extract_high _ _ _ _ (by decide)]
  exact extract_all op
@[simp] theorem fnOf_rr (op : BitVec 7) (fn : BitVec 4) (d a b : Field) : fnOf (rr op fn d a b) = fn := by
  unfold fnOf rr
  rw [extract_high _ _ _ _ (by decide), extract_high _ _ _ _ (by decide), extract_high _ _ _ _ (by decide),
    extract_low _ _ _ _ (by decide)]
  exact extract_all fn
@[simp] theorem rrD_rr (op : BitVec 7) (fn : BitVec 4) (d a b : Field) : rrD (rr op fn d a b) = d := by
  unfold rrD rr
  rw [extract_high _ _ _ _ (by decide), extract_high _ _ _ _ (by decide), extract_low _ _ _ _ (by decide)]
  exact extract_all d
@[simp] theorem rrA_rr (op : BitVec 7) (fn : BitVec 4) (d a b : Field) : rrA (rr op fn d a b) = a := by
  unfold rrA rr
  rw [extract_high _ _ _ _ (by decide), extract_low _ _ _ _ (by decide)]
  exact extract_all a
@[simp] theorem rrB_rr (op : BitVec 7) (fn : BitVec 4) (d a b : Field) : rrB (rr op fn d a b) = b := by
  unfold rrB rr
  rw [extract_low _ _ _ _ (by decide)]
  exact extract_all b
@[simp] theorem opOf_ri (op : BitVec 7) (d a : Field) (i : BitVec 11) : opOf (ri op d a i) = op := by
  unfold opOf ri
  rw [extract_high _ _ _ _ (by decide), extract_high _ _ _ _ (by decide), extract_high _ _ _ _ (by decide)]
  exact extract_all op
@[simp] theorem riD_ri (op : BitVec 7) (d a : Field) (i : BitVec 11) : riD (ri op d a i) = d := by
  unfold riD ri
  rw [extract_high _ _ _ _ (by decide), extract_high _ _ _ _ (by decide), extract_low _ _ _ _ (by decide)]
  exact extract_all d
@[simp] theorem riA_ri (op : BitVec 7) (d a : Field) (i : BitVec 11) : riA (ri op d a i) = a := by
  unfold riA ri
  rw [extract_high _ _ _ _ (by decide), extract_low _ _ _ _ (by decide)]
  exact extract_all a
@[simp] theorem riI_ri (op : BitVec 7) (d a : Field) (i : BitVec 11) : riI (ri op d a i) = i := by
  unfold riI ri
  rw [extract_low _ _ _ _ (by decide)]
  exact extract_all i
@[simp] theorem opOf_rw (op : BitVec 7) (d : Field) (i : BitVec 18) : opOf (rw op d i) = op := by
  unfold opOf rw
  rw [extract_high _ _ _ _ (by decide), extract_high _ _ _ _ (by decide)]
  exact extract_all op
@[simp] theorem riD_rw (op : BitVec 7) (d : Field) (i : BitVec 18) : riD (rw op d i) = d := by
  unfold riD rw
  rw [extract_high _ _ _ _ (by decide), extract_low _ _ _ _ (by decide)]
  exact extract_all d
@[simp] theorem rwI_rw (op : BitVec 7) (d : Field) (i : BitVec 18) : rwI (rw op d i) = i := by
  unfold rwI rw
  rw [extract_low _ _ _ _ (by decide)]
  exact extract_all i

/-- A word's bytes put together again are the word. -/
theorem word_of_bytes (w : Word32) :
    (w.extractLsb' 24 8 ++ w.extractLsb' 16 8 ++ w.extractLsb' 8 8 ++ w.extractLsb' 0 8 : BitVec 32) = w := by
  apply BitVec.eq_of_getLsbD_eq
  intro i hi
  simp only [BitVec.getLsbD_append, BitVec.getLsbD_extractLsb']
  by_cases h1 : i < 8
  · simp [h1]
  · by_cases h2 : i < 16
    · simp [h1, show i - 8 < 8 by omega, show 8 + (i - 8) = i by omega]
    · by_cases h3 : i < 24
      · simp [h1, show ¬ (i - 8 < 8) by omega, show i - 8 - 8 < 8 by omega, show 16 + (i - 8 - 8) = i by omega]
      · simp [h1, show ¬ (i - 8 < 8) by omega, show ¬ (i - 8 - 8 < 8) by omega, show i - 8 - 8 - 8 < 8 by omega,
          show 24 + (i - 8 - 8 - 8) = i by omega]

/-- Decoding the bytes of a word decodes the word (R10, R167). -/
theorem decode_wordBytes (w : Word32) (rest : List Byte) :
    decode (wordBytes w ++ rest) = match decodeWord w with
      | .ok i => .ok (i, rest)
      | .error e => .error e := by
  unfold wordBytes decode
  cases h : decodeWord w <;> simp only [List.cons_append, List.nil_append, word_of_bytes, h]

end Sys2Proof.Laws
end

