-- ==== Sys2Proof/Laws/Lines.lean ====
section
/-! SUPPORT. What the operations on bytes, lines and slices may change: one lemma for each, by which everything else is as before. -/

namespace Sys2Proof.Laws

open Sys2Proof Sys2Proof.Machine

theorem noteWrite_shape (s : State) (pa n : Nat) :
    noteWrite s pa n = { s with free := (noteWrite s pa n).free, nextId := (noteWrite s pa n).nextId, subs := (noteWrite s pa n).subs } := by
  unfold noteWrite
  split <;> rfl

theorem layPut_shape (s : State) (pa : Nat) (l : List Byte) :
    layPut s pa l = { s with mem := Memory.write s.mem pa l, free := (layPut s pa l).free, nextId := (layPut s pa l).nextId,
                             subs := (layPut s pa l).subs } := by
  unfold layPut
  rw [noteWrite_shape]

/-- Bytes put into memory: memory, the writes counted for its subscriptions, and what they leave of what the part has laid out. -/
theorem putBytes_shape (s : State) (pa : Nat) (l : List Byte) :
    putBytes s pa l = { s with mem := Memory.write s.mem pa l, free := (putBytes s pa l).free, nextId := (putBytes s pa l).nextId,
                               subs := (putBytes s pa l).subs, laid := (putBytes s pa l).laid, spoiled := (putBytes s pa l).spoiled } := by
  unfold putBytes
  rw [layPut_shape]
  split <;> rfl

theorem recode_shape (s : State) (pa n : Nat) (c : Bool) : recode s pa n c = { s with bdi := (recode s pa n c).bdi } := by
  unfold recode
  dsimp only
  split <;> rfl

theorem physRead_shape (s : State) (pa n : Nat) : (physRead s pa n).2 = { s with free := (physRead s pa n).2.free } := by
  unfold physRead freeBytes
  split
  · rfl
  · split <;> rfl

/-- A read of bytes that nothing leaves undefined gives the bytes of memory and changes nothing (R52, R130, R308, R372). -/
theorem physRead_defined (s : State) (pa n : Nat) (hm : misMapped s pa = false) (h : undefAt s pa n = false) :
    physRead s pa n = (Memory.read s.mem pa n, s) := by
  unfold physRead
  rw [hm, h]
  rfl

theorem touchLlc_shape (s : State) (h n : Nat) (d : Bool) : touchLlc s h n d = { s with llc := (touchLlc s h n d).llc } := rfl

theorem touchL2_shape (s : State) (k h n : Nat) (w d : Word32) :
    touchL2 s k h n w d = { s with l2 := (touchL2 s k h n w d).l2, llc := (touchL2 s k h n w d).llc } := by
  unfold touchL2
  dsimp only
  split
  · split <;> rfl
  · rfl

theorem clearL2_shape (s : State) (n : Nat) (m : Word32) (k : Option Nat) : clearL2 s n m k = { s with l2 := (clearL2 s n m k).l2 } := rfl

/-- What the write of one delta's word may change. -/
theorem oneDelta_shape (s : State) (pa n : Nat) (l : List Byte) (c : Bool) :
    ∃ m f k x a p b, recode (putBytes (physRead s pa n).2 pa l) pa n c =
      { s with mem := m, free := f, nextId := k, subs := x, laid := a, spoiled := p, bdi := b } := by
  rw [recode_shape, putBytes_shape, physRead_shape]
  exact ⟨_, _, _, _, _, _, _, rfl⟩

/-- What the application of deltas may change (R122): bytes with their codes and pushes, and free values. -/
theorem applyDeltas_shape (n : Nat) (l : SMap UDelta) (s : State) :
    ∃ m f k x a p b, applyDeltas s n l = { s with mem := m, free := f, nextId := k, subs := x, laid := a, spoiled := p, bdi := b } := by
  induction l generalizing s with
  | nil => exact ⟨_, _, _, _, _, _, _, rfl⟩
  | cons x l ih =>
    unfold applyDeltas
    dsimp only
    obtain ⟨_, _, _, _, _, _, _, h⟩ := oneDelta_shape s (n * 128 + 4 * x.1) 4
      (toBytes 4 (uApply x.2.kind (BitVec.ofNat 32 (ofBytes (physRead s (n * 128 + 4 * x.1) 4).1)) x.2.val).toNat) x.2.cmp
    rw [h]
    obtain ⟨_, _, _, _, _, _, _, k⟩ :=
      ih { s with mem := _, free := _, nextId := _, subs := _, laid := _, spoiled := _, bdi := _ }
    exact ⟨_, _, _, _, _, _, _, k⟩

/-- A line that no L1 holds a delta of is not combined (R122). -/
theorem combine_none (s : State) (n : Nat) (h : (lineState s n).all (fun x => x.2.u.isEmpty) = true) : combine s n = s := by
  unfold combine
  dsimp only
  rw [if_pos h]

end Sys2Proof.Laws
end

