-- ==== Sys2Proof/Laws/Memory.lean ====
section
/-! SUPPORT. Sparse tables: what is read after a write, and that every memory operation keeps the canonical form. -/

namespace Sys2Proof.Laws

open Sys2Proof Sys2Proof.Machine

variable {α : Type}

/-! Reading after writing -/

theorem find_put_same (m : SMap α) (k : Nat) (v : α) : (m.put k v).find k = some v := by
  induction m with
  | nil => simp [SMap.put, SMap.find]
  | cons c m ih =>
    obtain ⟨x, y⟩ := c
    simp only [SMap.put]
    split
    · simp [SMap.find]
    · split
      · simp [SMap.find]
      · rename_i h1 h2
        simp [SMap.find, h2, ih]

theorem find_put_other (m : SMap α) (k j : Nat) (v : α) (h : j ≠ k) : (m.put k v).find j = m.find j := by
  induction m with
  | nil => simp [SMap.put, SMap.find, Ne.symm h]
  | cons c m ih =>
    obtain ⟨x, y⟩ := c
    simp only [SMap.put]
    split
    · simp [SMap.find, Ne.symm h]
    · split
      · rename_i h1 h2
        subst h2
        simp [SMap.find, Ne.symm h]
      · simp [SMap.find, ih]

@[simp] theorem get_put_same (d : α) (m : SMap α) (k : Nat) (v : α) : (m.put k v).get d k = v := by
  simp [SMap.get, find_put_same]

theorem get_put_other (d : α) (m : SMap α) (k j : Nat) (v : α) (h : j ≠ k) : (m.put k v).get d j = m.get d j := by
  simp [SMap.get, find_put_other m k j v h]

theorem find_erase_other (m : SMap α) (k j : Nat) (h : j ≠ k) : (m.erase k).find j = m.find j := by
  induction m with
  | nil => simp [SMap.erase]
  | cons c m ih =>
    obtain ⟨x, y⟩ := c
    simp only [SMap.erase]
    split
    · rename_i h1
      subst h1
      simp [SMap.find, Ne.symm h]
    · simp [SMap.find, ih]

/-! The canonical form -/

/-- Every key of a table lies above a bound. -/
def above (b : Nat) (m : SMap α) : Prop := ∀ c ∈ m, b < c.1

variable [DecidableEq α]

theorem wf_cons (d : α) (k : Nat) (v : α) (m : SMap α) :
    SMap.wf d ((k, v) :: m) = true ↔ v ≠ d ∧ above k m ∧ SMap.wf d m = true := by
  induction m generalizing k v with
  | nil => simp [SMap.wf, above]
  | cons c m ih =>
    obtain ⟨x, y⟩ := c
    constructor
    · intro h
      simp only [SMap.wf, Bool.and_eq_true, decide_eq_true_eq] at h
      obtain ⟨⟨h1, h2⟩, h3⟩ := h
      refine ⟨by simpa using h1, ?_, h3⟩
      intro z hz
      rcases List.mem_cons.1 hz with rfl | hz
      · exact h2
      · exact Nat.lt_trans h2 (((ih x y).1 h3).2.1 z hz)
    · rintro ⟨h1, h2, h3⟩
      simp only [SMap.wf, Bool.and_eq_true, decide_eq_true_eq]
      exact ⟨⟨by simpa using h1, h2 _ (List.mem_cons_self ..)⟩, h3⟩

omit [DecidableEq α] in
theorem find_above (b : Nat) (m : SMap α) (h : above b m) : m.find b = none := by
  induction m with
  | nil => rfl
  | cons c m ih =>
    obtain ⟨x, y⟩ := c
    have h1 : b < x := h _ (List.mem_cons_self ..)
    simp [SMap.find, Nat.ne_of_gt h1, ih fun z hz => h z (List.mem_cons_of_mem _ hz)]

omit [DecidableEq α] in
theorem mem_erase {m : SMap α} {k : Nat} {c : Nat × α} (h : c ∈ m.erase k) : c ∈ m := by
  induction m with
  | nil => simp [SMap.erase] at h
  | cons e m ih =>
    obtain ⟨x, y⟩ := e
    simp only [SMap.erase] at h
    split at h
    · exact List.mem_cons_of_mem _ h
    · rcases List.mem_cons.1 h with rfl | h
      · exact List.mem_cons_self ..
      · exact List.mem_cons_of_mem _ (ih h)

omit [DecidableEq α] in
theorem mem_put {m : SMap α} {k : Nat} {v : α} {c : Nat × α} (h : c ∈ m.put k v) : c = (k, v) ∨ c ∈ m := by
  induction m with
  | nil => simpa [SMap.put] using h
  | cons e m ih =>
    obtain ⟨x, y⟩ := e
    simp only [SMap.put] at h
    split at h
    · rcases List.mem_cons.1 h with rfl | h
      · exact .inl rfl
      · exact .inr h
    · split at h
      · rcases List.mem_cons.1 h with rfl | h
        · exact .inl rfl
        · exact .inr (List.mem_cons_of_mem _ h)
      · rcases List.mem_cons.1 h with rfl | h
        · exact .inr (List.mem_cons_self ..)
        · rcases ih h with h | h
          · exact .inl h
          · exact .inr (List.mem_cons_of_mem _ h)

theorem wf_erase (d : α) (m : SMap α) (k : Nat) (h : SMap.wf d m = true) : SMap.wf d (m.erase k) = true := by
  induction m with
  | nil => rfl
  | cons c m ih =>
    obtain ⟨x, y⟩ := c
    obtain ⟨h1, h2, h3⟩ := (wf_cons d x y m).1 h
    simp only [SMap.erase]
    split
    · exact h3
    · exact (wf_cons ..).2 ⟨h1, fun z hz => h2 z (mem_erase hz), ih h3⟩

theorem wf_put (d : α) (m : SMap α) (k : Nat) (v : α) (hv : v ≠ d) (h : SMap.wf d m = true) : SMap.wf d (m.put k v) = true := by
  induction m with
  | nil => simpa [SMap.put, SMap.wf] using hv
  | cons c m ih =>
    obtain ⟨x, y⟩ := c
    obtain ⟨h1, h2, h3⟩ := (wf_cons d x y m).1 h
    simp only [SMap.put]
    split
    · rename_i hk
      refine (wf_cons ..).2 ⟨hv, ?_, h⟩
      intro z hz
      rcases List.mem_cons.1 hz with rfl | hz
      · exact hk
      · exact Nat.lt_trans hk (h2 z hz)
    · split
      · rename_i _ hk
        subst hk
        exact (wf_cons ..).2 ⟨hv, h2, h3⟩
      · rename_i hk hn
        refine (wf_cons ..).2 ⟨h1, ?_, ih h3⟩
        intro z hz
        rcases mem_put hz with rfl | hz
        · exact Nat.lt_of_le_of_ne (Nat.not_lt.1 hk) hn
        · exact h2 z hz

/-- Setting a key keeps the canonical form. -/
theorem wf_putD (d : α) (m : SMap α) (k : Nat) (v : α) (h : SMap.wf d m = true) : SMap.wf d (m.putD d k v) = true := by
  unfold SMap.putD
  split
  · exact wf_erase d m k h
  · rename_i hv
    exact wf_put d m k v hv h

theorem wf_filter (d : α) (m : SMap α) (p : Nat × α → Bool) (h : SMap.wf d m = true) : SMap.wf d (m.filter p) = true := by
  induction m with
  | nil => rfl
  | cons c m ih =>
    obtain ⟨x, y⟩ := c
    obtain ⟨h1, h2, h3⟩ := (wf_cons d x y m).1 h
    simp only [List.filter]
    split
    · exact (wf_cons ..).2 ⟨h1, fun z hz => h2 z (List.mem_filter.1 hz).1, ih h3⟩
    · exact ih h3

theorem find_erase_same (d : α) (m : SMap α) (k : Nat) (h : SMap.wf d m = true) : (m.erase k).find k = none := by
  induction m with
  | nil => rfl
  | cons c m ih =>
    obtain ⟨x, y⟩ := c
    obtain ⟨_, h2, h3⟩ := (wf_cons d x y m).1 h
    simp only [SMap.erase]
    split
    · rename_i hk
      subst hk
      exact find_above x m h2
    · rename_i hk
      simp [SMap.find, hk, ih h3]

/-- What is read after a key is set, in a canonical table. -/
theorem get_putD (d : α) (m : SMap α) (k j : Nat) (v : α) (h : SMap.wf d m = true) :
    (m.putD d k v).get d j = if j = k then v else m.get d j := by
  unfold SMap.putD
  by_cases hj : j = k
  · subst hj
    split
    · rename_i hv
      simp [SMap.get, find_erase_same d m j h, hv]
    · simp
  · simp only [hj, if_false]
    split
    · simp [SMap.get, find_erase_other m k j hj]
    · exact get_put_other d m k j v hj

/-! Memory -/

theorem memory_set_wf (m : List Host.Cell) (a : Nat) (v : Byte) (h : Memory.wf m = true) : Memory.wf (Memory.set m a v) = true :=
  wf_putD 0 m a v h

theorem memory_get_set (m : List Host.Cell) (a b : Nat) (v : Byte) (h : Memory.wf m = true) :
    Memory.get (Memory.set m a v) b = if b = a then v else Memory.get m b :=
  get_putD 0 m a b v h

/-- Writing bytes keeps the canonical form. -/
theorem memory_write_wf (l : List Byte) (m : List Host.Cell) (a : Nat) (h : Memory.wf m = true) :
    Memory.wf (Memory.write m a l) = true := by
  induction l generalizing m a with
  | nil => exact h
  | cons b l ih => exact ih _ _ (memory_set_wf m a b h)

/-- A byte outside the bytes written is unchanged. -/
theorem memory_get_write_outside (l : List Byte) (m : List Host.Cell) (a b : Nat) (h : Memory.wf m = true)
    (hb : b < a ∨ a + l.length ≤ b) : Memory.get (Memory.write m a l) b = Memory.get m b := by
  induction l generalizing m a with
  | nil => rfl
  | cons x l ih =>
    simp only [List.length_cons] at hb
    have h1 : b ≠ a := by omega
    rw [show Memory.write m a (x :: l) = Memory.write (Memory.set m a x) (a + 1) l from rfl,
      ih (Memory.set m a x) (a + 1) (memory_set_wf m a x h) (by omega), memory_get_set m a b x h]
    simp [h1]

/-- A byte written reads as written. -/
theorem memory_get_write_inside (l : List Byte) (m : List Host.Cell) (a k : Nat) (h : Memory.wf m = true) (hk : k < l.length) :
    Memory.get (Memory.write m a l) (a + k) = l[k] := by
  induction l generalizing m a k with
  | nil => simp at hk
  | cons x l ih =>
    rw [show Memory.write m a (x :: l) = Memory.write (Memory.set m a x) (a + 1) l from rfl]
    cases k with
    | zero =>
      rw [memory_get_write_outside l _ _ _ (memory_set_wf m a x h) (by omega)]
      simp [memory_get_set m a a x h]
    | succ k =>
      simp only [List.length_cons] at hk
      have hk' : k < l.length := by omega
      have e := ih (Memory.set m a x) (a + 1) k (memory_set_wf m a x h) hk'
      rw [show a + (k + 1) = a + 1 + k by omega, e]
      rfl

/-- Bytes put into physical memory keep its canonical form. -/
theorem putBytes_wf (s : State) (pa : Nat) (l : List Byte) (h : Memory.wf s.mem = true) : Memory.wf (putBytes s pa l).mem = true := by
  unfold putBytes layPut noteWrite
  split <;> split <;> exact memory_write_wf l s.mem pa h

end Sys2Proof.Laws
end

