-- ==== Sys2Proof/Laws/State.lean ====
section
/-! SUPPORT. What each update of one part of the state leaves of the others: one lemma for a field and an update, true by rfl,
and for an update with cases one lemma that names the parts it may change. -/

namespace Sys2Proof.Laws

open Sys2Proof Sys2Proof.Machine

@[simp] theorem setCore_now (s : State) (cid : Nat) (c : Core) : (setCore s cid c).now = s.now := rfl
@[simp] theorem setCore_agenda (s : State) (cid : Nat) (c : Core) : (setCore s cid c).agenda = s.agenda := rfl
@[simp] theorem setCore_cur (s : State) (cid : Nat) (c : Core) : (setCore s cid c).cur = s.cur := rfl
@[simp] theorem setCore_round (s : State) (cid : Nat) (c : Core) : (setCore s cid c).round = s.round := rfl
@[simp] theorem setCore_lull (s : State) (cid : Nat) (c : Core) : (setCore s cid c).lull = s.lull := rfl
@[simp] theorem setCore_ir (s : State) (cid : Nat) (c : Core) : (setCore s cid c).ir = s.ir := rfl
@[simp] theorem setCore_free (s : State) (cid : Nat) (c : Core) : (setCore s cid c).free = s.free := rfl
@[simp] theorem setCore_nextId (s : State) (cid : Nat) (c : Core) : (setCore s cid c).nextId = s.nextId := rfl
@[simp] theorem setCore_mem (s : State) (cid : Nat) (c : Core) : (setCore s cid c).mem = s.mem := rfl
@[simp] theorem setCore_bootRam (s : State) (cid : Nat) (c : Core) : (setCore s cid c).bootRam = s.bootRam := rfl
@[simp] theorem setCore_tbl (s : State) (cid : Nat) (c : Core) : (setCore s cid c).tbl = s.tbl := rfl
@[simp] theorem setCore_bdi (s : State) (cid : Nat) (c : Core) : (setCore s cid c).bdi = s.bdi := rfl
@[simp] theorem setCore_larderPoison (s : State) (cid : Nat) (c : Core) : (setCore s cid c).larderPoison = s.larderPoison := rfl
@[simp] theorem setCore_frozen (s : State) (cid : Nat) (c : Core) : (setCore s cid c).frozen = s.frozen := rfl
@[simp] theorem setCore_laid (s : State) (cid : Nat) (c : Core) : (setCore s cid c).laid = s.laid := rfl
@[simp] theorem setCore_spoiled (s : State) (cid : Nat) (c : Core) : (setCore s cid c).spoiled = s.spoiled := rfl
@[simp] theorem setCore_lines (s : State) (cid : Nat) (c : Core) : (setCore s cid c).lines = s.lines := rfl
@[simp] theorem setCore_l2 (s : State) (cid : Nat) (c : Core) : (setCore s cid c).l2 = s.l2 := rfl
@[simp] theorem setCore_llc (s : State) (cid : Nat) (c : Core) : (setCore s cid c).llc = s.llc := rfl
@[simp] theorem setCore_cohMsgs (s : State) (cid : Nat) (c : Core) : (setCore s cid c).cohMsgs = s.cohMsgs := rfl
@[simp] theorem setCore_hostDir (s : State) (cid : Nat) (c : Core) : (setCore s cid c).hostDir = s.hostDir := rfl
@[simp] theorem setCore_hostPerm (s : State) (cid : Nat) (c : Core) : (setCore s cid c).hostPerm = s.hostPerm := rfl
@[simp] theorem setCore_icache (s : State) (cid : Nat) (c : Core) : (setCore s cid c).icache = s.icache := rfl
@[simp] theorem setCore_tlb (s : State) (cid : Nat) (c : Core) : (setCore s cid c).tlb = s.tlb := rfl
@[simp] theorem setCore_reports (s : State) (cid : Nat) (c : Core) : (setCore s cid c).reports = s.reports := rfl
@[simp] theorem setCore_pteVer (s : State) (cid : Nat) (c : Core) : (setCore s cid c).pteVer = s.pteVer := rfl
@[simp] theorem setCore_pools (s : State) (cid : Nat) (c : Core) : (setCore s cid c).pools = s.pools := rfl
@[simp] theorem setCore_ptq (s : State) (cid : Nat) (c : Core) : (setCore s cid c).ptq = s.ptq := rfl
@[simp] theorem setCore_csr (s : State) (cid : Nat) (c : Core) : (setCore s cid c).csr = s.csr := rfl
@[simp] theorem setCore_dreg (s : State) (cid : Nat) (c : Core) : (setCore s cid c).dreg = s.dreg := rfl
@[simp] theorem setCore_preg (s : State) (cid : Nat) (c : Core) : (setCore s cid c).preg = s.preg := rfl
@[simp] theorem setCore_parts (s : State) (cid : Nat) (c : Core) : (setCore s cid c).parts = s.parts := rfl
@[simp] theorem setCore_dlq (s : State) (cid : Nat) (c : Core) : (setCore s cid c).dlq = s.dlq := rfl
@[simp] theorem setCore_launches (s : State) (cid : Nat) (c : Core) : (setCore s cid c).launches = s.launches := rfl
@[simp] theorem setCore_wgs (s : State) (cid : Nat) (c : Core) : (setCore s cid c).wgs = s.wgs := rfl
@[simp] theorem setCore_nextWg (s : State) (cid : Nat) (c : Core) : (setCore s cid c).nextWg = s.nextWg := rfl
@[simp] theorem setCore_cgs (s : State) (cid : Nat) (c : Core) : (setCore s cid c).cgs = s.cgs := rfl
@[simp] theorem setCore_dies (s : State) (cid : Nat) (c : Core) : (setCore s cid c).dies = s.dies := rfl
@[simp] theorem setCore_ctl (s : State) (cid : Nat) (c : Core) : (setCore s cid c).ctl = s.ctl := rfl
@[simp] theorem setCore_copies (s : State) (cid : Nat) (c : Core) : (setCore s cid c).copies = s.copies := rfl
@[simp] theorem setCore_copyInsts (s : State) (cid : Nat) (c : Core) : (setCore s cid c).copyInsts = s.copyInsts := rfl
@[simp] theorem setCore_rays (s : State) (cid : Nat) (c : Core) : (setCore s cid c).rays = s.rays := rfl
@[simp] theorem setCore_susp (s : State) (cid : Nat) (c : Core) : (setCore s cid c).susp = s.susp := rfl
@[simp] theorem setCore_suspGen (s : State) (cid : Nat) (c : Core) : (setCore s cid c).suspGen = s.suspGen := rfl
@[simp] theorem setCore_binq (s : State) (cid : Nat) (c : Core) : (setCore s cid c).binq = s.binq := rfl
@[simp] theorem setCore_packets (s : State) (cid : Nat) (c : Core) : (setCore s cid c).packets = s.packets := rfl
@[simp] theorem setCore_regions (s : State) (cid : Nat) (c : Core) : (setCore s cid c).regions = s.regions := rfl
@[simp] theorem setCore_seals (s : State) (cid : Nat) (c : Core) : (setCore s cid c).seals = s.seals := rfl
@[simp] theorem setCore_batches (s : State) (cid : Nat) (c : Core) : (setCore s cid c).batches = s.batches := rfl
@[simp] theorem setCore_frags (s : State) (cid : Nat) (c : Core) : (setCore s cid c).frags = s.frags := rfl
@[simp] theorem setCore_counts (s : State) (cid : Nat) (c : Core) : (setCore s cid c).counts = s.counts := rfl
@[simp] theorem setCore_posts (s : State) (cid : Nat) (c : Core) : (setCore s cid c).posts = s.posts := rfl
@[simp] theorem setCore_fwds (s : State) (cid : Nat) (c : Core) : (setCore s cid c).fwds = s.fwds := rfl
@[simp] theorem setCore_items (s : State) (cid : Nat) (c : Core) : (setCore s cid c).items = s.items := rfl
@[simp] theorem setCore_subs (s : State) (cid : Nat) (c : Core) : (setCore s cid c).subs = s.subs := rfl
@[simp] theorem setCore_pbs (s : State) (cid : Nat) (c : Core) : (setCore s cid c).pbs = s.pbs := rfl
@[simp] theorem setCore_pbFlight (s : State) (cid : Nat) (c : Core) : (setCore s cid c).pbFlight = s.pbFlight := rfl
@[simp] theorem setCore_disps (s : State) (cid : Nat) (c : Core) : (setCore s cid c).disps = s.disps := rfl
@[simp] theorem setCore_ras (s : State) (cid : Nat) (c : Core) : (setCore s cid c).ras = s.ras := rfl
@[simp] theorem setCore_spares (s : State) (cid : Nat) (c : Core) : (setCore s cid c).spares = s.spares := rfl
@[simp] theorem setCore_sparesUsed (s : State) (cid : Nat) (c : Core) : (setCore s cid c).sparesUsed = s.sparesUsed := rfl
@[simp] theorem setCore_waysOff (s : State) (cid : Nat) (c : Core) : (setCore s cid c).waysOff = s.waysOff := rfl
@[simp] theorem setCore_absentDies (s : State) (cid : Nat) (c : Core) : (setCore s cid c).absentDies = s.absentDies := rfl
@[simp] theorem setCore_minver (s : State) (cid : Nat) (c : Core) : (setCore s cid c).minver = s.minver := rfl
@[simp] theorem setCore_minverNext (s : State) (cid : Nat) (c : Core) : (setCore s cid c).minverNext = s.minverNext := rfl
@[simp] theorem setCore_fwDigest (s : State) (cid : Nat) (c : Core) : (setCore s cid c).fwDigest = s.fwDigest := rfl
@[simp] theorem setCore_bootDead (s : State) (cid : Nat) (c : Core) : (setCore s cid c).bootDead = s.bootDead := rfl
@[simp] theorem setCore_replays (s : State) (cid : Nat) (c : Core) : (setCore s cid c).replays = s.replays := rfl
@[simp] theorem setCore_escaped (s : State) (cid : Nat) (c : Core) : (setCore s cid c).escaped = s.escaped := rfl
@[simp] theorem setCore_peerOut (s : State) (cid : Nat) (c : Core) : (setCore s cid c).peerOut = s.peerOut := rfl
@[simp] theorem setCore_forms (s : State) (cid : Nat) (c : Core) : (setCore s cid c).forms = s.forms := rfl
@[simp] theorem setCore_dieEvents (s : State) (cid : Nat) (c : Core) : (setCore s cid c).dieEvents = s.dieEvents := rfl
@[simp] theorem setCore_out (s : State) (cid : Nat) (c : Core) : (setCore s cid c).out = s.out := rfl

@[simp] theorem setCg_now (s : State) (d g : Nat) (c : CoreGroup) : (setCg s d g c).now = s.now := rfl
@[simp] theorem setCg_agenda (s : State) (d g : Nat) (c : CoreGroup) : (setCg s d g c).agenda = s.agenda := rfl
@[simp] theorem setCg_cur (s : State) (d g : Nat) (c : CoreGroup) : (setCg s d g c).cur = s.cur := rfl
@[simp] theorem setCg_round (s : State) (d g : Nat) (c : CoreGroup) : (setCg s d g c).round = s.round := rfl
@[simp] theorem setCg_lull (s : State) (d g : Nat) (c : CoreGroup) : (setCg s d g c).lull = s.lull := rfl
@[simp] theorem setCg_ir (s : State) (d g : Nat) (c : CoreGroup) : (setCg s d g c).ir = s.ir := rfl
@[simp] theorem setCg_free (s : State) (d g : Nat) (c : CoreGroup) : (setCg s d g c).free = s.free := rfl
@[simp] theorem setCg_nextId (s : State) (d g : Nat) (c : CoreGroup) : (setCg s d g c).nextId = s.nextId := rfl
@[simp] theorem setCg_mem (s : State) (d g : Nat) (c : CoreGroup) : (setCg s d g c).mem = s.mem := rfl
@[simp] theorem setCg_bootRam (s : State) (d g : Nat) (c : CoreGroup) : (setCg s d g c).bootRam = s.bootRam := rfl
@[simp] theorem setCg_tbl (s : State) (d g : Nat) (c : CoreGroup) : (setCg s d g c).tbl = s.tbl := rfl
@[simp] theorem setCg_bdi (s : State) (d g : Nat) (c : CoreGroup) : (setCg s d g c).bdi = s.bdi := rfl
@[simp] theorem setCg_larderPoison (s : State) (d g : Nat) (c : CoreGroup) : (setCg s d g c).larderPoison = s.larderPoison := rfl
@[simp] theorem setCg_frozen (s : State) (d g : Nat) (c : CoreGroup) : (setCg s d g c).frozen = s.frozen := rfl
@[simp] theorem setCg_laid (s : State) (d g : Nat) (c : CoreGroup) : (setCg s d g c).laid = s.laid := rfl
@[simp] theorem setCg_spoiled (s : State) (d g : Nat) (c : CoreGroup) : (setCg s d g c).spoiled = s.spoiled := rfl
@[simp] theorem setCg_lines (s : State) (d g : Nat) (c : CoreGroup) : (setCg s d g c).lines = s.lines := rfl
@[simp] theorem setCg_l2 (s : State) (d g : Nat) (c : CoreGroup) : (setCg s d g c).l2 = s.l2 := rfl
@[simp] theorem setCg_llc (s : State) (d g : Nat) (c : CoreGroup) : (setCg s d g c).llc = s.llc := rfl
@[simp] theorem setCg_cohMsgs (s : State) (d g : Nat) (c : CoreGroup) : (setCg s d g c).cohMsgs = s.cohMsgs := rfl
@[simp] theorem setCg_hostDir (s : State) (d g : Nat) (c : CoreGroup) : (setCg s d g c).hostDir = s.hostDir := rfl
@[simp] theorem setCg_hostPerm (s : State) (d g : Nat) (c : CoreGroup) : (setCg s d g c).hostPerm = s.hostPerm := rfl
@[simp] theorem setCg_icache (s : State) (d g : Nat) (c : CoreGroup) : (setCg s d g c).icache = s.icache := rfl
@[simp] theorem setCg_tlb (s : State) (d g : Nat) (c : CoreGroup) : (setCg s d g c).tlb = s.tlb := rfl
@[simp] theorem setCg_reports (s : State) (d g : Nat) (c : CoreGroup) : (setCg s d g c).reports = s.reports := rfl
@[simp] theorem setCg_pteVer (s : State) (d g : Nat) (c : CoreGroup) : (setCg s d g c).pteVer = s.pteVer := rfl
@[simp] theorem setCg_pools (s : State) (d g : Nat) (c : CoreGroup) : (setCg s d g c).pools = s.pools := rfl
@[simp] theorem setCg_ptq (s : State) (d g : Nat) (c : CoreGroup) : (setCg s d g c).ptq = s.ptq := rfl
@[simp] theorem setCg_csr (s : State) (d g : Nat) (c : CoreGroup) : (setCg s d g c).csr = s.csr := rfl
@[simp] theorem setCg_dreg (s : State) (d g : Nat) (c : CoreGroup) : (setCg s d g c).dreg = s.dreg := rfl
@[simp] theorem setCg_preg (s : State) (d g : Nat) (c : CoreGroup) : (setCg s d g c).preg = s.preg := rfl
@[simp] theorem setCg_parts (s : State) (d g : Nat) (c : CoreGroup) : (setCg s d g c).parts = s.parts := rfl
@[simp] theorem setCg_dlq (s : State) (d g : Nat) (c : CoreGroup) : (setCg s d g c).dlq = s.dlq := rfl
@[simp] theorem setCg_launches (s : State) (d g : Nat) (c : CoreGroup) : (setCg s d g c).launches = s.launches := rfl
@[simp] theorem setCg_wgs (s : State) (d g : Nat) (c : CoreGroup) : (setCg s d g c).wgs = s.wgs := rfl
@[simp] theorem setCg_nextWg (s : State) (d g : Nat) (c : CoreGroup) : (setCg s d g c).nextWg = s.nextWg := rfl
@[simp] theorem setCg_cores (s : State) (d g : Nat) (c : CoreGroup) : (setCg s d g c).cores = s.cores := rfl
@[simp] theorem setCg_dies (s : State) (d g : Nat) (c : CoreGroup) : (setCg s d g c).dies = s.dies := rfl
@[simp] theorem setCg_ctl (s : State) (d g : Nat) (c : CoreGroup) : (setCg s d g c).ctl = s.ctl := rfl
@[simp] theorem setCg_copies (s : State) (d g : Nat) (c : CoreGroup) : (setCg s d g c).copies = s.copies := rfl
@[simp] theorem setCg_copyInsts (s : State) (d g : Nat) (c : CoreGroup) : (setCg s d g c).copyInsts = s.copyInsts := rfl
@[simp] theorem setCg_rays (s : State) (d g : Nat) (c : CoreGroup) : (setCg s d g c).rays = s.rays := rfl
@[simp] theorem setCg_susp (s : State) (d g : Nat) (c : CoreGroup) : (setCg s d g c).susp = s.susp := rfl
@[simp] theorem setCg_suspGen (s : State) (d g : Nat) (c : CoreGroup) : (setCg s d g c).suspGen = s.suspGen := rfl
@[simp] theorem setCg_binq (s : State) (d g : Nat) (c : CoreGroup) : (setCg s d g c).binq = s.binq := rfl
@[simp] theorem setCg_packets (s : State) (d g : Nat) (c : CoreGroup) : (setCg s d g c).packets = s.packets := rfl
@[simp] theorem setCg_regions (s : State) (d g : Nat) (c : CoreGroup) : (setCg s d g c).regions = s.regions := rfl
@[simp] theorem setCg_seals (s : State) (d g : Nat) (c : CoreGroup) : (setCg s d g c).seals = s.seals := rfl
@[simp] theorem setCg_batches (s : State) (d g : Nat) (c : CoreGroup) : (setCg s d g c).batches = s.batches := rfl
@[simp] theorem setCg_frags (s : State) (d g : Nat) (c : CoreGroup) : (setCg s d g c).frags = s.frags := rfl
@[simp] theorem setCg_counts (s : State) (d g : Nat) (c : CoreGroup) : (setCg s d g c).counts = s.counts := rfl
@[simp] theorem setCg_posts (s : State) (d g : Nat) (c : CoreGroup) : (setCg s d g c).posts = s.posts := rfl
@[simp] theorem setCg_fwds (s : State) (d g : Nat) (c : CoreGroup) : (setCg s d g c).fwds = s.fwds := rfl
@[simp] theorem setCg_items (s : State) (d g : Nat) (c : CoreGroup) : (setCg s d g c).items = s.items := rfl
@[simp] theorem setCg_subs (s : State) (d g : Nat) (c : CoreGroup) : (setCg s d g c).subs = s.subs := rfl
@[simp] theorem setCg_pbs (s : State) (d g : Nat) (c : CoreGroup) : (setCg s d g c).pbs = s.pbs := rfl
@[simp] theorem setCg_pbFlight (s : State) (d g : Nat) (c : CoreGroup) : (setCg s d g c).pbFlight = s.pbFlight := rfl
@[simp] theorem setCg_disps (s : State) (d g : Nat) (c : CoreGroup) : (setCg s d g c).disps = s.disps := rfl
@[simp] theorem setCg_ras (s : State) (d g : Nat) (c : CoreGroup) : (setCg s d g c).ras = s.ras := rfl
@[simp] theorem setCg_spares (s : State) (d g : Nat) (c : CoreGroup) : (setCg s d g c).spares = s.spares := rfl
@[simp] theorem setCg_sparesUsed (s : State) (d g : Nat) (c : CoreGroup) : (setCg s d g c).sparesUsed = s.sparesUsed := rfl
@[simp] theorem setCg_waysOff (s : State) (d g : Nat) (c : CoreGroup) : (setCg s d g c).waysOff = s.waysOff := rfl
@[simp] theorem setCg_absentDies (s : State) (d g : Nat) (c : CoreGroup) : (setCg s d g c).absentDies = s.absentDies := rfl
@[simp] theorem setCg_minver (s : State) (d g : Nat) (c : CoreGroup) : (setCg s d g c).minver = s.minver := rfl
@[simp] theorem setCg_minverNext (s : State) (d g : Nat) (c : CoreGroup) : (setCg s d g c).minverNext = s.minverNext := rfl
@[simp] theorem setCg_fwDigest (s : State) (d g : Nat) (c : CoreGroup) : (setCg s d g c).fwDigest = s.fwDigest := rfl
@[simp] theorem setCg_bootDead (s : State) (d g : Nat) (c : CoreGroup) : (setCg s d g c).bootDead = s.bootDead := rfl
@[simp] theorem setCg_replays (s : State) (d g : Nat) (c : CoreGroup) : (setCg s d g c).replays = s.replays := rfl
@[simp] theorem setCg_escaped (s : State) (d g : Nat) (c : CoreGroup) : (setCg s d g c).escaped = s.escaped := rfl
@[simp] theorem setCg_peerOut (s : State) (d g : Nat) (c : CoreGroup) : (setCg s d g c).peerOut = s.peerOut := rfl
@[simp] theorem setCg_forms (s : State) (d g : Nat) (c : CoreGroup) : (setCg s d g c).forms = s.forms := rfl
@[simp] theorem setCg_dieEvents (s : State) (d g : Nat) (c : CoreGroup) : (setCg s d g c).dieEvents = s.dieEvents := rfl
@[simp] theorem setCg_out (s : State) (d g : Nat) (c : CoreGroup) : (setCg s d g c).out = s.out := rfl

@[simp] theorem setDie_now (s : State) (n : Nat) (d : Die) : (setDie s n d).now = s.now := rfl
@[simp] theorem setDie_agenda (s : State) (n : Nat) (d : Die) : (setDie s n d).agenda = s.agenda := rfl
@[simp] theorem setDie_cur (s : State) (n : Nat) (d : Die) : (setDie s n d).cur = s.cur := rfl
@[simp] theorem setDie_round (s : State) (n : Nat) (d : Die) : (setDie s n d).round = s.round := rfl
@[simp] theorem setDie_lull (s : State) (n : Nat) (d : Die) : (setDie s n d).lull = s.lull := rfl
@[simp] theorem setDie_ir (s : State) (n : Nat) (d : Die) : (setDie s n d).ir = s.ir := rfl
@[simp] theorem setDie_free (s : State) (n : Nat) (d : Die) : (setDie s n d).free = s.free := rfl
@[simp] theorem setDie_nextId (s : State) (n : Nat) (d : Die) : (setDie s n d).nextId = s.nextId := rfl
@[simp] theorem setDie_mem (s : State) (n : Nat) (d : Die) : (setDie s n d).mem = s.mem := rfl
@[simp] theorem setDie_bootRam (s : State) (n : Nat) (d : Die) : (setDie s n d).bootRam = s.bootRam := rfl
@[simp] theorem setDie_tbl (s : State) (n : Nat) (d : Die) : (setDie s n d).tbl = s.tbl := rfl
@[simp] theorem setDie_bdi (s : State) (n : Nat) (d : Die) : (setDie s n d).bdi = s.bdi := rfl
@[simp] theorem setDie_larderPoison (s : State) (n : Nat) (d : Die) : (setDie s n d).larderPoison = s.larderPoison := rfl
@[simp] theorem setDie_frozen (s : State) (n : Nat) (d : Die) : (setDie s n d).frozen = s.frozen := rfl
@[simp] theorem setDie_laid (s : State) (n : Nat) (d : Die) : (setDie s n d).laid = s.laid := rfl
@[simp] theorem setDie_spoiled (s : State) (n : Nat) (d : Die) : (setDie s n d).spoiled = s.spoiled := rfl
@[simp] theorem setDie_lines (s : State) (n : Nat) (d : Die) : (setDie s n d).lines = s.lines := rfl
@[simp] theorem setDie_l2 (s : State) (n : Nat) (d : Die) : (setDie s n d).l2 = s.l2 := rfl
@[simp] theorem setDie_llc (s : State) (n : Nat) (d : Die) : (setDie s n d).llc = s.llc := rfl
@[simp] theorem setDie_cohMsgs (s : State) (n : Nat) (d : Die) : (setDie s n d).cohMsgs = s.cohMsgs := rfl
@[simp] theorem setDie_hostDir (s : State) (n : Nat) (d : Die) : (setDie s n d).hostDir = s.hostDir := rfl
@[simp] theorem setDie_hostPerm (s : State) (n : Nat) (d : Die) : (setDie s n d).hostPerm = s.hostPerm := rfl
@[simp] theorem setDie_icache (s : State) (n : Nat) (d : Die) : (setDie s n d).icache = s.icache := rfl
@[simp] theorem setDie_tlb (s : State) (n : Nat) (d : Die) : (setDie s n d).tlb = s.tlb := rfl
@[simp] theorem setDie_reports (s : State) (n : Nat) (d : Die) : (setDie s n d).reports = s.reports := rfl
@[simp] theorem setDie_pteVer (s : State) (n : Nat) (d : Die) : (setDie s n d).pteVer = s.pteVer := rfl
@[simp] theorem setDie_pools (s : State) (n : Nat) (d : Die) : (setDie s n d).pools = s.pools := rfl
@[simp] theorem setDie_ptq (s : State) (n : Nat) (d : Die) : (setDie s n d).ptq = s.ptq := rfl
@[simp] theorem setDie_csr (s : State) (n : Nat) (d : Die) : (setDie s n d).csr = s.csr := rfl
@[simp] theorem setDie_dreg (s : State) (n : Nat) (d : Die) : (setDie s n d).dreg = s.dreg := rfl
@[simp] theorem setDie_preg (s : State) (n : Nat) (d : Die) : (setDie s n d).preg = s.preg := rfl
@[simp] theorem setDie_parts (s : State) (n : Nat) (d : Die) : (setDie s n d).parts = s.parts := rfl
@[simp] theorem setDie_dlq (s : State) (n : Nat) (d : Die) : (setDie s n d).dlq = s.dlq := rfl
@[simp] theorem setDie_launches (s : State) (n : Nat) (d : Die) : (setDie s n d).launches = s.launches := rfl
@[simp] theorem setDie_wgs (s : State) (n : Nat) (d : Die) : (setDie s n d).wgs = s.wgs := rfl
@[simp] theorem setDie_nextWg (s : State) (n : Nat) (d : Die) : (setDie s n d).nextWg = s.nextWg := rfl
@[simp] theorem setDie_cores (s : State) (n : Nat) (d : Die) : (setDie s n d).cores = s.cores := rfl
@[simp] theorem setDie_cgs (s : State) (n : Nat) (d : Die) : (setDie s n d).cgs = s.cgs := rfl
@[simp] theorem setDie_ctl (s : State) (n : Nat) (d : Die) : (setDie s n d).ctl = s.ctl := rfl
@[simp] theorem setDie_copies (s : State) (n : Nat) (d : Die) : (setDie s n d).copies = s.copies := rfl
@[simp] theorem setDie_copyInsts (s : State) (n : Nat) (d : Die) : (setDie s n d).copyInsts = s.copyInsts := rfl
@[simp] theorem setDie_rays (s : State) (n : Nat) (d : Die) : (setDie s n d).rays = s.rays := rfl
@[simp] theorem setDie_susp (s : State) (n : Nat) (d : Die) : (setDie s n d).susp = s.susp := rfl
@[simp] theorem setDie_suspGen (s : State) (n : Nat) (d : Die) : (setDie s n d).suspGen = s.suspGen := rfl
@[simp] theorem setDie_binq (s : State) (n : Nat) (d : Die) : (setDie s n d).binq = s.binq := rfl
@[simp] theorem setDie_packets (s : State) (n : Nat) (d : Die) : (setDie s n d).packets = s.packets := rfl
@[simp] theorem setDie_regions (s : State) (n : Nat) (d : Die) : (setDie s n d).regions = s.regions := rfl
@[simp] theorem setDie_seals (s : State) (n : Nat) (d : Die) : (setDie s n d).seals = s.seals := rfl
@[simp] theorem setDie_batches (s : State) (n : Nat) (d : Die) : (setDie s n d).batches = s.batches := rfl
@[simp] theorem setDie_frags (s : State) (n : Nat) (d : Die) : (setDie s n d).frags = s.frags := rfl
@[simp] theorem setDie_counts (s : State) (n : Nat) (d : Die) : (setDie s n d).counts = s.counts := rfl
@[simp] theorem setDie_posts (s : State) (n : Nat) (d : Die) : (setDie s n d).posts = s.posts := rfl
@[simp] theorem setDie_fwds (s : State) (n : Nat) (d : Die) : (setDie s n d).fwds = s.fwds := rfl
@[simp] theorem setDie_items (s : State) (n : Nat) (d : Die) : (setDie s n d).items = s.items := rfl
@[simp] theorem setDie_subs (s : State) (n : Nat) (d : Die) : (setDie s n d).subs = s.subs := rfl
@[simp] theorem setDie_pbs (s : State) (n : Nat) (d : Die) : (setDie s n d).pbs = s.pbs := rfl
@[simp] theorem setDie_pbFlight (s : State) (n : Nat) (d : Die) : (setDie s n d).pbFlight = s.pbFlight := rfl
@[simp] theorem setDie_disps (s : State) (n : Nat) (d : Die) : (setDie s n d).disps = s.disps := rfl
@[simp] theorem setDie_ras (s : State) (n : Nat) (d : Die) : (setDie s n d).ras = s.ras := rfl
@[simp] theorem setDie_spares (s : State) (n : Nat) (d : Die) : (setDie s n d).spares = s.spares := rfl
@[simp] theorem setDie_sparesUsed (s : State) (n : Nat) (d : Die) : (setDie s n d).sparesUsed = s.sparesUsed := rfl
@[simp] theorem setDie_waysOff (s : State) (n : Nat) (d : Die) : (setDie s n d).waysOff = s.waysOff := rfl
@[simp] theorem setDie_absentDies (s : State) (n : Nat) (d : Die) : (setDie s n d).absentDies = s.absentDies := rfl
@[simp] theorem setDie_minver (s : State) (n : Nat) (d : Die) : (setDie s n d).minver = s.minver := rfl
@[simp] theorem setDie_minverNext (s : State) (n : Nat) (d : Die) : (setDie s n d).minverNext = s.minverNext := rfl
@[simp] theorem setDie_fwDigest (s : State) (n : Nat) (d : Die) : (setDie s n d).fwDigest = s.fwDigest := rfl
@[simp] theorem setDie_bootDead (s : State) (n : Nat) (d : Die) : (setDie s n d).bootDead = s.bootDead := rfl
@[simp] theorem setDie_replays (s : State) (n : Nat) (d : Die) : (setDie s n d).replays = s.replays := rfl
@[simp] theorem setDie_escaped (s : State) (n : Nat) (d : Die) : (setDie s n d).escaped = s.escaped := rfl
@[simp] theorem setDie_peerOut (s : State) (n : Nat) (d : Die) : (setDie s n d).peerOut = s.peerOut := rfl
@[simp] theorem setDie_forms (s : State) (n : Nat) (d : Die) : (setDie s n d).forms = s.forms := rfl
@[simp] theorem setDie_dieEvents (s : State) (n : Nat) (d : Die) : (setDie s n d).dieEvents = s.dieEvents := rfl
@[simp] theorem setDie_out (s : State) (n : Nat) (d : Die) : (setDie s n d).out = s.out := rfl

@[simp] theorem setCtl_now (s : State) (n : Nat) (c : Ctl) : (setCtl s n c).now = s.now := rfl
@[simp] theorem setCtl_agenda (s : State) (n : Nat) (c : Ctl) : (setCtl s n c).agenda = s.agenda := rfl
@[simp] theorem setCtl_cur (s : State) (n : Nat) (c : Ctl) : (setCtl s n c).cur = s.cur := rfl
@[simp] theorem setCtl_round (s : State) (n : Nat) (c : Ctl) : (setCtl s n c).round = s.round := rfl
@[simp] theorem setCtl_lull (s : State) (n : Nat) (c : Ctl) : (setCtl s n c).lull = s.lull := rfl
@[simp] theorem setCtl_ir (s : State) (n : Nat) (c : Ctl) : (setCtl s n c).ir = s.ir := rfl
@[simp] theorem setCtl_free (s : State) (n : Nat) (c : Ctl) : (setCtl s n c).free = s.free := rfl
@[simp] theorem setCtl_nextId (s : State) (n : Nat) (c : Ctl) : (setCtl s n c).nextId = s.nextId := rfl
@[simp] theorem setCtl_mem (s : State) (n : Nat) (c : Ctl) : (setCtl s n c).mem = s.mem := rfl
@[simp] theorem setCtl_bootRam (s : State) (n : Nat) (c : Ctl) : (setCtl s n c).bootRam = s.bootRam := rfl
@[simp] theorem setCtl_tbl (s : State) (n : Nat) (c : Ctl) : (setCtl s n c).tbl = s.tbl := rfl
@[simp] theorem setCtl_bdi (s : State) (n : Nat) (c : Ctl) : (setCtl s n c).bdi = s.bdi := rfl
@[simp] theorem setCtl_larderPoison (s : State) (n : Nat) (c : Ctl) : (setCtl s n c).larderPoison = s.larderPoison := rfl
@[simp] theorem setCtl_frozen (s : State) (n : Nat) (c : Ctl) : (setCtl s n c).frozen = s.frozen := rfl
@[simp] theorem setCtl_laid (s : State) (n : Nat) (c : Ctl) : (setCtl s n c).laid = s.laid := rfl
@[simp] theorem setCtl_spoiled (s : State) (n : Nat) (c : Ctl) : (setCtl s n c).spoiled = s.spoiled := rfl
@[simp] theorem setCtl_lines (s : State) (n : Nat) (c : Ctl) : (setCtl s n c).lines = s.lines := rfl
@[simp] theorem setCtl_l2 (s : State) (n : Nat) (c : Ctl) : (setCtl s n c).l2 = s.l2 := rfl
@[simp] theorem setCtl_llc (s : State) (n : Nat) (c : Ctl) : (setCtl s n c).llc = s.llc := rfl
@[simp] theorem setCtl_cohMsgs (s : State) (n : Nat) (c : Ctl) : (setCtl s n c).cohMsgs = s.cohMsgs := rfl
@[simp] theorem setCtl_hostDir (s : State) (n : Nat) (c : Ctl) : (setCtl s n c).hostDir = s.hostDir := rfl
@[simp] theorem setCtl_hostPerm (s : State) (n : Nat) (c : Ctl) : (setCtl s n c).hostPerm = s.hostPerm := rfl
@[simp] theorem setCtl_icache (s : State) (n : Nat) (c : Ctl) : (setCtl s n c).icache = s.icache := rfl
@[simp] theorem setCtl_tlb (s : State) (n : Nat) (c : Ctl) : (setCtl s n c).tlb = s.tlb := rfl
@[simp] theorem setCtl_reports (s : State) (n : Nat) (c : Ctl) : (setCtl s n c).reports = s.reports := rfl
@[simp] theorem setCtl_pteVer (s : State) (n : Nat) (c : Ctl) : (setCtl s n c).pteVer = s.pteVer := rfl
@[simp] theorem setCtl_pools (s : State) (n : Nat) (c : Ctl) : (setCtl s n c).pools = s.pools := rfl
@[simp] theorem setCtl_ptq (s : State) (n : Nat) (c : Ctl) : (setCtl s n c).ptq = s.ptq := rfl
@[simp] theorem setCtl_csr (s : State) (n : Nat) (c : Ctl) : (setCtl s n c).csr = s.csr := rfl
@[simp] theorem setCtl_dreg (s : State) (n : Nat) (c : Ctl) : (setCtl s n c).dreg = s.dreg := rfl
@[simp] theorem setCtl_preg (s : State) (n : Nat) (c : Ctl) : (setCtl s n c).preg = s.preg := rfl
@[simp] theorem setCtl_parts (s : State) (n : Nat) (c : Ctl) : (setCtl s n c).parts = s.parts := rfl
@[simp] theorem setCtl_dlq (s : State) (n : Nat) (c : Ctl) : (setCtl s n c).dlq = s.dlq := rfl
@[simp] theorem setCtl_launches (s : State) (n : Nat) (c : Ctl) : (setCtl s n c).launches = s.launches := rfl
@[simp] theorem setCtl_wgs (s : State) (n : Nat) (c : Ctl) : (setCtl s n c).wgs = s.wgs := rfl
@[simp] theorem setCtl_nextWg (s : State) (n : Nat) (c : Ctl) : (setCtl s n c).nextWg = s.nextWg := rfl
@[simp] theorem setCtl_cores (s : State) (n : Nat) (c : Ctl) : (setCtl s n c).cores = s.cores := rfl
@[simp] theorem setCtl_cgs (s : State) (n : Nat) (c : Ctl) : (setCtl s n c).cgs = s.cgs := rfl
@[simp] theorem setCtl_dies (s : State) (n : Nat) (c : Ctl) : (setCtl s n c).dies = s.dies := rfl
@[simp] theorem setCtl_copies (s : State) (n : Nat) (c : Ctl) : (setCtl s n c).copies = s.copies := rfl
@[simp] theorem setCtl_copyInsts (s : State) (n : Nat) (c : Ctl) : (setCtl s n c).copyInsts = s.copyInsts := rfl
@[simp] theorem setCtl_rays (s : State) (n : Nat) (c : Ctl) : (setCtl s n c).rays = s.rays := rfl
@[simp] theorem setCtl_susp (s : State) (n : Nat) (c : Ctl) : (setCtl s n c).susp = s.susp := rfl
@[simp] theorem setCtl_suspGen (s : State) (n : Nat) (c : Ctl) : (setCtl s n c).suspGen = s.suspGen := rfl
@[simp] theorem setCtl_binq (s : State) (n : Nat) (c : Ctl) : (setCtl s n c).binq = s.binq := rfl
@[simp] theorem setCtl_packets (s : State) (n : Nat) (c : Ctl) : (setCtl s n c).packets = s.packets := rfl
@[simp] theorem setCtl_regions (s : State) (n : Nat) (c : Ctl) : (setCtl s n c).regions = s.regions := rfl
@[simp] theorem setCtl_seals (s : State) (n : Nat) (c : Ctl) : (setCtl s n c).seals = s.seals := rfl
@[simp] theorem setCtl_batches (s : State) (n : Nat) (c : Ctl) : (setCtl s n c).batches = s.batches := rfl
@[simp] theorem setCtl_frags (s : State) (n : Nat) (c : Ctl) : (setCtl s n c).frags = s.frags := rfl
@[simp] theorem setCtl_counts (s : State) (n : Nat) (c : Ctl) : (setCtl s n c).counts = s.counts := rfl
@[simp] theorem setCtl_posts (s : State) (n : Nat) (c : Ctl) : (setCtl s n c).posts = s.posts := rfl
@[simp] theorem setCtl_fwds (s : State) (n : Nat) (c : Ctl) : (setCtl s n c).fwds = s.fwds := rfl
@[simp] theorem setCtl_items (s : State) (n : Nat) (c : Ctl) : (setCtl s n c).items = s.items := rfl
@[simp] theorem setCtl_subs (s : State) (n : Nat) (c : Ctl) : (setCtl s n c).subs = s.subs := rfl
@[simp] theorem setCtl_pbs (s : State) (n : Nat) (c : Ctl) : (setCtl s n c).pbs = s.pbs := rfl
@[simp] theorem setCtl_pbFlight (s : State) (n : Nat) (c : Ctl) : (setCtl s n c).pbFlight = s.pbFlight := rfl
@[simp] theorem setCtl_disps (s : State) (n : Nat) (c : Ctl) : (setCtl s n c).disps = s.disps := rfl
@[simp] theorem setCtl_ras (s : State) (n : Nat) (c : Ctl) : (setCtl s n c).ras = s.ras := rfl
@[simp] theorem setCtl_spares (s : State) (n : Nat) (c : Ctl) : (setCtl s n c).spares = s.spares := rfl
@[simp] theorem setCtl_sparesUsed (s : State) (n : Nat) (c : Ctl) : (setCtl s n c).sparesUsed = s.sparesUsed := rfl
@[simp] theorem setCtl_waysOff (s : State) (n : Nat) (c : Ctl) : (setCtl s n c).waysOff = s.waysOff := rfl
@[simp] theorem setCtl_absentDies (s : State) (n : Nat) (c : Ctl) : (setCtl s n c).absentDies = s.absentDies := rfl
@[simp] theorem setCtl_minver (s : State) (n : Nat) (c : Ctl) : (setCtl s n c).minver = s.minver := rfl
@[simp] theorem setCtl_minverNext (s : State) (n : Nat) (c : Ctl) : (setCtl s n c).minverNext = s.minverNext := rfl
@[simp] theorem setCtl_fwDigest (s : State) (n : Nat) (c : Ctl) : (setCtl s n c).fwDigest = s.fwDigest := rfl
@[simp] theorem setCtl_bootDead (s : State) (n : Nat) (c : Ctl) : (setCtl s n c).bootDead = s.bootDead := rfl
@[simp] theorem setCtl_replays (s : State) (n : Nat) (c : Ctl) : (setCtl s n c).replays = s.replays := rfl
@[simp] theorem setCtl_escaped (s : State) (n : Nat) (c : Ctl) : (setCtl s n c).escaped = s.escaped := rfl
@[simp] theorem setCtl_peerOut (s : State) (n : Nat) (c : Ctl) : (setCtl s n c).peerOut = s.peerOut := rfl
@[simp] theorem setCtl_forms (s : State) (n : Nat) (c : Ctl) : (setCtl s n c).forms = s.forms := rfl
@[simp] theorem setCtl_dieEvents (s : State) (n : Nat) (c : Ctl) : (setCtl s n c).dieEvents = s.dieEvents := rfl
@[simp] theorem setCtl_out (s : State) (n : Nat) (c : Ctl) : (setCtl s n c).out = s.out := rfl

@[simp] theorem setWg_now (s : State) (w : Nat) (g : Workgroup) : (setWg s w g).now = s.now := rfl
@[simp] theorem setWg_agenda (s : State) (w : Nat) (g : Workgroup) : (setWg s w g).agenda = s.agenda := rfl
@[simp] theorem setWg_cur (s : State) (w : Nat) (g : Workgroup) : (setWg s w g).cur = s.cur := rfl
@[simp] theorem setWg_round (s : State) (w : Nat) (g : Workgroup) : (setWg s w g).round = s.round := rfl
@[simp] theorem setWg_lull (s : State) (w : Nat) (g : Workgroup) : (setWg s w g).lull = s.lull := rfl
@[simp] theorem setWg_ir (s : State) (w : Nat) (g : Workgroup) : (setWg s w g).ir = s.ir := rfl
@[simp] theorem setWg_free (s : State) (w : Nat) (g : Workgroup) : (setWg s w g).free = s.free := rfl
@[simp] theorem setWg_nextId (s : State) (w : Nat) (g : Workgroup) : (setWg s w g).nextId = s.nextId := rfl
@[simp] theorem setWg_mem (s : State) (w : Nat) (g : Workgroup) : (setWg s w g).mem = s.mem := rfl
@[simp] theorem setWg_bootRam (s : State) (w : Nat) (g : Workgroup) : (setWg s w g).bootRam = s.bootRam := rfl
@[simp] theorem setWg_tbl (s : State) (w : Nat) (g : Workgroup) : (setWg s w g).tbl = s.tbl := rfl
@[simp] theorem setWg_bdi (s : State) (w : Nat) (g : Workgroup) : (setWg s w g).bdi = s.bdi := rfl
@[simp] theorem setWg_larderPoison (s : State) (w : Nat) (g : Workgroup) : (setWg s w g).larderPoison = s.larderPoison := rfl
@[simp] theorem setWg_frozen (s : State) (w : Nat) (g : Workgroup) : (setWg s w g).frozen = s.frozen := rfl
@[simp] theorem setWg_laid (s : State) (w : Nat) (g : Workgroup) : (setWg s w g).laid = s.laid := rfl
@[simp] theorem setWg_spoiled (s : State) (w : Nat) (g : Workgroup) : (setWg s w g).spoiled = s.spoiled := rfl
@[simp] theorem setWg_lines (s : State) (w : Nat) (g : Workgroup) : (setWg s w g).lines = s.lines := rfl
@[simp] theorem setWg_l2 (s : State) (w : Nat) (g : Workgroup) : (setWg s w g).l2 = s.l2 := rfl
@[simp] theorem setWg_llc (s : State) (w : Nat) (g : Workgroup) : (setWg s w g).llc = s.llc := rfl
@[simp] theorem setWg_cohMsgs (s : State) (w : Nat) (g : Workgroup) : (setWg s w g).cohMsgs = s.cohMsgs := rfl
@[simp] theorem setWg_hostDir (s : State) (w : Nat) (g : Workgroup) : (setWg s w g).hostDir = s.hostDir := rfl
@[simp] theorem setWg_hostPerm (s : State) (w : Nat) (g : Workgroup) : (setWg s w g).hostPerm = s.hostPerm := rfl
@[simp] theorem setWg_icache (s : State) (w : Nat) (g : Workgroup) : (setWg s w g).icache = s.icache := rfl
@[simp] theorem setWg_tlb (s : State) (w : Nat) (g : Workgroup) : (setWg s w g).tlb = s.tlb := rfl
@[simp] theorem setWg_reports (s : State) (w : Nat) (g : Workgroup) : (setWg s w g).reports = s.reports := rfl
@[simp] theorem setWg_pteVer (s : State) (w : Nat) (g : Workgroup) : (setWg s w g).pteVer = s.pteVer := rfl
@[simp] theorem setWg_pools (s : State) (w : Nat) (g : Workgroup) : (setWg s w g).pools = s.pools := rfl
@[simp] theorem setWg_ptq (s : State) (w : Nat) (g : Workgroup) : (setWg s w g).ptq = s.ptq := rfl
@[simp] theorem setWg_csr (s : State) (w : Nat) (g : Workgroup) : (setWg s w g).csr = s.csr := rfl
@[simp] theorem setWg_dreg (s : State) (w : Nat) (g : Workgroup) : (setWg s w g).dreg = s.dreg := rfl
@[simp] theorem setWg_preg (s : State) (w : Nat) (g : Workgroup) : (setWg s w g).preg = s.preg := rfl
@[simp] theorem setWg_parts (s : State) (w : Nat) (g : Workgroup) : (setWg s w g).parts = s.parts := rfl
@[simp] theorem setWg_dlq (s : State) (w : Nat) (g : Workgroup) : (setWg s w g).dlq = s.dlq := rfl
@[simp] theorem setWg_launches (s : State) (w : Nat) (g : Workgroup) : (setWg s w g).launches = s.launches := rfl
@[simp] theorem setWg_nextWg (s : State) (w : Nat) (g : Workgroup) : (setWg s w g).nextWg = s.nextWg := rfl
@[simp] theorem setWg_cores (s : State) (w : Nat) (g : Workgroup) : (setWg s w g).cores = s.cores := rfl
@[simp] theorem setWg_cgs (s : State) (w : Nat) (g : Workgroup) : (setWg s w g).cgs = s.cgs := rfl
@[simp] theorem setWg_dies (s : State) (w : Nat) (g : Workgroup) : (setWg s w g).dies = s.dies := rfl
@[simp] theorem setWg_ctl (s : State) (w : Nat) (g : Workgroup) : (setWg s w g).ctl = s.ctl := rfl
@[simp] theorem setWg_copies (s : State) (w : Nat) (g : Workgroup) : (setWg s w g).copies = s.copies := rfl
@[simp] theorem setWg_copyInsts (s : State) (w : Nat) (g : Workgroup) : (setWg s w g).copyInsts = s.copyInsts := rfl
@[simp] theorem setWg_rays (s : State) (w : Nat) (g : Workgroup) : (setWg s w g).rays = s.rays := rfl
@[simp] theorem setWg_susp (s : State) (w : Nat) (g : Workgroup) : (setWg s w g).susp = s.susp := rfl
@[simp] theorem setWg_suspGen (s : State) (w : Nat) (g : Workgroup) : (setWg s w g).suspGen = s.suspGen := rfl
@[simp] theorem setWg_binq (s : State) (w : Nat) (g : Workgroup) : (setWg s w g).binq = s.binq := rfl
@[simp] theorem setWg_packets (s : State) (w : Nat) (g : Workgroup) : (setWg s w g).packets = s.packets := rfl
@[simp] theorem setWg_regions (s : State) (w : Nat) (g : Workgroup) : (setWg s w g).regions = s.regions := rfl
@[simp] theorem setWg_seals (s : State) (w : Nat) (g : Workgroup) : (setWg s w g).seals = s.seals := rfl
@[simp] theorem setWg_batches (s : State) (w : Nat) (g : Workgroup) : (setWg s w g).batches = s.batches := rfl
@[simp] theorem setWg_frags (s : State) (w : Nat) (g : Workgroup) : (setWg s w g).frags = s.frags := rfl
@[simp] theorem setWg_counts (s : State) (w : Nat) (g : Workgroup) : (setWg s w g).counts = s.counts := rfl
@[simp] theorem setWg_posts (s : State) (w : Nat) (g : Workgroup) : (setWg s w g).posts = s.posts := rfl
@[simp] theorem setWg_fwds (s : State) (w : Nat) (g : Workgroup) : (setWg s w g).fwds = s.fwds := rfl
@[simp] theorem setWg_items (s : State) (w : Nat) (g : Workgroup) : (setWg s w g).items = s.items := rfl
@[simp] theorem setWg_subs (s : State) (w : Nat) (g : Workgroup) : (setWg s w g).subs = s.subs := rfl
@[simp] theorem setWg_pbs (s : State) (w : Nat) (g : Workgroup) : (setWg s w g).pbs = s.pbs := rfl
@[simp] theorem setWg_pbFlight (s : State) (w : Nat) (g : Workgroup) : (setWg s w g).pbFlight = s.pbFlight := rfl
@[simp] theorem setWg_disps (s : State) (w : Nat) (g : Workgroup) : (setWg s w g).disps = s.disps := rfl
@[simp] theorem setWg_ras (s : State) (w : Nat) (g : Workgroup) : (setWg s w g).ras = s.ras := rfl
@[simp] theorem setWg_spares (s : State) (w : Nat) (g : Workgroup) : (setWg s w g).spares = s.spares := rfl
@[simp] theorem setWg_sparesUsed (s : State) (w : Nat) (g : Workgroup) : (setWg s w g).sparesUsed = s.sparesUsed := rfl
@[simp] theorem setWg_waysOff (s : State) (w : Nat) (g : Workgroup) : (setWg s w g).waysOff = s.waysOff := rfl
@[simp] theorem setWg_absentDies (s : State) (w : Nat) (g : Workgroup) : (setWg s w g).absentDies = s.absentDies := rfl
@[simp] theorem setWg_minver (s : State) (w : Nat) (g : Workgroup) : (setWg s w g).minver = s.minver := rfl
@[simp] theorem setWg_minverNext (s : State) (w : Nat) (g : Workgroup) : (setWg s w g).minverNext = s.minverNext := rfl
@[simp] theorem setWg_fwDigest (s : State) (w : Nat) (g : Workgroup) : (setWg s w g).fwDigest = s.fwDigest := rfl
@[simp] theorem setWg_bootDead (s : State) (w : Nat) (g : Workgroup) : (setWg s w g).bootDead = s.bootDead := rfl
@[simp] theorem setWg_replays (s : State) (w : Nat) (g : Workgroup) : (setWg s w g).replays = s.replays := rfl
@[simp] theorem setWg_escaped (s : State) (w : Nat) (g : Workgroup) : (setWg s w g).escaped = s.escaped := rfl
@[simp] theorem setWg_peerOut (s : State) (w : Nat) (g : Workgroup) : (setWg s w g).peerOut = s.peerOut := rfl
@[simp] theorem setWg_forms (s : State) (w : Nat) (g : Workgroup) : (setWg s w g).forms = s.forms := rfl
@[simp] theorem setWg_dieEvents (s : State) (w : Nat) (g : Workgroup) : (setWg s w g).dieEvents = s.dieEvents := rfl
@[simp] theorem setWg_out (s : State) (w : Nat) (g : Workgroup) : (setWg s w g).out = s.out := rfl

@[simp] theorem setPart_now (s : State) (p : Nat) (x : Part) : (setPart s p x).now = s.now := rfl
@[simp] theorem setPart_agenda (s : State) (p : Nat) (x : Part) : (setPart s p x).agenda = s.agenda := rfl
@[simp] theorem setPart_cur (s : State) (p : Nat) (x : Part) : (setPart s p x).cur = s.cur := rfl
@[simp] theorem setPart_round (s : State) (p : Nat) (x : Part) : (setPart s p x).round = s.round := rfl
@[simp] theorem setPart_lull (s : State) (p : Nat) (x : Part) : (setPart s p x).lull = s.lull := rfl
@[simp] theorem setPart_ir (s : State) (p : Nat) (x : Part) : (setPart s p x).ir = s.ir := rfl
@[simp] theorem setPart_free (s : State) (p : Nat) (x : Part) : (setPart s p x).free = s.free := rfl
@[simp] theorem setPart_nextId (s : State) (p : Nat) (x : Part) : (setPart s p x).nextId = s.nextId := rfl
@[simp] theorem setPart_mem (s : State) (p : Nat) (x : Part) : (setPart s p x).mem = s.mem := rfl
@[simp] theorem setPart_bootRam (s : State) (p : Nat) (x : Part) : (setPart s p x).bootRam = s.bootRam := rfl
@[simp] theorem setPart_tbl (s : State) (p : Nat) (x : Part) : (setPart s p x).tbl = s.tbl := rfl
@[simp] theorem setPart_bdi (s : State) (p : Nat) (x : Part) : (setPart s p x).bdi = s.bdi := rfl
@[simp] theorem setPart_larderPoison (s : State) (p : Nat) (x : Part) : (setPart s p x).larderPoison = s.larderPoison := rfl
@[simp] theorem setPart_frozen (s : State) (p : Nat) (x : Part) : (setPart s p x).frozen = s.frozen := rfl
@[simp] theorem setPart_laid (s : State) (p : Nat) (x : Part) : (setPart s p x).laid = s.laid := rfl
@[simp] theorem setPart_spoiled (s : State) (p : Nat) (x : Part) : (setPart s p x).spoiled = s.spoiled := rfl
@[simp] theorem setPart_lines (s : State) (p : Nat) (x : Part) : (setPart s p x).lines = s.lines := rfl
@[simp] theorem setPart_l2 (s : State) (p : Nat) (x : Part) : (setPart s p x).l2 = s.l2 := rfl
@[simp] theorem setPart_llc (s : State) (p : Nat) (x : Part) : (setPart s p x).llc = s.llc := rfl
@[simp] theorem setPart_cohMsgs (s : State) (p : Nat) (x : Part) : (setPart s p x).cohMsgs = s.cohMsgs := rfl
@[simp] theorem setPart_hostDir (s : State) (p : Nat) (x : Part) : (setPart s p x).hostDir = s.hostDir := rfl
@[simp] theorem setPart_hostPerm (s : State) (p : Nat) (x : Part) : (setPart s p x).hostPerm = s.hostPerm := rfl
@[simp] theorem setPart_icache (s : State) (p : Nat) (x : Part) : (setPart s p x).icache = s.icache := rfl
@[simp] theorem setPart_tlb (s : State) (p : Nat) (x : Part) : (setPart s p x).tlb = s.tlb := rfl
@[simp] theorem setPart_reports (s : State) (p : Nat) (x : Part) : (setPart s p x).reports = s.reports := rfl
@[simp] theorem setPart_pteVer (s : State) (p : Nat) (x : Part) : (setPart s p x).pteVer = s.pteVer := rfl
@[simp] theorem setPart_pools (s : State) (p : Nat) (x : Part) : (setPart s p x).pools = s.pools := rfl
@[simp] theorem setPart_ptq (s : State) (p : Nat) (x : Part) : (setPart s p x).ptq = s.ptq := rfl
@[simp] theorem setPart_csr (s : State) (p : Nat) (x : Part) : (setPart s p x).csr = s.csr := rfl
@[simp] theorem setPart_dreg (s : State) (p : Nat) (x : Part) : (setPart s p x).dreg = s.dreg := rfl
@[simp] theorem setPart_preg (s : State) (p : Nat) (x : Part) : (setPart s p x).preg = s.preg := rfl
@[simp] theorem setPart_dlq (s : State) (p : Nat) (x : Part) : (setPart s p x).dlq = s.dlq := rfl
@[simp] theorem setPart_launches (s : State) (p : Nat) (x : Part) : (setPart s p x).launches = s.launches := rfl
@[simp] theorem setPart_wgs (s : State) (p : Nat) (x : Part) : (setPart s p x).wgs = s.wgs := rfl
@[simp] theorem setPart_nextWg (s : State) (p : Nat) (x : Part) : (setPart s p x).nextWg = s.nextWg := rfl
@[simp] theorem setPart_cores (s : State) (p : Nat) (x : Part) : (setPart s p x).cores = s.cores := rfl
@[simp] theorem setPart_cgs (s : State) (p : Nat) (x : Part) : (setPart s p x).cgs = s.cgs := rfl
@[simp] theorem setPart_dies (s : State) (p : Nat) (x : Part) : (setPart s p x).dies = s.dies := rfl
@[simp] theorem setPart_ctl (s : State) (p : Nat) (x : Part) : (setPart s p x).ctl = s.ctl := rfl
@[simp] theorem setPart_copies (s : State) (p : Nat) (x : Part) : (setPart s p x).copies = s.copies := rfl
@[simp] theorem setPart_copyInsts (s : State) (p : Nat) (x : Part) : (setPart s p x).copyInsts = s.copyInsts := rfl
@[simp] theorem setPart_rays (s : State) (p : Nat) (x : Part) : (setPart s p x).rays = s.rays := rfl
@[simp] theorem setPart_susp (s : State) (p : Nat) (x : Part) : (setPart s p x).susp = s.susp := rfl
@[simp] theorem setPart_suspGen (s : State) (p : Nat) (x : Part) : (setPart s p x).suspGen = s.suspGen := rfl
@[simp] theorem setPart_binq (s : State) (p : Nat) (x : Part) : (setPart s p x).binq = s.binq := rfl
@[simp] theorem setPart_packets (s : State) (p : Nat) (x : Part) : (setPart s p x).packets = s.packets := rfl
@[simp] theorem setPart_regions (s : State) (p : Nat) (x : Part) : (setPart s p x).regions = s.regions := rfl
@[simp] theorem setPart_seals (s : State) (p : Nat) (x : Part) : (setPart s p x).seals = s.seals := rfl
@[simp] theorem setPart_batches (s : State) (p : Nat) (x : Part) : (setPart s p x).batches = s.batches := rfl
@[simp] theorem setPart_frags (s : State) (p : Nat) (x : Part) : (setPart s p x).frags = s.frags := rfl
@[simp] theorem setPart_counts (s : State) (p : Nat) (x : Part) : (setPart s p x).counts = s.counts := rfl
@[simp] theorem setPart_posts (s : State) (p : Nat) (x : Part) : (setPart s p x).posts = s.posts := rfl
@[simp] theorem setPart_fwds (s : State) (p : Nat) (x : Part) : (setPart s p x).fwds = s.fwds := rfl
@[simp] theorem setPart_items (s : State) (p : Nat) (x : Part) : (setPart s p x).items = s.items := rfl
@[simp] theorem setPart_subs (s : State) (p : Nat) (x : Part) : (setPart s p x).subs = s.subs := rfl
@[simp] theorem setPart_pbs (s : State) (p : Nat) (x : Part) : (setPart s p x).pbs = s.pbs := rfl
@[simp] theorem setPart_pbFlight (s : State) (p : Nat) (x : Part) : (setPart s p x).pbFlight = s.pbFlight := rfl
@[simp] theorem setPart_disps (s : State) (p : Nat) (x : Part) : (setPart s p x).disps = s.disps := rfl
@[simp] theorem setPart_ras (s : State) (p : Nat) (x : Part) : (setPart s p x).ras = s.ras := rfl
@[simp] theorem setPart_spares (s : State) (p : Nat) (x : Part) : (setPart s p x).spares = s.spares := rfl
@[simp] theorem setPart_sparesUsed (s : State) (p : Nat) (x : Part) : (setPart s p x).sparesUsed = s.sparesUsed := rfl
@[simp] theorem setPart_waysOff (s : State) (p : Nat) (x : Part) : (setPart s p x).waysOff = s.waysOff := rfl
@[simp] theorem setPart_absentDies (s : State) (p : Nat) (x : Part) : (setPart s p x).absentDies = s.absentDies := rfl
@[simp] theorem setPart_minver (s : State) (p : Nat) (x : Part) : (setPart s p x).minver = s.minver := rfl
@[simp] theorem setPart_minverNext (s : State) (p : Nat) (x : Part) : (setPart s p x).minverNext = s.minverNext := rfl
@[simp] theorem setPart_fwDigest (s : State) (p : Nat) (x : Part) : (setPart s p x).fwDigest = s.fwDigest := rfl
@[simp] theorem setPart_bootDead (s : State) (p : Nat) (x : Part) : (setPart s p x).bootDead = s.bootDead := rfl
@[simp] theorem setPart_replays (s : State) (p : Nat) (x : Part) : (setPart s p x).replays = s.replays := rfl
@[simp] theorem setPart_escaped (s : State) (p : Nat) (x : Part) : (setPart s p x).escaped = s.escaped := rfl
@[simp] theorem setPart_peerOut (s : State) (p : Nat) (x : Part) : (setPart s p x).peerOut = s.peerOut := rfl
@[simp] theorem setPart_forms (s : State) (p : Nat) (x : Part) : (setPart s p x).forms = s.forms := rfl
@[simp] theorem setPart_dieEvents (s : State) (p : Nat) (x : Part) : (setPart s p x).dieEvents = s.dieEvents := rfl
@[simp] theorem setPart_out (s : State) (p : Nat) (x : Part) : (setPart s p x).out = s.out := rfl

@[simp] theorem csrSet_now (s : State) (n k v : Nat) : (csrSet s n k v).now = s.now := rfl
@[simp] theorem csrSet_agenda (s : State) (n k v : Nat) : (csrSet s n k v).agenda = s.agenda := rfl
@[simp] theorem csrSet_cur (s : State) (n k v : Nat) : (csrSet s n k v).cur = s.cur := rfl
@[simp] theorem csrSet_round (s : State) (n k v : Nat) : (csrSet s n k v).round = s.round := rfl
@[simp] theorem csrSet_lull (s : State) (n k v : Nat) : (csrSet s n k v).lull = s.lull := rfl
@[simp] theorem csrSet_ir (s : State) (n k v : Nat) : (csrSet s n k v).ir = s.ir := rfl
@[simp] theorem csrSet_free (s : State) (n k v : Nat) : (csrSet s n k v).free = s.free := rfl
@[simp] theorem csrSet_nextId (s : State) (n k v : Nat) : (csrSet s n k v).nextId = s.nextId := rfl
@[simp] theorem csrSet_mem (s : State) (n k v : Nat) : (csrSet s n k v).mem = s.mem := rfl
@[simp] theorem csrSet_bootRam (s : State) (n k v : Nat) : (csrSet s n k v).bootRam = s.bootRam := rfl
@[simp] theorem csrSet_tbl (s : State) (n k v : Nat) : (csrSet s n k v).tbl = s.tbl := rfl
@[simp] theorem csrSet_bdi (s : State) (n k v : Nat) : (csrSet s n k v).bdi = s.bdi := rfl
@[simp] theorem csrSet_larderPoison (s : State) (n k v : Nat) : (csrSet s n k v).larderPoison = s.larderPoison := rfl
@[simp] theorem csrSet_frozen (s : State) (n k v : Nat) : (csrSet s n k v).frozen = s.frozen := rfl
@[simp] theorem csrSet_laid (s : State) (n k v : Nat) : (csrSet s n k v).laid = s.laid := rfl
@[simp] theorem csrSet_spoiled (s : State) (n k v : Nat) : (csrSet s n k v).spoiled = s.spoiled := rfl
@[simp] theorem csrSet_lines (s : State) (n k v : Nat) : (csrSet s n k v).lines = s.lines := rfl
@[simp] theorem csrSet_l2 (s : State) (n k v : Nat) : (csrSet s n k v).l2 = s.l2 := rfl
@[simp] theorem csrSet_llc (s : State) (n k v : Nat) : (csrSet s n k v).llc = s.llc := rfl
@[simp] theorem csrSet_cohMsgs (s : State) (n k v : Nat) : (csrSet s n k v).cohMsgs = s.cohMsgs := rfl
@[simp] theorem csrSet_hostDir (s : State) (n k v : Nat) : (csrSet s n k v).hostDir = s.hostDir := rfl
@[simp] theorem csrSet_hostPerm (s : State) (n k v : Nat) : (csrSet s n k v).hostPerm = s.hostPerm := rfl
@[simp] theorem csrSet_icache (s : State) (n k v : Nat) : (csrSet s n k v).icache = s.icache := rfl
@[simp] theorem csrSet_tlb (s : State) (n k v : Nat) : (csrSet s n k v).tlb = s.tlb := rfl
@[simp] theorem csrSet_reports (s : State) (n k v : Nat) : (csrSet s n k v).reports = s.reports := rfl
@[simp] theorem csrSet_pteVer (s : State) (n k v : Nat) : (csrSet s n k v).pteVer = s.pteVer := rfl
@[simp] theorem csrSet_pools (s : State) (n k v : Nat) : (csrSet s n k v).pools = s.pools := rfl
@[simp] theorem csrSet_ptq (s : State) (n k v : Nat) : (csrSet s n k v).ptq = s.ptq := rfl
@[simp] theorem csrSet_dreg (s : State) (n k v : Nat) : (csrSet s n k v).dreg = s.dreg := rfl
@[simp] theorem csrSet_preg (s : State) (n k v : Nat) : (csrSet s n k v).preg = s.preg := rfl
@[simp] theorem csrSet_parts (s : State) (n k v : Nat) : (csrSet s n k v).parts = s.parts := rfl
@[simp] theorem csrSet_dlq (s : State) (n k v : Nat) : (csrSet s n k v).dlq = s.dlq := rfl
@[simp] theorem csrSet_launches (s : State) (n k v : Nat) : (csrSet s n k v).launches = s.launches := rfl
@[simp] theorem csrSet_wgs (s : State) (n k v : Nat) : (csrSet s n k v).wgs = s.wgs := rfl
@[simp] theorem csrSet_nextWg (s : State) (n k v : Nat) : (csrSet s n k v).nextWg = s.nextWg := rfl
@[simp] theorem csrSet_cores (s : State) (n k v : Nat) : (csrSet s n k v).cores = s.cores := rfl
@[simp] theorem csrSet_cgs (s : State) (n k v : Nat) : (csrSet s n k v).cgs = s.cgs := rfl
@[simp] theorem csrSet_dies (s : State) (n k v : Nat) : (csrSet s n k v).dies = s.dies := rfl
@[simp] theorem csrSet_ctl (s : State) (n k v : Nat) : (csrSet s n k v).ctl = s.ctl := rfl
@[simp] theorem csrSet_copies (s : State) (n k v : Nat) : (csrSet s n k v).copies = s.copies := rfl
@[simp] theorem csrSet_copyInsts (s : State) (n k v : Nat) : (csrSet s n k v).copyInsts = s.copyInsts := rfl
@[simp] theorem csrSet_rays (s : State) (n k v : Nat) : (csrSet s n k v).rays = s.rays := rfl
@[simp] theorem csrSet_susp (s : State) (n k v : Nat) : (csrSet s n k v).susp = s.susp := rfl
@[simp] theorem csrSet_suspGen (s : State) (n k v : Nat) : (csrSet s n k v).suspGen = s.suspGen := rfl
@[simp] theorem csrSet_binq (s : State) (n k v : Nat) : (csrSet s n k v).binq = s.binq := rfl
@[simp] theorem csrSet_packets (s : State) (n k v : Nat) : (csrSet s n k v).packets = s.packets := rfl
@[simp] theorem csrSet_regions (s : State) (n k v : Nat) : (csrSet s n k v).regions = s.regions := rfl
@[simp] theorem csrSet_seals (s : State) (n k v : Nat) : (csrSet s n k v).seals = s.seals := rfl
@[simp] theorem csrSet_batches (s : State) (n k v : Nat) : (csrSet s n k v).batches = s.batches := rfl
@[simp] theorem csrSet_frags (s : State) (n k v : Nat) : (csrSet s n k v).frags = s.frags := rfl
@[simp] theorem csrSet_counts (s : State) (n k v : Nat) : (csrSet s n k v).counts = s.counts := rfl
@[simp] theorem csrSet_posts (s : State) (n k v : Nat) : (csrSet s n k v).posts = s.posts := rfl
@[simp] theorem csrSet_fwds (s : State) (n k v : Nat) : (csrSet s n k v).fwds = s.fwds := rfl
@[simp] theorem csrSet_items (s : State) (n k v : Nat) : (csrSet s n k v).items = s.items := rfl
@[simp] theorem csrSet_subs (s : State) (n k v : Nat) : (csrSet s n k v).subs = s.subs := rfl
@[simp] theorem csrSet_pbs (s : State) (n k v : Nat) : (csrSet s n k v).pbs = s.pbs := rfl
@[simp] theorem csrSet_pbFlight (s : State) (n k v : Nat) : (csrSet s n k v).pbFlight = s.pbFlight := rfl
@[simp] theorem csrSet_disps (s : State) (n k v : Nat) : (csrSet s n k v).disps = s.disps := rfl
@[simp] theorem csrSet_ras (s : State) (n k v : Nat) : (csrSet s n k v).ras = s.ras := rfl
@[simp] theorem csrSet_spares (s : State) (n k v : Nat) : (csrSet s n k v).spares = s.spares := rfl
@[simp] theorem csrSet_sparesUsed (s : State) (n k v : Nat) : (csrSet s n k v).sparesUsed = s.sparesUsed := rfl
@[simp] theorem csrSet_waysOff (s : State) (n k v : Nat) : (csrSet s n k v).waysOff = s.waysOff := rfl
@[simp] theorem csrSet_absentDies (s : State) (n k v : Nat) : (csrSet s n k v).absentDies = s.absentDies := rfl
@[simp] theorem csrSet_minver (s : State) (n k v : Nat) : (csrSet s n k v).minver = s.minver := rfl
@[simp] theorem csrSet_minverNext (s : State) (n k v : Nat) : (csrSet s n k v).minverNext = s.minverNext := rfl
@[simp] theorem csrSet_fwDigest (s : State) (n k v : Nat) : (csrSet s n k v).fwDigest = s.fwDigest := rfl
@[simp] theorem csrSet_bootDead (s : State) (n k v : Nat) : (csrSet s n k v).bootDead = s.bootDead := rfl
@[simp] theorem csrSet_replays (s : State) (n k v : Nat) : (csrSet s n k v).replays = s.replays := rfl
@[simp] theorem csrSet_escaped (s : State) (n k v : Nat) : (csrSet s n k v).escaped = s.escaped := rfl
@[simp] theorem csrSet_peerOut (s : State) (n k v : Nat) : (csrSet s n k v).peerOut = s.peerOut := rfl
@[simp] theorem csrSet_forms (s : State) (n k v : Nat) : (csrSet s n k v).forms = s.forms := rfl
@[simp] theorem csrSet_dieEvents (s : State) (n k v : Nat) : (csrSet s n k v).dieEvents = s.dieEvents := rfl
@[simp] theorem csrSet_out (s : State) (n k v : Nat) : (csrSet s n k v).out = s.out := rfl

@[simp] theorem dregSet_now (s : State) (d o v : Nat) : (dregSet s d o v).now = s.now := rfl
@[simp] theorem dregSet_agenda (s : State) (d o v : Nat) : (dregSet s d o v).agenda = s.agenda := rfl
@[simp] theorem dregSet_cur (s : State) (d o v : Nat) : (dregSet s d o v).cur = s.cur := rfl
@[simp] theorem dregSet_round (s : State) (d o v : Nat) : (dregSet s d o v).round = s.round := rfl
@[simp] theorem dregSet_lull (s : State) (d o v : Nat) : (dregSet s d o v).lull = s.lull := rfl
@[simp] theorem dregSet_ir (s : State) (d o v : Nat) : (dregSet s d o v).ir = s.ir := rfl
@[simp] theorem dregSet_free (s : State) (d o v : Nat) : (dregSet s d o v).free = s.free := rfl
@[simp] theorem dregSet_nextId (s : State) (d o v : Nat) : (dregSet s d o v).nextId = s.nextId := rfl
@[simp] theorem dregSet_mem (s : State) (d o v : Nat) : (dregSet s d o v).mem = s.mem := rfl
@[simp] theorem dregSet_bootRam (s : State) (d o v : Nat) : (dregSet s d o v).bootRam = s.bootRam := rfl
@[simp] theorem dregSet_tbl (s : State) (d o v : Nat) : (dregSet s d o v).tbl = s.tbl := rfl
@[simp] theorem dregSet_bdi (s : State) (d o v : Nat) : (dregSet s d o v).bdi = s.bdi := rfl
@[simp] theorem dregSet_larderPoison (s : State) (d o v : Nat) : (dregSet s d o v).larderPoison = s.larderPoison := rfl
@[simp] theorem dregSet_frozen (s : State) (d o v : Nat) : (dregSet s d o v).frozen = s.frozen := rfl
@[simp] theorem dregSet_laid (s : State) (d o v : Nat) : (dregSet s d o v).laid = s.laid := rfl
@[simp] theorem dregSet_spoiled (s : State) (d o v : Nat) : (dregSet s d o v).spoiled = s.spoiled := rfl
@[simp] theorem dregSet_lines (s : State) (d o v : Nat) : (dregSet s d o v).lines = s.lines := rfl
@[simp] theorem dregSet_l2 (s : State) (d o v : Nat) : (dregSet s d o v).l2 = s.l2 := rfl
@[simp] theorem dregSet_llc (s : State) (d o v : Nat) : (dregSet s d o v).llc = s.llc := rfl
@[simp] theorem dregSet_cohMsgs (s : State) (d o v : Nat) : (dregSet s d o v).cohMsgs = s.cohMsgs := rfl
@[simp] theorem dregSet_hostDir (s : State) (d o v : Nat) : (dregSet s d o v).hostDir = s.hostDir := rfl
@[simp] theorem dregSet_hostPerm (s : State) (d o v : Nat) : (dregSet s d o v).hostPerm = s.hostPerm := rfl
@[simp] theorem dregSet_icache (s : State) (d o v : Nat) : (dregSet s d o v).icache = s.icache := rfl
@[simp] theorem dregSet_tlb (s : State) (d o v : Nat) : (dregSet s d o v).tlb = s.tlb := rfl
@[simp] theorem dregSet_reports (s : State) (d o v : Nat) : (dregSet s d o v).reports = s.reports := rfl
@[simp] theorem dregSet_pteVer (s : State) (d o v : Nat) : (dregSet s d o v).pteVer = s.pteVer := rfl
@[simp] theorem dregSet_pools (s : State) (d o v : Nat) : (dregSet s d o v).pools = s.pools := rfl
@[simp] theorem dregSet_ptq (s : State) (d o v : Nat) : (dregSet s d o v).ptq = s.ptq := rfl
@[simp] theorem dregSet_csr (s : State) (d o v : Nat) : (dregSet s d o v).csr = s.csr := rfl
@[simp] theorem dregSet_preg (s : State) (d o v : Nat) : (dregSet s d o v).preg = s.preg := rfl
@[simp] theorem dregSet_parts (s : State) (d o v : Nat) : (dregSet s d o v).parts = s.parts := rfl
@[simp] theorem dregSet_dlq (s : State) (d o v : Nat) : (dregSet s d o v).dlq = s.dlq := rfl
@[simp] theorem dregSet_launches (s : State) (d o v : Nat) : (dregSet s d o v).launches = s.launches := rfl
@[simp] theorem dregSet_wgs (s : State) (d o v : Nat) : (dregSet s d o v).wgs = s.wgs := rfl
@[simp] theorem dregSet_nextWg (s : State) (d o v : Nat) : (dregSet s d o v).nextWg = s.nextWg := rfl
@[simp] theorem dregSet_cores (s : State) (d o v : Nat) : (dregSet s d o v).cores = s.cores := rfl
@[simp] theorem dregSet_cgs (s : State) (d o v : Nat) : (dregSet s d o v).cgs = s.cgs := rfl
@[simp] theorem dregSet_dies (s : State) (d o v : Nat) : (dregSet s d o v).dies = s.dies := rfl
@[simp] theorem dregSet_ctl (s : State) (d o v : Nat) : (dregSet s d o v).ctl = s.ctl := rfl
@[simp] theorem dregSet_copies (s : State) (d o v : Nat) : (dregSet s d o v).copies = s.copies := rfl
@[simp] theorem dregSet_copyInsts (s : State) (d o v : Nat) : (dregSet s d o v).copyInsts = s.copyInsts := rfl
@[simp] theorem dregSet_rays (s : State) (d o v : Nat) : (dregSet s d o v).rays = s.rays := rfl
@[simp] theorem dregSet_susp (s : State) (d o v : Nat) : (dregSet s d o v).susp = s.susp := rfl
@[simp] theorem dregSet_suspGen (s : State) (d o v : Nat) : (dregSet s d o v).suspGen = s.suspGen := rfl
@[simp] theorem dregSet_binq (s : State) (d o v : Nat) : (dregSet s d o v).binq = s.binq := rfl
@[simp] theorem dregSet_packets (s : State) (d o v : Nat) : (dregSet s d o v).packets = s.packets := rfl
@[simp] theorem dregSet_regions (s : State) (d o v : Nat) : (dregSet s d o v).regions = s.regions := rfl
@[simp] theorem dregSet_seals (s : State) (d o v : Nat) : (dregSet s d o v).seals = s.seals := rfl
@[simp] theorem dregSet_batches (s : State) (d o v : Nat) : (dregSet s d o v).batches = s.batches := rfl
@[simp] theorem dregSet_frags (s : State) (d o v : Nat) : (dregSet s d o v).frags = s.frags := rfl
@[simp] theorem dregSet_counts (s : State) (d o v : Nat) : (dregSet s d o v).counts = s.counts := rfl
@[simp] theorem dregSet_posts (s : State) (d o v : Nat) : (dregSet s d o v).posts = s.posts := rfl
@[simp] theorem dregSet_fwds (s : State) (d o v : Nat) : (dregSet s d o v).fwds = s.fwds := rfl
@[simp] theorem dregSet_items (s : State) (d o v : Nat) : (dregSet s d o v).items = s.items := rfl
@[simp] theorem dregSet_subs (s : State) (d o v : Nat) : (dregSet s d o v).subs = s.subs := rfl
@[simp] theorem dregSet_pbs (s : State) (d o v : Nat) : (dregSet s d o v).pbs = s.pbs := rfl
@[simp] theorem dregSet_pbFlight (s : State) (d o v : Nat) : (dregSet s d o v).pbFlight = s.pbFlight := rfl
@[simp] theorem dregSet_disps (s : State) (d o v : Nat) : (dregSet s d o v).disps = s.disps := rfl
@[simp] theorem dregSet_ras (s : State) (d o v : Nat) : (dregSet s d o v).ras = s.ras := rfl
@[simp] theorem dregSet_spares (s : State) (d o v : Nat) : (dregSet s d o v).spares = s.spares := rfl
@[simp] theorem dregSet_sparesUsed (s : State) (d o v : Nat) : (dregSet s d o v).sparesUsed = s.sparesUsed := rfl
@[simp] theorem dregSet_waysOff (s : State) (d o v : Nat) : (dregSet s d o v).waysOff = s.waysOff := rfl
@[simp] theorem dregSet_absentDies (s : State) (d o v : Nat) : (dregSet s d o v).absentDies = s.absentDies := rfl
@[simp] theorem dregSet_minver (s : State) (d o v : Nat) : (dregSet s d o v).minver = s.minver := rfl
@[simp] theorem dregSet_minverNext (s : State) (d o v : Nat) : (dregSet s d o v).minverNext = s.minverNext := rfl
@[simp] theorem dregSet_fwDigest (s : State) (d o v : Nat) : (dregSet s d o v).fwDigest = s.fwDigest := rfl
@[simp] theorem dregSet_bootDead (s : State) (d o v : Nat) : (dregSet s d o v).bootDead = s.bootDead := rfl
@[simp] theorem dregSet_replays (s : State) (d o v : Nat) : (dregSet s d o v).replays = s.replays := rfl
@[simp] theorem dregSet_escaped (s : State) (d o v : Nat) : (dregSet s d o v).escaped = s.escaped := rfl
@[simp] theorem dregSet_peerOut (s : State) (d o v : Nat) : (dregSet s d o v).peerOut = s.peerOut := rfl
@[simp] theorem dregSet_forms (s : State) (d o v : Nat) : (dregSet s d o v).forms = s.forms := rfl
@[simp] theorem dregSet_dieEvents (s : State) (d o v : Nat) : (dregSet s d o v).dieEvents = s.dieEvents := rfl
@[simp] theorem dregSet_out (s : State) (d o v : Nat) : (dregSet s d o v).out = s.out := rfl

@[simp] theorem pregSet_now (s : State) (p o v : Nat) : (pregSet s p o v).now = s.now := rfl
@[simp] theorem pregSet_agenda (s : State) (p o v : Nat) : (pregSet s p o v).agenda = s.agenda := rfl
@[simp] theorem pregSet_cur (s : State) (p o v : Nat) : (pregSet s p o v).cur = s.cur := rfl
@[simp] theorem pregSet_round (s : State) (p o v : Nat) : (pregSet s p o v).round = s.round := rfl
@[simp] theorem pregSet_lull (s : State) (p o v : Nat) : (pregSet s p o v).lull = s.lull := rfl
@[simp] theorem pregSet_ir (s : State) (p o v : Nat) : (pregSet s p o v).ir = s.ir := rfl
@[simp] theorem pregSet_free (s : State) (p o v : Nat) : (pregSet s p o v).free = s.free := rfl
@[simp] theorem pregSet_nextId (s : State) (p o v : Nat) : (pregSet s p o v).nextId = s.nextId := rfl
@[simp] theorem pregSet_mem (s : State) (p o v : Nat) : (pregSet s p o v).mem = s.mem := rfl
@[simp] theorem pregSet_bootRam (s : State) (p o v : Nat) : (pregSet s p o v).bootRam = s.bootRam := rfl
@[simp] theorem pregSet_tbl (s : State) (p o v : Nat) : (pregSet s p o v).tbl = s.tbl := rfl
@[simp] theorem pregSet_bdi (s : State) (p o v : Nat) : (pregSet s p o v).bdi = s.bdi := rfl
@[simp] theorem pregSet_larderPoison (s : State) (p o v : Nat) : (pregSet s p o v).larderPoison = s.larderPoison := rfl
@[simp] theorem pregSet_frozen (s : State) (p o v : Nat) : (pregSet s p o v).frozen = s.frozen := rfl
@[simp] theorem pregSet_laid (s : State) (p o v : Nat) : (pregSet s p o v).laid = s.laid := rfl
@[simp] theorem pregSet_spoiled (s : State) (p o v : Nat) : (pregSet s p o v).spoiled = s.spoiled := rfl
@[simp] theorem pregSet_lines (s : State) (p o v : Nat) : (pregSet s p o v).lines = s.lines := rfl
@[simp] theorem pregSet_l2 (s : State) (p o v : Nat) : (pregSet s p o v).l2 = s.l2 := rfl
@[simp] theorem pregSet_llc (s : State) (p o v : Nat) : (pregSet s p o v).llc = s.llc := rfl
@[simp] theorem pregSet_cohMsgs (s : State) (p o v : Nat) : (pregSet s p o v).cohMsgs = s.cohMsgs := rfl
@[simp] theorem pregSet_hostDir (s : State) (p o v : Nat) : (pregSet s p o v).hostDir = s.hostDir := rfl
@[simp] theorem pregSet_hostPerm (s : State) (p o v : Nat) : (pregSet s p o v).hostPerm = s.hostPerm := rfl
@[simp] theorem pregSet_icache (s : State) (p o v : Nat) : (pregSet s p o v).icache = s.icache := rfl
@[simp] theorem pregSet_tlb (s : State) (p o v : Nat) : (pregSet s p o v).tlb = s.tlb := rfl
@[simp] theorem pregSet_reports (s : State) (p o v : Nat) : (pregSet s p o v).reports = s.reports := rfl
@[simp] theorem pregSet_pteVer (s : State) (p o v : Nat) : (pregSet s p o v).pteVer = s.pteVer := rfl
@[simp] theorem pregSet_pools (s : State) (p o v : Nat) : (pregSet s p o v).pools = s.pools := rfl
@[simp] theorem pregSet_ptq (s : State) (p o v : Nat) : (pregSet s p o v).ptq = s.ptq := rfl
@[simp] theorem pregSet_csr (s : State) (p o v : Nat) : (pregSet s p o v).csr = s.csr := rfl
@[simp] theorem pregSet_dreg (s : State) (p o v : Nat) : (pregSet s p o v).dreg = s.dreg := rfl
@[simp] theorem pregSet_parts (s : State) (p o v : Nat) : (pregSet s p o v).parts = s.parts := rfl
@[simp] theorem pregSet_dlq (s : State) (p o v : Nat) : (pregSet s p o v).dlq = s.dlq := rfl
@[simp] theorem pregSet_launches (s : State) (p o v : Nat) : (pregSet s p o v).launches = s.launches := rfl
@[simp] theorem pregSet_wgs (s : State) (p o v : Nat) : (pregSet s p o v).wgs = s.wgs := rfl
@[simp] theorem pregSet_nextWg (s : State) (p o v : Nat) : (pregSet s p o v).nextWg = s.nextWg := rfl
@[simp] theorem pregSet_cores (s : State) (p o v : Nat) : (pregSet s p o v).cores = s.cores := rfl
@[simp] theorem pregSet_cgs (s : State) (p o v : Nat) : (pregSet s p o v).cgs = s.cgs := rfl
@[simp] theorem pregSet_dies (s : State) (p o v : Nat) : (pregSet s p o v).dies = s.dies := rfl
@[simp] theorem pregSet_ctl (s : State) (p o v : Nat) : (pregSet s p o v).ctl = s.ctl := rfl
@[simp] theorem pregSet_copies (s : State) (p o v : Nat) : (pregSet s p o v).copies = s.copies := rfl
@[simp] theorem pregSet_copyInsts (s : State) (p o v : Nat) : (pregSet s p o v).copyInsts = s.copyInsts := rfl
@[simp] theorem pregSet_rays (s : State) (p o v : Nat) : (pregSet s p o v).rays = s.rays := rfl
@[simp] theorem pregSet_susp (s : State) (p o v : Nat) : (pregSet s p o v).susp = s.susp := rfl
@[simp] theorem pregSet_suspGen (s : State) (p o v : Nat) : (pregSet s p o v).suspGen = s.suspGen := rfl
@[simp] theorem pregSet_binq (s : State) (p o v : Nat) : (pregSet s p o v).binq = s.binq := rfl
@[simp] theorem pregSet_packets (s : State) (p o v : Nat) : (pregSet s p o v).packets = s.packets := rfl
@[simp] theorem pregSet_regions (s : State) (p o v : Nat) : (pregSet s p o v).regions = s.regions := rfl
@[simp] theorem pregSet_seals (s : State) (p o v : Nat) : (pregSet s p o v).seals = s.seals := rfl
@[simp] theorem pregSet_batches (s : State) (p o v : Nat) : (pregSet s p o v).batches = s.batches := rfl
@[simp] theorem pregSet_frags (s : State) (p o v : Nat) : (pregSet s p o v).frags = s.frags := rfl
@[simp] theorem pregSet_counts (s : State) (p o v : Nat) : (pregSet s p o v).counts = s.counts := rfl
@[simp] theorem pregSet_posts (s : State) (p o v : Nat) : (pregSet s p o v).posts = s.posts := rfl
@[simp] theorem pregSet_fwds (s : State) (p o v : Nat) : (pregSet s p o v).fwds = s.fwds := rfl
@[simp] theorem pregSet_items (s : State) (p o v : Nat) : (pregSet s p o v).items = s.items := rfl
@[simp] theorem pregSet_subs (s : State) (p o v : Nat) : (pregSet s p o v).subs = s.subs := rfl
@[simp] theorem pregSet_pbs (s : State) (p o v : Nat) : (pregSet s p o v).pbs = s.pbs := rfl
@[simp] theorem pregSet_pbFlight (s : State) (p o v : Nat) : (pregSet s p o v).pbFlight = s.pbFlight := rfl
@[simp] theorem pregSet_disps (s : State) (p o v : Nat) : (pregSet s p o v).disps = s.disps := rfl
@[simp] theorem pregSet_ras (s : State) (p o v : Nat) : (pregSet s p o v).ras = s.ras := rfl
@[simp] theorem pregSet_spares (s : State) (p o v : Nat) : (pregSet s p o v).spares = s.spares := rfl
@[simp] theorem pregSet_sparesUsed (s : State) (p o v : Nat) : (pregSet s p o v).sparesUsed = s.sparesUsed := rfl
@[simp] theorem pregSet_waysOff (s : State) (p o v : Nat) : (pregSet s p o v).waysOff = s.waysOff := rfl
@[simp] theorem pregSet_absentDies (s : State) (p o v : Nat) : (pregSet s p o v).absentDies = s.absentDies := rfl
@[simp] theorem pregSet_minver (s : State) (p o v : Nat) : (pregSet s p o v).minver = s.minver := rfl
@[simp] theorem pregSet_minverNext (s : State) (p o v : Nat) : (pregSet s p o v).minverNext = s.minverNext := rfl
@[simp] theorem pregSet_fwDigest (s : State) (p o v : Nat) : (pregSet s p o v).fwDigest = s.fwDigest := rfl
@[simp] theorem pregSet_bootDead (s : State) (p o v : Nat) : (pregSet s p o v).bootDead = s.bootDead := rfl
@[simp] theorem pregSet_replays (s : State) (p o v : Nat) : (pregSet s p o v).replays = s.replays := rfl
@[simp] theorem pregSet_escaped (s : State) (p o v : Nat) : (pregSet s p o v).escaped = s.escaped := rfl
@[simp] theorem pregSet_peerOut (s : State) (p o v : Nat) : (pregSet s p o v).peerOut = s.peerOut := rfl
@[simp] theorem pregSet_forms (s : State) (p o v : Nat) : (pregSet s p o v).forms = s.forms := rfl
@[simp] theorem pregSet_dieEvents (s : State) (p o v : Nat) : (pregSet s p o v).dieEvents = s.dieEvents := rfl
@[simp] theorem pregSet_out (s : State) (p o v : Nat) : (pregSet s p o v).out = s.out := rfl

@[simp] theorem useFree_now (s : State) : (useFree s).now = s.now := rfl
@[simp] theorem useFree_agenda (s : State) : (useFree s).agenda = s.agenda := rfl
@[simp] theorem useFree_cur (s : State) : (useFree s).cur = s.cur := rfl
@[simp] theorem useFree_round (s : State) : (useFree s).round = s.round := rfl
@[simp] theorem useFree_lull (s : State) : (useFree s).lull = s.lull := rfl
@[simp] theorem useFree_ir (s : State) : (useFree s).ir = s.ir := rfl
@[simp] theorem useFree_nextId (s : State) : (useFree s).nextId = s.nextId := rfl
@[simp] theorem useFree_mem (s : State) : (useFree s).mem = s.mem := rfl
@[simp] theorem useFree_bootRam (s : State) : (useFree s).bootRam = s.bootRam := rfl
@[simp] theorem useFree_tbl (s : State) : (useFree s).tbl = s.tbl := rfl
@[simp] theorem useFree_bdi (s : State) : (useFree s).bdi = s.bdi := rfl
@[simp] theorem useFree_larderPoison (s : State) : (useFree s).larderPoison = s.larderPoison := rfl
@[simp] theorem useFree_frozen (s : State) : (useFree s).frozen = s.frozen := rfl
@[simp] theorem useFree_laid (s : State) : (useFree s).laid = s.laid := rfl
@[simp] theorem useFree_spoiled (s : State) : (useFree s).spoiled = s.spoiled := rfl
@[simp] theorem useFree_lines (s : State) : (useFree s).lines = s.lines := rfl
@[simp] theorem useFree_l2 (s : State) : (useFree s).l2 = s.l2 := rfl
@[simp] theorem useFree_llc (s : State) : (useFree s).llc = s.llc := rfl
@[simp] theorem useFree_cohMsgs (s : State) : (useFree s).cohMsgs = s.cohMsgs := rfl
@[simp] theorem useFree_hostDir (s : State) : (useFree s).hostDir = s.hostDir := rfl
@[simp] theorem useFree_hostPerm (s : State) : (useFree s).hostPerm = s.hostPerm := rfl
@[simp] theorem useFree_icache (s : State) : (useFree s).icache = s.icache := rfl
@[simp] theorem useFree_tlb (s : State) : (useFree s).tlb = s.tlb := rfl
@[simp] theorem useFree_reports (s : State) : (useFree s).reports = s.reports := rfl
@[simp] theorem useFree_pteVer (s : State) : (useFree s).pteVer = s.pteVer := rfl
@[simp] theorem useFree_pools (s : State) : (useFree s).pools = s.pools := rfl
@[simp] theorem useFree_ptq (s : State) : (useFree s).ptq = s.ptq := rfl
@[simp] theorem useFree_csr (s : State) : (useFree s).csr = s.csr := rfl
@[simp] theorem useFree_dreg (s : State) : (useFree s).dreg = s.dreg := rfl
@[simp] theorem useFree_preg (s : State) : (useFree s).preg = s.preg := rfl
@[simp] theorem useFree_parts (s : State) : (useFree s).parts = s.parts := rfl
@[simp] theorem useFree_dlq (s : State) : (useFree s).dlq = s.dlq := rfl
@[simp] theorem useFree_launches (s : State) : (useFree s).launches = s.launches := rfl
@[simp] theorem useFree_wgs (s : State) : (useFree s).wgs = s.wgs := rfl
@[simp] theorem useFree_nextWg (s : State) : (useFree s).nextWg = s.nextWg := rfl
@[simp] theorem useFree_cores (s : State) : (useFree s).cores = s.cores := rfl
@[simp] theorem useFree_cgs (s : State) : (useFree s).cgs = s.cgs := rfl
@[simp] theorem useFree_dies (s : State) : (useFree s).dies = s.dies := rfl
@[simp] theorem useFree_ctl (s : State) : (useFree s).ctl = s.ctl := rfl
@[simp] theorem useFree_copies (s : State) : (useFree s).copies = s.copies := rfl
@[simp] theorem useFree_copyInsts (s : State) : (useFree s).copyInsts = s.copyInsts := rfl
@[simp] theorem useFree_rays (s : State) : (useFree s).rays = s.rays := rfl
@[simp] theorem useFree_susp (s : State) : (useFree s).susp = s.susp := rfl
@[simp] theorem useFree_suspGen (s : State) : (useFree s).suspGen = s.suspGen := rfl
@[simp] theorem useFree_binq (s : State) : (useFree s).binq = s.binq := rfl
@[simp] theorem useFree_packets (s : State) : (useFree s).packets = s.packets := rfl
@[simp] theorem useFree_regions (s : State) : (useFree s).regions = s.regions := rfl
@[simp] theorem useFree_seals (s : State) : (useFree s).seals = s.seals := rfl
@[simp] theorem useFree_batches (s : State) : (useFree s).batches = s.batches := rfl
@[simp] theorem useFree_frags (s : State) : (useFree s).frags = s.frags := rfl
@[simp] theorem useFree_counts (s : State) : (useFree s).counts = s.counts := rfl
@[simp] theorem useFree_posts (s : State) : (useFree s).posts = s.posts := rfl
@[simp] theorem useFree_fwds (s : State) : (useFree s).fwds = s.fwds := rfl
@[simp] theorem useFree_items (s : State) : (useFree s).items = s.items := rfl
@[simp] theorem useFree_subs (s : State) : (useFree s).subs = s.subs := rfl
@[simp] theorem useFree_pbs (s : State) : (useFree s).pbs = s.pbs := rfl
@[simp] theorem useFree_pbFlight (s : State) : (useFree s).pbFlight = s.pbFlight := rfl
@[simp] theorem useFree_disps (s : State) : (useFree s).disps = s.disps := rfl
@[simp] theorem useFree_ras (s : State) : (useFree s).ras = s.ras := rfl
@[simp] theorem useFree_spares (s : State) : (useFree s).spares = s.spares := rfl
@[simp] theorem useFree_sparesUsed (s : State) : (useFree s).sparesUsed = s.sparesUsed := rfl
@[simp] theorem useFree_waysOff (s : State) : (useFree s).waysOff = s.waysOff := rfl
@[simp] theorem useFree_absentDies (s : State) : (useFree s).absentDies = s.absentDies := rfl
@[simp] theorem useFree_minver (s : State) : (useFree s).minver = s.minver := rfl
@[simp] theorem useFree_minverNext (s : State) : (useFree s).minverNext = s.minverNext := rfl
@[simp] theorem useFree_fwDigest (s : State) : (useFree s).fwDigest = s.fwDigest := rfl
@[simp] theorem useFree_bootDead (s : State) : (useFree s).bootDead = s.bootDead := rfl
@[simp] theorem useFree_replays (s : State) : (useFree s).replays = s.replays := rfl
@[simp] theorem useFree_escaped (s : State) : (useFree s).escaped = s.escaped := rfl
@[simp] theorem useFree_peerOut (s : State) : (useFree s).peerOut = s.peerOut := rfl
@[simp] theorem useFree_forms (s : State) : (useFree s).forms = s.forms := rfl
@[simp] theorem useFree_dieEvents (s : State) : (useFree s).dieEvents = s.dieEvents := rfl
@[simp] theorem useFree_out (s : State) : (useFree s).out = s.out := rfl

@[simp] theorem updCore_now (s : State) (cid : Nat) (f : Core → Core) : (updCore s cid f).now = s.now := rfl
@[simp] theorem updCore_agenda (s : State) (cid : Nat) (f : Core → Core) : (updCore s cid f).agenda = s.agenda := rfl
@[simp] theorem updCore_cur (s : State) (cid : Nat) (f : Core → Core) : (updCore s cid f).cur = s.cur := rfl
@[simp] theorem updCore_round (s : State) (cid : Nat) (f : Core → Core) : (updCore s cid f).round = s.round := rfl
@[simp] theorem updCore_lull (s : State) (cid : Nat) (f : Core → Core) : (updCore s cid f).lull = s.lull := rfl
@[simp] theorem updCore_ir (s : State) (cid : Nat) (f : Core → Core) : (updCore s cid f).ir = s.ir := rfl
@[simp] theorem updCore_free (s : State) (cid : Nat) (f : Core → Core) : (updCore s cid f).free = s.free := rfl
@[simp] theorem updCore_nextId (s : State) (cid : Nat) (f : Core → Core) : (updCore s cid f).nextId = s.nextId := rfl
@[simp] theorem updCore_mem (s : State) (cid : Nat) (f : Core → Core) : (updCore s cid f).mem = s.mem := rfl
@[simp] theorem updCore_bootRam (s : State) (cid : Nat) (f : Core → Core) : (updCore s cid f).bootRam = s.bootRam := rfl
@[simp] theorem updCore_tbl (s : State) (cid : Nat) (f : Core → Core) : (updCore s cid f).tbl = s.tbl := rfl
@[simp] theorem updCore_bdi (s : State) (cid : Nat) (f : Core → Core) : (updCore s cid f).bdi = s.bdi := rfl
@[simp] theorem updCore_larderPoison (s : State) (cid : Nat) (f : Core → Core) : (updCore s cid f).larderPoison = s.larderPoison := rfl
@[simp] theorem updCore_frozen (s : State) (cid : Nat) (f : Core → Core) : (updCore s cid f).frozen = s.frozen := rfl
@[simp] theorem updCore_laid (s : State) (cid : Nat) (f : Core → Core) : (updCore s cid f).laid = s.laid := rfl
@[simp] theorem updCore_spoiled (s : State) (cid : Nat) (f : Core → Core) : (updCore s cid f).spoiled = s.spoiled := rfl
@[simp] theorem updCore_lines (s : State) (cid : Nat) (f : Core → Core) : (updCore s cid f).lines = s.lines := rfl
@[simp] theorem updCore_l2 (s : State) (cid : Nat) (f : Core → Core) : (updCore s cid f).l2 = s.l2 := rfl
@[simp] theorem updCore_llc (s : State) (cid : Nat) (f : Core → Core) : (updCore s cid f).llc = s.llc := rfl
@[simp] theorem updCore_cohMsgs (s : State) (cid : Nat) (f : Core → Core) : (updCore s cid f).cohMsgs = s.cohMsgs := rfl
@[simp] theorem updCore_hostDir (s : State) (cid : Nat) (f : Core → Core) : (updCore s cid f).hostDir = s.hostDir := rfl
@[simp] theorem updCore_hostPerm (s : State) (cid : Nat) (f : Core → Core) : (updCore s cid f).hostPerm = s.hostPerm := rfl
@[simp] theorem updCore_icache (s : State) (cid : Nat) (f : Core → Core) : (updCore s cid f).icache = s.icache := rfl
@[simp] theorem updCore_tlb (s : State) (cid : Nat) (f : Core → Core) : (updCore s cid f).tlb = s.tlb := rfl
@[simp] theorem updCore_reports (s : State) (cid : Nat) (f : Core → Core) : (updCore s cid f).reports = s.reports := rfl
@[simp] theorem updCore_pteVer (s : State) (cid : Nat) (f : Core → Core) : (updCore s cid f).pteVer = s.pteVer := rfl
@[simp] theorem updCore_pools (s : State) (cid : Nat) (f : Core → Core) : (updCore s cid f).pools = s.pools := rfl
@[simp] theorem updCore_ptq (s : State) (cid : Nat) (f : Core → Core) : (updCore s cid f).ptq = s.ptq := rfl
@[simp] theorem updCore_csr (s : State) (cid : Nat) (f : Core → Core) : (updCore s cid f).csr = s.csr := rfl
@[simp] theorem updCore_dreg (s : State) (cid : Nat) (f : Core → Core) : (updCore s cid f).dreg = s.dreg := rfl
@[simp] theorem updCore_preg (s : State) (cid : Nat) (f : Core → Core) : (updCore s cid f).preg = s.preg := rfl
@[simp] theorem updCore_parts (s : State) (cid : Nat) (f : Core → Core) : (updCore s cid f).parts = s.parts := rfl
@[simp] theorem updCore_dlq (s : State) (cid : Nat) (f : Core → Core) : (updCore s cid f).dlq = s.dlq := rfl
@[simp] theorem updCore_launches (s : State) (cid : Nat) (f : Core → Core) : (updCore s cid f).launches = s.launches := rfl
@[simp] theorem updCore_wgs (s : State) (cid : Nat) (f : Core → Core) : (updCore s cid f).wgs = s.wgs := rfl
@[simp] theorem updCore_nextWg (s : State) (cid : Nat) (f : Core → Core) : (updCore s cid f).nextWg = s.nextWg := rfl
@[simp] theorem updCore_cgs (s : State) (cid : Nat) (f : Core → Core) : (updCore s cid f).cgs = s.cgs := rfl
@[simp] theorem updCore_dies (s : State) (cid : Nat) (f : Core → Core) : (updCore s cid f).dies = s.dies := rfl
@[simp] theorem updCore_ctl (s : State) (cid : Nat) (f : Core → Core) : (updCore s cid f).ctl = s.ctl := rfl
@[simp] theorem updCore_copies (s : State) (cid : Nat) (f : Core → Core) : (updCore s cid f).copies = s.copies := rfl
@[simp] theorem updCore_copyInsts (s : State) (cid : Nat) (f : Core → Core) : (updCore s cid f).copyInsts = s.copyInsts := rfl
@[simp] theorem updCore_rays (s : State) (cid : Nat) (f : Core → Core) : (updCore s cid f).rays = s.rays := rfl
@[simp] theorem updCore_susp (s : State) (cid : Nat) (f : Core → Core) : (updCore s cid f).susp = s.susp := rfl
@[simp] theorem updCore_suspGen (s : State) (cid : Nat) (f : Core → Core) : (updCore s cid f).suspGen = s.suspGen := rfl
@[simp] theorem updCore_binq (s : State) (cid : Nat) (f : Core → Core) : (updCore s cid f).binq = s.binq := rfl
@[simp] theorem updCore_packets (s : State) (cid : Nat) (f : Core → Core) : (updCore s cid f).packets = s.packets := rfl
@[simp] theorem updCore_regions (s : State) (cid : Nat) (f : Core → Core) : (updCore s cid f).regions = s.regions := rfl
@[simp] theorem updCore_seals (s : State) (cid : Nat) (f : Core → Core) : (updCore s cid f).seals = s.seals := rfl
@[simp] theorem updCore_batches (s : State) (cid : Nat) (f : Core → Core) : (updCore s cid f).batches = s.batches := rfl
@[simp] theorem updCore_frags (s : State) (cid : Nat) (f : Core → Core) : (updCore s cid f).frags = s.frags := rfl
@[simp] theorem updCore_counts (s : State) (cid : Nat) (f : Core → Core) : (updCore s cid f).counts = s.counts := rfl
@[simp] theorem updCore_posts (s : State) (cid : Nat) (f : Core → Core) : (updCore s cid f).posts = s.posts := rfl
@[simp] theorem updCore_fwds (s : State) (cid : Nat) (f : Core → Core) : (updCore s cid f).fwds = s.fwds := rfl
@[simp] theorem updCore_items (s : State) (cid : Nat) (f : Core → Core) : (updCore s cid f).items = s.items := rfl
@[simp] theorem updCore_subs (s : State) (cid : Nat) (f : Core → Core) : (updCore s cid f).subs = s.subs := rfl
@[simp] theorem updCore_pbs (s : State) (cid : Nat) (f : Core → Core) : (updCore s cid f).pbs = s.pbs := rfl
@[simp] theorem updCore_pbFlight (s : State) (cid : Nat) (f : Core → Core) : (updCore s cid f).pbFlight = s.pbFlight := rfl
@[simp] theorem updCore_disps (s : State) (cid : Nat) (f : Core → Core) : (updCore s cid f).disps = s.disps := rfl
@[simp] theorem updCore_ras (s : State) (cid : Nat) (f : Core → Core) : (updCore s cid f).ras = s.ras := rfl
@[simp] theorem updCore_spares (s : State) (cid : Nat) (f : Core → Core) : (updCore s cid f).spares = s.spares := rfl
@[simp] theorem updCore_sparesUsed (s : State) (cid : Nat) (f : Core → Core) : (updCore s cid f).sparesUsed = s.sparesUsed := rfl
@[simp] theorem updCore_waysOff (s : State) (cid : Nat) (f : Core → Core) : (updCore s cid f).waysOff = s.waysOff := rfl
@[simp] theorem updCore_absentDies (s : State) (cid : Nat) (f : Core → Core) : (updCore s cid f).absentDies = s.absentDies := rfl
@[simp] theorem updCore_minver (s : State) (cid : Nat) (f : Core → Core) : (updCore s cid f).minver = s.minver := rfl
@[simp] theorem updCore_minverNext (s : State) (cid : Nat) (f : Core → Core) : (updCore s cid f).minverNext = s.minverNext := rfl
@[simp] theorem updCore_fwDigest (s : State) (cid : Nat) (f : Core → Core) : (updCore s cid f).fwDigest = s.fwDigest := rfl
@[simp] theorem updCore_bootDead (s : State) (cid : Nat) (f : Core → Core) : (updCore s cid f).bootDead = s.bootDead := rfl
@[simp] theorem updCore_replays (s : State) (cid : Nat) (f : Core → Core) : (updCore s cid f).replays = s.replays := rfl
@[simp] theorem updCore_escaped (s : State) (cid : Nat) (f : Core → Core) : (updCore s cid f).escaped = s.escaped := rfl
@[simp] theorem updCore_peerOut (s : State) (cid : Nat) (f : Core → Core) : (updCore s cid f).peerOut = s.peerOut := rfl
@[simp] theorem updCore_forms (s : State) (cid : Nat) (f : Core → Core) : (updCore s cid f).forms = s.forms := rfl
@[simp] theorem updCore_dieEvents (s : State) (cid : Nat) (f : Core → Core) : (updCore s cid f).dieEvents = s.dieEvents := rfl
@[simp] theorem updCore_out (s : State) (cid : Nat) (f : Core → Core) : (updCore s cid f).out = s.out := rfl

@[simp] theorem updCtl_now (s : State) (n : Nat) (f : Ctl → Ctl) : (updCtl s n f).now = s.now := rfl
@[simp] theorem updCtl_agenda (s : State) (n : Nat) (f : Ctl → Ctl) : (updCtl s n f).agenda = s.agenda := rfl
@[simp] theorem updCtl_cur (s : State) (n : Nat) (f : Ctl → Ctl) : (updCtl s n f).cur = s.cur := rfl
@[simp] theorem updCtl_round (s : State) (n : Nat) (f : Ctl → Ctl) : (updCtl s n f).round = s.round := rfl
@[simp] theorem updCtl_lull (s : State) (n : Nat) (f : Ctl → Ctl) : (updCtl s n f).lull = s.lull := rfl
@[simp] theorem updCtl_ir (s : State) (n : Nat) (f : Ctl → Ctl) : (updCtl s n f).ir = s.ir := rfl
@[simp] theorem updCtl_free (s : State) (n : Nat) (f : Ctl → Ctl) : (updCtl s n f).free = s.free := rfl
@[simp] theorem updCtl_nextId (s : State) (n : Nat) (f : Ctl → Ctl) : (updCtl s n f).nextId = s.nextId := rfl
@[simp] theorem updCtl_mem (s : State) (n : Nat) (f : Ctl → Ctl) : (updCtl s n f).mem = s.mem := rfl
@[simp] theorem updCtl_bootRam (s : State) (n : Nat) (f : Ctl → Ctl) : (updCtl s n f).bootRam = s.bootRam := rfl
@[simp] theorem updCtl_tbl (s : State) (n : Nat) (f : Ctl → Ctl) : (updCtl s n f).tbl = s.tbl := rfl
@[simp] theorem updCtl_bdi (s : State) (n : Nat) (f : Ctl → Ctl) : (updCtl s n f).bdi = s.bdi := rfl
@[simp] theorem updCtl_larderPoison (s : State) (n : Nat) (f : Ctl → Ctl) : (updCtl s n f).larderPoison = s.larderPoison := rfl
@[simp] theorem updCtl_frozen (s : State) (n : Nat) (f : Ctl → Ctl) : (updCtl s n f).frozen = s.frozen := rfl
@[simp] theorem updCtl_laid (s : State) (n : Nat) (f : Ctl → Ctl) : (updCtl s n f).laid = s.laid := rfl
@[simp] theorem updCtl_spoiled (s : State) (n : Nat) (f : Ctl → Ctl) : (updCtl s n f).spoiled = s.spoiled := rfl
@[simp] theorem updCtl_lines (s : State) (n : Nat) (f : Ctl → Ctl) : (updCtl s n f).lines = s.lines := rfl
@[simp] theorem updCtl_l2 (s : State) (n : Nat) (f : Ctl → Ctl) : (updCtl s n f).l2 = s.l2 := rfl
@[simp] theorem updCtl_llc (s : State) (n : Nat) (f : Ctl → Ctl) : (updCtl s n f).llc = s.llc := rfl
@[simp] theorem updCtl_cohMsgs (s : State) (n : Nat) (f : Ctl → Ctl) : (updCtl s n f).cohMsgs = s.cohMsgs := rfl
@[simp] theorem updCtl_hostDir (s : State) (n : Nat) (f : Ctl → Ctl) : (updCtl s n f).hostDir = s.hostDir := rfl
@[simp] theorem updCtl_hostPerm (s : State) (n : Nat) (f : Ctl → Ctl) : (updCtl s n f).hostPerm = s.hostPerm := rfl
@[simp] theorem updCtl_icache (s : State) (n : Nat) (f : Ctl → Ctl) : (updCtl s n f).icache = s.icache := rfl
@[simp] theorem updCtl_tlb (s : State) (n : Nat) (f : Ctl → Ctl) : (updCtl s n f).tlb = s.tlb := rfl
@[simp] theorem updCtl_reports (s : State) (n : Nat) (f : Ctl → Ctl) : (updCtl s n f).reports = s.reports := rfl
@[simp] theorem updCtl_pteVer (s : State) (n : Nat) (f : Ctl → Ctl) : (updCtl s n f).pteVer = s.pteVer := rfl
@[simp] theorem updCtl_pools (s : State) (n : Nat) (f : Ctl → Ctl) : (updCtl s n f).pools = s.pools := rfl
@[simp] theorem updCtl_ptq (s : State) (n : Nat) (f : Ctl → Ctl) : (updCtl s n f).ptq = s.ptq := rfl
@[simp] theorem updCtl_csr (s : State) (n : Nat) (f : Ctl → Ctl) : (updCtl s n f).csr = s.csr := rfl
@[simp] theorem updCtl_dreg (s : State) (n : Nat) (f : Ctl → Ctl) : (updCtl s n f).dreg = s.dreg := rfl
@[simp] theorem updCtl_preg (s : State) (n : Nat) (f : Ctl → Ctl) : (updCtl s n f).preg = s.preg := rfl
@[simp] theorem updCtl_parts (s : State) (n : Nat) (f : Ctl → Ctl) : (updCtl s n f).parts = s.parts := rfl
@[simp] theorem updCtl_dlq (s : State) (n : Nat) (f : Ctl → Ctl) : (updCtl s n f).dlq = s.dlq := rfl
@[simp] theorem updCtl_launches (s : State) (n : Nat) (f : Ctl → Ctl) : (updCtl s n f).launches = s.launches := rfl
@[simp] theorem updCtl_wgs (s : State) (n : Nat) (f : Ctl → Ctl) : (updCtl s n f).wgs = s.wgs := rfl
@[simp] theorem updCtl_nextWg (s : State) (n : Nat) (f : Ctl → Ctl) : (updCtl s n f).nextWg = s.nextWg := rfl
@[simp] theorem updCtl_cores (s : State) (n : Nat) (f : Ctl → Ctl) : (updCtl s n f).cores = s.cores := rfl
@[simp] theorem updCtl_cgs (s : State) (n : Nat) (f : Ctl → Ctl) : (updCtl s n f).cgs = s.cgs := rfl
@[simp] theorem updCtl_dies (s : State) (n : Nat) (f : Ctl → Ctl) : (updCtl s n f).dies = s.dies := rfl
@[simp] theorem updCtl_copies (s : State) (n : Nat) (f : Ctl → Ctl) : (updCtl s n f).copies = s.copies := rfl
@[simp] theorem updCtl_copyInsts (s : State) (n : Nat) (f : Ctl → Ctl) : (updCtl s n f).copyInsts = s.copyInsts := rfl
@[simp] theorem updCtl_rays (s : State) (n : Nat) (f : Ctl → Ctl) : (updCtl s n f).rays = s.rays := rfl
@[simp] theorem updCtl_susp (s : State) (n : Nat) (f : Ctl → Ctl) : (updCtl s n f).susp = s.susp := rfl
@[simp] theorem updCtl_suspGen (s : State) (n : Nat) (f : Ctl → Ctl) : (updCtl s n f).suspGen = s.suspGen := rfl
@[simp] theorem updCtl_binq (s : State) (n : Nat) (f : Ctl → Ctl) : (updCtl s n f).binq = s.binq := rfl
@[simp] theorem updCtl_packets (s : State) (n : Nat) (f : Ctl → Ctl) : (updCtl s n f).packets = s.packets := rfl
@[simp] theorem updCtl_regions (s : State) (n : Nat) (f : Ctl → Ctl) : (updCtl s n f).regions = s.regions := rfl
@[simp] theorem updCtl_seals (s : State) (n : Nat) (f : Ctl → Ctl) : (updCtl s n f).seals = s.seals := rfl
@[simp] theorem updCtl_batches (s : State) (n : Nat) (f : Ctl → Ctl) : (updCtl s n f).batches = s.batches := rfl
@[simp] theorem updCtl_frags (s : State) (n : Nat) (f : Ctl → Ctl) : (updCtl s n f).frags = s.frags := rfl
@[simp] theorem updCtl_counts (s : State) (n : Nat) (f : Ctl → Ctl) : (updCtl s n f).counts = s.counts := rfl
@[simp] theorem updCtl_posts (s : State) (n : Nat) (f : Ctl → Ctl) : (updCtl s n f).posts = s.posts := rfl
@[simp] theorem updCtl_fwds (s : State) (n : Nat) (f : Ctl → Ctl) : (updCtl s n f).fwds = s.fwds := rfl
@[simp] theorem updCtl_items (s : State) (n : Nat) (f : Ctl → Ctl) : (updCtl s n f).items = s.items := rfl
@[simp] theorem updCtl_subs (s : State) (n : Nat) (f : Ctl → Ctl) : (updCtl s n f).subs = s.subs := rfl
@[simp] theorem updCtl_pbs (s : State) (n : Nat) (f : Ctl → Ctl) : (updCtl s n f).pbs = s.pbs := rfl
@[simp] theorem updCtl_pbFlight (s : State) (n : Nat) (f : Ctl → Ctl) : (updCtl s n f).pbFlight = s.pbFlight := rfl
@[simp] theorem updCtl_disps (s : State) (n : Nat) (f : Ctl → Ctl) : (updCtl s n f).disps = s.disps := rfl
@[simp] theorem updCtl_ras (s : State) (n : Nat) (f : Ctl → Ctl) : (updCtl s n f).ras = s.ras := rfl
@[simp] theorem updCtl_spares (s : State) (n : Nat) (f : Ctl → Ctl) : (updCtl s n f).spares = s.spares := rfl
@[simp] theorem updCtl_sparesUsed (s : State) (n : Nat) (f : Ctl → Ctl) : (updCtl s n f).sparesUsed = s.sparesUsed := rfl
@[simp] theorem updCtl_waysOff (s : State) (n : Nat) (f : Ctl → Ctl) : (updCtl s n f).waysOff = s.waysOff := rfl
@[simp] theorem updCtl_absentDies (s : State) (n : Nat) (f : Ctl → Ctl) : (updCtl s n f).absentDies = s.absentDies := rfl
@[simp] theorem updCtl_minver (s : State) (n : Nat) (f : Ctl → Ctl) : (updCtl s n f).minver = s.minver := rfl
@[simp] theorem updCtl_minverNext (s : State) (n : Nat) (f : Ctl → Ctl) : (updCtl s n f).minverNext = s.minverNext := rfl
@[simp] theorem updCtl_fwDigest (s : State) (n : Nat) (f : Ctl → Ctl) : (updCtl s n f).fwDigest = s.fwDigest := rfl
@[simp] theorem updCtl_bootDead (s : State) (n : Nat) (f : Ctl → Ctl) : (updCtl s n f).bootDead = s.bootDead := rfl
@[simp] theorem updCtl_replays (s : State) (n : Nat) (f : Ctl → Ctl) : (updCtl s n f).replays = s.replays := rfl
@[simp] theorem updCtl_escaped (s : State) (n : Nat) (f : Ctl → Ctl) : (updCtl s n f).escaped = s.escaped := rfl
@[simp] theorem updCtl_peerOut (s : State) (n : Nat) (f : Ctl → Ctl) : (updCtl s n f).peerOut = s.peerOut := rfl
@[simp] theorem updCtl_forms (s : State) (n : Nat) (f : Ctl → Ctl) : (updCtl s n f).forms = s.forms := rfl
@[simp] theorem updCtl_dieEvents (s : State) (n : Nat) (f : Ctl → Ctl) : (updCtl s n f).dieEvents = s.dieEvents := rfl
@[simp] theorem updCtl_out (s : State) (n : Nat) (f : Ctl → Ctl) : (updCtl s n f).out = s.out := rfl

/-! Reading back -/

@[simp] theorem setWg_find (s : State) (w : Nat) (g : Workgroup) : (setWg s w g).wgs = s.wgs.put w g := rfl
@[simp] theorem setCore_cores (s : State) (cid : Nat) (c : Core) : (setCore s cid c).cores = s.cores.put cid c := rfl
@[simp] theorem setCtl_ctl (s : State) (n : Nat) (c : Ctl) : (setCtl s n c).ctl = s.ctl.put n c := rfl
@[simp] theorem useFree_free (s : State) : (useFree s).free = s.free + 1 := rfl

/-! Updates with cases: the parts they may change -/

theorem updWg_shape (s : State) (w : Nat) (f : Workgroup → Workgroup) : updWg s w f = { s with wgs := (updWg s w f).wgs } := by
  unfold updWg
  split <;> rfl

theorem updThread_shape (s : State) (w t : Nat) (f : Thread → Thread) :
    updThread s w t f = { s with wgs := (updThread s w t f).wgs } := updWg_shape ..

theorem updCtx_shape (s : State) (w : Nat) (f : Ctx → Ctx) : updCtx s w f = { s with wgs := (updCtx s w f).wgs } := updWg_shape ..

theorem writeV_shape (s : State) (w t f : Nat) (v : Word32) :
    writeV s w t f v = { s with cores := (writeV s w t f v).cores, wgs := (writeV s w t f v).wgs } := by
  unfold writeV
  split
  · split <;> rfl
  · split
    · rw [updThread_shape]
    · rfl

theorem writeRA_shape (s : State) (a : Agent) (f : Nat) (v : Word64) :
    writeRA s a f v = { s with cores := (writeRA s a f v).cores, wgs := (writeRA s a f v).wgs, ctl := (writeRA s a f v).ctl } := by
  cases a with
  | vthread w t => unfold writeRA; dsimp only; rw [writeV_shape]
  | scribe w =>
    unfold writeRA writeS; dsimp only
    split
    · rw [updCtx_shape]
    · rfl
  | control n =>
    unfold writeRA writeC; dsimp only
    split <;> rfl

theorem leaveBatch_shape (s : State) (w t : Nat) : leaveBatch s w t = { s with cores := (leaveBatch s w t).cores } := by
  unfold leaveBatch
  split <;> rfl

theorem advanceA_shape (s : State) (a : Agent) :
    advanceA s a = { s with cores := (advanceA s a).cores, wgs := (advanceA s a).wgs, ctl := (advanceA s a).ctl } := by
  cases a with
  | vthread w t => unfold advanceA; dsimp only; split <;> rfl
  | scribe w => unfold advanceA; dsimp only; rw [updCtx_shape]
  | control n => rfl

end Sys2Proof.Laws
end

