-- ==== Sys2Proof/Laws/Units.lean ====
section
/-! SUPPORT. What the updates of lines, launches, displays, batches, regions and fragments leave of the other fields. -/

namespace Sys2Proof.Laws

open Sys2Proof Sys2Proof.Machine

@[simp] theorem setLine_now (s : State) (n : Nat) (m : SMap L1Line) : (setLine s n m).now = s.now := rfl
@[simp] theorem setLine_agenda (s : State) (n : Nat) (m : SMap L1Line) : (setLine s n m).agenda = s.agenda := rfl
@[simp] theorem setLine_cur (s : State) (n : Nat) (m : SMap L1Line) : (setLine s n m).cur = s.cur := rfl
@[simp] theorem setLine_round (s : State) (n : Nat) (m : SMap L1Line) : (setLine s n m).round = s.round := rfl
@[simp] theorem setLine_lull (s : State) (n : Nat) (m : SMap L1Line) : (setLine s n m).lull = s.lull := rfl
@[simp] theorem setLine_ir (s : State) (n : Nat) (m : SMap L1Line) : (setLine s n m).ir = s.ir := rfl
@[simp] theorem setLine_free (s : State) (n : Nat) (m : SMap L1Line) : (setLine s n m).free = s.free := rfl
@[simp] theorem setLine_nextId (s : State) (n : Nat) (m : SMap L1Line) : (setLine s n m).nextId = s.nextId := rfl
@[simp] theorem setLine_mem (s : State) (n : Nat) (m : SMap L1Line) : (setLine s n m).mem = s.mem := rfl
@[simp] theorem setLine_bootRam (s : State) (n : Nat) (m : SMap L1Line) : (setLine s n m).bootRam = s.bootRam := rfl
@[simp] theorem setLine_tbl (s : State) (n : Nat) (m : SMap L1Line) : (setLine s n m).tbl = s.tbl := rfl
@[simp] theorem setLine_bdi (s : State) (n : Nat) (m : SMap L1Line) : (setLine s n m).bdi = s.bdi := rfl
@[simp] theorem setLine_larderPoison (s : State) (n : Nat) (m : SMap L1Line) : (setLine s n m).larderPoison = s.larderPoison := rfl
@[simp] theorem setLine_frozen (s : State) (n : Nat) (m : SMap L1Line) : (setLine s n m).frozen = s.frozen := rfl
@[simp] theorem setLine_laid (s : State) (n : Nat) (m : SMap L1Line) : (setLine s n m).laid = s.laid := rfl
@[simp] theorem setLine_spoiled (s : State) (n : Nat) (m : SMap L1Line) : (setLine s n m).spoiled = s.spoiled := rfl
@[simp] theorem setLine_l2 (s : State) (n : Nat) (m : SMap L1Line) : (setLine s n m).l2 = s.l2 := rfl
@[simp] theorem setLine_llc (s : State) (n : Nat) (m : SMap L1Line) : (setLine s n m).llc = s.llc := rfl
@[simp] theorem setLine_cohMsgs (s : State) (n : Nat) (m : SMap L1Line) : (setLine s n m).cohMsgs = s.cohMsgs := rfl
@[simp] theorem setLine_hostDir (s : State) (n : Nat) (m : SMap L1Line) : (setLine s n m).hostDir = s.hostDir := rfl
@[simp] theorem setLine_hostPerm (s : State) (n : Nat) (m : SMap L1Line) : (setLine s n m).hostPerm = s.hostPerm := rfl
@[simp] theorem setLine_icache (s : State) (n : Nat) (m : SMap L1Line) : (setLine s n m).icache = s.icache := rfl
@[simp] theorem setLine_tlb (s : State) (n : Nat) (m : SMap L1Line) : (setLine s n m).tlb = s.tlb := rfl
@[simp] theorem setLine_reports (s : State) (n : Nat) (m : SMap L1Line) : (setLine s n m).reports = s.reports := rfl
@[simp] theorem setLine_pteVer (s : State) (n : Nat) (m : SMap L1Line) : (setLine s n m).pteVer = s.pteVer := rfl
@[simp] theorem setLine_pools (s : State) (n : Nat) (m : SMap L1Line) : (setLine s n m).pools = s.pools := rfl
@[simp] theorem setLine_ptq (s : State) (n : Nat) (m : SMap L1Line) : (setLine s n m).ptq = s.ptq := rfl
@[simp] theorem setLine_csr (s : State) (n : Nat) (m : SMap L1Line) : (setLine s n m).csr = s.csr := rfl
@[simp] theorem setLine_dreg (s : State) (n : Nat) (m : SMap L1Line) : (setLine s n m).dreg = s.dreg := rfl
@[simp] theorem setLine_preg (s : State) (n : Nat) (m : SMap L1Line) : (setLine s n m).preg = s.preg := rfl
@[simp] theorem setLine_parts (s : State) (n : Nat) (m : SMap L1Line) : (setLine s n m).parts = s.parts := rfl
@[simp] theorem setLine_dlq (s : State) (n : Nat) (m : SMap L1Line) : (setLine s n m).dlq = s.dlq := rfl
@[simp] theorem setLine_launches (s : State) (n : Nat) (m : SMap L1Line) : (setLine s n m).launches = s.launches := rfl
@[simp] theorem setLine_wgs (s : State) (n : Nat) (m : SMap L1Line) : (setLine s n m).wgs = s.wgs := rfl
@[simp] theorem setLine_nextWg (s : State) (n : Nat) (m : SMap L1Line) : (setLine s n m).nextWg = s.nextWg := rfl
@[simp] theorem setLine_cores (s : State) (n : Nat) (m : SMap L1Line) : (setLine s n m).cores = s.cores := rfl
@[simp] theorem setLine_cgs (s : State) (n : Nat) (m : SMap L1Line) : (setLine s n m).cgs = s.cgs := rfl
@[simp] theorem setLine_dies (s : State) (n : Nat) (m : SMap L1Line) : (setLine s n m).dies = s.dies := rfl
@[simp] theorem setLine_ctl (s : State) (n : Nat) (m : SMap L1Line) : (setLine s n m).ctl = s.ctl := rfl
@[simp] theorem setLine_copies (s : State) (n : Nat) (m : SMap L1Line) : (setLine s n m).copies = s.copies := rfl
@[simp] theorem setLine_copyInsts (s : State) (n : Nat) (m : SMap L1Line) : (setLine s n m).copyInsts = s.copyInsts := rfl
@[simp] theorem setLine_rays (s : State) (n : Nat) (m : SMap L1Line) : (setLine s n m).rays = s.rays := rfl
@[simp] theorem setLine_susp (s : State) (n : Nat) (m : SMap L1Line) : (setLine s n m).susp = s.susp := rfl
@[simp] theorem setLine_suspGen (s : State) (n : Nat) (m : SMap L1Line) : (setLine s n m).suspGen = s.suspGen := rfl
@[simp] theorem setLine_binq (s : State) (n : Nat) (m : SMap L1Line) : (setLine s n m).binq = s.binq := rfl
@[simp] theorem setLine_packets (s : State) (n : Nat) (m : SMap L1Line) : (setLine s n m).packets = s.packets := rfl
@[simp] theorem setLine_regions (s : State) (n : Nat) (m : SMap L1Line) : (setLine s n m).regions = s.regions := rfl
@[simp] theorem setLine_seals (s : State) (n : Nat) (m : SMap L1Line) : (setLine s n m).seals = s.seals := rfl
@[simp] theorem setLine_batches (s : State) (n : Nat) (m : SMap L1Line) : (setLine s n m).batches = s.batches := rfl
@[simp] theorem setLine_frags (s : State) (n : Nat) (m : SMap L1Line) : (setLine s n m).frags = s.frags := rfl
@[simp] theorem setLine_counts (s : State) (n : Nat) (m : SMap L1Line) : (setLine s n m).counts = s.counts := rfl
@[simp] theorem setLine_posts (s : State) (n : Nat) (m : SMap L1Line) : (setLine s n m).posts = s.posts := rfl
@[simp] theorem setLine_fwds (s : State) (n : Nat) (m : SMap L1Line) : (setLine s n m).fwds = s.fwds := rfl
@[simp] theorem setLine_items (s : State) (n : Nat) (m : SMap L1Line) : (setLine s n m).items = s.items := rfl
@[simp] theorem setLine_subs (s : State) (n : Nat) (m : SMap L1Line) : (setLine s n m).subs = s.subs := rfl
@[simp] theorem setLine_pbs (s : State) (n : Nat) (m : SMap L1Line) : (setLine s n m).pbs = s.pbs := rfl
@[simp] theorem setLine_pbFlight (s : State) (n : Nat) (m : SMap L1Line) : (setLine s n m).pbFlight = s.pbFlight := rfl
@[simp] theorem setLine_disps (s : State) (n : Nat) (m : SMap L1Line) : (setLine s n m).disps = s.disps := rfl
@[simp] theorem setLine_ras (s : State) (n : Nat) (m : SMap L1Line) : (setLine s n m).ras = s.ras := rfl
@[simp] theorem setLine_spares (s : State) (n : Nat) (m : SMap L1Line) : (setLine s n m).spares = s.spares := rfl
@[simp] theorem setLine_sparesUsed (s : State) (n : Nat) (m : SMap L1Line) : (setLine s n m).sparesUsed = s.sparesUsed := rfl
@[simp] theorem setLine_waysOff (s : State) (n : Nat) (m : SMap L1Line) : (setLine s n m).waysOff = s.waysOff := rfl
@[simp] theorem setLine_absentDies (s : State) (n : Nat) (m : SMap L1Line) : (setLine s n m).absentDies = s.absentDies := rfl
@[simp] theorem setLine_minver (s : State) (n : Nat) (m : SMap L1Line) : (setLine s n m).minver = s.minver := rfl
@[simp] theorem setLine_minverNext (s : State) (n : Nat) (m : SMap L1Line) : (setLine s n m).minverNext = s.minverNext := rfl
@[simp] theorem setLine_fwDigest (s : State) (n : Nat) (m : SMap L1Line) : (setLine s n m).fwDigest = s.fwDigest := rfl
@[simp] theorem setLine_bootDead (s : State) (n : Nat) (m : SMap L1Line) : (setLine s n m).bootDead = s.bootDead := rfl
@[simp] theorem setLine_replays (s : State) (n : Nat) (m : SMap L1Line) : (setLine s n m).replays = s.replays := rfl
@[simp] theorem setLine_escaped (s : State) (n : Nat) (m : SMap L1Line) : (setLine s n m).escaped = s.escaped := rfl
@[simp] theorem setLine_peerOut (s : State) (n : Nat) (m : SMap L1Line) : (setLine s n m).peerOut = s.peerOut := rfl
@[simp] theorem setLine_forms (s : State) (n : Nat) (m : SMap L1Line) : (setLine s n m).forms = s.forms := rfl
@[simp] theorem setLine_dieEvents (s : State) (n : Nat) (m : SMap L1Line) : (setLine s n m).dieEvents = s.dieEvents := rfl
@[simp] theorem setLine_out (s : State) (n : Nat) (m : SMap L1Line) : (setLine s n m).out = s.out := rfl

@[simp] theorem updLaunch_now (s : State) (p l : Nat) (f : Launch → Launch) : (updLaunch s p l f).now = s.now := rfl
@[simp] theorem updLaunch_agenda (s : State) (p l : Nat) (f : Launch → Launch) : (updLaunch s p l f).agenda = s.agenda := rfl
@[simp] theorem updLaunch_cur (s : State) (p l : Nat) (f : Launch → Launch) : (updLaunch s p l f).cur = s.cur := rfl
@[simp] theorem updLaunch_round (s : State) (p l : Nat) (f : Launch → Launch) : (updLaunch s p l f).round = s.round := rfl
@[simp] theorem updLaunch_lull (s : State) (p l : Nat) (f : Launch → Launch) : (updLaunch s p l f).lull = s.lull := rfl
@[simp] theorem updLaunch_ir (s : State) (p l : Nat) (f : Launch → Launch) : (updLaunch s p l f).ir = s.ir := rfl
@[simp] theorem updLaunch_free (s : State) (p l : Nat) (f : Launch → Launch) : (updLaunch s p l f).free = s.free := rfl
@[simp] theorem updLaunch_nextId (s : State) (p l : Nat) (f : Launch → Launch) : (updLaunch s p l f).nextId = s.nextId := rfl
@[simp] theorem updLaunch_mem (s : State) (p l : Nat) (f : Launch → Launch) : (updLaunch s p l f).mem = s.mem := rfl
@[simp] theorem updLaunch_bootRam (s : State) (p l : Nat) (f : Launch → Launch) : (updLaunch s p l f).bootRam = s.bootRam := rfl
@[simp] theorem updLaunch_tbl (s : State) (p l : Nat) (f : Launch → Launch) : (updLaunch s p l f).tbl = s.tbl := rfl
@[simp] theorem updLaunch_bdi (s : State) (p l : Nat) (f : Launch → Launch) : (updLaunch s p l f).bdi = s.bdi := rfl
@[simp] theorem updLaunch_larderPoison (s : State) (p l : Nat) (f : Launch → Launch) : (updLaunch s p l f).larderPoison = s.larderPoison := rfl
@[simp] theorem updLaunch_frozen (s : State) (p l : Nat) (f : Launch → Launch) : (updLaunch s p l f).frozen = s.frozen := rfl
@[simp] theorem updLaunch_laid (s : State) (p l : Nat) (f : Launch → Launch) : (updLaunch s p l f).laid = s.laid := rfl
@[simp] theorem updLaunch_spoiled (s : State) (p l : Nat) (f : Launch → Launch) : (updLaunch s p l f).spoiled = s.spoiled := rfl
@[simp] theorem updLaunch_lines (s : State) (p l : Nat) (f : Launch → Launch) : (updLaunch s p l f).lines = s.lines := rfl
@[simp] theorem updLaunch_l2 (s : State) (p l : Nat) (f : Launch → Launch) : (updLaunch s p l f).l2 = s.l2 := rfl
@[simp] theorem updLaunch_llc (s : State) (p l : Nat) (f : Launch → Launch) : (updLaunch s p l f).llc = s.llc := rfl
@[simp] theorem updLaunch_cohMsgs (s : State) (p l : Nat) (f : Launch → Launch) : (updLaunch s p l f).cohMsgs = s.cohMsgs := rfl
@[simp] theorem updLaunch_hostDir (s : State) (p l : Nat) (f : Launch → Launch) : (updLaunch s p l f).hostDir = s.hostDir := rfl
@[simp] theorem updLaunch_hostPerm (s : State) (p l : Nat) (f : Launch → Launch) : (updLaunch s p l f).hostPerm = s.hostPerm := rfl
@[simp] theorem updLaunch_icache (s : State) (p l : Nat) (f : Launch → Launch) : (updLaunch s p l f).icache = s.icache := rfl
@[simp] theorem updLaunch_tlb (s : State) (p l : Nat) (f : Launch → Launch) : (updLaunch s p l f).tlb = s.tlb := rfl
@[simp] theorem updLaunch_reports (s : State) (p l : Nat) (f : Launch → Launch) : (updLaunch s p l f).reports = s.reports := rfl
@[simp] theorem updLaunch_pteVer (s : State) (p l : Nat) (f : Launch → Launch) : (updLaunch s p l f).pteVer = s.pteVer := rfl
@[simp] theorem updLaunch_pools (s : State) (p l : Nat) (f : Launch → Launch) : (updLaunch s p l f).pools = s.pools := rfl
@[simp] theorem updLaunch_ptq (s : State) (p l : Nat) (f : Launch → Launch) : (updLaunch s p l f).ptq = s.ptq := rfl
@[simp] theorem updLaunch_csr (s : State) (p l : Nat) (f : Launch → Launch) : (updLaunch s p l f).csr = s.csr := rfl
@[simp] theorem updLaunch_dreg (s : State) (p l : Nat) (f : Launch → Launch) : (updLaunch s p l f).dreg = s.dreg := rfl
@[simp] theorem updLaunch_preg (s : State) (p l : Nat) (f : Launch → Launch) : (updLaunch s p l f).preg = s.preg := rfl
@[simp] theorem updLaunch_parts (s : State) (p l : Nat) (f : Launch → Launch) : (updLaunch s p l f).parts = s.parts := rfl
@[simp] theorem updLaunch_dlq (s : State) (p l : Nat) (f : Launch → Launch) : (updLaunch s p l f).dlq = s.dlq := rfl
@[simp] theorem updLaunch_wgs (s : State) (p l : Nat) (f : Launch → Launch) : (updLaunch s p l f).wgs = s.wgs := rfl
@[simp] theorem updLaunch_nextWg (s : State) (p l : Nat) (f : Launch → Launch) : (updLaunch s p l f).nextWg = s.nextWg := rfl
@[simp] theorem updLaunch_cores (s : State) (p l : Nat) (f : Launch → Launch) : (updLaunch s p l f).cores = s.cores := rfl
@[simp] theorem updLaunch_cgs (s : State) (p l : Nat) (f : Launch → Launch) : (updLaunch s p l f).cgs = s.cgs := rfl
@[simp] theorem updLaunch_dies (s : State) (p l : Nat) (f : Launch → Launch) : (updLaunch s p l f).dies = s.dies := rfl
@[simp] theorem updLaunch_ctl (s : State) (p l : Nat) (f : Launch → Launch) : (updLaunch s p l f).ctl = s.ctl := rfl
@[simp] theorem updLaunch_copies (s : State) (p l : Nat) (f : Launch → Launch) : (updLaunch s p l f).copies = s.copies := rfl
@[simp] theorem updLaunch_copyInsts (s : State) (p l : Nat) (f : Launch → Launch) : (updLaunch s p l f).copyInsts = s.copyInsts := rfl
@[simp] theorem updLaunch_rays (s : State) (p l : Nat) (f : Launch → Launch) : (updLaunch s p l f).rays = s.rays := rfl
@[simp] theorem updLaunch_susp (s : State) (p l : Nat) (f : Launch → Launch) : (updLaunch s p l f).susp = s.susp := rfl
@[simp] theorem updLaunch_suspGen (s : State) (p l : Nat) (f : Launch → Launch) : (updLaunch s p l f).suspGen = s.suspGen := rfl
@[simp] theorem updLaunch_binq (s : State) (p l : Nat) (f : Launch → Launch) : (updLaunch s p l f).binq = s.binq := rfl
@[simp] theorem updLaunch_packets (s : State) (p l : Nat) (f : Launch → Launch) : (updLaunch s p l f).packets = s.packets := rfl
@[simp] theorem updLaunch_regions (s : State) (p l : Nat) (f : Launch → Launch) : (updLaunch s p l f).regions = s.regions := rfl
@[simp] theorem updLaunch_seals (s : State) (p l : Nat) (f : Launch → Launch) : (updLaunch s p l f).seals = s.seals := rfl
@[simp] theorem updLaunch_batches (s : State) (p l : Nat) (f : Launch → Launch) : (updLaunch s p l f).batches = s.batches := rfl
@[simp] theorem updLaunch_frags (s : State) (p l : Nat) (f : Launch → Launch) : (updLaunch s p l f).frags = s.frags := rfl
@[simp] theorem updLaunch_counts (s : State) (p l : Nat) (f : Launch → Launch) : (updLaunch s p l f).counts = s.counts := rfl
@[simp] theorem updLaunch_posts (s : State) (p l : Nat) (f : Launch → Launch) : (updLaunch s p l f).posts = s.posts := rfl
@[simp] theorem updLaunch_fwds (s : State) (p l : Nat) (f : Launch → Launch) : (updLaunch s p l f).fwds = s.fwds := rfl
@[simp] theorem updLaunch_items (s : State) (p l : Nat) (f : Launch → Launch) : (updLaunch s p l f).items = s.items := rfl
@[simp] theorem updLaunch_subs (s : State) (p l : Nat) (f : Launch → Launch) : (updLaunch s p l f).subs = s.subs := rfl
@[simp] theorem updLaunch_pbs (s : State) (p l : Nat) (f : Launch → Launch) : (updLaunch s p l f).pbs = s.pbs := rfl
@[simp] theorem updLaunch_pbFlight (s : State) (p l : Nat) (f : Launch → Launch) : (updLaunch s p l f).pbFlight = s.pbFlight := rfl
@[simp] theorem updLaunch_disps (s : State) (p l : Nat) (f : Launch → Launch) : (updLaunch s p l f).disps = s.disps := rfl
@[simp] theorem updLaunch_ras (s : State) (p l : Nat) (f : Launch → Launch) : (updLaunch s p l f).ras = s.ras := rfl
@[simp] theorem updLaunch_spares (s : State) (p l : Nat) (f : Launch → Launch) : (updLaunch s p l f).spares = s.spares := rfl
@[simp] theorem updLaunch_sparesUsed (s : State) (p l : Nat) (f : Launch → Launch) : (updLaunch s p l f).sparesUsed = s.sparesUsed := rfl
@[simp] theorem updLaunch_waysOff (s : State) (p l : Nat) (f : Launch → Launch) : (updLaunch s p l f).waysOff = s.waysOff := rfl
@[simp] theorem updLaunch_absentDies (s : State) (p l : Nat) (f : Launch → Launch) : (updLaunch s p l f).absentDies = s.absentDies := rfl
@[simp] theorem updLaunch_minver (s : State) (p l : Nat) (f : Launch → Launch) : (updLaunch s p l f).minver = s.minver := rfl
@[simp] theorem updLaunch_minverNext (s : State) (p l : Nat) (f : Launch → Launch) : (updLaunch s p l f).minverNext = s.minverNext := rfl
@[simp] theorem updLaunch_fwDigest (s : State) (p l : Nat) (f : Launch → Launch) : (updLaunch s p l f).fwDigest = s.fwDigest := rfl
@[simp] theorem updLaunch_bootDead (s : State) (p l : Nat) (f : Launch → Launch) : (updLaunch s p l f).bootDead = s.bootDead := rfl
@[simp] theorem updLaunch_replays (s : State) (p l : Nat) (f : Launch → Launch) : (updLaunch s p l f).replays = s.replays := rfl
@[simp] theorem updLaunch_escaped (s : State) (p l : Nat) (f : Launch → Launch) : (updLaunch s p l f).escaped = s.escaped := rfl
@[simp] theorem updLaunch_peerOut (s : State) (p l : Nat) (f : Launch → Launch) : (updLaunch s p l f).peerOut = s.peerOut := rfl
@[simp] theorem updLaunch_forms (s : State) (p l : Nat) (f : Launch → Launch) : (updLaunch s p l f).forms = s.forms := rfl
@[simp] theorem updLaunch_dieEvents (s : State) (p l : Nat) (f : Launch → Launch) : (updLaunch s p l f).dieEvents = s.dieEvents := rfl
@[simp] theorem updLaunch_out (s : State) (p l : Nat) (f : Launch → Launch) : (updLaunch s p l f).out = s.out := rfl

@[simp] theorem setDisp_now (s : State) (p v : Nat) (d : Disp) : (setDisp s p v d).now = s.now := rfl
@[simp] theorem setDisp_agenda (s : State) (p v : Nat) (d : Disp) : (setDisp s p v d).agenda = s.agenda := rfl
@[simp] theorem setDisp_cur (s : State) (p v : Nat) (d : Disp) : (setDisp s p v d).cur = s.cur := rfl
@[simp] theorem setDisp_round (s : State) (p v : Nat) (d : Disp) : (setDisp s p v d).round = s.round := rfl
@[simp] theorem setDisp_lull (s : State) (p v : Nat) (d : Disp) : (setDisp s p v d).lull = s.lull := rfl
@[simp] theorem setDisp_ir (s : State) (p v : Nat) (d : Disp) : (setDisp s p v d).ir = s.ir := rfl
@[simp] theorem setDisp_free (s : State) (p v : Nat) (d : Disp) : (setDisp s p v d).free = s.free := rfl
@[simp] theorem setDisp_nextId (s : State) (p v : Nat) (d : Disp) : (setDisp s p v d).nextId = s.nextId := rfl
@[simp] theorem setDisp_mem (s : State) (p v : Nat) (d : Disp) : (setDisp s p v d).mem = s.mem := rfl
@[simp] theorem setDisp_bootRam (s : State) (p v : Nat) (d : Disp) : (setDisp s p v d).bootRam = s.bootRam := rfl
@[simp] theorem setDisp_tbl (s : State) (p v : Nat) (d : Disp) : (setDisp s p v d).tbl = s.tbl := rfl
@[simp] theorem setDisp_bdi (s : State) (p v : Nat) (d : Disp) : (setDisp s p v d).bdi = s.bdi := rfl
@[simp] theorem setDisp_larderPoison (s : State) (p v : Nat) (d : Disp) : (setDisp s p v d).larderPoison = s.larderPoison := rfl
@[simp] theorem setDisp_frozen (s : State) (p v : Nat) (d : Disp) : (setDisp s p v d).frozen = s.frozen := rfl
@[simp] theorem setDisp_laid (s : State) (p v : Nat) (d : Disp) : (setDisp s p v d).laid = s.laid := rfl
@[simp] theorem setDisp_spoiled (s : State) (p v : Nat) (d : Disp) : (setDisp s p v d).spoiled = s.spoiled := rfl
@[simp] theorem setDisp_lines (s : State) (p v : Nat) (d : Disp) : (setDisp s p v d).lines = s.lines := rfl
@[simp] theorem setDisp_l2 (s : State) (p v : Nat) (d : Disp) : (setDisp s p v d).l2 = s.l2 := rfl
@[simp] theorem setDisp_llc (s : State) (p v : Nat) (d : Disp) : (setDisp s p v d).llc = s.llc := rfl
@[simp] theorem setDisp_cohMsgs (s : State) (p v : Nat) (d : Disp) : (setDisp s p v d).cohMsgs = s.cohMsgs := rfl
@[simp] theorem setDisp_hostDir (s : State) (p v : Nat) (d : Disp) : (setDisp s p v d).hostDir = s.hostDir := rfl
@[simp] theorem setDisp_hostPerm (s : State) (p v : Nat) (d : Disp) : (setDisp s p v d).hostPerm = s.hostPerm := rfl
@[simp] theorem setDisp_icache (s : State) (p v : Nat) (d : Disp) : (setDisp s p v d).icache = s.icache := rfl
@[simp] theorem setDisp_tlb (s : State) (p v : Nat) (d : Disp) : (setDisp s p v d).tlb = s.tlb := rfl
@[simp] theorem setDisp_reports (s : State) (p v : Nat) (d : Disp) : (setDisp s p v d).reports = s.reports := rfl
@[simp] theorem setDisp_pteVer (s : State) (p v : Nat) (d : Disp) : (setDisp s p v d).pteVer = s.pteVer := rfl
@[simp] theorem setDisp_pools (s : State) (p v : Nat) (d : Disp) : (setDisp s p v d).pools = s.pools := rfl
@[simp] theorem setDisp_ptq (s : State) (p v : Nat) (d : Disp) : (setDisp s p v d).ptq = s.ptq := rfl
@[simp] theorem setDisp_csr (s : State) (p v : Nat) (d : Disp) : (setDisp s p v d).csr = s.csr := rfl
@[simp] theorem setDisp_dreg (s : State) (p v : Nat) (d : Disp) : (setDisp s p v d).dreg = s.dreg := rfl
@[simp] theorem setDisp_preg (s : State) (p v : Nat) (d : Disp) : (setDisp s p v d).preg = s.preg := rfl
@[simp] theorem setDisp_parts (s : State) (p v : Nat) (d : Disp) : (setDisp s p v d).parts = s.parts := rfl
@[simp] theorem setDisp_dlq (s : State) (p v : Nat) (d : Disp) : (setDisp s p v d).dlq = s.dlq := rfl
@[simp] theorem setDisp_launches (s : State) (p v : Nat) (d : Disp) : (setDisp s p v d).launches = s.launches := rfl
@[simp] theorem setDisp_wgs (s : State) (p v : Nat) (d : Disp) : (setDisp s p v d).wgs = s.wgs := rfl
@[simp] theorem setDisp_nextWg (s : State) (p v : Nat) (d : Disp) : (setDisp s p v d).nextWg = s.nextWg := rfl
@[simp] theorem setDisp_cores (s : State) (p v : Nat) (d : Disp) : (setDisp s p v d).cores = s.cores := rfl
@[simp] theorem setDisp_cgs (s : State) (p v : Nat) (d : Disp) : (setDisp s p v d).cgs = s.cgs := rfl
@[simp] theorem setDisp_dies (s : State) (p v : Nat) (d : Disp) : (setDisp s p v d).dies = s.dies := rfl
@[simp] theorem setDisp_ctl (s : State) (p v : Nat) (d : Disp) : (setDisp s p v d).ctl = s.ctl := rfl
@[simp] theorem setDisp_copies (s : State) (p v : Nat) (d : Disp) : (setDisp s p v d).copies = s.copies := rfl
@[simp] theorem setDisp_copyInsts (s : State) (p v : Nat) (d : Disp) : (setDisp s p v d).copyInsts = s.copyInsts := rfl
@[simp] theorem setDisp_rays (s : State) (p v : Nat) (d : Disp) : (setDisp s p v d).rays = s.rays := rfl
@[simp] theorem setDisp_susp (s : State) (p v : Nat) (d : Disp) : (setDisp s p v d).susp = s.susp := rfl
@[simp] theorem setDisp_suspGen (s : State) (p v : Nat) (d : Disp) : (setDisp s p v d).suspGen = s.suspGen := rfl
@[simp] theorem setDisp_binq (s : State) (p v : Nat) (d : Disp) : (setDisp s p v d).binq = s.binq := rfl
@[simp] theorem setDisp_packets (s : State) (p v : Nat) (d : Disp) : (setDisp s p v d).packets = s.packets := rfl
@[simp] theorem setDisp_regions (s : State) (p v : Nat) (d : Disp) : (setDisp s p v d).regions = s.regions := rfl
@[simp] theorem setDisp_seals (s : State) (p v : Nat) (d : Disp) : (setDisp s p v d).seals = s.seals := rfl
@[simp] theorem setDisp_batches (s : State) (p v : Nat) (d : Disp) : (setDisp s p v d).batches = s.batches := rfl
@[simp] theorem setDisp_frags (s : State) (p v : Nat) (d : Disp) : (setDisp s p v d).frags = s.frags := rfl
@[simp] theorem setDisp_counts (s : State) (p v : Nat) (d : Disp) : (setDisp s p v d).counts = s.counts := rfl
@[simp] theorem setDisp_posts (s : State) (p v : Nat) (d : Disp) : (setDisp s p v d).posts = s.posts := rfl
@[simp] theorem setDisp_fwds (s : State) (p v : Nat) (d : Disp) : (setDisp s p v d).fwds = s.fwds := rfl
@[simp] theorem setDisp_items (s : State) (p v : Nat) (d : Disp) : (setDisp s p v d).items = s.items := rfl
@[simp] theorem setDisp_subs (s : State) (p v : Nat) (d : Disp) : (setDisp s p v d).subs = s.subs := rfl
@[simp] theorem setDisp_pbs (s : State) (p v : Nat) (d : Disp) : (setDisp s p v d).pbs = s.pbs := rfl
@[simp] theorem setDisp_pbFlight (s : State) (p v : Nat) (d : Disp) : (setDisp s p v d).pbFlight = s.pbFlight := rfl
@[simp] theorem setDisp_ras (s : State) (p v : Nat) (d : Disp) : (setDisp s p v d).ras = s.ras := rfl
@[simp] theorem setDisp_spares (s : State) (p v : Nat) (d : Disp) : (setDisp s p v d).spares = s.spares := rfl
@[simp] theorem setDisp_sparesUsed (s : State) (p v : Nat) (d : Disp) : (setDisp s p v d).sparesUsed = s.sparesUsed := rfl
@[simp] theorem setDisp_waysOff (s : State) (p v : Nat) (d : Disp) : (setDisp s p v d).waysOff = s.waysOff := rfl
@[simp] theorem setDisp_absentDies (s : State) (p v : Nat) (d : Disp) : (setDisp s p v d).absentDies = s.absentDies := rfl
@[simp] theorem setDisp_minver (s : State) (p v : Nat) (d : Disp) : (setDisp s p v d).minver = s.minver := rfl
@[simp] theorem setDisp_minverNext (s : State) (p v : Nat) (d : Disp) : (setDisp s p v d).minverNext = s.minverNext := rfl
@[simp] theorem setDisp_fwDigest (s : State) (p v : Nat) (d : Disp) : (setDisp s p v d).fwDigest = s.fwDigest := rfl
@[simp] theorem setDisp_bootDead (s : State) (p v : Nat) (d : Disp) : (setDisp s p v d).bootDead = s.bootDead := rfl
@[simp] theorem setDisp_replays (s : State) (p v : Nat) (d : Disp) : (setDisp s p v d).replays = s.replays := rfl
@[simp] theorem setDisp_escaped (s : State) (p v : Nat) (d : Disp) : (setDisp s p v d).escaped = s.escaped := rfl
@[simp] theorem setDisp_peerOut (s : State) (p v : Nat) (d : Disp) : (setDisp s p v d).peerOut = s.peerOut := rfl
@[simp] theorem setDisp_forms (s : State) (p v : Nat) (d : Disp) : (setDisp s p v d).forms = s.forms := rfl
@[simp] theorem setDisp_dieEvents (s : State) (p v : Nat) (d : Disp) : (setDisp s p v d).dieEvents = s.dieEvents := rfl
@[simp] theorem setDisp_out (s : State) (p v : Nat) (d : Disp) : (setDisp s p v d).out = s.out := rfl

@[simp] theorem updBatch_now (s : State) (p n : Nat) (f : MeshBatch → MeshBatch) : (updBatch s p n f).now = s.now := rfl
@[simp] theorem updBatch_agenda (s : State) (p n : Nat) (f : MeshBatch → MeshBatch) : (updBatch s p n f).agenda = s.agenda := rfl
@[simp] theorem updBatch_cur (s : State) (p n : Nat) (f : MeshBatch → MeshBatch) : (updBatch s p n f).cur = s.cur := rfl
@[simp] theorem updBatch_round (s : State) (p n : Nat) (f : MeshBatch → MeshBatch) : (updBatch s p n f).round = s.round := rfl
@[simp] theorem updBatch_lull (s : State) (p n : Nat) (f : MeshBatch → MeshBatch) : (updBatch s p n f).lull = s.lull := rfl
@[simp] theorem updBatch_ir (s : State) (p n : Nat) (f : MeshBatch → MeshBatch) : (updBatch s p n f).ir = s.ir := rfl
@[simp] theorem updBatch_free (s : State) (p n : Nat) (f : MeshBatch → MeshBatch) : (updBatch s p n f).free = s.free := rfl
@[simp] theorem updBatch_nextId (s : State) (p n : Nat) (f : MeshBatch → MeshBatch) : (updBatch s p n f).nextId = s.nextId := rfl
@[simp] theorem updBatch_mem (s : State) (p n : Nat) (f : MeshBatch → MeshBatch) : (updBatch s p n f).mem = s.mem := rfl
@[simp] theorem updBatch_bootRam (s : State) (p n : Nat) (f : MeshBatch → MeshBatch) : (updBatch s p n f).bootRam = s.bootRam := rfl
@[simp] theorem updBatch_tbl (s : State) (p n : Nat) (f : MeshBatch → MeshBatch) : (updBatch s p n f).tbl = s.tbl := rfl
@[simp] theorem updBatch_bdi (s : State) (p n : Nat) (f : MeshBatch → MeshBatch) : (updBatch s p n f).bdi = s.bdi := rfl
@[simp] theorem updBatch_larderPoison (s : State) (p n : Nat) (f : MeshBatch → MeshBatch) : (updBatch s p n f).larderPoison = s.larderPoison := rfl
@[simp] theorem updBatch_frozen (s : State) (p n : Nat) (f : MeshBatch → MeshBatch) : (updBatch s p n f).frozen = s.frozen := rfl
@[simp] theorem updBatch_laid (s : State) (p n : Nat) (f : MeshBatch → MeshBatch) : (updBatch s p n f).laid = s.laid := rfl
@[simp] theorem updBatch_spoiled (s : State) (p n : Nat) (f : MeshBatch → MeshBatch) : (updBatch s p n f).spoiled = s.spoiled := rfl
@[simp] theorem updBatch_lines (s : State) (p n : Nat) (f : MeshBatch → MeshBatch) : (updBatch s p n f).lines = s.lines := rfl
@[simp] theorem updBatch_l2 (s : State) (p n : Nat) (f : MeshBatch → MeshBatch) : (updBatch s p n f).l2 = s.l2 := rfl
@[simp] theorem updBatch_llc (s : State) (p n : Nat) (f : MeshBatch → MeshBatch) : (updBatch s p n f).llc = s.llc := rfl
@[simp] theorem updBatch_cohMsgs (s : State) (p n : Nat) (f : MeshBatch → MeshBatch) : (updBatch s p n f).cohMsgs = s.cohMsgs := rfl
@[simp] theorem updBatch_hostDir (s : State) (p n : Nat) (f : MeshBatch → MeshBatch) : (updBatch s p n f).hostDir = s.hostDir := rfl
@[simp] theorem updBatch_hostPerm (s : State) (p n : Nat) (f : MeshBatch → MeshBatch) : (updBatch s p n f).hostPerm = s.hostPerm := rfl
@[simp] theorem updBatch_icache (s : State) (p n : Nat) (f : MeshBatch → MeshBatch) : (updBatch s p n f).icache = s.icache := rfl
@[simp] theorem updBatch_tlb (s : State) (p n : Nat) (f : MeshBatch → MeshBatch) : (updBatch s p n f).tlb = s.tlb := rfl
@[simp] theorem updBatch_reports (s : State) (p n : Nat) (f : MeshBatch → MeshBatch) : (updBatch s p n f).reports = s.reports := rfl
@[simp] theorem updBatch_pteVer (s : State) (p n : Nat) (f : MeshBatch → MeshBatch) : (updBatch s p n f).pteVer = s.pteVer := rfl
@[simp] theorem updBatch_pools (s : State) (p n : Nat) (f : MeshBatch → MeshBatch) : (updBatch s p n f).pools = s.pools := rfl
@[simp] theorem updBatch_ptq (s : State) (p n : Nat) (f : MeshBatch → MeshBatch) : (updBatch s p n f).ptq = s.ptq := rfl
@[simp] theorem updBatch_csr (s : State) (p n : Nat) (f : MeshBatch → MeshBatch) : (updBatch s p n f).csr = s.csr := rfl
@[simp] theorem updBatch_dreg (s : State) (p n : Nat) (f : MeshBatch → MeshBatch) : (updBatch s p n f).dreg = s.dreg := rfl
@[simp] theorem updBatch_preg (s : State) (p n : Nat) (f : MeshBatch → MeshBatch) : (updBatch s p n f).preg = s.preg := rfl
@[simp] theorem updBatch_parts (s : State) (p n : Nat) (f : MeshBatch → MeshBatch) : (updBatch s p n f).parts = s.parts := rfl
@[simp] theorem updBatch_dlq (s : State) (p n : Nat) (f : MeshBatch → MeshBatch) : (updBatch s p n f).dlq = s.dlq := rfl
@[simp] theorem updBatch_launches (s : State) (p n : Nat) (f : MeshBatch → MeshBatch) : (updBatch s p n f).launches = s.launches := rfl
@[simp] theorem updBatch_wgs (s : State) (p n : Nat) (f : MeshBatch → MeshBatch) : (updBatch s p n f).wgs = s.wgs := rfl
@[simp] theorem updBatch_nextWg (s : State) (p n : Nat) (f : MeshBatch → MeshBatch) : (updBatch s p n f).nextWg = s.nextWg := rfl
@[simp] theorem updBatch_cores (s : State) (p n : Nat) (f : MeshBatch → MeshBatch) : (updBatch s p n f).cores = s.cores := rfl
@[simp] theorem updBatch_cgs (s : State) (p n : Nat) (f : MeshBatch → MeshBatch) : (updBatch s p n f).cgs = s.cgs := rfl
@[simp] theorem updBatch_dies (s : State) (p n : Nat) (f : MeshBatch → MeshBatch) : (updBatch s p n f).dies = s.dies := rfl
@[simp] theorem updBatch_ctl (s : State) (p n : Nat) (f : MeshBatch → MeshBatch) : (updBatch s p n f).ctl = s.ctl := rfl
@[simp] theorem updBatch_copies (s : State) (p n : Nat) (f : MeshBatch → MeshBatch) : (updBatch s p n f).copies = s.copies := rfl
@[simp] theorem updBatch_copyInsts (s : State) (p n : Nat) (f : MeshBatch → MeshBatch) : (updBatch s p n f).copyInsts = s.copyInsts := rfl
@[simp] theorem updBatch_rays (s : State) (p n : Nat) (f : MeshBatch → MeshBatch) : (updBatch s p n f).rays = s.rays := rfl
@[simp] theorem updBatch_susp (s : State) (p n : Nat) (f : MeshBatch → MeshBatch) : (updBatch s p n f).susp = s.susp := rfl
@[simp] theorem updBatch_suspGen (s : State) (p n : Nat) (f : MeshBatch → MeshBatch) : (updBatch s p n f).suspGen = s.suspGen := rfl
@[simp] theorem updBatch_binq (s : State) (p n : Nat) (f : MeshBatch → MeshBatch) : (updBatch s p n f).binq = s.binq := rfl
@[simp] theorem updBatch_packets (s : State) (p n : Nat) (f : MeshBatch → MeshBatch) : (updBatch s p n f).packets = s.packets := rfl
@[simp] theorem updBatch_regions (s : State) (p n : Nat) (f : MeshBatch → MeshBatch) : (updBatch s p n f).regions = s.regions := rfl
@[simp] theorem updBatch_seals (s : State) (p n : Nat) (f : MeshBatch → MeshBatch) : (updBatch s p n f).seals = s.seals := rfl
@[simp] theorem updBatch_frags (s : State) (p n : Nat) (f : MeshBatch → MeshBatch) : (updBatch s p n f).frags = s.frags := rfl
@[simp] theorem updBatch_counts (s : State) (p n : Nat) (f : MeshBatch → MeshBatch) : (updBatch s p n f).counts = s.counts := rfl
@[simp] theorem updBatch_posts (s : State) (p n : Nat) (f : MeshBatch → MeshBatch) : (updBatch s p n f).posts = s.posts := rfl
@[simp] theorem updBatch_fwds (s : State) (p n : Nat) (f : MeshBatch → MeshBatch) : (updBatch s p n f).fwds = s.fwds := rfl
@[simp] theorem updBatch_items (s : State) (p n : Nat) (f : MeshBatch → MeshBatch) : (updBatch s p n f).items = s.items := rfl
@[simp] theorem updBatch_subs (s : State) (p n : Nat) (f : MeshBatch → MeshBatch) : (updBatch s p n f).subs = s.subs := rfl
@[simp] theorem updBatch_pbs (s : State) (p n : Nat) (f : MeshBatch → MeshBatch) : (updBatch s p n f).pbs = s.pbs := rfl
@[simp] theorem updBatch_pbFlight (s : State) (p n : Nat) (f : MeshBatch → MeshBatch) : (updBatch s p n f).pbFlight = s.pbFlight := rfl
@[simp] theorem updBatch_disps (s : State) (p n : Nat) (f : MeshBatch → MeshBatch) : (updBatch s p n f).disps = s.disps := rfl
@[simp] theorem updBatch_ras (s : State) (p n : Nat) (f : MeshBatch → MeshBatch) : (updBatch s p n f).ras = s.ras := rfl
@[simp] theorem updBatch_spares (s : State) (p n : Nat) (f : MeshBatch → MeshBatch) : (updBatch s p n f).spares = s.spares := rfl
@[simp] theorem updBatch_sparesUsed (s : State) (p n : Nat) (f : MeshBatch → MeshBatch) : (updBatch s p n f).sparesUsed = s.sparesUsed := rfl
@[simp] theorem updBatch_waysOff (s : State) (p n : Nat) (f : MeshBatch → MeshBatch) : (updBatch s p n f).waysOff = s.waysOff := rfl
@[simp] theorem updBatch_absentDies (s : State) (p n : Nat) (f : MeshBatch → MeshBatch) : (updBatch s p n f).absentDies = s.absentDies := rfl
@[simp] theorem updBatch_minver (s : State) (p n : Nat) (f : MeshBatch → MeshBatch) : (updBatch s p n f).minver = s.minver := rfl
@[simp] theorem updBatch_minverNext (s : State) (p n : Nat) (f : MeshBatch → MeshBatch) : (updBatch s p n f).minverNext = s.minverNext := rfl
@[simp] theorem updBatch_fwDigest (s : State) (p n : Nat) (f : MeshBatch → MeshBatch) : (updBatch s p n f).fwDigest = s.fwDigest := rfl
@[simp] theorem updBatch_bootDead (s : State) (p n : Nat) (f : MeshBatch → MeshBatch) : (updBatch s p n f).bootDead = s.bootDead := rfl
@[simp] theorem updBatch_replays (s : State) (p n : Nat) (f : MeshBatch → MeshBatch) : (updBatch s p n f).replays = s.replays := rfl
@[simp] theorem updBatch_escaped (s : State) (p n : Nat) (f : MeshBatch → MeshBatch) : (updBatch s p n f).escaped = s.escaped := rfl
@[simp] theorem updBatch_peerOut (s : State) (p n : Nat) (f : MeshBatch → MeshBatch) : (updBatch s p n f).peerOut = s.peerOut := rfl
@[simp] theorem updBatch_forms (s : State) (p n : Nat) (f : MeshBatch → MeshBatch) : (updBatch s p n f).forms = s.forms := rfl
@[simp] theorem updBatch_dieEvents (s : State) (p n : Nat) (f : MeshBatch → MeshBatch) : (updBatch s p n f).dieEvents = s.dieEvents := rfl
@[simp] theorem updBatch_out (s : State) (p n : Nat) (f : MeshBatch → MeshBatch) : (updBatch s p n f).out = s.out := rfl

@[simp] theorem setRegion_now (s : State) (r : Region) : (setRegion s r).now = s.now := rfl
@[simp] theorem setRegion_agenda (s : State) (r : Region) : (setRegion s r).agenda = s.agenda := rfl
@[simp] theorem setRegion_cur (s : State) (r : Region) : (setRegion s r).cur = s.cur := rfl
@[simp] theorem setRegion_round (s : State) (r : Region) : (setRegion s r).round = s.round := rfl
@[simp] theorem setRegion_lull (s : State) (r : Region) : (setRegion s r).lull = s.lull := rfl
@[simp] theorem setRegion_ir (s : State) (r : Region) : (setRegion s r).ir = s.ir := rfl
@[simp] theorem setRegion_free (s : State) (r : Region) : (setRegion s r).free = s.free := rfl
@[simp] theorem setRegion_nextId (s : State) (r : Region) : (setRegion s r).nextId = s.nextId := rfl
@[simp] theorem setRegion_mem (s : State) (r : Region) : (setRegion s r).mem = s.mem := rfl
@[simp] theorem setRegion_bootRam (s : State) (r : Region) : (setRegion s r).bootRam = s.bootRam := rfl
@[simp] theorem setRegion_tbl (s : State) (r : Region) : (setRegion s r).tbl = s.tbl := rfl
@[simp] theorem setRegion_bdi (s : State) (r : Region) : (setRegion s r).bdi = s.bdi := rfl
@[simp] theorem setRegion_larderPoison (s : State) (r : Region) : (setRegion s r).larderPoison = s.larderPoison := rfl
@[simp] theorem setRegion_frozen (s : State) (r : Region) : (setRegion s r).frozen = s.frozen := rfl
@[simp] theorem setRegion_laid (s : State) (r : Region) : (setRegion s r).laid = s.laid := rfl
@[simp] theorem setRegion_spoiled (s : State) (r : Region) : (setRegion s r).spoiled = s.spoiled := rfl
@[simp] theorem setRegion_lines (s : State) (r : Region) : (setRegion s r).lines = s.lines := rfl
@[simp] theorem setRegion_l2 (s : State) (r : Region) : (setRegion s r).l2 = s.l2 := rfl
@[simp] theorem setRegion_llc (s : State) (r : Region) : (setRegion s r).llc = s.llc := rfl
@[simp] theorem setRegion_cohMsgs (s : State) (r : Region) : (setRegion s r).cohMsgs = s.cohMsgs := rfl
@[simp] theorem setRegion_hostDir (s : State) (r : Region) : (setRegion s r).hostDir = s.hostDir := rfl
@[simp] theorem setRegion_hostPerm (s : State) (r : Region) : (setRegion s r).hostPerm = s.hostPerm := rfl
@[simp] theorem setRegion_icache (s : State) (r : Region) : (setRegion s r).icache = s.icache := rfl
@[simp] theorem setRegion_tlb (s : State) (r : Region) : (setRegion s r).tlb = s.tlb := rfl
@[simp] theorem setRegion_reports (s : State) (r : Region) : (setRegion s r).reports = s.reports := rfl
@[simp] theorem setRegion_pteVer (s : State) (r : Region) : (setRegion s r).pteVer = s.pteVer := rfl
@[simp] theorem setRegion_pools (s : State) (r : Region) : (setRegion s r).pools = s.pools := rfl
@[simp] theorem setRegion_ptq (s : State) (r : Region) : (setRegion s r).ptq = s.ptq := rfl
@[simp] theorem setRegion_csr (s : State) (r : Region) : (setRegion s r).csr = s.csr := rfl
@[simp] theorem setRegion_dreg (s : State) (r : Region) : (setRegion s r).dreg = s.dreg := rfl
@[simp] theorem setRegion_preg (s : State) (r : Region) : (setRegion s r).preg = s.preg := rfl
@[simp] theorem setRegion_parts (s : State) (r : Region) : (setRegion s r).parts = s.parts := rfl
@[simp] theorem setRegion_dlq (s : State) (r : Region) : (setRegion s r).dlq = s.dlq := rfl
@[simp] theorem setRegion_launches (s : State) (r : Region) : (setRegion s r).launches = s.launches := rfl
@[simp] theorem setRegion_wgs (s : State) (r : Region) : (setRegion s r).wgs = s.wgs := rfl
@[simp] theorem setRegion_nextWg (s : State) (r : Region) : (setRegion s r).nextWg = s.nextWg := rfl
@[simp] theorem setRegion_cores (s : State) (r : Region) : (setRegion s r).cores = s.cores := rfl
@[simp] theorem setRegion_cgs (s : State) (r : Region) : (setRegion s r).cgs = s.cgs := rfl
@[simp] theorem setRegion_dies (s : State) (r : Region) : (setRegion s r).dies = s.dies := rfl
@[simp] theorem setRegion_ctl (s : State) (r : Region) : (setRegion s r).ctl = s.ctl := rfl
@[simp] theorem setRegion_copies (s : State) (r : Region) : (setRegion s r).copies = s.copies := rfl
@[simp] theorem setRegion_copyInsts (s : State) (r : Region) : (setRegion s r).copyInsts = s.copyInsts := rfl
@[simp] theorem setRegion_rays (s : State) (r : Region) : (setRegion s r).rays = s.rays := rfl
@[simp] theorem setRegion_susp (s : State) (r : Region) : (setRegion s r).susp = s.susp := rfl
@[simp] theorem setRegion_suspGen (s : State) (r : Region) : (setRegion s r).suspGen = s.suspGen := rfl
@[simp] theorem setRegion_binq (s : State) (r : Region) : (setRegion s r).binq = s.binq := rfl
@[simp] theorem setRegion_packets (s : State) (r : Region) : (setRegion s r).packets = s.packets := rfl
@[simp] theorem setRegion_seals (s : State) (r : Region) : (setRegion s r).seals = s.seals := rfl
@[simp] theorem setRegion_batches (s : State) (r : Region) : (setRegion s r).batches = s.batches := rfl
@[simp] theorem setRegion_frags (s : State) (r : Region) : (setRegion s r).frags = s.frags := rfl
@[simp] theorem setRegion_counts (s : State) (r : Region) : (setRegion s r).counts = s.counts := rfl
@[simp] theorem setRegion_posts (s : State) (r : Region) : (setRegion s r).posts = s.posts := rfl
@[simp] theorem setRegion_fwds (s : State) (r : Region) : (setRegion s r).fwds = s.fwds := rfl
@[simp] theorem setRegion_items (s : State) (r : Region) : (setRegion s r).items = s.items := rfl
@[simp] theorem setRegion_subs (s : State) (r : Region) : (setRegion s r).subs = s.subs := rfl
@[simp] theorem setRegion_pbs (s : State) (r : Region) : (setRegion s r).pbs = s.pbs := rfl
@[simp] theorem setRegion_pbFlight (s : State) (r : Region) : (setRegion s r).pbFlight = s.pbFlight := rfl
@[simp] theorem setRegion_disps (s : State) (r : Region) : (setRegion s r).disps = s.disps := rfl
@[simp] theorem setRegion_ras (s : State) (r : Region) : (setRegion s r).ras = s.ras := rfl
@[simp] theorem setRegion_spares (s : State) (r : Region) : (setRegion s r).spares = s.spares := rfl
@[simp] theorem setRegion_sparesUsed (s : State) (r : Region) : (setRegion s r).sparesUsed = s.sparesUsed := rfl
@[simp] theorem setRegion_waysOff (s : State) (r : Region) : (setRegion s r).waysOff = s.waysOff := rfl
@[simp] theorem setRegion_absentDies (s : State) (r : Region) : (setRegion s r).absentDies = s.absentDies := rfl
@[simp] theorem setRegion_minver (s : State) (r : Region) : (setRegion s r).minver = s.minver := rfl
@[simp] theorem setRegion_minverNext (s : State) (r : Region) : (setRegion s r).minverNext = s.minverNext := rfl
@[simp] theorem setRegion_fwDigest (s : State) (r : Region) : (setRegion s r).fwDigest = s.fwDigest := rfl
@[simp] theorem setRegion_bootDead (s : State) (r : Region) : (setRegion s r).bootDead = s.bootDead := rfl
@[simp] theorem setRegion_replays (s : State) (r : Region) : (setRegion s r).replays = s.replays := rfl
@[simp] theorem setRegion_escaped (s : State) (r : Region) : (setRegion s r).escaped = s.escaped := rfl
@[simp] theorem setRegion_peerOut (s : State) (r : Region) : (setRegion s r).peerOut = s.peerOut := rfl
@[simp] theorem setRegion_forms (s : State) (r : Region) : (setRegion s r).forms = s.forms := rfl
@[simp] theorem setRegion_dieEvents (s : State) (r : Region) : (setRegion s r).dieEvents = s.dieEvents := rfl
@[simp] theorem setRegion_out (s : State) (r : Region) : (setRegion s r).out = s.out := rfl

@[simp] theorem updFrag_now (s : State) (n : Nat) (f : Frag → Frag) : (updFrag s n f).now = s.now := rfl
@[simp] theorem updFrag_agenda (s : State) (n : Nat) (f : Frag → Frag) : (updFrag s n f).agenda = s.agenda := rfl
@[simp] theorem updFrag_cur (s : State) (n : Nat) (f : Frag → Frag) : (updFrag s n f).cur = s.cur := rfl
@[simp] theorem updFrag_round (s : State) (n : Nat) (f : Frag → Frag) : (updFrag s n f).round = s.round := rfl
@[simp] theorem updFrag_lull (s : State) (n : Nat) (f : Frag → Frag) : (updFrag s n f).lull = s.lull := rfl
@[simp] theorem updFrag_ir (s : State) (n : Nat) (f : Frag → Frag) : (updFrag s n f).ir = s.ir := rfl
@[simp] theorem updFrag_free (s : State) (n : Nat) (f : Frag → Frag) : (updFrag s n f).free = s.free := rfl
@[simp] theorem updFrag_nextId (s : State) (n : Nat) (f : Frag → Frag) : (updFrag s n f).nextId = s.nextId := rfl
@[simp] theorem updFrag_mem (s : State) (n : Nat) (f : Frag → Frag) : (updFrag s n f).mem = s.mem := rfl
@[simp] theorem updFrag_bootRam (s : State) (n : Nat) (f : Frag → Frag) : (updFrag s n f).bootRam = s.bootRam := rfl
@[simp] theorem updFrag_tbl (s : State) (n : Nat) (f : Frag → Frag) : (updFrag s n f).tbl = s.tbl := rfl
@[simp] theorem updFrag_bdi (s : State) (n : Nat) (f : Frag → Frag) : (updFrag s n f).bdi = s.bdi := rfl
@[simp] theorem updFrag_larderPoison (s : State) (n : Nat) (f : Frag → Frag) : (updFrag s n f).larderPoison = s.larderPoison := rfl
@[simp] theorem updFrag_frozen (s : State) (n : Nat) (f : Frag → Frag) : (updFrag s n f).frozen = s.frozen := rfl
@[simp] theorem updFrag_laid (s : State) (n : Nat) (f : Frag → Frag) : (updFrag s n f).laid = s.laid := rfl
@[simp] theorem updFrag_spoiled (s : State) (n : Nat) (f : Frag → Frag) : (updFrag s n f).spoiled = s.spoiled := rfl
@[simp] theorem updFrag_lines (s : State) (n : Nat) (f : Frag → Frag) : (updFrag s n f).lines = s.lines := rfl
@[simp] theorem updFrag_l2 (s : State) (n : Nat) (f : Frag → Frag) : (updFrag s n f).l2 = s.l2 := rfl
@[simp] theorem updFrag_llc (s : State) (n : Nat) (f : Frag → Frag) : (updFrag s n f).llc = s.llc := rfl
@[simp] theorem updFrag_cohMsgs (s : State) (n : Nat) (f : Frag → Frag) : (updFrag s n f).cohMsgs = s.cohMsgs := rfl
@[simp] theorem updFrag_hostDir (s : State) (n : Nat) (f : Frag → Frag) : (updFrag s n f).hostDir = s.hostDir := rfl
@[simp] theorem updFrag_hostPerm (s : State) (n : Nat) (f : Frag → Frag) : (updFrag s n f).hostPerm = s.hostPerm := rfl
@[simp] theorem updFrag_icache (s : State) (n : Nat) (f : Frag → Frag) : (updFrag s n f).icache = s.icache := rfl
@[simp] theorem updFrag_tlb (s : State) (n : Nat) (f : Frag → Frag) : (updFrag s n f).tlb = s.tlb := rfl
@[simp] theorem updFrag_reports (s : State) (n : Nat) (f : Frag → Frag) : (updFrag s n f).reports = s.reports := rfl
@[simp] theorem updFrag_pteVer (s : State) (n : Nat) (f : Frag → Frag) : (updFrag s n f).pteVer = s.pteVer := rfl
@[simp] theorem updFrag_pools (s : State) (n : Nat) (f : Frag → Frag) : (updFrag s n f).pools = s.pools := rfl
@[simp] theorem updFrag_ptq (s : State) (n : Nat) (f : Frag → Frag) : (updFrag s n f).ptq = s.ptq := rfl
@[simp] theorem updFrag_csr (s : State) (n : Nat) (f : Frag → Frag) : (updFrag s n f).csr = s.csr := rfl
@[simp] theorem updFrag_dreg (s : State) (n : Nat) (f : Frag → Frag) : (updFrag s n f).dreg = s.dreg := rfl
@[simp] theorem updFrag_preg (s : State) (n : Nat) (f : Frag → Frag) : (updFrag s n f).preg = s.preg := rfl
@[simp] theorem updFrag_parts (s : State) (n : Nat) (f : Frag → Frag) : (updFrag s n f).parts = s.parts := rfl
@[simp] theorem updFrag_dlq (s : State) (n : Nat) (f : Frag → Frag) : (updFrag s n f).dlq = s.dlq := rfl
@[simp] theorem updFrag_launches (s : State) (n : Nat) (f : Frag → Frag) : (updFrag s n f).launches = s.launches := rfl
@[simp] theorem updFrag_wgs (s : State) (n : Nat) (f : Frag → Frag) : (updFrag s n f).wgs = s.wgs := rfl
@[simp] theorem updFrag_nextWg (s : State) (n : Nat) (f : Frag → Frag) : (updFrag s n f).nextWg = s.nextWg := rfl
@[simp] theorem updFrag_cores (s : State) (n : Nat) (f : Frag → Frag) : (updFrag s n f).cores = s.cores := rfl
@[simp] theorem updFrag_cgs (s : State) (n : Nat) (f : Frag → Frag) : (updFrag s n f).cgs = s.cgs := rfl
@[simp] theorem updFrag_dies (s : State) (n : Nat) (f : Frag → Frag) : (updFrag s n f).dies = s.dies := rfl
@[simp] theorem updFrag_ctl (s : State) (n : Nat) (f : Frag → Frag) : (updFrag s n f).ctl = s.ctl := rfl
@[simp] theorem updFrag_copies (s : State) (n : Nat) (f : Frag → Frag) : (updFrag s n f).copies = s.copies := rfl
@[simp] theorem updFrag_copyInsts (s : State) (n : Nat) (f : Frag → Frag) : (updFrag s n f).copyInsts = s.copyInsts := rfl
@[simp] theorem updFrag_rays (s : State) (n : Nat) (f : Frag → Frag) : (updFrag s n f).rays = s.rays := rfl
@[simp] theorem updFrag_susp (s : State) (n : Nat) (f : Frag → Frag) : (updFrag s n f).susp = s.susp := rfl
@[simp] theorem updFrag_suspGen (s : State) (n : Nat) (f : Frag → Frag) : (updFrag s n f).suspGen = s.suspGen := rfl
@[simp] theorem updFrag_binq (s : State) (n : Nat) (f : Frag → Frag) : (updFrag s n f).binq = s.binq := rfl
@[simp] theorem updFrag_packets (s : State) (n : Nat) (f : Frag → Frag) : (updFrag s n f).packets = s.packets := rfl
@[simp] theorem updFrag_regions (s : State) (n : Nat) (f : Frag → Frag) : (updFrag s n f).regions = s.regions := rfl
@[simp] theorem updFrag_seals (s : State) (n : Nat) (f : Frag → Frag) : (updFrag s n f).seals = s.seals := rfl
@[simp] theorem updFrag_batches (s : State) (n : Nat) (f : Frag → Frag) : (updFrag s n f).batches = s.batches := rfl
@[simp] theorem updFrag_counts (s : State) (n : Nat) (f : Frag → Frag) : (updFrag s n f).counts = s.counts := rfl
@[simp] theorem updFrag_posts (s : State) (n : Nat) (f : Frag → Frag) : (updFrag s n f).posts = s.posts := rfl
@[simp] theorem updFrag_fwds (s : State) (n : Nat) (f : Frag → Frag) : (updFrag s n f).fwds = s.fwds := rfl
@[simp] theorem updFrag_items (s : State) (n : Nat) (f : Frag → Frag) : (updFrag s n f).items = s.items := rfl
@[simp] theorem updFrag_subs (s : State) (n : Nat) (f : Frag → Frag) : (updFrag s n f).subs = s.subs := rfl
@[simp] theorem updFrag_pbs (s : State) (n : Nat) (f : Frag → Frag) : (updFrag s n f).pbs = s.pbs := rfl
@[simp] theorem updFrag_pbFlight (s : State) (n : Nat) (f : Frag → Frag) : (updFrag s n f).pbFlight = s.pbFlight := rfl
@[simp] theorem updFrag_disps (s : State) (n : Nat) (f : Frag → Frag) : (updFrag s n f).disps = s.disps := rfl
@[simp] theorem updFrag_ras (s : State) (n : Nat) (f : Frag → Frag) : (updFrag s n f).ras = s.ras := rfl
@[simp] theorem updFrag_spares (s : State) (n : Nat) (f : Frag → Frag) : (updFrag s n f).spares = s.spares := rfl
@[simp] theorem updFrag_sparesUsed (s : State) (n : Nat) (f : Frag → Frag) : (updFrag s n f).sparesUsed = s.sparesUsed := rfl
@[simp] theorem updFrag_waysOff (s : State) (n : Nat) (f : Frag → Frag) : (updFrag s n f).waysOff = s.waysOff := rfl
@[simp] theorem updFrag_absentDies (s : State) (n : Nat) (f : Frag → Frag) : (updFrag s n f).absentDies = s.absentDies := rfl
@[simp] theorem updFrag_minver (s : State) (n : Nat) (f : Frag → Frag) : (updFrag s n f).minver = s.minver := rfl
@[simp] theorem updFrag_minverNext (s : State) (n : Nat) (f : Frag → Frag) : (updFrag s n f).minverNext = s.minverNext := rfl
@[simp] theorem updFrag_fwDigest (s : State) (n : Nat) (f : Frag → Frag) : (updFrag s n f).fwDigest = s.fwDigest := rfl
@[simp] theorem updFrag_bootDead (s : State) (n : Nat) (f : Frag → Frag) : (updFrag s n f).bootDead = s.bootDead := rfl
@[simp] theorem updFrag_replays (s : State) (n : Nat) (f : Frag → Frag) : (updFrag s n f).replays = s.replays := rfl
@[simp] theorem updFrag_escaped (s : State) (n : Nat) (f : Frag → Frag) : (updFrag s n f).escaped = s.escaped := rfl
@[simp] theorem updFrag_peerOut (s : State) (n : Nat) (f : Frag → Frag) : (updFrag s n f).peerOut = s.peerOut := rfl
@[simp] theorem updFrag_forms (s : State) (n : Nat) (f : Frag → Frag) : (updFrag s n f).forms = s.forms := rfl
@[simp] theorem updFrag_dieEvents (s : State) (n : Nat) (f : Frag → Frag) : (updFrag s n f).dieEvents = s.dieEvents := rfl
@[simp] theorem updFrag_out (s : State) (n : Nat) (f : Frag → Frag) : (updFrag s n f).out = s.out := rfl

end Sys2Proof.Laws
end

