-- ==== Sys2Proof/Certificates/Slice0/Obligations.lean ====
section
/-! DEFINITION. The statements about the model. Each says which rules it formalises; the tables before them list the
instructions of one shape with what the rule gives each. -/

namespace Sys2Proof.Claims

open Sys2Proof Sys2Proof.Machine

/-- The executing agent runs and its instruction passes checks 3 to 9 of R177 as a form has them. -/
abbrev Passes (s : State) (fm : Form) : Prop := canRun s = true ∧ checkForm s fm = none

/-- Forms with a destination, or one that is also read, and two or one operands. -/
def dab (d a b : Field) : Form := { ops := [opW d, opR a, opR b] }
def mab (d a b : Field) : Form := { ops := [opM d, opR a, opR b] }
def da (d a : Field) : Form := { ops := [opW d, opR a] }

/-- The next state of an instruction that writes one register, or a pair, and nothing else. -/
def writes (s : State) (d : Field) (v : Word64) : Result := .next (advance (writeR s d v))
def writes2 (s : State) (d : Field) (v : Word64) : Result := .next (advance (writeP s d v))

/-- Three-register instruction constructors. -/
abbrev Three := Field → Field → Field → Instr
abbrev Two := Field → Field → Instr

/-- Truth as a number (R193). -/
def flag (n : Nat) (c : Bool) : BitVec n := if c then 1 else 0

/-- Signed saturation to n bits (R191). -/
def clampTo (n : Nat) (x : Int) : BitVec n :=
  if x < -(2 ^ (n - 1)) then BitVec.ofInt n (-(2 ^ (n - 1))) else if 2 ^ (n - 1) - 1 < x then BitVec.ofInt n (2 ^ (n - 1) - 1) else BitVec.ofInt n x

/-- What R191, R192, R193 and R196 give two operands of n bits. -/
def integerTwo : List (Three × ((n : Nat) → BitVec n → BitVec n → BitVec n)) := [
  (.add, fun _ x y => x + y), (.sub, fun _ x y => x - y), (.and, fun _ x y => x &&& y), (.or, fun _ x y => x ||| y),
  (.xor, fun _ x y => x ^^^ y), (.andn, fun _ x y => x &&& ~~~y), (.shl, fun n x y => x <<< (y.toNat % n)),
  (.shr, fun n x y => x >>> (y.toNat % n)), (.sar, fun n x y => x.sshiftRight (y.toNat % n)),
  (.rotl, fun n x y => x.rotateLeft (y.toNat % n)), (.min, fun _ x y => if x.toInt ≤ y.toInt then x else y),
  (.max, fun _ x y => if x.toInt < y.toInt then y else x), (.minu, fun _ x y => if x.toNat ≤ y.toNat then x else y),
  (.maxu, fun _ x y => if x.toNat < y.toNat then y else x), (.adds, fun n x y => clampTo n (x.toInt + y.toInt)),
  (.subs, fun n x y => clampTo n (x.toInt - y.toInt)), (.mul, fun _ x y => x * y),
  (.mulh, fun n x y => BitVec.ofInt n (x.toInt * y.toInt / 2 ^ n)), (.mulhu, fun n x y => BitVec.ofNat n (x.toNat * y.toNat / 2 ^ n)),
  (.div, fun n x y => if y = 0 then BitVec.allOnes n else x.sdiv y), (.divu, fun n x y => if y = 0 then BitVec.allOnes n else x.udiv y),
  (.rem, fun _ x y => if y = 0 then x else x.srem y), (.remu, fun _ x y => if y = 0 then x else x.umod y),
  (.seq, fun n x y => flag n (x == y)), (.sne, fun n x y => flag n (x != y)), (.slt, fun n x y => flag n (decide (x.toInt < y.toInt))),
  (.sge, fun n x y => flag n (decide (y.toInt ≤ x.toInt))), (.sltu, fun n x y => flag n (decide (x.toNat < y.toNat))),
  (.sgeu, fun n x y => flag n (decide (y.toNat ≤ x.toNat))),
  (.bfxu, fun n x y => BitVec.ofNat n (x.toNat / 2 ^ (y.toNat % n) % 2 ^ (y.toNat / 256 % n + 1))),
  (.bfx, fun n x y => BitVec.ofInt n (toSigned (y.toNat / 256 % n + 1) (x.toNat / 2 ^ (y.toNat % n))))]

/-- What R192, R195 and R196 give two operands and the destination's old value. -/
def integerThree : List (Three × ((n : Nat) → BitVec n → BitVec n → BitVec n → BitVec n)) := [
  (.mad, fun _ x y d => x * y + d), (.sel, fun _ x y d => if d = 0 then y else x),
  (.bfi, fun n x y d =>
    let m := BitVec.ofNat n ((2 ^ (y.toNat / 256 % n + 1) - 1) * 2 ^ (y.toNat % n))
    (d &&& ~~~m) ||| ((x <<< (y.toNat % n)) &&& m))]

/-- What R194 gives one operand. -/
def integerOne : List (Two × ((n : Nat) → BitVec n → BitVec n)) := [
  (.mov, fun _ x => x), (.not, fun _ x => ~~~x), (.neg, fun _ x => 0 - x), (.abs, fun _ x => if 0 ≤ x.toInt then x else 0 - x),
  (.clz, fun n x => BitVec.ofNat n (n - bitLen x.toNat)), (.ctz, fun n x => BitVec.ofNat n (trailing n x.toNat)),
  (.popc, fun n x => BitVec.ofNat n (popCount n x.toNat)), (.brev, fun _ x => x.reverse),
  (.sxb, fun n x => (x.setWidth 8).signExtend n), (.sxh, fun n x => (x.setWidth 16).signExtend n),
  (.zxb, fun n x => (x.setWidth 8).setWidth n), (.zxh, fun n x => (x.setWidth 16).setWidth n),
  (.bswap, fun n x => BitVec.ofNat n (ofBytes (toBytes (n / 8) x.toNat).reverse))]

/-- What R197 gives an operand and the sign-extended immediate. -/
def integerImm : List ((Field → Field → BitVec 11 → Instr) × ((n : Nat) → BitVec n → BitVec n → BitVec n)) := [
  (.addi, fun _ x y => x + y), (.andi, fun _ x y => x &&& y), (.ori, fun _ x y => x ||| y), (.xori, fun _ x y => x ^^^ y),
  (.shli, fun n x y => x <<< (y.toNat % n)), (.shri, fun n x y => x >>> (y.toNat % n)), (.sari, fun n x y => x.sshiftRight (y.toNat % n)),
  (.slti, fun n x y => flag n (decide (x.toInt < y.toInt))), (.sltui, fun n x y => flag n (decide (x.toNat < y.toNat))),
  (.muli, fun _ x y => x * y)]

/-- The value a format gives an encoding, and the encoding of a value rounded once to nearest even (R87, R90). -/
def val32 (x : Nat) : FVal := Fmt.fp32.val x
def near (f : Fmt) (v : FVal) : Nat := f.rne v

/-- What R214, R215, R217 and R219 give two FP32 operands. -/
def fp32Two : List (Three × (Nat → Nat → Nat)) := [
  (.fadd, fun x y => near .fp32 ((val32 x).add (val32 y))), (.fsub, fun x y => near .fp32 ((val32 x).add (val32 y).neg)),
  (.fmul, fun x y => near .fp32 ((val32 x).mul (val32 y))), (.fmin, Fmt.fp32.minnum false), (.fmax, Fmt.fp32.minnum true),
  (.fminm, Fmt.fp32.minprop false), (.fmaxm, Fmt.fp32.minprop true),
  (.fcpsgn, fun x y => Fmt.fp32.pack (Fmt.fp32.sign y) (Fmt.fp32.mag x)),
  (.feq, fun x y => if Fmt.fp32.feq x y then 1 else 0), (.flt, fun x y => if Fmt.fp32.flt x y then 1 else 0),
  (.fle, fun x y => if Fmt.fp32.fle x y then 1 else 0), (.fun, fun x y => if Fmt.fp32.isNan x || Fmt.fp32.isNan y then 1 else 0)]

/-- What R216 gives two FP32 operands and the destination's old value, rounded once. -/
def fp32Three : List (Three × (Nat → Nat → Nat → Nat)) := [
  (.fma, fun x y d => near .fp32 (((val32 x).mul (val32 y)).add (val32 d))),
  (.fnma, fun x y d => near .fp32 ((val32 d).add ((val32 x).mul (val32 y)).neg))]

/-- What R218, R220 and R221 give one FP32 operand. -/
def fp32One : List (Two × (Nat → Nat)) := [
  (.fclass, classWord), (.fabs, Fmt.fp32.mag), (.fneg, fun x => Fmt.fp32.pack (!Fmt.fp32.sign x) (Fmt.fp32.mag x)), (.fsqrt, fSqrtW),
  (.frcp, fRcpW), (.frsq, fRsqW), (.fex2, fEx2W), (.flg2, fLg2W), (.fsinp, fSinpW), (.fcosp, fCospW), (.ftanh, fTanhW),
  (.fflr, fIntW .rdn), (.fceil, fIntW .rup), (.ftrc, fIntW .rtz), (.frnd, fIntW .rne)]

/-- Each half of two packed operands (R222). -/
def halves (f : Nat → Nat → Nat) (x y : Nat) : Nat :=
  f (x % 65536) (y % 65536) + f (x / 65536 % 65536) (y / 65536 % 65536) * 65536
def packedTwo : List (Three × (Nat → Nat → Nat)) := [
  (.hadd2, fun x y => near .fp16 ((Fmt.fp16.val x).add (Fmt.fp16.val y))), (.hsub2, fun x y => near .fp16 ((Fmt.fp16.val x).add (Fmt.fp16.val y).neg)),
  (.hmul2, fun x y => near .fp16 ((Fmt.fp16.val x).mul (Fmt.fp16.val y))), (.hmin2, Fmt.fp16.minnum false), (.hmax2, Fmt.fp16.minnum true),
  (.badd2, fun x y => near .bf16 ((Fmt.bf16.val x).add (Fmt.bf16.val y))), (.bsub2, fun x y => near .bf16 ((Fmt.bf16.val x).add (Fmt.bf16.val y).neg)),
  (.bmul2, fun x y => near .bf16 ((Fmt.bf16.val x).mul (Fmt.bf16.val y))), (.bmin2, Fmt.bf16.minnum false), (.bmax2, Fmt.bf16.minnum true)]

/-- The packed forms that also read their destination (R222, R223). -/
def packedThree : List (Three × (Nat → Nat → Nat → Nat)) := [
  (.hfma2, fma2 .fp16), (.bfma2, fma2 .bf16), (.hdot2, dot2 .fp16), (.bdot2, dot2 .bf16)]

/-- What R224 gives two FP64 pairs: a pair, or a truth value. -/
def fp64Two : List (Three × (Nat → Nat → Nat)) := [
  (.dadd, fun x y => near .fp64 ((Fmt.fp64.val x).add (Fmt.fp64.val y))), (.dsub, fun x y => near .fp64 ((Fmt.fp64.val x).add (Fmt.fp64.val y).neg)),
  (.dmul, fun x y => near .fp64 ((Fmt.fp64.val x).mul (Fmt.fp64.val y))), (.dmin, Fmt.fp64.minnum false), (.dmax, Fmt.fp64.minnum true)]
def fp64Compare : List (Three × (Nat → Nat → Bool)) := [(.deq, Fmt.fp64.feq), (.dlt, Fmt.fp64.flt), (.dle, Fmt.fp64.fle)]

/-- What R225 gives two 64-bit pairs, and a pair and a shift. -/
def longTwo : List (Three × (Word64 → Word64 → Word64)) := [(.ladd, fun x y => x + y), (.lsub, fun x y => x - y), (.lmul, fun x y => x * y)]
def longShift : List (Three × (Word64 → Nat → Word64)) := [
  (.lshl, fun x n => x <<< n), (.lshr, fun x n => x >>> n), (.lsar, fun x n => x.sshiftRight n)]

end Sys2Proof.Claims

open Sys2Proof Sys2Proof.Machine Sys2Proof.Claims

/-! Encoding and decoding (R167-R173, R177) -/

/-- Every well-formed instruction word decodes to the instruction it encodes, whatever follows it (R167, R172, R173). -/
def Obligations.DecodeOfEncode : Prop :=
  ∀ (i : Instr) (w : Word32) (rest : List Byte), i.wellFormed = true → encode i = some w → decode (wordBytes w ++ rest) = .ok (i, rest)

/-- Bytes that decode are the encoding of what they decode to: no bit of a word is dropped. Bits [1:0] of a header word, which R34
reads on entry to a block, are the one exception. -/
def Sys2Proof.Claims.EncodeOfDecode : Prop :=
  ∀ (l rest : List Byte) (i : Instr), decode l = .ok (i, rest) → (∀ p n f c, i ≠ .block p n f c) →
    ∃ w, encode i = some w ∧ l = wordBytes w ++ rest

/-- What decodes is well formed: every literal field is in range (R170, R173). -/
def Sys2Proof.Claims.DecodedIsWellFormed : Prop :=
  ∀ (l rest : List Byte) (i : Instr), decode l = .ok (i, rest) → i.wellFormed = true

/-- Bytes that decode are the encoding of a well-formed instruction: no bit of a word is dropped or read beyond its field, but
bits [1:0] of a header word, which R34 reads on entry to a block and decoding leaves aside (R167-R173, R177). -/
def Obligations.DecodeIsExact : Prop :=
  Claims.EncodeOfDecode
  ∧ Claims.DecodedIsWellFormed

/-- Words written out from the encodings of R191, R198, R235, R337-R341 decode to what they stand for, and words that R177 turns
away do not decode. -/
def Obligations.DecodeSamples : Prop :=
  decode [0x83, 0x00, 0x04, 0x02] = .ok (.add 16 1 3, [])
  ∧ decode [0xFF, 0xFF, 0x03, 0x24] = .ok (.movi 0 0x3FFFF, [])
  ∧ decode [0x04, 0x88, 0x40, 0x58] = .ok (.ldw 16 17 4, [])
  ∧ decode [0xFF, 0xFF, 0x7F, 0x96] = .ok (.exit, [])
  ∧ decode [0x01, 0x00, 0xFC, 0xC1] = .ok (.trap 1, [])
  ∧ decode [0x20, 0x00, 0x00, 0x00] = .ok (.block 0 1 0 0, [])
  ∧ decode [0x00, 0x00, 0x00, 0xFE] = .error .opcode
  ∧ decode [0x00, 0x00, 0xE0, 0x05] = .error .function
  ∧ decode [0x00, 0x00, 0x00, 0x08] = .error .unusedField
  ∧ decode [0x83, 0x00, 0x04] = .error .truncated

/-! The step (R177, log 1) -/

/-- The word that an agent which runs fetches is decoded and executed; what does not decode faults with ILLEGAL (R177). -/
def Obligations.RunWordRunsDecoded : Prop :=
  ∀ (a : Agent) (s s' : State) (w : Word32), canRun { s with cur := a } = true →
    fetchWord { s with cur := a } a (curPc { s with cur := a }) = .ok (w, s') →
    (∀ i, decode (wordBytes w) = .ok (i, []) → runWord a s = exec i { s' with ir := w })
    ∧ (∀ e, decode (wordBytes w) = .error e → runWord a s = .next (raiseState .illegal 0 0 { s' with ir := w }))

/-- A step takes the agenda's next turn after its time has passed (the model's own scheduling, log 1): an act of a unit; the next word of a
context that its Scribe selects, or of a control context without an event to take, unless the Hearth has tripped; the next word of a batch
that may issue, which every thread of the batch executes in ascending home lane, one that cannot run being passed over; a SPAWN or LAUNCH
that some thread of its batch cannot execute yet waits for all of them (R43, R48, R263, R339, R417). What a batch does whose block has been
rewritten under it is undefined-valued (R142, log 95). What has become idle takes up its split and its world at the end of the step
(R118, R327), which changes nothing where none was ever set. -/
def Sys2Proof.Claims.StepRunsTurns : Prop :=
  (∀ (s s' : State) (t : Turn) (l : List Turn), s.agenda = t :: l → s' = passTime { s with agenda := l } t.dt →
    (∀ i, t.act = .unit i → (encode i = none → step s = settled (exec i s')) ∧ (∀ w, encode i = some w → step s = settled (.next s')))
    ∧ (∀ cid b u r, t.act = .batch cid b → batchMay s' cid b = true → (∃ a ∈ batchHeads s' cid b, canRun { s' with cur := a } = true) →
        u = runLanes (batchHeads s' cid b) (noteBatch s' cid b) → r = (if torn s' cid b then tornResults s' u else u) →
        ((createsChildren r.ir && laneLeft r cid b (wordAt s' cid b)) = false → step s = settled (.next r))
        ∧ ((createsChildren r.ir && laneLeft r cid b (wordAt s' cid b)) = true → step s = settled (.next s')))
    ∧ (∀ w, t.act = .scribe w → contextMay runWord s' (.scribe w) = true →
        step s = settled (runWord (.scribe w) (noteContext s' (.scribe w))))
    ∧ (∀ n, t.act = .control n → (die s' 0).tripped = false → betweenWords s' n = none → (ctl s' n).mode = .ready →
        contextMay runWord s' (.control n) = true → step s = settled (runWord (.control n) (noteContext s' (.control n)))))
  ∧ (∀ s : State, runLanes [] s = s)
  ∧ (∀ s : State, settled (.next s) = .next (takeUp s) ∧ (everSet s = false → takeUp s = s))
  ∧ (∀ f r, settled (.fault f) = .fault f ∧ settled (.refused r) = .refused r)
  ∧ (∀ (a : Agent) (l : List Agent) (s : State),
      (∀ t, runWord a s = .next t → runLanes (a :: l) s = runLanes l t)
      ∧ (canRun { s with cur := a } = false → runLanes (a :: l) s = runLanes l { s with cur := a }))

/-- With nothing on the agenda and no due act that does anything, one cycle of 700 MHz passes and a round goes on: the first control context that
has not acted in it and can act does (the others come after them, each under its own name), and when nothing that has not acted can, the first
that can goes on; once that has been so for three cycles together, it begins a new round (the model's own scheduling, log 1). -/
def Sys2Proof.Claims.StepRunsControl : Prop :=
  (∀ (s p t : State) (n : Nat), s.agenda = [] → (∀ f ∈ dueActs s, ∀ x, f.run s = .next x → x = s) → p = passTime s 12 →
    n < 32 → (5, n, 0) ∉ p.round → (∀ m < n, (5, m, 0) ∉ p.round → ∀ x, runControl m p = .next x → x = p) →
    runControl n p = .next t → t ≠ p → step s = settled (.next { t with round := (5, n, 0) :: p.round, lull := 0 }))
  ∧ (∀ (s p t : State), s.agenda = [] → (∀ f ∈ dueActs s, ∀ x, f.run s = .next x → x = s) → p = passTime s 12 →
      (∀ f ∈ idleActs runTurn p, f.name ∉ p.round → ∀ x, f.run p = .next x → x = p) → (5, 0, 0) ∈ p.round →
      runControl 0 p = .next t → t ≠ p →
      (p.lull < 2 → step s = settled (.next { t with round := p.round, lull := p.lull + 1 }))
      ∧ (2 ≤ p.lull → step s = settled (.next { t with round := [(5, 0, 0)], lull := 0 })))

/-- A step runs the decoded instruction of the agent whose turn it is, after the time of the turn has passed (R43, R167, R177, R338, log 1), and
ends with what has become idle taking up its split and its world (R118, R327). The results of a batch whose block has been rewritten under it
are undefined-valued (R142, log 95). -/
def Obligations.StepRunsDecoded : Prop :=
  Claims.StepRunsTurns
  ∧ Claims.StepRunsControl

/-! Reset and the invariant of memory (R324, R411) -/

/-- After package reset only control context 0 runs, at device-manager level and in the secure world; the reference timer reads 0, no
die is quarantined or recorded absent, no Larder is open, the registers of every fault log are 0 (of HEAD and TAIL the model's choice, log 7), and CTXCFG0, FABCTL, RASCFG, the frame rate of
a display and the quantum hold the reset values that R324, R389, R420, R403 and R370 give them (R331, R343, R364). -/
def Obligations.ResetState : Prop :=
  (∀ n, (ctl State.reset n).run = true ↔ n = 0)
  ∧ (ctl State.reset 0).lvl = 2 ∧ (ctl State.reset 0).sec = true ∧ timer State.reset = 0
  ∧ (∀ d, quarantined State.reset d = false ∧ (die State.reset d).larderOpen = false) ∧ State.reset.absentDies = []
  ∧ (∀ p, csrGet State.reset 0x104 p = 0 ∧ csrGet State.reset 0x105 p = 0 ∧ csrGet State.reset 0x106 p = 0 ∧ csrGet State.reset 0x107 p = 0)
  ∧ csrGet State.reset 0x400 0 = 0x80000006
  ∧ dregGet State.reset 0 0 = 2000 ∧ dregGet State.reset 3 0x40 = 0x180003
  ∧ pregGet State.reset 0 0xC08 = 0x1003C ∧ pregRead State.reset 0 0x200 = 20
  ∧ State.reset.wgs = [] ∧ State.reset.launches = []

/-- Every byte table of the part is in canonical form. -/
def Obligations.ResetMemoryCanonical : Prop :=
  Memory.wf State.reset.mem = true ∧ Memory.wf State.reset.bootRam = true ∧ Memory.wf State.reset.tbl = true

/-- Every step keeps physical memory in its canonical form, so that equal memories are equal data. -/
def Obligations.StepKeepsMemoryCanonical : Prop :=
  ∀ s t : State, Memory.wf s.mem = true → step s = .next t → Memory.wf t.mem = true

/-! Instructions on registers (R188-R199, R213-R231) -/

/-- The two-operand integer forms write what their rule gives at the width of the executing side (R188, R191, R192, R193, R196). -/
def Sys2Proof.Claims.IntegerTwoResults : Prop :=
  ∀ p ∈ integerTwo, ∀ (d a b : Field) (s : State), Passes s (dab d a b) →
    exec (p.1 d a b) s = writes s d (alu2 s p.2 (readR s a) (readR s b))

/-- MAD, SEL and BFI, the one-operand forms and the immediate forms (R192, R194, R195, R196, R197). -/
def Sys2Proof.Claims.IntegerOtherResults : Prop :=
  (∀ p ∈ integerThree, ∀ (d a b : Field) (s : State), Passes s (mab d a b) →
    exec (p.1 d a b) s = writes s d (alu3 s p.2 (readR s a) (readR s b) (readR s d)))
  ∧ (∀ p ∈ integerOne, ∀ (d a : Field) (s : State), Passes s (da d a) → exec (p.1 d a) s = writes s d (alu1 s p.2 (readR s a)))
  ∧ (∀ p ∈ integerImm, ∀ (d a : Field) (m : BitVec 11) (s : State), Passes s (da d a) →
      exec (p.1 d a m) s = writes s d (alu2 s p.2 (readR s a) (m.signExtend 64)))

/-- Every integer form writes what its rule gives at the width of the executing side: the relations of R193 write 1 when they hold, and 0
otherwise, into all n bits of d, and R195 takes a where d is not 0 and b where it is (R188, R191-R197). -/
def Obligations.IntegerResults : Prop :=
  Claims.IntegerTwoResults
  ∧ Claims.IntegerOtherResults

/-- MOVI, MOVHI, PCADR and a header word on a context (R189, R198, R199). -/
def Obligations.ConstantResults : Prop :=
  (∀ (d : Field) (i : BitVec 18) (s : State), Passes s { ops := [opW d] } → exec (.movi d i) s = writes s d (i.signExtend 64))
  ∧ (∀ (d : Field) (i : BitVec 18) (s : State), Passes s { ops := [opM d] } →
      exec (.movhi d i) s = writes s d ((i ++ (readR s d).setWidth 14 : BitVec 32).signExtend 64))
  ∧ (∀ (d : Field) (i : BitVec 18) (s : State), Passes s { ops := [opWp d] } →
      exec (.pcadr d i) s = writes2 s d (BitVec.ofNat 64 (curPc s) + i.signExtend 64 * 4))
  ∧ (∀ (p : BitVec 12) (n : BitVec 8) (f : BitVec 2) (c : BitVec 1) (s : State), canRun s = true → isVector s = false →
      exec (.block p n f c) s = .next (advance s))

/-- The FP32 forms write what their rule gives the low 32 bits of their operands (R214-R221). -/
def Obligations.Fp32Results : Prop :=
  (∀ p ∈ fp32Two, ∀ (d a b : Field) (s : State), Passes s (dab d a b) →
    exec (p.1 d a b) s = writes s d (BitVec.ofNat 64 (p.2 ((readR s a).toNat % 2 ^ 32) ((readR s b).toNat % 2 ^ 32))))
  ∧ (∀ p ∈ fp32Three, ∀ (d a b : Field) (s : State), Passes s (mab d a b) →
      exec (p.1 d a b) s =
        writes s d (BitVec.ofNat 64 (p.2 ((readR s a).toNat % 2 ^ 32) ((readR s b).toNat % 2 ^ 32) ((readR s d).toNat % 2 ^ 32))))
  ∧ (∀ p ∈ fp32One, ∀ (d a : Field) (s : State), Passes s (da d a) →
      exec (p.1 d a) s = writes s d (BitVec.ofNat 64 (p.2 ((readR s a).toNat % 2 ^ 32))))

/-- The packed half forms of vector threads work on each half, and HDOT2 and BDOT2 round their exact sum once (R222, R223). -/
def Sys2Proof.Claims.PackedResults : Prop :=
  (∀ p ∈ packedTwo, ∀ (d a b : Field) (s : State), Passes s { dab d a b with need := .vector } →
    exec (p.1 d a b) s = writes s d (BitVec.ofNat 64 (halves p.2 ((readR s a).toNat % 2 ^ 32) ((readR s b).toNat % 2 ^ 32))))
  ∧ (∀ p ∈ packedThree, ∀ (d a b : Field) (s : State), Passes s { mab d a b with need := .vector } →
      exec (p.1 d a b) s = writes s d (BitVec.ofNat 64 (p.2 (readR s a).toNat (readR s b).toNat (readR s d).toNat)))

/-- The FP64 forms and the 64-bit forms of vector threads work on pairs (R224, R225). -/
def Sys2Proof.Claims.PairResults : Prop :=
  (∀ p ∈ fp64Two, ∀ (d a b : Field) (s : State), Passes s { ops := [opWp d, opRp a, opRp b], need := .vector } →
    exec (p.1 d a b) s = writes2 s d (BitVec.ofNat 64 (p.2 (readP s a).toNat (readP s b).toNat)))
  ∧ (∀ (d a b : Field) (s : State), Passes s { ops := [opMp d, opRp a, opRp b], need := .vector } →
      exec (.dfma d a b) s = writes2 s d (BitVec.ofNat 64 (near .fp64
        (((Fmt.fp64.val (readP s a).toNat).mul (Fmt.fp64.val (readP s b).toNat)).add (Fmt.fp64.val (readP s d).toNat)))))
  ∧ (∀ p ∈ fp64Compare, ∀ (d a b : Field) (s : State), Passes s { ops := [opW d, opRp a, opRp b], need := .vector } →
      exec (p.1 d a b) s = writes s d (if p.2 (readP s a).toNat (readP s b).toNat then 1 else 0))
  ∧ (∀ p ∈ longTwo, ∀ (d a b : Field) (s : State), Passes s { ops := [opWp d, opRp a, opRp b], need := .vector } →
      exec (p.1 d a b) s = writes2 s d (p.2 (readP s a) (readP s b)))
  ∧ (∀ p ∈ longShift, ∀ (d a b : Field) (s : State), Passes s { ops := [opWp d, opRp a, opR b], need := .vector } →
      exec (p.1 d a b) s = writes2 s d (p.2 (readP s a) ((readR s b).toNat % 64)))

/-- The forms of vector threads on halves and on pairs (R222-R225). -/
def Obligations.PackedAndPairResults : Prop :=
  Claims.PackedResults
  ∧ Claims.PairResults

/-- CVT of every kind that R227 assigns writes its elements and takes its draws from the executing agent's generator (R226, R231). -/
def Obligations.ConvertResults : Prop :=
  ∀ (sat : BitVec 1) (r : BitVec 3) (d a k : Field) (c : CvtKind) (s : State), cvtKind k.toNat = some c → r.toNat < 6 →
    Passes s { ops := [if c.dPair then opWp d else opW d, if c.aPair then opRp a else opR a] } →
    ∃ y g, cvtElems c (Rnd.ofCode r.toNat) (sat == 1) (if c.aPair then readP s a else readR s a).toNat c.n 0 (rngA s s.cur) = (y, g)
      ∧ exec (.cvt sat r d a k) s =
          (if c.dPair then writes2 (setRngA s s.cur g) d (BitVec.ofNat 64 y) else writes (setRngA s s.cur g) d (BitVec.ofNat 64 y))

/-- An integer form of R188-R197, an FP32 form of R214-R221, or a packed, FP64 or 64-bit form of R222-R225, those that the tables integerTwo
to longShift list and DFMA, which fails a check of R177 faults with that check's cause and has no other effect. -/
def Obligations.FailedChecksFault : Prop :=
  ∀ i fm, ((∃ p d a b, (p ∈ integerTwo.map (·.1) ∨ p ∈ fp32Two.map (·.1)) ∧ i = p d a b ∧ fm = dab d a b)
      ∨ (∃ p d a b, (p ∈ integerThree.map (·.1) ∨ p ∈ fp32Three.map (·.1)) ∧ i = p d a b ∧ fm = mab d a b)
      ∨ (∃ p d a, (p ∈ integerOne.map (·.1) ∨ p ∈ fp32One.map (·.1)) ∧ i = p d a ∧ fm = da d a)
      ∨ (∃ p d a m, p ∈ integerImm.map (·.1) ∧ i = p d a m ∧ fm = da d a)
      ∨ (∃ p d a b, p ∈ packedTwo.map (·.1) ∧ i = p d a b ∧ fm = { dab d a b with need := .vector })
      ∨ (∃ p d a b, p ∈ packedThree.map (·.1) ∧ i = p d a b ∧ fm = { mab d a b with need := .vector })
      ∨ (∃ p d a b, (p ∈ fp64Two.map (·.1) ∨ p ∈ longTwo.map (·.1)) ∧ i = p d a b ∧ fm = { ops := [opWp d, opRp a, opRp b], need := .vector })
      ∨ (∃ d a b, i = .dfma d a b ∧ fm = { ops := [opMp d, opRp a, opRp b], need := .vector })
      ∨ (∃ p d a b, p ∈ fp64Compare.map (·.1) ∧ i = p d a b ∧ fm = { ops := [opW d, opRp a, opRp b], need := .vector })
      ∨ (∃ p d a b, p ∈ longShift.map (·.1) ∧ i = p d a b ∧ fm = { ops := [opWp d, opRp a, opR b], need := .vector })) →
    ∀ (s : State) (c : Cause), canRun s = true → checkForm s fm = some c → exec i s = .next (raiseState c 0 0 s)

/-- THE FRAME of an instruction that writes one register, a pair or a quad and moves on. Only the cores, the workgroups and the control contexts
change. A vector thread changes its carried slots, its lane of its batch context and its place in that batch, and nothing of another thread,
workgroup, core or context; a context changes its own registers and pc. Of the executing agent's registers only the destination's fields change,
and moving on changes none; field 127 discards (R65, R66). -/
def Obligations.RegisterWriteFrame : Prop :=
  ∀ (s : State) (d : Field) (v : Word64) (q : BitVec 128),
    (∀ x t, x = writeR s d v ∨ x = writeP s d v ∨ x = writeQ s d q → t = x ∨ t = advance x →
      t = { s with cores := t.cores, wgs := t.wgs, ctl := t.ctl }
      ∧ (∀ w k, s.cur = .vthread w k →
          t.ctl = s.ctl ∧ (∀ y, y ≠ w → wg? t y = wg? s y)
          ∧ (∀ g, wg? s w = some g → ∃ l, wg? t w = some { g with threads := l }
              ∧ (∀ j, j ≠ k → l.find j = g.threads.find j)
              ∧ (∀ th, g.threads.find k = some th → ∃ c p, l.find k = some { th with v := c, bad := p }))
          ∧ (∀ cid, (∀ b, runPlace s w k ≠ some (cid, b)) → coreAt t cid = coreAt s cid)
          ∧ (∀ cid b, runPlace s w k = some (cid, b) → ∃ l m, coreAt t cid = { coreAt s cid with lanes := l, batches := m }
              ∧ (∀ j, j ≠ laneKey b (k % 32) → l.find j = (coreAt s cid).lanes.find j)
              ∧ (∀ j, j ≠ b → m.find j = (coreAt s cid).batches.find j)
              ∧ (m.find b = (coreAt s cid).batches.find b ∨ m.find b = ((coreAt s cid).batches.find b).map (·.did (k % 32)))))
      ∧ (∀ w, s.cur = .scribe w →
          t.cores = s.cores ∧ t.ctl = s.ctl ∧ (∀ y, y ≠ w → wg? t y = wg? s y)
          ∧ (∀ g, wg? s w = some g → ∃ r p, wg? t w = some { g with ctx := g.ctx.map fun c => { c with s := r, pc := p } }))
      ∧ (∀ n, s.cur = .control n →
          t.cores = s.cores ∧ t.wgs = s.wgs ∧ (∀ y, y ≠ n → ctl t y = ctl s y)
          ∧ ∃ r p, ctl t n = { ctl s n with s := r, pc := p }))
    ∧ (∀ f : Field, f ≠ d → readR (writeR s d v) f = readR s f)
    ∧ (∀ f : Field, f ≠ d → (isVector s = true → f.toNat ≠ d.toNat + 1) → readR (writeP s d v) f = readR s f)
    ∧ (∀ f : Field, f ≠ d → f.toNat ≠ d.toNat + 1 → (isVector s = true → f.toNat ≠ d.toNat + 2 ∧ f.toNat ≠ d.toNat + 3) →
        readR (writeQ s d q) f = readR s f)
    ∧ (∀ f : Field, readR (advance s) f = readR s f)
    ∧ writeR s 127 v = s ∧ writeP s 127 v = s ∧ writeQ s 127 q = s

/-! Memory (R232-R240, R257, R121-R124, R142) -/

namespace Sys2Proof.Claims

open Sys2Proof Sys2Proof.Machine

/-- The accesses of a load, a store and an atomic of n bytes at an address resolve to a target: every check of R233 passes. -/
abbrev Reads (s : State) (va n : Nat) (t : Tgt) : Prop := resolve s (me s) { va := va, size := n, rd := true } = .ok t
abbrev Stores (s : State) (va n : Nat) (t : Tgt) : Prop := resolve s (me s) { va := va, size := n, wr := true } = .ok t
abbrev Updates (s : State) (va n : Nat) (t : Tgt) : Prop := resolve s (me s) { va := va, size := n, rd := true, wr := true } = .ok t

/-- The bytes that a read of a target gives, as a number, and the state after it. -/
def got (s : State) (t : Tgt) (n : Nat) : Nat := ofBytes (readTgt s (me s) t n).1
def after (s : State) (t : Tgt) (n : Nat) : State := (readTgt s (me s) t n).2

/-- Loads of one register: constructor, bytes, and whether the value is sign-extended (R234). -/
def loads : List ((Field → Field → BitVec 11 → Instr) × Nat × Bool) :=
  [(.ldb, 1, true), (.ldbu, 1, false), (.ldh, 2, true), (.ldhu, 2, false), (.ldw, 4, false)]

/-- Stores of one register: constructor and bytes (R234). -/
def stores : List ((Field → Field → BitVec 11 → Instr) × Nat) := [(.stb, 1), (.sth, 2), (.stw, 4)]

/-- 32-bit atomics whose new value is a function of the old one and the operand (R239). -/
def atomics : List ((BitVec 2 → Field → Field → Field → Instr) × (Word32 → Word32 → Word32)) := [
  (.atomAdd, fun o v => o + v), (.atomMin, fun o v => if o.toInt ≤ v.toInt then o else v), (.atomMax, fun o v => if o.toInt ≥ v.toInt then o else v),
  (.atomMinu, fun o v => if o.toNat ≤ v.toNat then o else v), (.atomMaxu, fun o v => if o.toNat ≥ v.toNat then o else v),
  (.atomAnd, fun o v => o &&& v), (.atomOr, fun o v => o ||| v), (.atomXor, fun o v => o ^^^ v), (.atomSwap, fun _ v => v),
  (.atomIncw, fun o v => if o.toNat ≥ v.toNat then 0 else o + 1),
  (.atomFadd, fun o v => BitVec.ofNat 32 (near .fp32 ((val32 o.toNat).add (val32 v.toNat)))),
  (.atomHadd2, fun o v => BitVec.ofNat 32 (fAddW .fp16 (o.toNat % 65536) (v.toNat % 65536) + 65536 * fAddW .fp16 (o.toNat / 65536) (v.toNat / 65536)))]

/-- The address of an RI access: the base pair plus the immediate times the size (R232). -/
def address (s : State) (a : Field) (m : BitVec 11) (n : Nat) : Nat := (readP s a + m.signExtend 64 * BitVec.ofNat 64 n).toNat

/-- The loads, stores and atomics: the form with its operands and the access that it makes (R232, R234, R236, R238). -/
def accesses (d a b : Field) (m : BitVec 11) (x z : BitVec 2) : List (Instr × Form × (State → Acc)) :=
  let ld (n : Nat) (s : State) : Acc := { va := address s a m n, size := n, rd := true }
  let st (n : Nat) (s : State) : Acc := { va := address s a m n, size := n, wr := true }
  let at' (n : Nat) (s : State) : Acc := { va := (readP s a).toNat, size := n, rd := true, wr := true }
  [(.ldb d a m, { ops := [opW d, opRp a] }, ld 1), (.ldbu d a m, { ops := [opW d, opRp a] }, ld 1),
   (.ldh d a m, { ops := [opW d, opRp a] }, ld 2), (.ldhu d a m, { ops := [opW d, opRp a] }, ld 2),
   (.ldw d a m, { ops := [opW d, opRp a] }, ld 4), (.ldd d a m, { ops := [opWp d, opRp a] }, ld 8),
   (.ldq d a m, { ops := [opWq d, opRp a] }, ld 16),
   (.ldaq x z d a, { ops := [if z = 3 then opWp d else opW d, opRp a] },
     fun s => { va := (readP s a).toNat, size := 2 ^ z.toNat, rd := true }),
   (.stb d a m, { ops := [opR d, opRp a] }, st 1), (.sth d a m, { ops := [opR d, opRp a] }, st 2),
   (.stw d a m, { ops := [opR d, opRp a] }, st 4), (.std d a m, { ops := [opRp d, opRp a] }, st 8),
   (.stq d a m, { ops := [opRq d, opRp a] }, st 16),
   (.strl x z d a, { ops := [if z = 3 then opRp d else opR d, opRp a] },
     fun s => { va := (readP s a).toNat, size := 2 ^ z.toNat, wr := true })]
  ++ (atomics.map fun p => (p.1 x d a b, ({ ops := [opW d, opRp a, opR b] } : Form), at' 4))
  ++ [(.atomCas x d a b, { ops := [opW d, opRp a, opRp b] }, at' 4), (.atomLadd x d a b, { ops := [opWp d, opRp a, opRp b] }, at' 8),
      (.atomLcas x d a b, { ops := [opWp d, opRp a, opRq b] }, at' 8)]

end Sys2Proof.Claims

/-- A load whose access resolves reads its bytes at the base plus the scaled immediate, and writes them zero- or sign-extended (R232,
R234, R235). -/
def Obligations.LoadResults : Prop :=
  (∀ p ∈ loads, ∀ (d a : Field) (m : BitVec 11) (s : State) (t : Tgt), Passes s { ops := [opW d, opRp a] } →
    Reads s (address s a m p.2.1) p.2.1 t →
    exec (p.1 d a m) s = writes (after s t p.2.1) d (BitVec.ofNat 64
      (if p.2.2 then sextNat (8 * p.2.1) 64 (got s t p.2.1) else got s t p.2.1)))
  ∧ (∀ (d a : Field) (m : BitVec 11) (s : State) (t : Tgt), Passes s { ops := [opWp d, opRp a] } → Reads s (address s a m 8) 8 t →
      exec (.ldd d a m) s = writes2 (after s t 8) d (BitVec.ofNat 64 (got s t 8)))
  ∧ (∀ (d a : Field) (m : BitVec 11) (s : State) (t : Tgt), Passes s { ops := [opWq d, opRp a] } → Reads s (address s a m 16) 16 t →
      exec (.ldq d a m) s = .next (advance (writeQ (after s t 16) d (BitVec.ofNat 128 (got s t 16)))))

/-- A load, a store or an atomic whose access fails a check of R233 faults with that check's cause and the address, and has no other
effect; a store changes no byte then (R233). One that cannot be performed yet, such as a read that a push is still under way for
(R150), leaves everything as it is, and is tried again. -/
def Sys2Proof.Claims.FailedAccessFaults : Prop :=
  ∀ (d a b : Field) (m : BitVec 11) (x z : BitVec 2), ∀ p ∈ accesses d a b m x z, ∀ (s : State), Passes s p.2.1 →
    (∀ (c : Cause) (v : Nat), resolve s (me s) (p.2.2 s) = .bad c v → exec p.1 s = .next (raiseState c v 0 s))
    ∧ (resolve s (me s) (p.2.2 s) = .wait → exec p.1 s = .next s)

/-- The division of the address space (R112): VA[63:49] of every address must equal VA[48], else XLATE_NP, which a load, a store and an
atomic take before any effect; global memory goes by the page tables (where the walk can be made and meets no poisoned entry), a peer's window by the residency of the launch's workgroups, the
self window by the issuer, and every access to what lies between faults with XLATE_NP. An address that is no multiple of the access's
size is turned away before (check 1 of R233). -/
def Obligations.AddressSpaceDivides : Prop :=
  (∀ (s : State) (i : Issuer) (q : Acc) (v : Nat), v = q.va % 2 ^ 49 →
    (q.elem = false → q.va % q.size ≠ 0 → resolve s i q = .bad .misalign q.va)
    ∧ (q.elem = true ∨ q.va % q.size = 0 → q.va / 2 ^ 49 ≠ (if q.va / 2 ^ 48 % 2 = 1 then 2 ^ 15 - 1 else 0) →
        resolve s i q = .bad .xlateNp q.va)
    ∧ (q.elem = true ∨ q.va % q.size = 0 → q.va / 2 ^ 49 = (if q.va / 2 ^ 48 % 2 = 1 then 2 ^ 15 - 1 else 0) →
        (v < 0x1F00000000000 → walkWaits s i.die i.part q.va = false → walkBad s (walkDie i.die) i.part q.va = false →
          resolve s i q = (match findLeaf s (walkDie i.die) i.part q.va with
          | none => .bad .xlateNp q.va
          | some t => pageChecks s i q t))
        ∧ (0x1F00000000000 ≤ v → v < 0x1F10000000000 → q.fetch = false → ∀ w g, i.wg = some w → wg? s w = some g →
            (∀ y, s.wgs.find? (fun y => y.2.part == g.part && y.2.lid == g.lid
                && y.2.wid == g.wid / 2 ^ 20 * 2 ^ 20 + (v - 0x1F00000000000) / 2 ^ 20) = some y →
              resolve s i q = spadTarget s i q y.1 (v % 2 ^ 20))
            ∧ ((∀ y ∈ s.wgs, y.2.part = g.part → y.2.lid = g.lid → y.2.wid ≠ g.wid / 2 ^ 20 * 2 ^ 20 + (v - 0x1F00000000000) / 2 ^ 20) →
              resolve s i q = .bad .xlateNp q.va))
        ∧ (0x1FF0000000000 ≤ v → v < 0x1FF0000100000 → q.fetch = false → ∀ w, i.wg = some w →
            resolve s i q = spadTarget s i q w (v - 0x1FF0000000000))
        ∧ (0x1F10000000000 ≤ v → v < 0x1FF0000000000 ∨ 0x1FF0000100000 ≤ v → resolve s i q = .bad .xlateNp q.va)))
  ∧ (∀ (d a b : Field) (m : BitVec 11) (x z : BitVec 2), ∀ p ∈ accesses d a b m x z, ∀ (s : State) (v : Nat), Passes s p.2.1 →
      v = (p.2.2 s).va → v % (p.2.2 s).size = 0 → v / 2 ^ 49 ≠ (if v / 2 ^ 48 % 2 = 1 then 2 ^ 15 - 1 else 0) →
      exec p.1 s = .next (raiseState .xlateNp v 0 s))

/-- The self window (R113): offset o addresses byte o of the issuing workgroup's scratchpad; an access is valid when every byte it
touches lies below the reservation, and is performed in the core's local store; one that reaches beyond faults with XLATE_NP before
any effect. A write into a slot record that is ACTIVE leaves the record undefined-valued (R243). -/
def Obligations.SelfWindowAccess : Prop :=
  (∀ (s : State) (i : Issuer) (w o n : Nat) (g : Workgroup), i.wg = some w → wg? s w = some g → o < 2 ^ 20 → 0 < n →
    (0xFFFFFF0000000000 + o) % n = 0 →
    (o + n ≤ g.spadLen → (∀ k ∈ g.spadBad, o + n ≤ 4 * k ∨ 4 * k + 4 ≤ o) → (i.eng = true → ∀ x ∈ s.items, x.wg ≠ w) →
      ∃ t, resolve s i { va := 0xFFFFFF0000000000 + o, size := n, rd := true } = .ok t
        ∧ resolve s i { va := 0xFFFFFF0000000000 + o, size := n, wr := true } = .ok t
        ∧ ((∀ k ∈ g.slotBad, o + n ≤ k ∨ k + 32 ≤ o) → (readTgt s i t n).1 = Memory.read g.spad o n)
        ∧ (∀ l : List Byte, writeTgt s i t l = countItem (spoilSlots (spadWrite s w o l) w o l.length) w)
        ∧ (∀ x ∈ s.subs, x.wg = w → x.off < o + n → o < x.off + 32 → ∀ h,
            wg? (spoilSlots s w o n) w = some h → x.off ∈ h.slotBad))
    ∧ (g.spadLen < o + n → ∀ rd wr, resolve s i { va := 0xFFFFFF0000000000 + o, size := n, rd := rd, wr := wr } =
        .bad .xlateNp (0xFFFFFF0000000000 + o)))
  ∧ (∀ (d a b : Field) (m : BitVec 11) (x z : BitVec 2), ∀ p ∈ accesses d a b m x z, ∀ (s : State) (w o : Nat) (g : Workgroup),
      Passes s p.2.1 → (p.2.2 s).va = 0xFFFFFF0000000000 + o → o < 2 ^ 20 → o % (p.2.2 s).size = 0 → curWg s = some (w, g) →
      g.spadLen < o + (p.2.2 s).size → exec p.1 s = .next (raiseState .xlateNp (0xFFFFFF0000000000 + o) 0 s))

/-- A store whose access resolves writes the low bytes of its source (R234, R235). -/
def Obligations.StoreResults : Prop :=
  (∀ p ∈ stores, ∀ (d a : Field) (m : BitVec 11) (s : State) (t : Tgt), Passes s { ops := [opR d, opRp a] } →
    Stores s (address s a m p.2) p.2 t →
    exec (p.1 d a m) s = .next (advance (writeTgt s (me s) t (toBytes p.2 (readR s d).toNat))))
  ∧ (∀ (d a : Field) (m : BitVec 11) (s : State) (t : Tgt), Passes s { ops := [opRp d, opRp a] } → Stores s (address s a m 8) 8 t →
      exec (.std d a m) s = .next (advance (writeTgt s (me s) t (toBytes 8 (readP s d).toNat))))
  ∧ (∀ (d a : Field) (m : BitVec 11) (s : State) (t : Tgt), Passes s { ops := [opRq d, opRp a] } → Stores s (address s a m 16) 16 t →
      exec (.stq d a m) s = .next (advance (writeTgt s (me s) t (toBytes 16 (readQ s d).toNat))))

/-- THE FRAME of a store into a scratchpad: only the bytes stored change. Every byte of physical memory, and every byte of the
scratchpad outside those stored, reads as before; the bytes stored read as written; registers, special registers and the other
workgroups are unchanged (R113, R147, R234). -/
def Sys2Proof.Claims.ScratchpadStoreFrame : Prop :=
  ∀ (s : State) (i : Issuer) (t : Tgt) (w o : Nat) (l : List Byte) (g : Workgroup),
    t.loc = .spad w o → t.tlb = none → wg? s w = some g → g.cid?.isSome = true → Memory.wf g.spad = true →
    (writeTgt s i t l).mem = s.mem
    ∧ (∀ g', wg? (writeTgt s i t l) w = some g' →
        (∀ a, a < o ∨ o + l.length ≤ a → Memory.get g'.spad a = Memory.get g.spad a)
        ∧ (∀ k (h : k < l.length), Memory.get g'.spad (o + k) = l[k])
        ∧ g'.threads = g.threads ∧ g'.ctx = g.ctx)
    ∧ (∀ v, v ≠ w → wg? (writeTgt s i t l) v = wg? s v)
    ∧ (writeTgt s i t l).csr = s.csr ∧ (writeTgt s i t l).dreg = s.dreg ∧ (writeTgt s i t l).preg = s.preg
    ∧ (writeTgt s i t l).cores = s.cores ∧ (writeTgt s i t l).ctl = s.ctl

/-- THE FRAME of a store into physical memory: the bytes stored read as written, and every byte outside them reads as before, but where
a reduction's delta on its line, held in some L1, reaches memory; registers, workgroups and special registers are unchanged (R116, R122,
R234). -/
def Sys2Proof.Claims.MemoryWriteFrame : Prop :=
  (∀ (s : State) (pa : Nat) (l : List Byte), Memory.wf s.mem = true →
    (∀ a, a < pa ∨ pa + l.length ≤ a → Memory.get (putBytes s pa l).mem a = Memory.get s.mem a)
    ∧ (∀ k (h : k < l.length), Memory.get (putBytes s pa l).mem (pa + k) = l[k])
    ∧ (putBytes s pa l).wgs = s.wgs ∧ (putBytes s pa l).cores = s.cores ∧ (putBytes s pa l).ctl = s.ctl
    ∧ (putBytes s pa l).csr = s.csr ∧ (putBytes s pa l).lines = s.lines)
  ∧ (∀ (s : State) (i : Issuer) (t : Tgt) (pa : Nat) (l : List Byte), t.loc = .phys pa → (∀ o, area pa ≠ .regs o) → Memory.wf s.mem = true →
      (∀ a, a < pa ∨ pa + l.length ≤ a → (∀ n, ∀ y ∈ lineState s n, ∀ u ∈ y.2.u, u.1 < 32 ∧ n ≠ lineOf a) →
        Memory.get (writeTgt s i t l).mem a = Memory.get s.mem a)
      ∧ (∀ k (h : k < l.length), Memory.get (writeTgt s i t l).mem (pa + k) = l[k])
      ∧ (writeTgt s i t l).wgs = s.wgs ∧ (writeTgt s i t l).cores = s.cores ∧ (writeTgt s i t l).ctl = s.ctl
      ∧ (writeTgt s i t l).csr = s.csr ∧ (writeTgt s i t l).dreg = s.dreg ∧ (writeTgt s i t l).preg = s.preg)

/-- THE FRAME OF STORES: only the bytes stored change (R113, R116, R147, R234). -/
def Obligations.StoreFrame : Prop :=
  Claims.ScratchpadStoreFrame
  ∧ Claims.MemoryWriteFrame

/-- LDAQ reads and STRL writes 1, 2, 4 or 8 bytes, STRL after its release's write-backs; a FENCE moves on, and of a kind other than ACQ
after its release; one that must wait for a peer's completion does nothing yet (R236, R237, R124, R400). -/
def Sys2Proof.Claims.AcquireReleaseResults : Prop :=
  (∀ (x z : BitVec 2) (d a : Field) (s : State) (t : Tgt), Passes s { ops := [if z = 3 then opWp d else opW d, opRp a] } →
    Reads s (readP s a).toNat (2 ^ z.toNat) t →
    exec (.ldaq x z d a) s =
      (if z = 3 then writes2 (after s t (2 ^ z.toNat)) d (BitVec.ofNat 64 (got s t (2 ^ z.toNat)))
       else writes (after s t (2 ^ z.toNat)) d (BitVec.ofNat 64 (got s t (2 ^ z.toNat)))))
  ∧ (∀ (x z : BitVec 2) (d a : Field) (s : State) (t : Tgt), Passes s { ops := [if z = 3 then opRp d else opR d, opRp a] } →
      Stores s (readP s a).toNat (2 ^ z.toNat) t → releaseReady s = true →
      exec (.strl x z d a) s = .next (advance (writeTgt (release s x.toNat) (me s) t
        (toBytes (2 ^ z.toNat) (if z = 3 then readP s d else readR s d).toNat))))
  ∧ (∀ (k x : BitVec 2) (s : State), Passes s {} → (k = 0 ∨ releaseReady s = true) →
      exec (.fence k x) s = .next (advance (if k = 0 then s else release s x.toNat)))
  ∧ (∀ (k x : BitVec 2) (s : State), Passes s {} → k ≠ 0 → releaseReady s = false → exec (.fence k x) s = .next s)

/-- A prefetch never faults and moves on; ICINV forgets the instructions cached by the cores it names, and no other, and at SYS scope
orders as a release of that scope does (R142, R257). -/
def Sys2Proof.Claims.CacheResults : Prop :=
  (∀ (a : Field) (s : State), Passes s { ops := [opRp a] } →
    ∃ t, exec (.pref a) s = .next (advance t) ∧ t.wgs = s.wgs ∧ t.cores = s.cores ∧ t.ctl = s.ctl ∧ t.csr = s.csr ∧ t.dreg = s.dreg)
  ∧ (∀ s : State, Passes s {} → exec .icinvCore s = .next (advance { s with icache := s.icache.filter fun x => x.1 / 2 ^ 52 != fetchCid s s.cur }))
  ∧ (∀ s : State, Passes s {} →
      exec .icinvDie s = .next (advance { s with icache := s.icache.filter fun x => !(cidDie (x.1 / 2 ^ 52) == (me s).die && coreOurs s (x.1 / 2 ^ 52)) }))
  ∧ (∀ s : State, Passes s {} → exec .icinvDev s = .next (advance { s with icache := s.icache.filter fun x => !coreOurs s (x.1 / 2 ^ 52) }))
  ∧ (∀ s : State, Passes s {} → releaseReady s = true →
      exec .icinvSys s = .next (advance { release s 3 with icache := (release s 3).icache.filter fun x => !coreOurs (release s 3) (x.1 / 2 ^ 52) }))
  ∧ (∀ s : State, Passes s {} → releaseReady s = false → exec .icinvSys s = .next s)

/-- Acquire, release, fences, prefetch and instruction-cache invalidation (R142, R236, R237, R257). A
release waits for every push of the part, and ICINV of a control context reaches what log 56 says: the model's choices, logs 10 and 56. -/
def Obligations.OrderingResults : Prop :=
  Claims.AcquireReleaseResults
  ∧ Claims.CacheResults

/-- The scope that says where an atomic is performed: its own, but at the home for a reduction of a line that is watched or subscribed, and at
the SYS point of host and peer memory (R123, R240, R319). -/
def Sys2Proof.Claims.atomScope (s : State) (x : BitVec 2) (t : Tgt) (red : Bool) : Nat :=
  if t.isPhys && (match area t.pa with | .host | .peer _ => true | _ => false) then 3
  else if t.isPhys && red && lineWatched s (lineOf t.pa) && decide (x.toNat < 2) then 2
  else x.toNat
/-- The number an atomic reads, and the state after its read: at the point of its scope, the issuing core's L1 at WG scope, else the die's
slice or the home (R123). -/
def Sys2Proof.Claims.atomOld (s : State) (k : Nat) (t : Tgt) (n : Nat) : Nat := ofBytes (readTgt s (atPoint (me s) k) t n).1
def Sys2Proof.Claims.atomRead (s : State) (k : Nat) (t : Tgt) (n : Nat) : State := (readTgt s (atPoint (me s) k) t n).2
/-- The state after an atomic's write of a number there, and after one that writes nothing: the point holds the word W in either case (R123). -/
def Sys2Proof.Claims.atomWrite (s : State) (k : Nat) (t : Tgt) (n v : Nat) : State :=
  holdInSlice (writeTgt (atomRead s k t n) (atPoint (me s) k) t (toBytes n v)) (me s) t k n true
def Sys2Proof.Claims.atomKeep (s : State) (k : Nat) (t : Tgt) (n : Nat) : State :=
  holdInSlice (grantWord (atomRead s k t n) (atPoint (me s) k) t k n) (me s) t k n false

/-- An atomic whose access resolves reads its location, writes its function's value there at once and the old value to d; CAS and LCAS
write only where the location holds what they expect (R238, R239). Field 127 discards the old value; a reduction of R122 is then held in
the L1 where that rule allows it, and is performed the same way where it does not. -/
def Sys2Proof.Claims.AtomicResults : Prop :=
  (∀ p ∈ atomics, ∀ (x : BitVec 2) (d a b : Field) (s : State) (t : Tgt) (k : Nat), Passes s { ops := [opW d, opRp a, opR b] } →
    Updates s (readP s a).toNat 4 t → (d = 127 → uCase s (me s) t x.toNat = none) → k = atomScope s x t (d == 127) →
    exec (p.1 x d a b) s = writes
      (atomWrite s k t 4 (p.2 (BitVec.ofNat 32 (atomOld s k t 4)) ((readR s b).setWidth 32)).toNat) d (BitVec.ofNat 64 (atomOld s k t 4)))
  ∧ (∀ (x : BitVec 2) (d a b : Field) (s : State) (t : Tgt) (k : Nat), Passes s { ops := [opW d, opRp a, opRp b] } →
      Updates s (readP s a).toNat 4 t → k = atomScope s x t false →
      exec (.atomCas x d a b) s = writes
        (if atomOld s k t 4 = (readP s b).toNat % 2 ^ 32 then atomWrite s k t 4 ((readP s b).toNat / 2 ^ 32) else atomKeep s k t 4)
        d (BitVec.ofNat 64 (atomOld s k t 4)))
  ∧ (∀ (x : BitVec 2) (d a b : Field) (s : State) (t : Tgt) (k : Nat), Passes s { ops := [opWp d, opRp a, opRp b] } →
      Updates s (readP s a).toNat 8 t → k = atomScope s x t (d == 127) →
      exec (.atomLadd x d a b) s = writes2
        (atomWrite s k t 8 ((atomOld s k t 8 + (readP s b).toNat) % 2 ^ 64)) d (BitVec.ofNat 64 (atomOld s k t 8)))
  ∧ (∀ (x : BitVec 2) (d a b : Field) (s : State) (t : Tgt) (k : Nat), Passes s { ops := [opWp d, opRp a, opRq b] } →
      Updates s (readP s a).toNat 8 t → k = atomScope s x t false →
      exec (.atomLcas x d a b) s = writes2
        (if atomOld s k t 8 = (readQ s b).toNat % 2 ^ 64 then atomWrite s k t 8 ((readQ s b).toNat / 2 ^ 64) else atomKeep s k t 8)
        d (BitVec.ofNat 64 (atomOld s k t 8)))
  ∧ (∀ p ∈ atomics, p.1 ≠ .atomAdd → p.1 ≠ .atomMin → p.1 ≠ .atomMax → p.1 ≠ .atomAnd → p.1 ≠ .atomOr → p.1 ≠ .atomXor →
      ∀ (x : BitVec 2) (a b : Field) (s : State) (t : Tgt) (k : Nat), Passes s { ops := [opW 127, opRp a, opR b] } →
      Updates s (readP s a).toNat 4 t → k = atomScope s x t true →
      exec (p.1 x 127 a b) s = .next (advance
        (atomWrite s k t 4 (p.2 (BitVec.ofNat 32 (atomOld s k t 4)) ((readR s b).setWidth 32)).toNat)))

/-- A reduction that returns nothing is held as a delta of the core's L1 where R122 allows that, and the word itself does not change
(R122), but where a delta of another operation on it goes to the home first. -/
def Sys2Proof.Claims.ReductionHeld : Prop :=
  ∀ p ∈ [(Instr.atomAdd, 0), (Instr.atomMin, 1), (Instr.atomMax, 2), (Instr.atomAnd, 5), (Instr.atomOr, 6), (Instr.atomXor, 7)],
    ∀ (x : BitVec 2) (a b : Field) (s : State) (t : Tgt) (c : Nat), Passes s { ops := [opW 127, opRp a, opR b] } →
      Updates s (readP s a).toNat 4 t → uCase s (me s) t x.toNat = some c →
      exec (p.1 x 127 a b) s = .next (advance (uReduce (useTgt s t true) c (homeOf t.pte t.pa) t.pa p.2 ((readR s b).setWidth 32) (pteCmp t.pte)))
      ∧ (Memory.wf s.mem = true → (∀ n, ∀ y ∈ lineState s n, ∀ u ∈ y.2.u, u.1 < 32) →
          (∀ u, ((lineState s (lineOf t.pa)).get {} c).u.find (t.pa % 128 / 4) = some u → u.kind = p.2) →
          ∀ k < 4, Memory.get (uReduce (useTgt s t true) c (homeOf t.pte t.pa) t.pa p.2 ((readR s b).setWidth 32) (pteCmp t.pte)).mem (t.pa + k) =
            Memory.get s.mem (t.pa + k))

/-- Atomics and the reductions that an L1 holds (R122, R238-R240). -/
def Obligations.AtomicAndReductionResults : Prop :=
  Claims.AtomicResults
  ∧ Claims.ReductionHeld

/-! Waiting, standing loads, cohorts, barriers and channels (R241-R254, R402) -/

namespace Sys2Proof.Claims

open Sys2Proof Sys2Proof.Machine

/-- The form of a terminator and of a vector form with their operands. -/
def term (l : List Opnd) (n : Need := .any) : Form := { ops := l, term := true, need := n }
def vec (l : List Opnd) : Form := { ops := l, need := .vector }

/-- A terminator whose effects leave `s'` goes to its successor; without a place there it faults with SPILL before any effect (R55, R200). -/
def GoesOn (r : Result) (s s' : State) (u : Succ) : Prop :=
  (∀ t, moveOn s' u = some t → r = .next t) ∧ (moveOn s' u = none → r = .next (raiseState .spill 0 0 s))

/-- An arrival that leaves `s'` stands, unless it lets the thread go on at once to a successor without a place: SPILL then, before any
effect (R55, R200). -/
def Arrives (r : Result) (s s' : State) (w t : Nat) : Prop :=
  ((∀ th, thread? s' w t = some th → th.st ≠ .waiting .place) → r = .next s')
  ∧ (∀ th, thread? s' w t = some th → th.st = .waiting .place → r = .next (raiseState .spill 0 0 s))

/-- WAIT forms of 32 bits: constructor, the model's number of its condition, and the condition on the value and the operand (R241). -/
def waits : List (Three × Nat × (Nat → Nat → Bool)) := [(.waitne, 1, fun v b => v != b), (.waiteq, 2, fun v b => v == b)]

/-- Records subscribed by the workgroups of a workgroup's core, and subscriptions homed at a slice (R244). -/
def mySubs (s : State) (g : Workgroup) : Nat := (s.subs.filter fun x => (wg? s x.wg).any fun y => y.cid? == g.cid?).length
def homeSubs (s : State) (home : Nat) : Nat := (s.subs.filter (·.home == home)).length

/-- The bits of a slot record that LDSUB writes: the value at 0, CNT 0, STATE, SZ, CNT and ADDR (R243, R244). -/
def freshRecord (v st : Nat) (dw : Bool) (va : Nat) : Nat := v + st * 2 ^ 96 + (if dw then 2 ^ 105 else 0) + va * 2 ^ 192

/-- LDSUB's effect on the subscriptions: a new one, unless the core holds 64 or the home 1,024 (R244). -/
def subscribe (s : State) (w o : Nat) (g : Workgroup) (t : Tgt) (dw : Bool) (va v : Nat) : State :=
  let full := 64 ≤ mySubs s g ∨ 1024 ≤ homeSubs s (homeOf t.pte t.pa)
  let s := spadWrite s w o (toBytes 32 (freshRecord v (if full then 2 else 1) dw va))
  if full then s else
    { s with subs := s.subs ++ [{ id := s.nextId, wg := w, off := o, pa := t.pa, dw := dw, push := none, merged := none, closing := false,
                                  home := homeOf t.pte t.pa }], nextId := s.nextId + 1 }

/-- A target in HBM whose page is neither write-shared, row-owned nor the host's. -/
abbrev Subscribable (t : Tgt) : Prop :=
  t.isPhys = true ∧ area t.pa = .hbm ∧ pteWs t.pte = false ∧ pteRow t.pte = false ∧ pteHost t.pte = false

/-- The entry CMAKE allocates: its member limit is the number asked for, at most the most threads of the workgroup; 0 asks for that (R248). -/
def newCohort (g : Workgroup) (gen n : Nat) : Cohort := { gen := gen, alloc := true, lim := if n = 0 then g.tmax else Min.min g.tmax n }

/-- The collectives: the form with its operands, its function's number and what else it names (R252). -/
def collectives (d a b : Field) : List (Instr × Form × Nat × (State → Word32)) :=
  [(.cradd d a, term [opMc d, opR a] .vector, 0, fun _ => 0), (.crfadd d a, term [opMc d, opR a] .vector, 1, fun _ => 0),
   (.crmin d a, term [opMc d, opR a] .vector, 2, fun _ => 0), (.crmax d a, term [opMc d, opR a] .vector, 3, fun _ => 0),
   (.cscan d a, term [opMc d, opR a] .vector, 4, fun _ => 0), (.cfscan d a, term [opMc d, opR a] .vector, 5, fun _ => 0),
   (.cbcast d a b, term [opMc d, opR a, opR b] .vector, 6, fun s => (readR s b).setWidth 32),
   (.xperm d a b, { ops := [opMc d, opR a], lits := [(b.toNat, 32)], term := true, need := .vector }, 7, fun _ => b.setWidth 32),
   (.cshuf d a b, term [opMc d, opR a, opR b] .vector, 8, fun s => (readR s b).setWidth 32)]

/-- A member's arrival at a collective (R250): its input, the operand b and where it stands. -/
def arrival (s : State) (ir : Word32) (w t fn : Nat) (x b : Word32) : CArr :=
  { tid := t, fn := some fn, x := x, b := b, blk := (whereNow s w t).1, roff := (whereNow s w t).2.1, word := ir, ts := (whereNow s w t).2.2 }

/-- The executing thread is the member t of a cohort i that a handle names. -/
def IsMember (s : State) (h : Word32) (w t i : Nat) (c : Cohort) : Prop :=
  ∃ g, curThread s = some (w, g, t) ∧ memberOf g h t = some (i, c)

/-- The executing thread is a member of no cohort that a handle names. -/
def NoMember (s : State) (h : Word32) : Prop := ∃ w g t, curThread s = some (w, g, t) ∧ memberOf g h t = none

/-- The release of a phase on its way to a workgroup, or to the core that forwards it (R376, R402). -/
def sendRelease (pb : Nat) (s : State) (w : Nat) : State :=
  match forwarder s w none with
  | some cid => { s with items := s.items ++ [{ cid := cid, wg := w, kind := .release pb, ord := s.nextId, tick := timer s }], nextId := s.nextId + 1 }
  | none => pbDeliver s w pb

end Sys2Proof.Claims

/-- A WAIT reads its location at once: it goes to its successor with the value read where the condition holds, else it waits, and watches
the location (R241). -/
def Sys2Proof.Claims.WaitResults : Prop :=
  (∀ (d a b : Field) (s s' : State) (u : Succ) (t : Tgt), Passes s (term [opWcp d, opRp a, opRp b]) → nextBlock s = .ok (u, s') →
    Reads s' (readP s a).toNat 8 t →
    ((readP s b).toNat ≤ got s' t 8 → GoesOn (exec (.waitge d a b) s) s (writeP (after s' t 8) d (BitVec.ofNat 64 (got s' t 8))) u)
    ∧ (got s' t 8 < (readP s b).toNat → exec (.waitge d a b) s =
        .next (suspend (after s' t 8) (.watch (watchPlace t).1 (watchPlace t).2 0 (readP s b).toNat d.toNat) u)))
  ∧ (∀ p ∈ waits, ∀ (d a b : Field) (s s' : State) (u : Succ) (t : Tgt), Passes s (term [opWc d, opRp a, opR b]) →
      nextBlock s = .ok (u, s') → Reads s' (readP s a).toNat 4 t →
      (p.2.2 (got s' t 4) ((readR s b).toNat % 2 ^ 32) = true →
        GoesOn (exec (p.1 d a b) s) s (writeR (after s' t 4) d (BitVec.ofNat 64 (got s' t 4))) u)
      ∧ (p.2.2 (got s' t 4) ((readR s b).toNat % 2 ^ 32) = false → exec (p.1 d a b) s =
          .next (suspend (after s' t 4) (.watch (watchPlace t).1 (watchPlace t).2 p.2.1 ((readR s b).toNat % 2 ^ 32) d.toNat) u)))

/-- A re-read of a watched location wakes the agent with the value it read exactly where the condition holds, and otherwise leaves it
waiting (R242). -/
def Sys2Proof.Claims.WaitRereadResults : Prop :=
  ∀ (g : Agent) (s s' : State) (spad pa b d v form : Nat), waitOf s g = some (.watch spad pa form b d) → agentHere s g = true →
    rereadPlace s (issuer s g).die spad pa (if form = 0 then 8 else 4) = some (v, s') →
    exec (.waitReread g) s = .next
      (if form = 0 then (if b ≤ v then wakeAgent (writePA s' g d ((BitVec.ofNat 128 v).setWidth 64)) g else s')
       else if (if form = 1 then v ≠ b else v = b) then wakeAgent (writeRA s' g d ((BitVec.ofNat 128 v).setWidth 64)) g else s')

/-- WAIT and its re-reads (R241, R242). -/
def Obligations.WaitingResults : Prop :=
  Claims.WaitResults
  ∧ Claims.WaitRereadResults

/-- LDSUB and LDSUB.D write a fresh record that holds the value read and subscribe it while there is room, and answer the value; a record
that is live is ILLEGAL, and a page that cannot be subscribed XLATE_ATTR (R244). -/
def Sys2Proof.Claims.StandingLoadResults : Prop :=
  (∀ (d a b : Field) (s q : State) (t : Tgt) (w : Nat) (g : Workgroup), Passes s (vec [opW d, opRp a, opR b]) →
    slotTarget s (readR s b).toNat true = .ok (readR s b).toNat → Reads s (readP s a).toNat 4 t → curWg s = some (w, g) →
    q = dropSlot (slotRead s w (readR s b).toNat).2 w (readR s b).toNat →
    (Subscribable t → slotState (slotRead s w (readR s b).toNat).1 ≠ 1 → ∃ r, r = readTgt q { me q with cid := none } t 4 ∧
      exec (.ldsub d a b) s = writes (subscribe r.2 w (readR s b).toNat g t false (readP s a).toNat (ofBytes r.1)) d (BitVec.ofNat 64 (ofBytes r.1)))
    ∧ (Subscribable t → slotState (slotRead s w (readR s b).toNat).1 = 1 →
        exec (.ldsub d a b) s = .next (raiseState .illegal 0 0 (slotRead s w (readR s b).toNat).2))
    ∧ (¬ Subscribable t → exec (.ldsub d a b) s = .next (raiseState .xlateAttr (readP s a).toNat 0 s)))
  ∧ (∀ (d a b : Field) (s q : State) (t : Tgt) (w : Nat) (g : Workgroup), Passes s (vec [opWp d, opRp a, opR b]) →
      slotTarget s (readR s b).toNat true = .ok (readR s b).toNat → Reads s (readP s a).toNat 8 t → curWg s = some (w, g) →
      q = dropSlot (slotRead s w (readR s b).toNat).2 w (readR s b).toNat →
      (Subscribable t → slotState (slotRead s w (readR s b).toNat).1 ≠ 1 → ∃ r, r = readTgt q { me q with cid := none } t 8 ∧
        exec (.ldsubD d a b) s = writes2 (subscribe r.2 w (readR s b).toNat g t true (readP s a).toNat (ofBytes r.1)) d (BitVec.ofNat 64 (ofBytes r.1)))
      ∧ (Subscribable t → slotState (slotRead s w (readR s b).toNat).1 = 1 →
          exec (.ldsubD d a b) s = .next (raiseState .illegal 0 0 (slotRead s w (readR s b).toNat).2))
      ∧ (¬ Subscribable t → exec (.ldsubD d a b) s = .next (raiseState .xlateAttr (readP s a).toNat 0 s)))

/-- SLOTRD answers a record's low 128 bits, SLOTST sets bits [191:128] and clears bit 104, SLOTWAIT goes on with the record where its
condition holds and waits where it does not, and UNSUB answers CNT, at once for a record that is not live (R246, R247). A record is read
as it stands, unless a program has written into it while it was live (R243); while a push toward its location is under way SLOTRD and
SLOTWAIT wait for it (R150, R162). -/
def Sys2Proof.Claims.SlotResults : Prop :=
  (∀ (d b : Field) (s : State) (w : Nat) (g : Workgroup), Passes s (vec [opWq d, opR b]) → curWg s = some (w, g) →
    slotTarget s (readR s b).toNat false = .ok (readR s b).toNat →
    (slotPending s w (readR s b).toNat = false → exec (.slotrd d b) s =
      .next (advance (writeQ (slotRead s w (readR s b).toNat).2 d (BitVec.ofNat 128 (slotRead s w (readR s b).toNat).1))))
    ∧ (slotPending s w (readR s b).toNat = true → exec (.slotrd d b) s = .next s))
  ∧ (∀ (d b : Field) (s : State) (w : Nat) (g : Workgroup), Passes s (vec [opRp d, opR b]) → curWg s = some (w, g) →
      slotTarget s (readR s b).toNat true = .ok (readR s b).toNat →
      exec (.slotst d b) s = .next (advance (spadWrite s w (readR s b).toNat (toBytes 32
        (setBits (setBits (slotGet s w (readR s b).toNat) 191 128 (readP s d).toNat) 104 104 0)))))
  ∧ (∀ (d a b : Field) (s s' : State) (u : Succ) (w : Nat) (g : Workgroup) (r : Nat × State), Passes s (term [opWcq d, opR a, opR b] .vector) →
      nextBlock s = .ok (u, s') → curWg s = some (w, g) → slotTarget s' (readR s b).toNat false = .ok (readR s b).toNat →
      r = slotRead s' w (readR s b).toNat →
      (slotPending s w (readR s b).toNat = true → exec (.slotwait d a b) s = .next s)
      ∧ (slotPending s w (readR s b).toNat = false →
          (bits r.1 95 64 ≠ (readR s a).toNat ∨ bits r.1 103 96 ≠ 1 ∨ bitAt r.1 104 = true →
            GoesOn (exec (.slotwait d a b) s) s (writeQ r.2 d (BitVec.ofNat 128 r.1)) u)
          ∧ (bits r.1 95 64 = (readR s a).toNat → bits r.1 103 96 = 1 → bitAt r.1 104 = false →
              exec (.slotwait d a b) s = .next (suspend r.2 (.slot (readR s b).toNat (readR s a).toNat d.toNat) u))))
  ∧ (∀ (d b : Field) (s s' : State) (u : Succ) (w : Nat) (g : Workgroup) (r : Nat × State), Passes s (term [opWc d, opR b] .vector) →
      nextBlock s = .ok (u, s') → curWg s = some (w, g) → slotTarget s' (readR s b).toNat true = .ok (readR s b).toNat →
      r = slotRead s' w (readR s b).toNat →
      (bits r.1 103 96 ≠ 1 ∨ (∀ x ∈ s'.subs, x.wg = w → x.off ≠ (readR s b).toNat) →
        GoesOn (exec (.unsub d b) s) s (writeR r.2 d (BitVec.ofNat 64 (bits r.1 95 64))) u)
      ∧ (bits r.1 103 96 = 1 → (∃ x ∈ s'.subs, x.wg = w ∧ x.off = (readR s b).toNat) →
          ∃ t, exec (.unsub d b) s = .next t ∧ t.wgs = (suspend r.2 (.unsub (readR s b).toNat d.toNat) u).wgs
            ∧ (∀ x ∈ t.subs, x.wg = w → x.off = (readR s b).toNat → x.closing = true)))
  ∧ (∀ (s : State) (w o : Nat) (g : Workgroup), wg? s w = some g → (∀ k ∈ g.slotBad, o + 32 ≤ k ∨ k + 32 ≤ o) →
      slotRead s w o = (slotGet s w o, s))

/-- A push that arrives puts its value at the record's start and adds its count to CNT, and is acknowledged, the writes merged meanwhile going on
their way; while the workgroup's place is not known to the home it queues at the core that forwards it; it does not overtake what its home
sent to the same core before it; UNSUB_COMPLETE closes the record and drops the subscription (R245, R247, R376, R386). -/
def Sys2Proof.Claims.PushResults : Prop :=
  (∀ (n : Nat) (s : State) (x : Sub), s.subs.find? (fun y => y.id == n) = some x → x.push.isSome = true → x.fwd = false →
    ((∃ m, pushMsg s x = some m ∧ arrives s m = false) → exec (.subscriptionPush n) s = .next s)
    ∧ ((∀ m, pushMsg s x = some m → arrives s m = true) → forwarder s x.wg (some x.home) = none → exec (.subscriptionPush n) s = .next (applyPush s n))
    ∧ (∀ cid, (∀ m, pushMsg s x = some m → arrives s m = true) → forwarder s x.wg (some x.home) = some cid → ∃ t, exec (.subscriptionPush n) s = .next t
        ∧ t.items = s.items ++ [{ cid := cid, wg := x.wg, kind := .push n, ord := s.nextId, tick := timer s }]
        ∧ t.subs.find? (fun y => y.id == n) = some { x with fwd := true } ∧ t.wgs = s.wgs))
  ∧ (∀ (n : Nat) (s : State) (x : Sub) (v : Word64) (k : Nat), s.subs.find? (fun y => y.id == n) = some x → x.push = some (v, k) →
      applyPush s n = wakeSlots
        { countItem (slotPut s x.wg x.off (slotPush (slotGet s x.wg x.off) v.toNat k)) x.wg with
          subs := (countItem (slotPut s x.wg x.off (slotPush (slotGet s x.wg x.off) v.toNat k)) x.wg).subs.map fun y =>
            if y.id == n then { y with push := y.merged, merged := none, fwd := false, span := y.mspan, mspan := [], ord := s.nextId,
                                       tick := timer s } else y
          nextId := s.nextId + 1 }
        x)
  ∧ (∀ r v k : Nat, v < 2 ^ 64 →
      bits (slotPush r v k) 63 0 = v ∧ bits (slotPush r v k) 95 64 = (bits r 95 64 + k) % 2 ^ 32
      ∧ bits (slotPush r v k) 103 96 = bits r 103 96 ∧ bits (slotPush r v k) 191 128 = bits r 191 128)
  ∧ (∀ (n : Nat) (s : State) (x : Sub), s.subs.find? (fun y => y.id == n) = some x → x.closing = true → x.push = none → x.merged = none →
      exec (.unsubComplete n) s = .next (endSub s x 3))

/-- Standing loads, their slot records and their pushes (R243-R247). That a subscription a program has cut off ends at the next
LDSUB of its record is the model's choice (log 62). -/
def Obligations.SubscriptionResults : Prop :=
  Claims.StandingLoadResults
  ∧ Claims.SlotResults
  ∧ Claims.PushResults

/-- CMAKE takes the lowest free entry of the workgroup's cohorts, JOIN the next rank, LEAVE gives it back, CSIZE counts (R248, R249).
That CMAKE takes the lowest entry (log 11) and that its index counts from the workgroup's first entry (log 27) are the model's. -/
def Obligations.CohortResults : Prop :=
  (∀ (d a : Field) (s : State) (w t : Nat) (g : Workgroup), Passes s (vec [opW d, opR a]) → curThread s = some (w, g, t) →
    (∀ i, (List.range g.cRes).find? (fun i => !(g.cohorts.get {} i).alloc) = some i →
      exec (.cmake d a) s = writes (setCohort s w i (newCohort g (g.cohorts.get {} i).gen (readR s a).toNat)) d
        (BitVec.ofNat 64 ((g.cohorts.get {} i).gen * 512 + i)))
    ∧ ((∀ i < g.cRes, (g.cohorts.get {} i).alloc = true) → exec (.cmake d a) s = writes s d 0xFFFFFFFF#64))
  ∧ (∀ (d a : Field) (s : State) (w t : Nat) (g : Workgroup), Passes s (vec [opW d, opR a]) → curThread s = some (w, g, t) →
      (cohortOf g ((readR s a).setWidth 32) = none → exec (.join d a) s = writes s d 0xFFFFFFFF#64 ∧ exec (.csize d a) s = writes s d 0)
      ∧ (∀ i c, cohortOf g ((readR s a).setWidth 32) = some (i, c) →
          exec (.csize d a) s = writes s d (BitVec.ofNat 64 c.members.length)
          ∧ (∀ r, rankOf c t = some r → exec (.join d a) s = writes s d (BitVec.ofNat 64 r))
          ∧ (rankOf c t = none → exec (.join d a) s =
              if c.members.length < c.lim then
                writes (setCohort s w i { c with members := c.members ++ [t] }) d (BitVec.ofNat 64 c.members.length)
              else writes s d 0xFFFFFFFE#64)))
  ∧ (∀ (a : Field) (s : State) (w t : Nat) (g : Workgroup), Passes s (vec [opR a]) → curThread s = some (w, g, t) →
      (cohortOf g ((readR s a).setWidth 32) = none → exec (.leave a) s = .next (advance s))
      ∧ (∀ i c, cohortOf g ((readR s a).setWidth 32) = some (i, c) → exec (.leave a) s = .next (advance (leaveCohort s w i t))))

/-- A collective of a member is a release and arrives with the member's input, and waits for its instance; one of a thread that is no
member, or whose BARA stands, is ILLEGAL; a release that must wait leaves everything as it is (R157, R250, R252). -/
def Sys2Proof.Claims.CollectiveResults : Prop :=
  ∀ (d a b : Field), ∀ p ∈ collectives d a b, ∀ (s s' : State) (u : Succ), Passes s p.2.1 → nextBlock s = .ok (u, s') →
    (∀ (w t i : Nat) (c : Cohort), IsMember s' ((readR s a).setWidth 32) w t i c →
      ((∀ x ∈ c.bara, x.1 ≠ t) → releaseReady s = true →
        Arrives (exec p.1 s) s (arrive (suspend s' (.coll i (instFor c t) d.toNat) u) w i
          (arrival s' s.ir w t p.2.2.1 ((readR s' d).setWidth 32) (p.2.2.2 s))) w t)
      ∧ ((∀ x ∈ c.bara, x.1 ≠ t) → releaseReady s = false → exec p.1 s = .next s)
      ∧ ((∃ x ∈ c.bara, x.1 = t) → exec p.1 s = .next (raiseState .illegal 0 0 s)))
    ∧ (NoMember s' ((readR s a).setWidth 32) → exec p.1 s = .next (raiseState .illegal 0 0 s))

/-- A collective that is not its instance's last arrival completes: it is counted, and the thread waits for the rest of the participants; `m` is
one that has still to arrive (R250, R252). -/
def Sys2Proof.Claims.CollectiveWaits : Prop :=
  ∀ (d a b : Field), ∀ p ∈ collectives d a b, ∀ (s s' : State) (u : Succ) (w t i m : Nat) (c : Cohort) (k : CInst), Passes s p.2.1 →
    nextBlock s = .ok (u, s') → IsMember s' ((readR s a).setWidth 32) w t i c → (∀ x ∈ c.bara, x.1 ≠ t) → releaseReady s = true →
    k = c.inst.getD { parts := c.members, arr := [] } → m ∈ k.parts → m ≠ t → (∀ x ∈ k.arr, x.tid ≠ m) →
    exec p.1 s = .next (setCohort (suspend s' (.coll i (instFor c t) d.toNat) u) w i
      { c with inst := some { k with arr := k.arr ++ [arrival s' s.ir w t p.2.2.1 ((readR s' d).setWidth 32) (p.2.2.2 s)] } })

/-- A collective whose instance its own arrival completes, that of a cohort's only member, completes with its effect at once (R250, R252): the thread's
destination register holds the operation's value of its own input and the thread stands at its successor. Another participant of
an instance gets there by the delivery that the last arrival makes. -/
def Sys2Proof.Claims.CollectiveCompletes : Prop :=
  ∀ (d a b : Field), ∀ p ∈ collectives d a b, ∀ (s s' q z : State) (u : Succ) (w t i : Nat) (c : Cohort) (r : CArr) (pt : BitVec 512), Passes s p.2.1 →
    nextBlock s = .ok (u, s') → IsMember s' ((readR s a).setWidth 32) w t i c → c.members = [t] → c.inst = none → (∀ x ∈ c.bara, x.1 ≠ t) →
    releaseReady s = true → u.len ≠ 0 →
    (if p.2.2.1 = 7 then (wg? s' w).bind fun g => g.pts.find (p.2.2.2 s).toNat else some 0) = some pt →
    r = arrival s' s.ir w t p.2.2.1 ((readR s' d).setWidth 32) (p.2.2.2 s) →
    q = setCohort (setCohort (suspend s' (.coll i c.done d.toNat) u) w i { c with inst := some { parts := [t], arr := [r] } }) w i
      { c with inst := none, done := c.done + 1 } →
    slotCurrent q w t = true → ((wg? q w).bind fun g => g.cid?).isSome = true →
    placeThread (writeV q w t d.toNat (collResult p.2.2.1 pt [(readR s' d).setWidth 32] [p.2.2.2 s] 0)) w t u = some z →
    exec p.1 s = .next z

/-- The arrival that completes an instance in which every participant gave one and the same collective delivers it (R250, R252): in rank order every
participant that waits gets its rank's value in its destination register and goes on; that a participant goes on changes no carried
register. An XPERM whose table is free or foreign delivers nothing. The participant's registers are in the canonical form that every write
of a register keeps. -/
def Sys2Proof.Claims.CollectiveDelivers : Prop :=
  (∀ (s : State) (w h fn : Nat) (a : CArr) (g : Workgroup) (c : Cohort) (k : CInst) (pt : BitVec 512), wg? s w = some g → g.cohorts.find h = some c →
    k = { c.inst.getD { parts := c.members, arr := [] } with arr := (c.inst.getD { parts := c.members, arr := [] }).arr ++ [a] } →
    (∀ t ∈ k.parts, ∃ x ∈ k.arr, x.tid = t) → ranked c k ≠ [] → (∀ x ∈ ranked c k, x.fn = some fn) →
    (if fn = 7 then g.pts.find (((ranked c k).map fun x : CArr => x.b).headD 0).toNat else some 0) = some pt →
    arrive s w h a = settle 2 (releaseAll
      (setCohort (setCohort s w h { c with inst := some k }) w h
        { c with inst := (if (k.arr.filter fun x => !k.parts.contains x.tid) = [] then none
                          else some { parts := c.members, arr := k.arr.filter fun x => !k.parts.contains x.tid })
                 done := c.done + 1 })
      w h c.done false (collResult fn pt ((ranked c k).map (·.x)) ((ranked c k).map (·.b))) 0 (ranked c k)) w h)
  ∧ (∀ (s : State) (w h n k : Nat) (res : Nat → Word32) (x : CArr) (l : List CArr) (th : Thread) (d : Nat), thread? s w x.tid = some th →
      th.st = .waiting (.coll h n d) →
      releaseAll s w h n false res k (x :: l) = releaseAll (wake (writeV s w x.tid d (res k)) w x.tid) w h n false res (k + 1) l
      ∧ (16 ≤ d → d < 112 → SMap.wf 0 th.v = true → ∀ th', thread? (writeV s w x.tid d (res k)) w x.tid = some th' →
          th'.v.get 0 (th.wbase + (d - 16)) = res k ∧ SMap.wf 0 th'.v = true))
  ∧ (∀ (s : State) (w t y z : Nat), (thread? (wake s w t) y z).map (·.v) = (thread? s y z).map (·.v))

/-- The pairwise sums of R110 of a list of FP32 values: neighbours summed and rounded to nearest even, a last one without a neighbour kept. -/
def Sys2Proof.Claims.pairSums : List Word32 → List Word32
  | x :: y :: l => BitVec.ofNat 32 (near .fp32 ((val32 x.toNat).add (val32 y.toNat))) :: Claims.pairSums l
  | l => l

/-- What a collective gives the member of rank k among n inputs (R252): CRADD the sum of all, CSCAN the sum to rank k, CRMIN and CRMAX
an input that no input is below or above as signed, CRFADD the sum of one input itself and of more that of their pairwise sums, CFSCAN the same
of the inputs to rank k (R110), CBCAST the input of the rank that the lowest rank's operand names, CSHUF the one
that its own operand names; both taken modulo n; XPERM the input that the pattern table names within the rank's group of 64, or 0. -/
def Sys2Proof.Claims.CollectiveValues : Prop :=
  ∀ (pt : BitVec 512) (xs bs : List Word32) (k : Nat) (_ : k < xs.length),
    collResult 0 pt xs bs k = xs.foldr (· + ·) 0
    ∧ collResult 4 pt xs bs k = (xs.take (k + 1)).foldr (· + ·) 0
    ∧ (collResult 2 pt xs bs k ∈ xs ∧ ∀ x ∈ xs, (collResult 2 pt xs bs k).toInt ≤ x.toInt)
    ∧ (collResult 3 pt xs bs k ∈ xs ∧ ∀ x ∈ xs, x.toInt ≤ (collResult 3 pt xs bs k).toInt)
    ∧ (∀ x, xs = [x] → collResult 1 pt xs bs k = x)
    ∧ (2 ≤ xs.length → collResult 1 pt xs bs k = collResult 1 pt (pairSums xs) bs k)
    ∧ collResult 5 pt xs bs k = collResult 1 pt (xs.take (k + 1)) bs k
    ∧ (∀ b l, bs = b :: l → collResult 6 pt xs bs k = xs.getD (b.toNat % xs.length) 0)
    ∧ collResult 8 pt xs bs k = xs.getD ((bs.getD k 0).toNat % xs.length) 0
    ∧ collResult 7 pt xs bs k = (if pt.toNat / 2 ^ (384 + k % 64) % 2 = 1 then 0
        else xs.getD (64 * (k / 64) + pt.toNat / 2 ^ (6 * (k % 64)) % 64) 0)

/-- Collectives: their arrival, the delivery of a completed instance to its participants' registers, and the
values (R110, R250, R252). That a release waits for every push of the part is the model's choice (log 10). -/
def Obligations.CohortCollectiveResults : Prop :=
  Claims.CollectiveResults
  ∧ Claims.CollectiveWaits
  ∧ Claims.CollectiveCompletes
  ∧ Claims.CollectiveDelivers
  ∧ Claims.CollectiveValues

/-- BARA counts a member's arrival once and goes on; BARW, a release, waits for the instance, at once past one that has completed; both
are ILLEGAL for a thread that is no member (R157, R251). -/
def Sys2Proof.Claims.BarrierResults : Prop :=
  (∀ (a : Field) (s : State), Passes s (vec [opR a]) →
    (∀ (w t i : Nat) (g : Workgroup) (c : Cohort), curThread s = some (w, g, t) → memberOf g ((readR s a).setWidth 32) t = some (i, c) →
      exec (.bara a) s = .next (advance (if ∃ x ∈ c.bara, x.1 = t then s
        else arrive (setCohort s w i { c with bara := c.bara ++ [(t, instFor c t)] }) w i (barArr t))))
    ∧ (NoMember s ((readR s a).setWidth 32) → exec (.bara a) s = .next (raiseState .illegal 0 0 s)))
  ∧ (∀ (a : Field) (s s' : State) (u : Succ), Passes s (term [opR a] .vector) → nextBlock s = .ok (u, s') →
      (∀ (w t i : Nat) (c : Cohort), IsMember s' ((readR s a).setWidth 32) w t i c →
        (releaseReady s = false → exec (.barw a) s = .next s)
        ∧ (releaseReady s = true → ∀ k, c.bara.find? (fun x => x.1 == t) = some (t, k) →
            (k < c.done → GoesOn (exec (.barw a) s) s (setCohort s' w i { c with bara := c.bara.filter fun x => x.1 != t }) u)
            ∧ (c.done ≤ k → exec (.barw a) s =
                .next (suspend (setCohort s' w i { c with bara := c.bara.filter fun x => x.1 != t }) (.bar i k) u)))
        ∧ (releaseReady s = true → (∀ x ∈ c.bara, x.1 ≠ t) →
            Arrives (exec (.barw a) s) s (arrive (suspend s' (.bar i (instFor c t)) u) w i (barArr t)) w t))
      ∧ (NoMember s' ((readR s a).setWidth 32) → exec (.barw a) s = .next (raiseState .illegal 0 0 s)))

/-- Sideband barriers (R253, R402): an arrival is a release and counts once; PBARW goes on where the release has come and waits where
it has not; an arrival at the root joins the phase, which the one that makes the count ends at its tick; 40 ticks after the phase ended, and not before, its
release goes to every workgroup that arrived and the next phase begins, with at most the count of the arrivals that are already there. -/
def Sys2Proof.Claims.SidebandResults : Prop :=
  (∀ (b : Field) (s : State) (w t : Nat), Passes s { lits := [(b.toNat, 64)], need := .vector } → pbFault s b.toNat = none → s.cur = .vthread w t →
    (((thread? s w t).bind fun th => th.pbs.find b.toNat) = none →
      (releaseReady s = true → exec (.pbara b) s = .next (advance (pbArrive s w t b.toNat)))
      ∧ (releaseReady s = false → exec (.pbara b) s = .next s))
    ∧ (∀ x, ((thread? s w t).bind fun th => th.pbs.find b.toNat) = some x → exec (.pbara b) s = .next (advance s)))
  ∧ (∀ (b : Field) (s s' : State) (u : Succ) (w t : Nat), Passes s { lits := [(b.toNat, 64)], need := .vector, term := true } →
      nextBlock s = .ok (u, s') → pbFault s b.toNat = none → s.cur = .vthread w t →
      (((thread? s' w t).bind fun th => th.pbs.find b.toNat) = some true →
        GoesOn (exec (.pbarw b) s) s (updThread s' w t fun th => { th with pbs := th.pbs.erase b.toNat }) u)
      ∧ (((thread? s' w t).bind fun th => th.pbs.find b.toNat) = some false → exec (.pbarw b) s = .next (suspend s' (.pbar b.toNat) u))
      ∧ (((thread? s' w t).bind fun th => th.pbs.find b.toNat) = none →
          (releaseReady s = true → exec (.pbarw b) s = .next (pbArrive (suspend s' (.pbar b.toNat) u) w t b.toNat))
          ∧ (releaseReady s = false → exec (.pbarw b) s = .next s)))
  ∧ (∀ (pb w k : Nat) (s : State), (pb, w, k) ∈ s.pbFlight →
      ∃ t, exec (.pbarrierRootArrival pb w) s = .next t
        ∧ ((s.pbs.get {} pb).endT = none → ((s.pbs.get {} pb).n = 0 ∨ (s.pbs.get {} pb).arr.length + 1 < (s.pbs.get {} pb).n) →
            t.pbs.get {} pb = { s.pbs.get {} pb with arr := (s.pbs.get {} pb).arr ++ [w] })
        ∧ ((s.pbs.get {} pb).endT = none → 0 < (s.pbs.get {} pb).n → (s.pbs.get {} pb).arr.length + 1 = (s.pbs.get {} pb).n →
            t.pbs.get {} pb = { s.pbs.get {} pb with arr := (s.pbs.get {} pb).arr ++ [w], endT := some (timer s) })
        ∧ ((s.pbs.get {} pb).endT ≠ none → t.pbs.get {} pb = { s.pbs.get {} pb with nxt := (s.pbs.get {} pb).nxt ++ [w] })
        ∧ t = { s with pbFlight := t.pbFlight, pbs := t.pbs })
  ∧ (∀ (pb e : Nat) (s : State), (s.pbs.get {} pb).endT = some e → e + 40 ≤ timer s →
      ∃ t, exec (.pbarrierRelease pb) s = .next t ∧ (t.pbs.get {} pb).phase = (!(s.pbs.get {} pb).phase)
        ∧ (t.pbs.get {} pb).arr ++ (t.pbs.get {} pb).nxt = (s.pbs.get {} pb).nxt ∧ (t.pbs.get {} pb).n = (s.pbs.get {} pb).n
        ∧ ((s.pbs.get {} pb).n ≠ 0 → (t.pbs.get {} pb).arr.length ≤ (s.pbs.get {} pb).n)
        ∧ t = { (s.pbs.get {} pb).arr.foldl (sendRelease pb) s with pbs := t.pbs })
  ∧ (∀ (pb e : Nat) (s : State), (s.pbs.get {} pb).endT = some e → timer s < e + 40 →
      exec (.pbarrierRelease pb) s = .next s)

/-- Cohort barriers and sideband barriers (R251, R253, R402). That a release waits for every push of the part is the model's choice
(log 10). -/
def Obligations.BarriersResults : Prop :=
  Claims.BarrierResults
  ∧ Claims.SidebandResults

/-- SEND, a release, delivers into a channel with room and stalls on a full one, RECV takes the oldest message or waits, CHPOLL counts,
and a stalled SEND completes once there is room; a channel that is not bound is a UNIT fault (R157, R254). That a release
waits for every push of the part is the model's choice (log 10). -/
def Obligations.ChannelResults : Prop :=
  (∀ (a b : Field) (s : State) (w : Nat) (c : Chan), Passes s { ops := [opR a], lits := [(b.toNat, 16)], need := .core } →
    myChan s b.toNat = some (w, c) →
    (releaseReady s = false → exec (.send a b) s = .next s)
    ∧ (releaseReady s = true → c.fifo.length < 64 → c.sends = [] →
        exec (.send a b) s = .next (advance (deliver s w b.toNat c ((readR s a).setWidth 32))))
    ∧ (releaseReady s = true → 64 ≤ c.fifo.length ∨ c.sends ≠ [] → (∀ y ∈ c.sends, y.1 ≠ s.cur) →
        exec (.send a b) s = .next (setChan s w b.toNat { c with sends := c.sends ++ [(s.cur, (readR s a).setWidth 32)] })))
  ∧ (∀ (d b : Field) (s s' : State) (u : Succ), Passes s { ops := [opWc d], lits := [(b.toNat, 16)], term := true, need := .core } →
      nextBlock s = .ok (u, s') →
      (∀ (w : Nat) (c : Chan), myChan s' b.toNat = some (w, c) →
        (∀ x l, c.fifo = x :: l →
          GoesOn (exec (.recv d b) s) s (writeR (setChan s' w b.toNat { c with fifo := l }) d (x.setWidth 64)) u)
        ∧ (c.fifo = [] →
          exec (.recv d b) s =
            .next (suspend (setChan s' w b.toNat { c with recvs := c.recvs ++ [s.cur] }) (.recv b.toNat d.toNat) u)))
      ∧ (myChan s' b.toNat = none → exec (.recv d b) s = .next (raiseState .unit 0 0 s)))
  ∧ (∀ (d b : Field) (s : State), Passes s { ops := [opW d], lits := [(b.toNat, 16)], need := .core } →
      (∀ (w : Nat) (c : Chan), myChan s b.toNat = some (w, c) → exec (.chpoll d b) s = writes s d (BitVec.ofNat 64 c.fifo.length))
      ∧ (myChan s b.toNat = none → exec (.chpoll d b) s = .next (raiseState .unit 0 0 s)))
  ∧ (∀ (a b : Field) (s : State), Passes s { ops := [opR a], lits := [(b.toNat, 16)], need := .core } → myChan s b.toNat = none →
      exec (.send a b) s = .next (raiseState .unit 0 0 s))
  ∧ (∀ (w ch : Nat) (s : State) (g : Workgroup) (c : Chan) (a : Agent) (x : Word32) (l : List (Agent × Word32)), wg? s w = some g →
      g.cid?.isSome = true → g.chans.find ch = some c → c.sends = (a, x) :: l → c.fifo.length < 64 →
      exec (.channelSendResume w ch) s = .next (advanceA (deliver s w ch { c with sends := l } x) a))

/-! Copies, tensor descriptors and pattern tables (R255, R256, R258, R259, R265-R271) -/

namespace Sys2Proof.Claims

open Sys2Proof Sys2Proof.Machine

/-- An image is free for a workgroup: no other workgroup of its core owns the handle, and the image passes the checks of TDSET (R269). -/
abbrev Settable (s : State) (w h : Nat) (img : Desc) : Prop := handleForeign s w h = false ∧ tdOk img = true

/-- TDSET's effect: the workgroup's handle holds the image, one version on, and its weights leave the buffer (R270, R285). -/
def withHandle (s : State) (w h ver : Nat) (img : Desc) : State :=
  dropWeights (updWg s w fun g => { g with tds := g.tds.put h { img := img, ver := ver + 1, live := true } }) w h

/-- The version of a handle of a workgroup; 0 before its first TDSET. -/
def verOf (s : State) (w h : Nat) : Nat := (((wg? s w).bind fun g => g.tds.find h).map (·.ver)).getD 0

/-- A tensor copy as COPYT hands it to an engine (R256). -/
def tensorCopy (g : Workgroup) (w e : Nat) (x y : Desc) (caddr inc : Nat) : CopyOp :=
  { id := 0, eid := e, part := g.part, lvl := g.lvl, sec := g.sec, wg := w, lid := g.lid, wid := g.wid, tensor := some (x, y), src := 0,
    dst := 0, len := 0, at' := 0, inst := none, caddr := caddr, inc := inc, held := false, cid := g.cid?.getD 0 }

/-- Two images may be copied one to the other: rows, columns, format and planes agree (R256). -/
abbrev SameShape (x y : Desc) : Prop := tdRows x = tdRows y ∧ tdCols x = tdCols y ∧ tdFmt x = tdFmt y ∧ tdP x = tdP y

end Sys2Proof.Claims

/-- A member's COPY whose slice record resolves and is aligned hands the slice to the first engine of its partition and world that
accepts, and waits while none does or the cohort's copy before it is open; without an engine of its world it is a WORLD fault, and one of
a thread that is no member ILLEGAL (R255, R326). -/
def Sys2Proof.Claims.CopyResults : Prop :=
  ∀ (a b : Field) (s : State) (tg : Tgt) (w t : Nat) (g : Workgroup), Passes s (vec [opRp a, opR b]) →
    Reads s (readP s a).toNat 32 tg → curThread s = some (w, g, t) →
    (∀ (h : Nat) (c : Cohort), memberOf g ((readR s b).setWidth 32) t = some (h, c) →
      (∀ v, sliceMisaligned (got s tg 32) = some v → exec (.copy a b) s = .next (raiseState .misalign v 0 s))
      ∧ (sliceMisaligned (got s tg 32) = none →
          (copyEnginesOf s g.part g.sec = [] → exec (.copy a b) s = .next (raiseState .world 0 0 s))
          ∧ (∀ e, pickCopyEngine s g.part g.sec = some e → mayIssue s c t = true →
              exec (.copy a b) s = .next (advance (issueSlice (after s tg 32) w h t c e (got s tg 32))))
          ∧ (copyEnginesOf s g.part g.sec ≠ [] → pickCopyEngine s g.part g.sec = none ∨ mayIssue s c t = false →
              exec (.copy a b) s = .next s)))
    ∧ (memberOf g ((readR s b).setWidth 32) t = none → exec (.copy a b) s = .next (raiseState .illegal 0 0 s))

/-- COPYT hands a copy between two tensors of one shape and format to an engine, and waits while none accepts; tensors that differ,
handles that the workgroup does not own and set reserved bits are TDESC, a counter that is no multiple of 8 MISALIGN, and no engine of
the world WORLD (R256, R326). -/
def Sys2Proof.Claims.TensorCopyResults : Prop :=
  ∀ (a : Field) (s : State) (tg : Tgt) (w : Nat) (g : Workgroup), Passes s { ops := [opRp a], need := .coreScribe } →
    Reads s (readP s a).toNat 32 tg → curWg s = some (w, g) →
    (bits (got s tg 32) 31 14 ≠ 0 ∨ bits (got s tg 32) 7 6 ≠ 0 ∨ bits (got s tg 32) 255 128 ≠ 0 →
      exec (.copyt a) s = .next (raiseState .tdesc 0 0 s))
    ∧ (myHandle s (bits (got s tg 32) 5 0) = none ∨ myHandle s (bits (got s tg 32) 13 8) = none →
        exec (.copyt a) s = .next (raiseState .tdesc 0 0 s))
    ∧ (∀ x y : Desc, bits (got s tg 32) 31 14 = 0 → bits (got s tg 32) 7 6 = 0 → bits (got s tg 32) 255 128 = 0 →
        myHandle s (bits (got s tg 32) 5 0) = some x → myHandle s (bits (got s tg 32) 13 8) = some y →
        (¬ SameShape x y → exec (.copyt a) s = .next (raiseState .tdesc 0 0 s))
        ∧ (SameShape x y → bits (got s tg 32) 127 64 % 8 ≠ 0 →
            exec (.copyt a) s = .next (raiseState .misalign (bits (got s tg 32) 127 64) 0 s))
        ∧ (SameShape x y → bits (got s tg 32) 127 64 % 8 = 0 →
            (copyEnginesOf s g.part g.sec = [] → exec (.copyt a) s = .next (raiseState .world 0 0 s))
            ∧ (copyEnginesOf s g.part g.sec ≠ [] → pickCopyEngine s g.part g.sec = none → exec (.copyt a) s = .next s)
            ∧ (∀ e, pickCopyEngine s g.part g.sec = some e →
                exec (.copyt a) s = .next (advance
                  (addCopy (after s tg 32) (tensorCopy g w e x y (bits (got s tg 32) 127 64) (bits (got s tg 32) 63 32)))))))

/-- An engine performs an operation it may run: a slice or a tensor copy that it gets through ends, with its post; one that faults is
held in a suspension slot with what it has performed counted, and one that must wait goes on from there (R255, R256, R336). -/
def Sys2Proof.Claims.CopyPerformResults : Prop :=
  (∀ (op : Nat) (s s' : State) (o : CopyOp) (k : Nat), runnableCopy s op = some o → o.tensor = none →
    (copySlice (o.issuer s) o.src o.dst ((o.len - o.at') / 4) s o.at' = (s', k, .ok ()) →
      exec (.copySlicePerform op) s = .next (settleCloses (endSlice (updCopy s' o.id fun y => { y with at' := k }) o))
      ∧ k = o.at' + 4 * ((o.len - o.at') / 4))
    ∧ (∀ c v, copySlice (o.issuer s) o.src o.dst ((o.len - o.at') / 4) s o.at' = (s', k, .bad c v) →
        exec (.copySlicePerform op) s = .next (settleCloses (copyFault (updCopy s' o.id fun y => { y with at' := k }) o c v)))
    ∧ (copySlice (o.issuer s) o.src o.dst ((o.len - o.at') / 4) s o.at' = (s', k, .wait) →
        exec (.copySlicePerform op) s = .next (updCopy s' o.id fun y => { y with at' := k })))
  ∧ (∀ (op : Nat) (s s' : State) (o : CopyOp) (x y : Desc) (k : Nat), runnableCopy s op = some o → o.tensor = some (x, y) →
      (copyElems (o.issuer s) x y (tdRows x * tdCols x - o.at') s o.at' = (s', k, .ok ()) →
        exec (.copytPerform op) s = .next (settleCloses (postCopy (updCopy s' o.id fun z => { z with at' := k }) o))
        ∧ k = o.at' + (tdRows x * tdCols x - o.at'))
      ∧ (∀ c v, copyElems (o.issuer s) x y (tdRows x * tdCols x - o.at') s o.at' = (s', k, .bad c v) →
          exec (.copytPerform op) s = .next (settleCloses (copyFault (updCopy s' o.id fun z => { z with at' := k }) o c v)))
      ∧ (copyElems (o.issuer s) x y (tdRows x * tdCols x - o.at') s o.at' = (s', k, .wait) →
          exec (.copytPerform op) s = .next (updCopy s' o.id fun z => { z with at' := k })))

/-- Copies of slices and of tensors, from their issue to their end (R255, R256, R336). That the first engine which accepts takes a copy,
and when a copy stalls, are the model's choices (logs 11 and 19). -/
def Obligations.CopiesResults : Prop :=
  Claims.CopyResults
  ∧ Claims.TensorCopyResults
  ∧ Claims.CopyPerformResults

/-- LDEL reads an element's value, LDELI its stored bits, STEL writes its bits; beyond the tensor's rows or columns a read gives 0 and a
write does nothing; a handle that the workgroup does not own, and one of matrix flags, is TDESC (R258). -/
def Obligations.ElementResults : Prop :=
  (∀ (d a b : Field) (s : State) (x : Desc) (r c : Nat), Passes s { ops := [opW d, opRp a], lits := [(b.toNat, 64)], need := .core } →
    tldDesc s b.toNat = some x → (readP s a).toNat = c * 2 ^ 32 + r → r < 2 ^ 32 →
    (tdRows x ≤ r ∨ tdCols x ≤ c → exec (.ldel d a b) s = writes s d 0 ∧ exec (.ldeli d a b) s = writes s d 0)
    ∧ (r < tdRows x → c < tdCols x →
        (∀ v s1 z s2, readElem s (me s) false false x r c = .ok (v, s1) → readScale s1 (me s) x r c = .ok (z, s2) →
          exec (.ldel d a b) s = writes s2 d (ldelVal x v z))
        ∧ (∀ v s1, readElem s (me s) false true x r c = .ok (v, s1) → exec (.ldeli d a b) s = writes s1 d (BitVec.ofNat 64 v))))
  ∧ (∀ (d a b : Field) (s : State) (x : Desc) (r c : Nat), Passes s { ops := [opR d, opRp a], lits := [(b.toNat, 64)], need := .core } →
      tldDesc s b.toNat = some x → (readP s a).toNat = c * 2 ^ 32 + r → r < 2 ^ 32 →
      (tdRows x ≤ r ∨ tdCols x ≤ c → exec (.stel d a b) s = .next (advance s))
      ∧ (r < tdRows x → c < tdCols x → ∀ s1,
          writeElem s (me s) { va := 0, size := 1 } x r c (stelBits x (width s) (readR s d).toNat) = .ok s1 →
          exec (.stel d a b) s = .next (advance s1)))
  ∧ (∀ (d a b : Field) (s : State), tldDesc s b.toNat = none →
      (Passes s { ops := [opW d, opRp a], lits := [(b.toNat, 64)], need := .core } →
        exec (.ldel d a b) s = .next (raiseState .tdesc 0 0 s) ∧ exec (.ldeli d a b) s = .next (raiseState .tdesc 0 0 s))
      ∧ (Passes s { ops := [opR d, opRp a], lits := [(b.toNat, 64)], need := .core } →
          exec (.stel d a b) s = .next (raiseState .tdesc 0 0 s)))

/-- TDSET gives the workgroup's handle the 64-byte image it reads, TDGET writes the image of a handle the workgroup owns, TDCLR frees
the handle; a handle that is not owned is TDESC, an address that is no multiple of 64 MISALIGN (R269, R270). -/
def Sys2Proof.Claims.DescriptorResults : Prop :=
  (∀ (d a : Field) (s : State) (l : List Byte) (s' : State) (w : Nat) (g : Workgroup),
    Passes s { ops := [opR a], lits := [(d.toNat, 64)], need := .coreScribe } → curWg s = some (w, g) →
    ((readR s a).toNat % 64 = 0 → readParts s (me s) (readR s a).toNat 16 4 = .ok (l, s') →
      (Settable s w d.toNat (BitVec.ofNat 512 (ofBytes l)) →
        exec (.tdset d a) s = .next (advance (withHandle s' w d.toNat (verOf s w d.toNat) (BitVec.ofNat 512 (ofBytes l)))))
      ∧ (¬ Settable s w d.toNat (BitVec.ofNat 512 (ofBytes l)) → exec (.tdset d a) s = .next (raiseState .tdesc 0 0 s)))
    ∧ ((readR s a).toNat % 64 ≠ 0 → exec (.tdset d a) s = .next (raiseState .misalign (readR s a).toNat 0 s)))
  ∧ (∀ (a b : Field) (s s' : State) (img : Desc), Passes s { ops := [opR b], lits := [(a.toNat, 64)], need := .coreScribe } →
      (readR s b).toNat % 64 = 0 → myHandle s a.toNat = some img →
      writeParts s (me s) (readR s b).toNat 16 (toBytes 64 img.toNat) 4 = .ok s' → exec (.tdget a b) s = .next (advance s'))
  ∧ (∀ (a b : Field) (s : State), Passes s { ops := [opR b], lits := [(a.toNat, 64)], need := .coreScribe } →
      ((readR s b).toNat % 64 ≠ 0 → exec (.tdget a b) s = .next (raiseState .misalign (readR s b).toNat 0 s))
      ∧ ((readR s b).toNat % 64 = 0 → myHandle s a.toNat = none → exec (.tdget a b) s = .next (raiseState .tdesc 0 0 s)))
  ∧ (∀ (d : Field) (s : State) (w : Nat) (g : Workgroup) (t : Tensor) (v : State), Passes s { lits := [(d.toNat, 64)], need := .coreScribe } →
      curWg s = some (w, g) → g.tds.find d.toNat = some t → t.live = true →
      v = dropWeights (setWg s w { g with tds := g.tds.put d.toNat { t with live := false } }) w d.toNat →
      exec (.tdclr d) s = .next (advance v) ∧ myHandle v d.toNat = none)
  ∧ (∀ (d : Field) (s : State), Passes s { lits := [(d.toNat, 64)], need := .coreScribe } → myHandle s d.toNat = none →
      exec (.tdclr d) s = .next (raiseState .tdesc 0 0 s))

/-- PTLOAD gives the workgroup's pattern table the 64 bytes it reads; PTREAD answers an element's index and, 64 above it, its zero bit;
a table of another workgroup, set reserved bits and a table that the workgroup has not loaded are TDESC (R78, R259). -/
def Sys2Proof.Claims.PatternResults : Prop :=
  (∀ (a b : Field) (s s' : State) (l : List Byte) (w : Nat) (g : Workgroup), Passes s { ops := [opRp a], lits := [(b.toNat, 32)], need := .core } →
    curWg s = some (w, g) → (readP s a).toNat % 64 = 0 → readParts s (me s) (readP s a).toNat 16 4 = .ok (l, s') →
    (patternForeign s w b.toNat = false → bits (BitVec.ofNat 512 (ofBytes l)).toNat 511 448 = 0 →
      exec (.ptload a b) s = .next (advance (updWg s' w fun g => { g with pts := g.pts.put b.toNat (BitVec.ofNat 512 (ofBytes l)) })))
    ∧ (patternForeign s w b.toNat = true ∨ bits (BitVec.ofNat 512 (ofBytes l)).toNat 511 448 ≠ 0 →
        exec (.ptload a b) s = .next (raiseState .tdesc 0 0 s)))
  ∧ (∀ (d a b : Field) (s : State) (w : Nat) (g : Workgroup), Passes s { ops := [opW d, opR a], lits := [(b.toNat, 32)], need := .core } →
      curWg s = some (w, g) →
      (∀ t, g.pts.find b.toNat = some t →
        exec (.ptread d a b) s = writes s d (BitVec.ofNat 64 (bits t.toNat (6 * ((readR s a).toNat % 64) + 5) (6 * ((readR s a).toNat % 64))
          + 64 * (if bitAt t.toNat (384 + (readR s a).toNat % 64) then 1 else 0))))
      ∧ (g.pts.find b.toNat = none → exec (.ptread d a b) s = .next (raiseState .tdesc 0 0 s)))

/-- Tensor handles and pattern tables (R259, R269, R270). -/
def Obligations.HandleResults : Prop :=
  Claims.DescriptorResults
  ∧ Claims.PatternResults

/-! Control flow, threads, launches, windows and time (R33-R36, R200-R212) -/

namespace Sys2Proof.Claims

open Sys2Proof Sys2Proof.Machine

/-- There is room for the executing thread at a block after the effects of its terminator; a context always has it. -/
abbrev Room (s : State) (u : Succ) : Prop := ∀ w t, s.cur = .vthread w t → (placeThread (leaveBatch s w t) w t u).isSome = true

/-- The executing agent at the target of a transfer: a thread pending at the block, a context with its next word there (R200, R204). -/
def landed (s : State) (u : Succ) (va : Nat) : State :=
  match s.cur with
  | .vthread w t => (placeThread (leaveBatch s w t) w t u).getD s
  | .scribe w => updCtx s w fun c => { c with pc := va % 2 ^ 64 }
  | .control n => updCtl s n fun c => { c with pc := va % 2 ^ 64 }

/-- A relative target, and the word after this one (R201). -/
def target (s : State) (o : BitVec 18) : Nat := (BitVec.ofNat 64 (curPc s) + o.signExtend 64 * 4).toNat
def following (s : State) : Nat := (curPc s + 4) % 2 ^ 64

/-- A core remembers the raw cycle in which a GROW took words of its lane banks: from k up to n (R210). -/
def noteGrow (s : State) (cid k n : Nat) : State := if k < n then updCore s cid fun c => { c with growRaw := some (coreRaw s cid) } else s

/-- A transfer may go to an address: its checks pass, with the block's header and the state after the fetch. -/
abbrev Reaches (s : State) (va : Nat) (u : Succ) (s' : State) : Prop := transferTarget s va = .ok (u, s') ∧ s'.cur = s.cur

/-- The transfers of control: the form with its operands, where it goes, and its effect on the way, a link or none (R201, R202). -/
def transfers (d a : Field) (o : BitVec 18) : List (Instr × Form × (State → Nat) × (State → State → State)) :=
  [(.br o, term [], fun s => target s o, fun _ t => t),
   (.bnz a o, term [opR a], fun s => if readR s a = 0 then following s else target s o, fun _ t => t),
   (.bz a o, term [opR a], fun s => if readR s a = 0 then target s o else following s, fun _ t => t),
   (.call a o, term [opWp a], fun s => target s o, fun s t => writeP t a (BitVec.ofNat 64 (following s))),
   (.jmpr a, term [opRp a], fun s => (readP s a).toNat, fun _ t => t),
   (.callr d a, term [opWp d, opRp a], fun s => (readP s a).toNat, fun s t => writeP t d (BitVec.ofNat 64 (following s)))]

end Sys2Proof.Claims

/-- A transfer whose target passes its checks and has room goes there: BR always, BNZ and BZ by their register, else on at the next
word; CALL and CALLR leave the address of the next word in their pair, JMPR and CALLR go to a pair's value (R200-R202, R204). -/
def Obligations.BranchResults : Prop :=
  ∀ (d a : Field) (o : BitVec 18), ∀ p ∈ transfers d a o, ∀ (s s' : State) (u : Succ), Passes s p.2.1 → Reaches s (p.2.2.1 s) u s' →
    Room (p.2.2.2 s s') u → exec p.1 s = .next (landed (p.2.2.2 s s') u (p.2.2.1 s))

/-- A transfer whose target fails a check faults with that check's cause and address, before any effect: a misaligned target with
MISALIGN (R200, R204). A thread that has no place at its target faults with SPILL, before any effect (R55). -/
def Sys2Proof.Claims.BranchFaults : Prop :=
  (∀ (d a : Field) (o : BitVec 18), ∀ p ∈ transfers d a o, ∀ s : State, Passes s p.2.1 →
    (∀ (c : Cause) (v : Nat), transferTarget s (p.2.2.1 s) = .bad c v → exec p.1 s = .next (raiseState c v 0 s))
    ∧ (∀ (s' : State) (u : Succ) (w t : Nat), Reaches s (p.2.2.1 s) u s' → s.cur = .vthread w t → (p.2.2.2 s s').cur = s.cur →
        placeThread (leaveBatch (p.2.2.2 s s') w t) w t u = none → exec p.1 s = .next (raiseState .spill 0 0 s)))
  ∧ (∀ (s : State) (va : Nat), va % 4 ≠ 0 → transferTarget s va = .bad .misalign va)

/-- A load, a store, an atomic or a transfer of control that fails its address's checks has no effect but its fault (R200, R204, R233).
That the fault of the word behind an untaken BNZ or BZ of a Scribe or control context is the branch's own is the model's choice (log 88). -/
def Obligations.TransfersFault : Prop :=
  Claims.FailedAccessFaults
  ∧ Claims.BranchFaults

/-- THE END OF A THREAD (R203, R31): EXIT ends the executing thread, and a Scribe context once no matrix operation of it is left. -/
def Sys2Proof.Claims.ExitResults : Prop :=
  (∀ (s : State) (w t : Nat), Passes s (term [] .core) → s.cur = .vthread w t →
    exec .exit s = .next (endThread s w t))
  ∧ (∀ (s : State) (w : Nat), Passes s (term [] .core) → s.cur = .scribe w → matrixPending s w = false →
      exec .exit s = .next (checkEnd (updCtx s w fun c => { c with mode := .ended }) w))
  ∧ (∀ (s : State) (w : Nat), Passes s (term [] .core) → s.cur = .scribe w → matrixPending s w = true → exec .exit s = .next s)

/-- SPAWN enters a child of the lowest free tid with its carried slot 0 at b, a release, or answers 0xFFFF_FFFF; an entry that fails its
checks is its fault, and a child without a place SPILL; LAUNCH answers what the offer of its record answers, the next launch id where the
queue takes it, 0xFFFF_FFFF where it is full and 0xFFFF_FFFE for a record that fails a check, and is a release (R55, R157, R206-R208, the
last answer also for a VENTRY that leads to no header: log 68). -/
def Sys2Proof.Claims.SpawnResults : Prop :=
  (∀ (d a b : Field) (s s1 : State) (u : Succ) (w : Nat) (g : Workgroup), Passes s { ops := [opW d, opRp a, opR b], need := .core } →
    checkEntry s s.cur (readP s a).toNat = .ok (u, s1) → curWg s1 = some (w, g) →
    (freeTid g = none → exec (.spawn d a b) s = writes s1 d 0xFFFFFFFF#64)
    ∧ (∀ t, freeTid g = some t → t < g.tmax ∧ (∀ k < t, (g.threads.find k).isSome = true)
        ∧ (∀ s2, spawnChild s1 w t u ((readR s b).setWidth 32) = some s2 →
            (releaseReady s = true → exec (.spawn d a b) s = writes s2 d (BitVec.ofNat 64 t))
            ∧ (releaseReady s = false → exec (.spawn d a b) s = .next s))
        ∧ (spawnChild s1 w t u ((readR s b).setWidth 32) = none → exec (.spawn d a b) s = .next (raiseState .spill 0 0 s))))
  ∧ (∀ (d a b : Field) (s : State) (c : Cause) (v : Nat), Passes s { ops := [opW d, opRp a, opR b], need := .core } →
      checkEntry s s.cur (readP s a).toNat = .bad c v → exec (.spawn d a b) s = .next (raiseState c v 0 s))
  ∧ (∀ (d a : Field) (s s1 s2 : State) (l : List Byte) (n : Nat), Passes s { ops := [opW d, opRp a] } → (readP s a).toNat % 128 = 0 →
      readParts s (me s) (readP s a).toNat 16 8 = .ok (l, s1) →
      offerLaunch s1 (namedPart s) (me s).sec (BitVec.ofNat 1024 (ofBytes l)) = .ok (n, s2) →
      (releaseReady s = true → exec (.launch d a) s = writes (release s2 2) d (BitVec.ofNat 64 n))
      ∧ (releaseReady s = false → exec (.launch d a) s = .next s))
  ∧ (∀ (d a : Field) (s : State), Passes s { ops := [opW d, opRp a] } → (readP s a).toNat % 128 ≠ 0 →
      exec (.launch d a) s = .next (raiseState .misalign (readP s a).toNat 0 s))
  ∧ (∀ (s s' : State) (p : Nat) (sec : Bool) (r : BitVec 1024),
      (Config.deviceQueueDepth ≤ dlqCount s p → offerLaunch s p sec r = .ok (0xFFFFFFFF, s))
      ∧ (dlqCount s p < Config.deviceQueueDepth →
          (∀ x, entryChecks s p 0 sec false r = .ok (some x, s') → offerLaunch s p sec r = .ok (0xFFFFFFFE, s'))
          ∧ (entryChecks s p 0 sec false r = .ok (none, s') → ∃ t, offerLaunch s p sec r = .ok (nextLid s' p, t)
              ∧ t.dlq = s'.dlq ++ [{ part := p, lid := nextLid s' p, record := r, sec := sec }] ∧ t.wgs = s'.wgs ∧ t.mem = s'.mem)))

/-- The end of a thread, its children and the launches it makes (R31, R203, R206-R208). That a release waits for every push of the
part is the model's choice (log 10). -/
def Obligations.ThreadResults : Prop :=
  Claims.ExitResults
  ∧ Claims.SpawnResults

/-- SETWB sets the window base to a multiple of 8 up to 248, GROW and SHRINK the allotment to a multiple of 8; GROW answers 0 where the
lane bank has no room, and new words read 0; every other value is REGBOUND (R67, R68, R70, R209). -/
def Sys2Proof.Claims.WindowResults : Prop :=
  (∀ (a : Field) (s : State) (w t : Nat), Passes s (vec [opR a]) → s.cur = .vthread w t →
    ((readR s a).toNat % 8 = 0 → (readR s a).toNat ≤ 248 →
      exec (.setwb a) s = .next (advance (updThread s w t fun th => { th with wbase := (readR s a).toNat })))
    ∧ ((readR s a).toNat % 8 ≠ 0 ∨ 248 < (readR s a).toNat → exec (.setwb a) s = .next (raiseState .regbound 0 0 s)))
  ∧ (∀ (d a : Field) (s : State) (w t : Nat) (g : Workgroup) (th : Thread) (n : Nat), Passes s (vec [opW d, opR a]) → s.cur = .vthread w t →
      wg? s w = some g → thread? s w t = some th → n = (readR s a).toNat → n % 8 = 0 → th.allot ≤ n → n ≤ 256 →
      (n - Max.max th.allot g.a ≤ bankFree s (g.cid?.getD 0) (t % 32) →
        exec (.grow d a) s = writes (updThread (noteGrow s (g.cid?.getD 0) (Max.max th.allot g.a) n) w t fun x =>
          { x with v := x.v.filter (·.1 < th.allot), bad := x.bad.filter (· < th.allot), allot := n }) d (BitVec.ofNat 64 n))
      ∧ (bankFree s (g.cid?.getD 0) (t % 32) < n - Max.max th.allot g.a → exec (.grow d a) s = writes s d 0)
      ∧ (∀ k, th.allot ≤ k → SMap.get 0 (th.v.filter (·.1 < th.allot)) k = 0))
  ∧ (∀ (d a : Field) (s : State) (w t : Nat) (g : Workgroup) (th : Thread) (n : Nat), Passes s (vec [opW d, opR a]) → s.cur = .vthread w t →
      wg? s w = some g → thread? s w t = some th → n = (readR s a).toNat → n % 8 ≠ 0 ∨ n < th.allot ∨ 256 < n →
      exec (.grow d a) s = .next (raiseState .regbound 0 0 s))
  ∧ (∀ (a : Field) (s : State) (w t : Nat) (th : Thread) (n : Nat), Passes s (vec [opR a]) → s.cur = .vthread w t → thread? s w t = some th →
      n = (readR s a).toNat →
      (n % 8 = 0 → 8 ≤ n → n ≤ th.allot →
        exec (.shrink a) s = .next (advance (updThread s w t fun x =>
          { x with v := x.v.filter (·.1 < n), bad := x.bad.filter (· < n), allot := n })))
      ∧ (n % 8 ≠ 0 ∨ n < 8 ∨ th.allot < n → exec (.shrink a) s = .next (raiseState .regbound 0 0 s)))

/-- RDTIME answers the reference timer, RDCYC the raw cycles and RDNCYC the nominal cycles of the executing core, and RDLRW the next
opening of the window of a Larder address, after the checks of a one-byte load, its translation reported (R354; R6, R81, R82, R140, R211). -/
def Sys2Proof.Claims.TimeResults : Prop :=
  (∀ (d : Field) (s : State), Passes s { ops := [opWp d] } →
    exec (.rdtime d) s = writes2 s d (BitVec.ofNat 64 (timer s))
    ∧ exec (.rdcyc d) s = writes2 s d (BitVec.ofNat 64 (coreRaw s (clockCid s)))
    ∧ exec (.rdncyc d) s = writes2 s d (BitVec.ofNat 64 (coreNacc s (clockCid s) / 12)))
  ∧ (∀ (d a : Field) (s : State) (t : Tgt), Passes s { ops := [opWp d, opRp a] } → Reads s (readP s a).toNat 1 t →
      exec (.rdlrw d a) s = writes2 (noteLeaf s (me s) (readP s a).toNat) d (BitVec.ofNat 64 (lrwValue s (me s) (readP s a).toNat)))
  ∧ (∀ die g now : Nat, now < nextWindow die g now ∧ nextWindow die g now ≤ now + 6400
      ∧ nextWindow die g now % 6400 = (Config.lrphase die + 800 * g) % 6400)

/-- The register window and allotment, and the REGBOUND faults, and the counters (R6, R67-R70, R81, R82, R140, R209, R211). -/
def Obligations.WindowAndTimeResults : Prop :=
  Claims.WindowResults
  ∧ Claims.TimeResults

/-! The matrix engine (R272-R290), the geometry and fragment paths (R291-R308) and ray queries (R309-R317) -/

namespace Sys2Proof.Claims

open Sys2Proof Sys2Proof.Machine

/-- A form of the matrix engine passes its field checks on the context of a workgroup, which has no operation held after an engine fault:
while it has one, the form stalls before its operand checks (R262, R277). -/
def MatPasses (s : State) (fm : Form) (w : Nat) : Prop :=
  Passes s { fm with need := .matrix } ∧ (∃ g, curWg s = some (w, g)) ∧ (ctxOf s w).held = []

/-- The forms of the matrix engine, with their fields (R262). -/
def matForms (d a b : Field) : List (Instr × Form) :=
  [(.mzero d, { lits := [(d.toNat, 4)], need := .matrix }), (.mmd d a b, { lits := [(d.toNat, 4), (a.toNat, 64), (b.toNat, 64)], need := .matrix }),
   (.mmp d a b, { lits := [(d.toNat, 4), (a.toNat, 64), (b.toNat, 64)], need := .matrix }),
   (.mstore d a b, { ops := [opR b], lits := [(d.toNat, 4), (a.toNat, 64)], need := .matrix }),
   (.mldw d a, { lits := [(d.toNat, 4), (a.toNat, 64)], need := .matrix }), (.mstw d a, { lits := [(d.toNat, 4), (a.toNat, 64)], need := .matrix }),
   (.mflag d a, { ops := [opW d], lits := [(a.toNat, 4)], need := .matrix }), (.mcomp a b, { ops := [opR a, opR b], need := .matrix }),
   (.mrows a, { ops := [opR a], need := .matrix }), (.mcols a, { ops := [opR a], need := .matrix })]

/-- The engine accepts an operation now: it need not wait, and the addresses it names pass their checks (R262, R272). -/
abbrev Accepts (s : State) (o : MatOp) : Prop := matStall s o.wg true = false ∧ o.memFail s (me s) = none

/-- An operation as a context issues it, with the active counts of that moment (R274). -/
def matOp (s : State) (w fn acc : Nat) (da db : Desc) : MatOp :=
  { wg := w, fn := fn, acc := acc, da := da, db := db, mode := 0, ract := (ctxOf s w).ract, cact := (ctxOf s w).cact, addr := 0, inc := 0, tag := (0, 0) }

/-- The version of a handle of the executing context's workgroup. -/
def myVer (s : State) (h : Nat) : Nat := (((curWg s).bind fun g => g.2.tds.find h).map (·.ver)).getD 0

/-- A square tile of an image operand: a plain layout of WRS images of 32 or 64 rows, 64 only with accumulator 0 (R288). -/
abbrev ImageTile (x : Desc) (d : Field) : Prop :=
  tdFmt x = 0x0C ∧ tdTr x = tdTc x ∧ (tdTr x = 32 ∨ tdTr x = 64) ∧ (tdTr x = 64 → d = 0)

/-- An effect on the fragment of the executing thread, as long as it is not resolved (R306). -/
def onFragment (s : State) (id : Nat) (f : Frag → Frag) : State := { s with frags := s.frags.map fun x => if x.id == id && x.res == .no then f x else x }

/-- A query as RAYQ hands it to the ray unit (R311). -/
def rayQuery (s : State) (w : Nat) (g : Workgroup) (o h r : Nat) : RayQ :=
  { id := s.nextId, eid := rayEid (g.cid?.getD 0), wg := w, lid := g.lid, wid := g.wid, part := g.part, lvl := g.lvl, sec := g.sec, off := o,
    slot := (List.range 16).map fun k => BitVec.ofNat 32 (bits r (32 * k + 31) (32 * k)), hdr := h, held := false,
    cid := g.cid?.getD 0 }

/-- The counter of a query's post: words 12 and 13 of its slot (R310). -/
def rayCounter (x : RayQ) : Nat := (x.slot.getD 12 0).toNat + 2 ^ 32 * (x.slot.getD 13 0).toNat

/-- A form that has passed its operand checks hands its operation to the engine: it is queued where the engine accepts it, the form waits
while the engine has to be waited for, and an address that fails its check is the form's fault (R262, R272). -/
def Issues (r : Result) (s : State) (o : MatOp) : Prop :=
  (Accepts s o → r = .next (advance (acceptOp s o)))
  ∧ (matStall s o.wg true = true → r = .next s)
  ∧ (∀ c v, matStall s o.wg true = false → o.memFail s (me s) = some (c, v) → r = .next (raiseState c v 0 s))

/-- The core and engine of the executing context take its set for MFLAG (R75). -/
def withSet (s : State) (w : Nat) : State := takeEngine (updCtx s w fun c => { c with used := true }) (((me s).cid).getD 0) w

/-- A meshlet as EMITVP queues it (R295). -/
def meshletOf (g : Workgroup) (bseq cid : Nat) (l : List Byte) : Meshlet :=
  { part := g.part, die := cidDie cid, cg := cidCg cid, bseq := bseq, lvl := g.lvl, sec := g.sec, lid := g.lid, bytes := l, tri := 0, reg := 0 }

end Sys2Proof.Claims

/-- MZERO, MMD, MMP, MSTORE, MLDW and MSTW queue their operation with the active counts of their issue, once their operands pass
their checks and the engine need not wait (R272, R274, R280, R288, R289). -/
def Sys2Proof.Claims.MatrixIssueResults : Prop :=
  (∀ (d a b : Field), ∀ p ∈ matForms d a b, ∀ (s : State) (w : Nat) (g : Workgroup), Passes s p.2 → curWg s = some (w, g) →
    (ctxOf s w).held ≠ [] → exec p.1 s = .next s) ∧
  (∀ (d : Field) (s : State) (w : Nat), MatPasses s { lits := [(d.toNat, 4)] } w → Issues (exec (.mzero d) s) s (matOp s w 0 d.toNat 0 0))
  ∧ (∀ p ∈ [(Instr.mmd, 1), (Instr.mmp, 2)], ∀ (d a b : Field) (s : State) (w : Nat) (x y : Desc),
      MatPasses s { lits := [(d.toNat, 4), (a.toNat, 64), (b.toNat, 64)] } w → myHandle s a.toNat = some x → myHandle s b.toNat = some y →
      (mulCheck (p.2 == 2) d.toNat x y = none →
        Issues (exec (p.1 d a b) s) s { matOp s w p.2 d.toNat x y with tag := (b.toNat, myVer s b.toNat) })
      ∧ (∀ c, mulCheck (p.2 == 2) d.toNat x y = some c → exec (p.1 d a b) s = .next (raiseState c 0 0 s)))
  ∧ (∀ (d a b : Field) (s : State) (w : Nat) (x : Desc), MatPasses s { ops := [opR b], lits := [(d.toNat, 4), (a.toNat, 64)] } w →
      myHandle s a.toNat = some x → (readR s b).toNat % 8 ≤ 5 → storeOk x = true → (tdTr x = 64 → d = 0) →
      Issues (exec (.mstore d a b) s) s { matOp s w 3 d.toNat 0 x with mode := (readR s b).toNat % 8 })
  ∧ (∀ p ∈ [(Instr.mldw, 4), (Instr.mstw, 5)], ∀ (d a : Field) (s : State) (w : Nat) (x : Desc),
      MatPasses s { lits := [(d.toNat, 4), (a.toNat, 64)] } w → myHandle s a.toNat = some x → ImageTile x d →
      Issues (exec (p.1 d a) s) s (matOp s w p.2 d.toNat 0 x))
  ∧ (∀ (s : State) (o : MatOp) (g : Workgroup) (cid : Nat), wg? s o.wg = some g → g.cid? = some cid →
      (coreAt (acceptOp s o) cid).mq = (coreAt s cid).mq ++ [o] ∧ (acceptOp s o).mem = s.mem)

/-- MMD and MMP turn their operands away in the order of R280: shapes that do not pair, then the format of a, with TDESC; a 64-row
product into an accumulator other than 0 is ILLEGAL. -/
def Sys2Proof.Claims.MatrixOperandChecks : Prop :=
  ∀ (mmp : Bool) (acc : Nat) (a b : Desc),
    (tdTr a ≠ tdTc b ∨ (tdTr a ≠ 32 ∧ tdTr a ≠ 64) ∨ tdTc a ≠ tdTr b ∨ tdTc a % 32 ≠ 0 ∨ tdTc a = 0 → mulCheck mmp acc a b = some .tdesc)
    ∧ (tdFmt a = 0 ∨ 0x0A < tdFmt a → mulCheck mmp acc a b = some .tdesc)
    ∧ (mulCheck mmp acc a b = none → tdTr a = 64 → acc = 0)
    ∧ (mulCheck true acc a b = none → tdFmt b = 0x10 ∧ tdG b ≠ 0)

/-- MFLAG answers the flags of an accumulator no operation names any more (of a set that was lost it faults, log 96), MCOMP queues its post, MROWS and MCOLS set the active counts
to 1 to 64, and the engine performs the head of its queue once the operation's core-cycles have passed: the operation leaves it, or faults
and is held; an MMD takes the cycles of R282 and an MMP those of R24 (R273, R274, R290). -/
def Sys2Proof.Claims.MatrixControlResults : Prop :=
  (∀ (d a : Field) (s : State) (w : Nat), MatPasses s { ops := [opW d], lits := [(a.toNat, 4)] } w →
    (matStall s w false = false → accPending s w a.toNat = false →
      ((ctxOf (withSet s w) w).bad = none →
        exec (.mflag d a) s = writes (withSet s w) d (BitVec.ofNat 64 (accFlags (ctxOf (withSet s w) w) a.toNat)))
      ∧ (∀ c, (ctxOf (withSet s w) w).bad = some c → exec (.mflag d a) s = .next (raiseState c 0 0 s)))
    ∧ (matStall s w false = true ∨ accPending s w a.toNat = true → exec (.mflag d a) s = .next s))
  ∧ (∀ (a b : Field) (s : State) (w : Nat), MatPasses s { ops := [opR a, opR b] } w →
      ((readR s a).toNat % 8 = 0 →
        Issues (exec (.mcomp a b) s) s { matOp s w 7 0 0 0 with addr := (readR s a).toNat, inc := (readR s b).toNat })
      ∧ ((readR s a).toNat % 8 ≠ 0 → exec (.mcomp a b) s = .next (raiseState .misalign (readR s a).toNat 0 s)))
  ∧ (∀ (a : Field) (s : State) (w : Nat), MatPasses s { ops := [opR a] } w → 1 ≤ (readR s a).toNat → (readR s a).toNat ≤ 64 →
      exec (.mrows a) s = .next (advance (updCtx s w fun c => { c with ract := (readR s a).toNat }))
      ∧ exec (.mcols a) s = .next (advance (updCtx s w fun c => { c with cact := (readR s a).toNat })))
  ∧ (∀ (a : Field) (s : State) (w : Nat), MatPasses s { ops := [opR a] } w → (readR s a).toNat = 0 ∨ 64 < (readR s a).toNat →
      exec (.mrows a) s = .next (raiseState .illegal 0 0 s) ∧ exec (.mcols a) s = .next (raiseState .illegal 0 0 s))
  ∧ (∀ (cid : Nat) (s : State) (o : MatOp) (l : List MatOp), (coreAt s cid).mq = o :: l → engineFree s cid o.wg = true →
      accepts s (matEid cid) = true → coreRuns s cid = true →
      (∀ t n, o.run (takeEngine s cid o.wg) cid = .ok (t, n) →
        ((coreAt s cid).mqSince + n ≤ coreRaw s cid → exec (.matrixOpPerform cid) s =
          .next (refillQueue (updCore t cid fun c => { c with mq := c.mq.drop 1, mqSince := coreRaw s cid }) cid))
        ∧ (coreRaw s cid < (coreAt s cid).mqSince + n → exec (.matrixOpPerform cid) s = .next s)
        ∧ (o.fn = 1 → n = mmdCycles o.da o.db))
      ∧ (∀ c v, o.run (takeEngine s cid o.wg) cid = .bad c v → exec (.matrixOpPerform cid) s = .next (matFault s cid o c v))
      ∧ (o.run (takeEngine s cid o.wg) cid = .wait → exec (.matrixOpPerform cid) s = .next s))
  ∧ (∀ (m : SMap Byte) (o : MatOp), mmpCycles m o =
      ((((List.range (tdTc o.da / tdG o.db)).filter (groupIn o.db)).map fun g => ((List.range o.shape).map fun j =>
        o.rows * (if j < o.cols then Max.max (tdG o.db) (4 * (groupSteps m o.db j g + 1)) else tdG o.db) + (o.shape - o.rows) * tdG o.db).sum).sum
        + 32767) / 32768)

/-- The forms of the matrix engine and its performance of their operations (R272-R274, R280, R288-R290). What
becomes of a set whose slot is poisoned is the model's choice (log 96). -/
def Obligations.MatrixResults : Prop :=
  Claims.MatrixIssueResults
  ∧ Claims.MatrixOperandChecks
  ∧ Claims.MatrixControlResults

/-- EMITVP queues the meshlet it finds in its scratchpad, and waits where the queue has no place for it; a binning unit bins its next one,
as far as its packets find places; packets and seals reach their region units, and a batch that is over retires and sends its seals
(R295-R303). -/
def Obligations.GeometryResults : Prop :=
  (∀ (a : Field) (s : State) (w o : Nat) (g : Workgroup) (b : MeshBatch) (t t' : Tgt) (n : Nat), Passes s { ops := [opRp a], need := .geometry } →
    (readP s a).toNat % 16 = 0 → canonical (readP s a).toNat = true → rangeOf (readP s a).toNat = .self o → curWg s = some (w, g) →
    batchOf s g.part g.lid g.wid = some b → spadTarget s (me s) { va := (readP s a).toNat, size := 16, rd := true } w o = .ok t →
    (meshletBad s g.part (got s t 16) = true → exec (.emitvp a) s = .next (raiseState .illegal 0 0 s))
    ∧ (meshletBad s g.part (got s t 16) = false → n = meshletBytes (got s t 16) →
        spadTarget s (me s) { va := (readP s a).toNat, size := n, rd := true } w o = .ok t' →
        (binRoom s g.part (cidDie (g.cid?.getD 0)) (cidCg (g.cid?.getD 0)) b.bseq = true →
          exec (.emitvp a) s = .next (advance { after s t' n with
            binq := s.binq ++ [meshletOf g b.bseq (g.cid?.getD 0) (readTgt s (me s) t' n).1] }))
        ∧ (binRoom s g.part (cidDie (g.cid?.getD 0)) (cidCg (g.cid?.getD 0)) b.bseq = false → exec (.emitvp a) s = .next s)))
  ∧ (∀ (d g : Nat) (s s1 s2 : State) (m : Meshlet) (r : Option (BitVec 512)), cgRuns s d g = true → nextMeshlet s d g = some m →
      readRst s m.issuer (m.word 0 / 2 ^ 16) = .ok (r, s1) →
      (binTriangles m r (m.nt - m.tri) s1 m.tri m.reg = (s2, none) →
        exec (.binningMeshlet d g) s = .next (adoptIdle (closeBatch { s2 with binq := replaceMeshlet m none s2.binq } m.part m.bseq) d g))
      ∧ (∀ t k, binTriangles m r (m.nt - m.tri) s1 m.tri m.reg = (s2, some (t, k)) →
          exec (.binningMeshlet d g) s = .next { s2 with binq := replaceMeshlet m (some { m with tri := t, reg := k }) s2.binq }))
  ∧ (∀ (n : Nat) (s : State) (k : Packet), s.packets.find? (fun k => k.id == n && (k.stage == .hold || k.stage == .full)) = some k →
      mayArrive s k = true → ownerRuns s k = true → (k.stage = .full → holdRoom s k.part (k.src / 256) k.bseq = true) →
      exec (.visPacketArrival n) s = .next (acceptPacket s k true))
  ∧ (∀ (n : Nat) (s : State) (k : Packet), s.packets.find? (fun k => k.id == n && (k.stage == .hold || k.stage == .full)) = some k →
      k.stage = .full → holdRoom s k.part (k.src / 256) k.bseq = true → (mayArrive s k && ownerRuns s k) = false →
      exec (.visPacketArrival n) s = .next (setPacket s k.id fun x => { x with stage := .hold }))
  ∧ (∀ (n : Nat) (s : State) (k : Packet), s.packets.find? (fun k => k.id == n && k.stage == .refused) = some k → mayArrive s k = true →
      ownerRuns s k = true → exec (.packetResend n) s = .next (acceptPacket s k true))
  ∧ (∀ (n : Nat) (s : State) (k : Packet), s.packets.find? (fun k => k.id == n && k.stage == .refused) = none → hearthNext s n = some k →
      ownerRuns s k = true → exec (.packetResend n) s = .next (acceptPacket s k false))
  ∧ (∀ (p n : Nat) (s : State) (b : MeshBatch), s.batches.find? (fun b => b.part == p && b.bseq == n && !b.retired) = some b → b.count ≤ b.ended →
      batchQueued s p n = false → batchOut s p n = false →
      ∀ u, u = updBatch s p n (fun b => { b with retired := true }) →
        exec (.batchRetire p n) s = .next ((shadingGroups u p).foldl (fun v x => sendSeals v u.nextId b x.1 x.2) u)
        ∧ (∀ x ∈ u.batches, x.part = p → x.bseq = n → x.retired = true) ∧ u.packets = s.packets)
  ∧ (∀ (n : Nat) (s : State) (x : Seal), s.seals.find? (fun x => x.id == n && !x.held && cgRuns s x.die x.cg && !crossWait s x.src x.die) = some x →
      (∀ y ∈ s.seals, y.cast < x.cast → y.held = false → y.part = x.part → y.src = x.src → y.die = x.die → y.cg ≠ x.cg) →
      ∃ t, exec (.sealArrival n) s = .next (stepUnit t x.die x.cg)
        ∧ t.seals = s.seals.map (fun y => if y.id == n then { y with held := true } else y))
  ∧ (∀ (d g : Nat) (s : State), inputRoom s d g = true → cgRuns s d g = true → exec (.rasterInputFree d g) s = .next (stepUnit s d g))

/-- A raster unit rasterises its next packet whole, a fragment is spawned on the host with most free threads or is discarded, and a
blend unit acts on the fragments of a pixel in the order of their tags (R304-R307). -/
def Sys2Proof.Claims.FragmentResults : Prop :=
  (∀ (d g : Nat) (s : State) (k : Packet), s.packets.find? (fun k => k.stage == .raster && k.die == d && k.cg == g && cgRuns s d g) = some k →
    exec (.rasterPacket d g) s = .next (adoptIdle (k.tris.foldl (rasterTriangle k) (dropPacket s k.id)) d g))
  ∧ (∀ (d g : Nat) (s : State) (f : Frag),
      s.frags.find? (fun f => f.die == d && f.cg == g && f.thread.isNone && f.res == .no && cgRuns s d g) = some f →
      (fragHost (fragHosts s f.part d g) = none → exec (.fragmentSpawn d g) s = .next (discardUnspawned s f))
      ∧ (∀ cid w x t c v, fragHost (fragHosts s f.part d g) = some (cid, w, x) → freeTid x = some t →
          checkEntryAs s { issuer s (.vthread w t) with ag := none } cid (rstFentry f.rst) = .bad c v →
          exec (.fragmentSpawn d g) s = .next (discardUnspawned s f))
      ∧ (∀ cid w x t u s1 s2, fragHost (fragHosts s f.part d g) = some (cid, w, x) → freeTid x = some t →
          checkEntryAs s { issuer s (.vthread w t) with ag := none } cid (rstFentry f.rst) = .ok (u, s1) →
          placeThread (spadWrite (addThread s1 w t { newThread s1 x t (BitVec.ofNat 32 (32 * t)) with frag := some f.id }) w (32 * t) (fragRecord f)) w t u
            = some s2 →
          exec (.fragmentSpawn d g) s =
            .next (updFrag s2 f.id fun f => { f with thread := some (w, t), lvl := x.lvl, sec := x.sec, lid := x.lid, wid := x.wid })))
  ∧ (∀ (n : Nat) (s : State) (f : Frag), s.frags.find? (fun f => f.id == n && cgRuns s f.die f.cg) = some f → pixelFirst s f = true →
      (regionGet s f.part f.rx f.ry).held = false → accepts s (blendEid f) = true →
      (f.res = .discard → exec (.blendFragment n) s = .next (dropFrag s f.id))
      ∧ (∀ r g b a t f', f.res = .blend r g b a → blendRun [r, g, b, a] 4 s f = (t, f', .ok ()) →
          exec (.blendFragment n) s = .next (dropFrag t f.id))
      ∧ (∀ r g b a t f' c v, f.res = .blend r g b a → blendRun [r, g, b, a] 4 s f = (t, f', .bad c v) →
          exec (.blendFragment n) s = .next (raiseEngine (updFrag (setRegion t { regionGet t f.part f.rx f.ry with held := true }) f.id fun _ => f')
            (blendEid f) f.part f.lvl f.sec f.lid f.wid 3 f.id c v))
      ∧ (∀ r g b a t f', f.res = .blend r g b a → blendRun [r, g, b, a] 4 s f = (t, f', .wait) →
          exec (.blendFragment n) s = .next (updFrag t f.id fun _ => f')))
  ∧ (∀ (n : Nat) (s : State) (f : Frag), s.frags.find? (fun f => f.id == n && cgRuns s f.die f.cg) = some f → pixelFirst s f = false →
      exec (.blendFragment n) s = .next s)

/-- BLND, DISCARD and DEPTHW give the thread's fragment its colour, its discard or its depth while it is not resolved; without a fragment
they are ILLEGAL (R306). -/
def Sys2Proof.Claims.ResolveResults : Prop :=
  (∀ (s : State) (w t n : Nat) (g : Workgroup), curThread s = some (w, g, t) → ((thread? s w t).bind fun x => x.frag) = some n →
    (∀ a : Field, Passes s { ops := [opRq a], need := .shading } → exec (.blnd a) s = .next (advance (onFragment s n fun f =>
      { f with res := .blend ((readQ s a).setWidth 32) ((readQ s a >>> 32).setWidth 32) ((readQ s a >>> 64).setWidth 32) ((readQ s a >>> 96).setWidth 32) })))
    ∧ (Passes s { need := .shading } → exec .discard s = .next (advance (onFragment s n fun f => { f with res := .discard })))
    ∧ (∀ a : Field, Passes s { ops := [opR a], need := .shading } →
        exec (.depthw a) s = .next (advance (onFragment s n fun f => { f with z := (readR s a).setWidth 32 }))))
  ∧ (∀ (s : State) (w t : Nat) (g : Workgroup), curThread s = some (w, g, t) → ((thread? s w t).bind fun x => x.frag) = none →
      (Passes s { need := .shading } → exec .discard s = .next (raiseState .illegal 0 0 s))
      ∧ (∀ a : Field, Passes s { ops := [opRq a], need := .shading } → exec (.blnd a) s = .next (raiseState .illegal 0 0 s))
      ∧ (∀ a : Field, Passes s { ops := [opR a], need := .shading } → exec (.depthw a) s = .next (raiseState .illegal 0 0 s)))

/-- The depth test and the blend equations of R307: LT and LE pass a smaller depth, GT a greater one, the function 0 any; REPLACE gives
the source, OVER and ADD sum exactly and round once. -/
def Sys2Proof.Claims.BlendValues : Prop :=
  (∀ z t : Nat, depthPass 0 z t = true ∧ depthPass 1 z t = Fmt.fp32.flt z t ∧ depthPass 2 z t = Fmt.fp32.fle z t ∧ depthPass 3 z t = Fmt.fp32.flt t z)
  ∧ (∀ (s a : FVal) (old : Nat), blendChannel 2 1 s a old = near .fp32 (s.add ((val32 old).mul ((FVal.fin false 1 0).add a.neg)))
      ∧ blendChannel 2 2 s a old = near .fp32 (s.add (val32 old)) ∧ blendChannel 2 0 s a old = near .fp32 s)

/-- Fragments from the raster unit to the target (R304-R307). -/
def Obligations.FragmentPathResults : Prop :=
  Claims.FragmentResults
  ∧ Claims.ResolveResults
  ∧ Claims.BlendValues

/-- RAYQ hands an aligned, well-formed ray slot to the ray unit that has room, and waits while it has none; a misaligned slot, structure or
counter is MISALIGN, and set bits that must be 0 are ILLEGAL. RAY_QUERY_COMPLETE puts the query's hit record 32 bytes into the slot, then
adds its increment to its counter where it names one, and the query is gone; one whose read or post faults is held. A ray that can hit
nothing gets the record of a miss; the closest hit is one of the hits, and none is nearer, or as near with a lower instance, or that with
a lower primitive (R310, R311, R315, R317). -/
def Obligations.RayResults : Prop :=
  (∀ (a b : Field) (s : State) (t : Tgt) (r : Nat), Passes s { ops := [opR a, opRp b], need := .shading } →
    (readR s a).toNat % 64 = 0 → (readP s b).toNat % 64 = 0 →
    Reads s (selfVa (readR s a).toNat) 64 t → r = got s t 64 →
    (bits r 511 491 ≠ 0 → exec (.rayq a b) s = .next (raiseState .illegal 0 0 (after s t 64)))
    ∧ (bits r 511 491 = 0 → bits r 447 384 % 8 ≠ 0 → exec (.rayq a b) s = .next (raiseState .misalign (bits r 447 384) 0 (after s t 64)))
    ∧ (∀ (u : State) (q : Tgt) (w : Nat) (g : Workgroup), u = after s t 64 → bits r 511 491 = 0 → bits r 447 384 % 8 = 0 →
        Reads u (readP s b).toNat 64 q → curWg u = some (w, g) →
        (accepts u (rayEid (g.cid?.getD 0)) = true → (u.rays.filter fun x => x.eid == rayEid (g.cid?.getD 0)).length < 512 →
          exec (.rayq a b) s = .next (advance { useTgt u q false with
            rays := (useTgt u q false).rays ++ [rayQuery u w g (readR s a).toNat (readP s b).toNat r], nextId := (useTgt u q false).nextId + 1 }))
        ∧ (accepts u (rayEid (g.cid?.getD 0)) = false ∨ 512 ≤ (u.rays.filter fun x => x.eid == rayEid (g.cid?.getD 0)).length →
            exec (.rayq a b) s = .next u)))
  ∧ (∀ (a b : Field) (s : State), Passes s { ops := [opR a, opRp b], need := .shading } →
      ((readR s a).toNat % 64 ≠ 0 → exec (.rayq a b) s = .next (raiseState .misalign (selfVa (readR s a).toNat) 0 s))
      ∧ ((readR s a).toNat % 64 = 0 → (readP s b).toNat % 64 ≠ 0 →
          exec (.rayq a b) s = .next (raiseState .misalign (readP s b).toNat 0 s)))
  ∧ (∀ (n : Nat) (s : State) (x : RayQ), s.rays.find? (fun x => x.id == n && !x.held) = some x → accepts s x.eid = true →
      cgRuns s (cidDie x.eid) (x.eid % 16) = true → (∀ y ∈ s.items, y.wg ≠ x.wg) →
      (∀ l s1, rayResult x (x.issuer s) s = .ok (.ok l, s1) →
        (rayCounter x = 0 → exec (.rayQueryComplete n) s = .next (dropRay (putHit s1 x (x.issuer s) l) x.id))
        ∧ (rayCounter x ≠ 0 →
            (∀ s2, postAdd (putHit s1 x (x.issuer s) l) (x.issuer s) (some x.cid) (rayCounter x) (x.slot.getD 14 0).toNat = .ok s2 →
              exec (.rayQueryComplete n) s = .next (dropRay s2 x.id))
            ∧ (∀ c v, postAdd (putHit s1 x (x.issuer s) l) (x.issuer s) (some x.cid) (rayCounter x) (x.slot.getD 14 0).toNat = .bad c v →
                exec (.rayQueryComplete n) s = .next (rayFault (putHit s1 x (x.issuer s) l) x c v))))
      ∧ (∀ c v s1, rayResult x (x.issuer s) s = .ok (.error (c, v), s1) → exec (.rayQueryComplete n) s = .next (rayFault s1 x c v))
      ∧ (∀ c v, rayResult x (x.issuer s) s = .bad c v → exec (.rayQueryComplete n) s = .next (rayFault s x c v)))
  ∧ (∀ (s : State) (x : RayQ) (i : Issuer) (l : List Byte) (g : Workgroup), i.wg = some x.wg → wg? s x.wg = some g →
      (∀ y ∈ s.subs, y.wg = x.wg → y.off + 32 ≤ x.off + 0x20 ∨ x.off + 0x20 + l.length ≤ y.off) → g.cid?.isSome = true →
      putHit s x i l = spadWrite s x.wg (x.off + 0x20) l)
  ∧ (∀ (s : State) (n : Nat), ∀ y ∈ (dropRay s n).rays, y.id ≠ n)
  ∧ (∀ (s : State) (x : RayQ) (i : Issuer),
      rayOf (vec3 (x.slot.getD 0 0).toNat (x.slot.getD 1 0).toNat (x.slot.getD 2 0).toNat)
        (vec3 (x.slot.getD 4 0).toNat (x.slot.getD 5 0).toNat (x.slot.getD 6 0).toNat) (boundOf (x.slot.getD 3 0).toNat) (boundOf (x.slot.getD 7 0).toNat)
        = none → rayResult x i s = .ok (.ok (hitRecord none), s))
  ∧ (∀ l : List Hit, l ≠ [] → (∀ x ∈ l, 0 < x.t.d) → ∃ y ∈ l, closest l = some y
      ∧ ∀ x ∈ l, x.t.lt y.t = false ∧ (y.t.lt x.t = false → y.inst < x.inst ∨ (y.inst = x.inst ∧ y.prim ≤ x.prim)))

/-! Traps, events, CSRs and the privileged forms (R322-R344, R355, R393, R402, R415-R417) -/

namespace Sys2Proof.Claims

open Sys2Proof Sys2Proof.Machine

/-- The form of a privileged instruction with its operands and level. -/
def priv (l : List Opnd) (n : Nat) : Form := { ops := l, lvl := n, need := .scribe }
/-- A privileged form passes its checks, and no access to a peer keeps its release waiting (R157, R333). -/
abbrev Privileged (s : State) (l : List Opnd) (n : Nat) : Prop := Passes s (priv l n) ∧ releaseReady s = true
def ops3 (d a b : Field) : List Opnd := [opW d, opR a, opR b]
def ops2 (d a : Field) : List Opnd := [opW d, opR a]

/-- The next state of a privileged form that answers a status or a value: a release of SYS scope, then d (R333). -/
def answers (s : State) (d : Field) (v : Nat) : Result := .next (advance (writeR (release s 3) d (BitVec.ofNat 64 v)))

/-- The next state of a form that stalls its context until a unit completes it. -/
def stalls (s : State) (d : Field) (k : FormKind) : State :=
  let s' := { s with forms := s.forms ++ [{ id := s.nextId, ag := some s.cur, d := d, kind := k }], nextId := s.nextId + 1 }
  match s.cur with
  | .scribe w => updCtx s' w fun c => { c with mode := .form }
  | .control n => updCtl s' n fun c => { c with mode := .form }
  | .vthread _ _ => s

/-- The privileged forms with the level each needs (R340, R341). -/
def privileged3 : List (Three × Nat) :=
  [(.ownxfer, 1), (.pstep, 2), (.wgsave, 1), (.wgload, 1), (.wgmigr, 1), (.resume, 1), (.chbind, 1), (.pbset, 1), (.diewr, 2)]
def privileged2 : List (Two × Nat) :=
  [(.ptupd, 1), (.rgnflush, 1), (.rgnq, 1), (.wgkill, 1), (.thkill, 1), (.lwopen, 2), (.lwclose, 2), (.dierd, 2), (.linktrn, 2)]

/-- The event registers of a control context that hold what is written to them, with the number of values that they hold (R338, R343). -/
def eventRegisters : List (Nat × Nat) :=
  [(0x120, 2 ^ 64), (0x121, 2 ^ 64), (0x122, 2 ^ 64), (0x123, 2 ^ 64), (0x124, 4), (0x125, 16), (0x127, 2 ^ 64)]

end Sys2Proof.Claims

/-- A TRAP of a control context with EIE set is the SYNC event: EPC holds its address, ECAUSE 0x30, EINFO the immediate, PIE what EIE
was and EIE 0, and the context goes on at EVEC; BRK the same with 0x31 (R334, R338, R339). -/
def Sys2Proof.Claims.TrapEntersEvent : Prop :=
  ∀ p ∈ [(Instr.trap, 0x30#64), (Instr.brk, 0x31#64)], ∀ (k : BitVec 18) (s : State) (n : Nat), Passes s {} → s.cur = .control n →
    (ctl s n).estat.getLsbD 0 = true →
    ∃ t, exec (p.1 k) s = .next t ∧ t = { s with ctl := t.ctl } ∧ (∀ m, m ≠ n → ctl t m = ctl s m)
      ∧ (ctl t n).epc = BitVec.ofNat 64 (ctl s n).pc ∧ (ctl t n).ecause = p.2 ∧ (ctl t n).einfo = k.signExtend 64
      ∧ (ctl t n).estat = ((ctl s n).estat &&& ~~~3#64) ||| 2#64 ∧ (ctl t n).pc = (ctl s n).evec.toNat
      ∧ (ctl t n).s = (ctl s n).s ∧ (ctl t n).lvl = (ctl s n).lvl ∧ (ctl t n).evec = (ctl s n).evec

/-- With EIE clear it is a double fault: the device log gets an entry, CTXCFG.EN is cleared and the context stops (R339). -/
def Sys2Proof.Claims.DoubleFaultStops : Prop :=
  ∀ p ∈ [Instr.trap, Instr.brk], ∀ (k : BitVec 18) (s : State) (n : Nat), Passes s {} → s.cur = .control n →
    (ctl s n).estat.getLsbD 0 = false →
    ∃ t, exec (p k) s = .next t ∧ (ctl t n).run = false ∧ bitAt (csrGet t (0x400 + n) 0) 31 = false
      ∧ (∃ x, t.posts = s.posts ++ [x] ∧ x.log = 64) ∧ (∀ m, m ≠ n → ctl t m = ctl s m) ∧ t.mem = s.mem

/-- TRAP and BRK of a control context: the SYNC event, or a double fault (R334, R338, R339). -/
def Obligations.ControlTrapResults : Prop :=
  Claims.TrapEntersEvent
  ∧ Claims.DoubleFaultStops

/-- A vector thread that faults leaves its batch for the lowest free fault record of its core, which keeps its block, its place and the
cause, and a log entry is queued: TRAP and BRK so, with the immediate as INFO (R44, R329, R331, R334; that it is the lowest is the model's
choice, log 11). While older faults of the core wait for a record it waits behind them, so that the entries come in the order of the faults
(R331). -/
def Sys2Proof.Claims.ThreadFaultRecorded : Prop :=
  (∀ p ∈ [(Instr.trap, Cause.trap), (Instr.brk, Cause.brk)], ∀ (i : BitVec 18) (s : State) (w t cid b k : Nat) (x : Batch), Passes s {} →
    s.cur = .vthread w t → runPlace s w t = some (cid, b) → (coreAt s cid).batches.find b = some x → (coreAt s cid).stalls = [] → freeRecord (coreAt s cid) = some k →
    ∃ u h, exec (p.1 i) s = .next u ∧ u = takeRecord s cid k h ∧ h.wg = w ∧ h.tid = t ∧ h.cause = p.2 ∧ h.info = i.signExtend 64
      ∧ h.hdr.baddr = x.blk ∧ h.roff = x.word ∧ h.word = s.ir ∧ h.faddr = 0
      ∧ ((coreAt u cid).vrec.get {} k).held = some (h.ofThread s) ∧ (thread? u w t).map (·.st) = some (.faulted cid k)
      ∧ (∃ y, u.posts = s.posts ++ [y] ∧ y.src = cid) ∧ u.mem = s.mem) ∧
  ∀ p ∈ [(Instr.trap, Cause.trap), (Instr.brk, Cause.brk)], ∀ (i : BitVec 18) (s : State) (w t cid b : Nat) (x : Batch), Passes s {} →
    s.cur = .vthread w t → runPlace s w t = some (cid, b) → (coreAt s cid).batches.find b = some x → (coreAt s cid).stalls ≠ [] →
    ∃ u h, exec (p.1 i) s = .next u ∧ (coreAt u cid).stalls = (coreAt s cid).stalls ++ [h] ∧ h.wg = w ∧ h.tid = t ∧ h.cause = p.2
      ∧ u.posts = s.posts ∧ u.mem = s.mem

/-- A core Scribe context that traps stops with its record held under its own number, and a log entry is queued (R264, R329, R331, R334). -/
def Sys2Proof.Claims.ContextFaultRecorded : Prop :=
  ∀ p ∈ [(Instr.trap, Cause.trap), (Instr.brk, Cause.brk)], ∀ (i : BitVec 18) (s : State) (w cid : Nat) (g : Workgroup) (c : Ctx), Passes s {} →
    s.cur = .scribe w → wg? s w = some g → g.ctx = some c → g.cid? = some cid →
    ∃ u h, exec (p.1 i) s = .next u ∧ ((coreAt u cid).srec.get {} c.scid).held = some h ∧ h.cause = p.2 ∧ h.info = i.signExtend 64 ∧ h.hdr.baddr = c.pc
      ∧ ((wg? u w).bind fun y => y.ctx).map (fun y => y.mode) = some .faulted ∧ u.mem = s.mem
      ∧ (∃ y, u.posts = s.posts ++ [y] ∧ y.src = cid)

/-- A fault of a core's thread or context is recorded and logged (R44, R264, R329, R331, R334). That a thread takes the lowest free record
is the model's choice (log 11). -/
def Obligations.CoreFaultRecorded : Prop :=
  Claims.ThreadFaultRecorded
  ∧ Claims.ContextFaultRecorded

/-- ERET goes on at EPC with EIE as PIE was; WFI waits; on a context of a core both are ILLEGAL (R339). -/
def Sys2Proof.Claims.EventReturnResults : Prop :=
  (∀ (s : State) (n : Nat), Privileged s [] 1 → s.cur = .control n →
    ∃ t, exec .eret s = .next t ∧ t = { s with ctl := t.ctl } ∧ (∀ m, m ≠ n → ctl t m = ctl s m) ∧ (ctl t n).pc = (ctl s n).epc.toNat
      ∧ (ctl t n).estat.getLsbD 0 = (ctl s n).estat.getLsbD 1 ∧ (∀ j, 0 < j → (ctl t n).estat.getLsbD j = (ctl s n).estat.getLsbD j)
      ∧ (ctl t n).s = (ctl s n).s ∧ (ctl t n).lvl = (ctl s n).lvl)
  ∧ (∀ (s : State) (n : Nat), Privileged s [] 1 → s.cur = .control n →
      exec .wfi s = .next (updCtl s n fun c => { c with mode := .wfi }))
  ∧ (∀ (s : State) (w : Nat), Privileged s [] 1 → s.cur = .scribe w →
      exec .eret s = .next (raiseState .illegal 0 0 s) ∧ exec .wfi s = .next (raiseState .illegal 0 0 s))

/-- A pending enabled event is taken between two instructions by a context with EIE set, the lowest first, with ECAUSE 0x80 and its
number (R338, R339). -/
def Sys2Proof.Claims.EventsAreTaken : Prop :=
  ∀ (n b : Nat) (s : State), (die s 0).tripped = false → (ctl s n).run = true → (ctl s n).mode = .ready → (ctl s n).estat.getLsbD 0 = true →
    pendingEvent s n = some b →
    ∃ t, exec (.controlEventTake n) s = .next t ∧ (ctl t n).epc = BitVec.ofNat 64 (ctl s n).pc ∧ (ctl t n).ecause = BitVec.ofNat 64 (0x80 + b)
      ∧ (ctl t n).pc = (ctl s n).evec.toNat ∧ (ctl t n).estat.getLsbD 0 = false ∧ (ctl t n).estat.getLsbD 1 = true
      ∧ bitAt (epend s n) b = true ∧ (ctl s n).een.getLsbD b = true ∧ (∀ m, m ≠ n → ctl t m = ctl s m)

/-- Events are taken between instructions, and ERET returns from them (R338, R339). -/
def Obligations.EventResults : Prop :=
  Claims.EventReturnResults
  ∧ Claims.EventsAreTaken

/-- CSRR answers the CSR's value and CSRW writes it, at the level the CSR needs, and each moves on; an access that lacks the level, or of
a CSR that is not listed or has no such access, is ILLEGAL and has no other effect; a write by which a control context stops itself does
not move on, the model's choice (log 32; R342, R344). The event registers of a control context read as they were written (R338, R343). -/
def Obligations.CsrResults : Prop :=
  (∀ (d : Field) (c : BitVec 12) (s : State), Passes s { ops := [opW d], lvl := csrNeed s c.toNat false } →
    exec (.csrr d c) s = writes s d (BitVec.ofNat 64 (csrRead s (csrEnv s s.cur) c.toNat)))
  ∧ (∀ (d : Field) (c : BitVec 12) (s t : State), Passes s { ops := [opR d], lvl := csrNeed s c.toNat true } →
      t = csrEffect (csrWrite s (csrEnv s s.cur) c.toNat (readR s d).toNat) (csrEnv s s.cur) c.toNat →
      (stillRuns t = true → exec (.csrw d c) s = .next (advance t))
      ∧ (stillRuns t = false → exec (.csrw d c) s = .next t))
  ∧ (∀ (d : Field) (c : BitVec 12) (s : State), canRun s = true → isVector s = false →
      ((me s).lvl < csrNeed s c.toNat false → exec (.csrr d c) s = .next (raiseState .illegal 0 0 s))
      ∧ ((me s).lvl < csrNeed s c.toNat true → exec (.csrw d c) s = .next (raiseState .illegal 0 0 s)))
  ∧ (∀ (c : Nat) (s : State), csrLevels c (isControl s) = none → 2 < csrNeed s c false ∧ 2 < csrNeed s c true)
  ∧ (∀ p ∈ eventRegisters, ∀ (s : State) (e : CsrEnv) (v : Nat), v < 2 ^ 64 → csrRead (csrWrite s e p.1 v) e p.1 = v % p.2)

/-- A privileged form below its level is ILLEGAL and has no other effect, whatever its operands (R340). A vector thread that executes one
faults with ILLEGAL below its level, and at it with UNIT (R174, R325). -/
def Obligations.PrivilegeChecked : Prop :=
  (∀ p ∈ privileged3, ∀ (d a b : Field) (s : State), canRun s = true → isVector s = false → (me s).lvl < p.2 →
    exec (p.1 d a b) s = .next (raiseState .illegal 0 0 s))
  ∧ (∀ p ∈ privileged2, ∀ (d a : Field) (s : State), canRun s = true → isVector s = false → (me s).lvl < p.2 →
      exec (p.1 d a) s = .next (raiseState .illegal 0 0 s))
  ∧ (∀ s : State, canRun s = true → isVector s = false → (me s).lvl < 1 →
      exec .eret s = .next (raiseState .illegal 0 0 s) ∧ exec .wfi s = .next (raiseState .illegal 0 0 s))
  ∧ (∀ s : State, canRun s = true → isVector s = true → positionOk s false = true →
      (∀ p ∈ privileged3, ∀ d a b : Field,
        ((me s).lvl < p.2 → exec (p.1 d a b) s = .next (raiseState .illegal 0 0 s))
        ∧ (p.2 ≤ (me s).lvl → ((ops3 d a b).all (opFieldOk true)) = true → exec (p.1 d a b) s = .next (raiseState .unit 0 0 s)))
      ∧ (∀ p ∈ privileged2, ∀ d a : Field,
        ((me s).lvl < p.2 → exec (p.1 d a) s = .next (raiseState .illegal 0 0 s))
        ∧ (p.2 ≤ (me s).lvl → ((ops2 d a).all (opFieldOk true)) = true → exec (p.1 d a) s = .next (raiseState .unit 0 0 s)))
      ∧ (∀ i ∈ [Instr.eret, Instr.wfi], ((me s).lvl < 1 → exec i s = .next (raiseState .illegal 0 0 s))
        ∧ (1 ≤ (me s).lvl → exec i s = .next (raiseState .unit 0 0 s))))

/-- RGNFLUSH, RGNQ and OWNXFER on a region of the table (R340, R389). That RGNFLUSH answers BADARG where reserved bits of its operand are set
(log 18) and which status OWNXFER answers where several hold (log 18) are the model's choices: the flush ends what is undefined, the query answers owner and
transfer, the transfer marks the entry and stalls until its act completes it. -/
def Sys2Proof.Claims.RegionResults : Prop :=
  (∀ (d a : Field) (s : State), Privileged s (ops2 d a) 1 → rref (readR s a).toNat = none →
    exec (.rgnflush d a) s = answers s d 7 ∧ exec (.rgnq d a) s = answers s d 0xFFFFFFFF)
  ∧ (∀ (d a : Field) (s : State) (rx ry : Nat), Privileged s (ops2 d a) 1 → rref (readR s a).toNat = some (rx, ry) →
    (rotEntry s (namedPart s) rx ry = none → exec (.rgnflush d a) s = answers s d 1 ∧ exec (.rgnq d a) s = answers s d 0xFFFFFFFF)
    ∧ (∀ v, rotEntry s (namedPart s) rx ry = some v →
        exec (.rgnflush d a) s = answers (setRegion s { regionGet s (namedPart s) rx ry with wrote := [] }) d 0
        ∧ exec (.rgnq d a) s = answers s d (v % 2 ^ 16 + if bitAt v 30 then 2 ^ 16 else 0)))
  ∧ (∀ (d a b : Field) (s : State) (rx ry v : Nat), Privileged s (ops3 d a b) 1 → rref (readR s a).toNat = some (rx, ry) →
      rotEntry s (namedPart s) rx ry = some v →
      (ownxferCheck s (namedPart s) rx ry (readR s b).toNat = 0 →
        exec (.ownxfer d a b) s = .next (stalls (setRot s (namedPart s) rx ry (setBits v 30 30 1)) d
          (.ownxfer (namedPart s) rx ry (bits (readR s b).toNat 15 8) (bits (readR s b).toNat 7 0))))
      ∧ (∀ e, ownxferCheck s (namedPart s) rx ry (readR s b).toNat = e → e ≠ 0 → exec (.ownxfer d a b) s = answers s d e))
  ∧ (∀ (n : Nat) (s : State) (f : PForm) (p rx ry d g d0 g0 : Nat), s.forms.find? (fun f => f.id == n) = some f → f.kind = .ownxfer p rx ry d g →
      rotOwner s p rx ry = some (d0, g0, true) → regionQuiet s p rx ry = true → cgRuns s d0 g0 = true → cgRuns s d g = true →
      exec (.ownxferComplete n) s = .next (finishForm (moveRegion s p rx ry d0 g0 d g) f 0))

/-- PSTEP, the relock and the power states (R83, R340, R415, R416): PSTEP gives the core group that it names, or all of the die's for 0xFF, its
power state, of which 3 keeps the one they have; to a point it starts a relock and stalls the form, to the point in force too (the model's
reading, log 37), and with point 7 it answers at once. Which status it answers where several hold is the model's choice (log 18). After its
tenth tick edge the die runs at the new point with 420 twelfths more; a core group has power 2,000 ticks after power gating. -/
def Sys2Proof.Claims.PowerResults : Prop :=
  (∀ (d a b : Field) (s : State) (x y : Nat), Privileged s (ops3 d a b) 2 → x = (readR s a).toNat → y = (readR s b).toNat →
    (¬ x < 2 ^ 16 ∨ bits y 2 0 = 6 → exec (.pstep d a b) s = answers s d 7)
    ∧ (∀ (p st : Nat) (gs : List Nat) (u : State), x < 2 ^ 16 → y = p + 16 * st → p < 8 → p ≠ 6 → st < 4 → Config.isCompute (x / 256) = true →
        diePresent s (x / 256) = true → (x % 256 < Config.coreGroups (x / 256) ∧ gs = [x % 256]) ∨ (x % 256 = 0xFF ∧ gs = List.range (Config.coreGroups (x / 256))) →
        ((die s (x / 256)).relock ≠ none → exec (.pstep d a b) s = answers (useFree s) d 3)
        ∧ ((die s (x / 256)).relock = none → p = 0 ∧ csrGet s 0x501 0 % 2 = 0 ∨ st = 2 ∧ (∃ g ∈ gs, gateRefused s (x / 256) g = true) →
            exec (.pstep d a b) s = answers (useFree s) d 4)
        ∧ ((die s (x / 256)).relock = none → (p = 0 → csrGet s 0x501 0 % 2 = 1) → (st = 2 → ∀ g ∈ gs, gateRefused s (x / 256) g = false) →
            (st = 0 → (die s (x / 256)).tripped = false) → u = (if st = 3 then s else gs.foldl (fun v g => setPower v (x / 256) g st) s) →
            (p = 7 → exec (.pstep d a b) s = answers u d 0)
            ∧ (p ≠ 7 → exec (.pstep d a b) s = .next (stalls (startRelock u (x / 256) p) d (.pstep (x / 256)))))))
  ∧ (∀ (d : Nat) (s : State) (r : Relock), (die s d).relock = some r → r.start + 420 ≤ s.now →
      (∃ t, exec (.relockEnd d) s = .next t)
      ∧ (s.forms = [] → exec (.relockEnd d) s = .next (setDie s d { die s d with
          point := r.point, baseT := r.start + 419, nacc := (die s d).nacc + 420, relock := none, heldTo := s.nextId,
          holds := (die s d).holds ++ [(r.start / Config.tickUnits, timer s)] })))
  ∧ (∀ (d : Nat) (s : State) (r : Relock), (die s d).relock = some r → s.now ≤ r.start + 378 →
      exec (.relockEnd d) s = .next s)
  ∧ (∀ (d g n : Nat) (s : State), (cgroup s d g).upAt = some n → n ≤ timer s →
      exec (.powerUpComplete d g) s = .next (startClock (setCg s d g { cgroup s d g with power := (cgroup s d g).upTo, upAt := none }) d g))
  ∧ (∀ (d g st : Nat) (s : State), st < 2 → (cgroup s d g).power = 2 → (cgroup s d g).upAt = none →
      (cgroup (setPower s d g st) d g).upAt = some (timer s + 2000) ∧ (cgroup (setPower s d g st) d g).upTo = st
      ∧ (cgroup (setPower s d g st) d g).power = 2)
  ∧ (∀ (d x : Nat) (s : State), diePresent s d = true → 105 ≤ x →
      ∃ t, exec (.thermalTrip d x) s = .next t ∧ (die t d).tripped = true ∧ t.dieEvents = s.dieEvents + 1 ∧ t.mem = s.mem ∧ t.wgs = s.wgs)

/-- LWOPEN opens a Larder that no launch reads, LWCLOSE closes it once no copy has writes for it, and the digest of a closed one becomes
ready (R137, R340, R419). -/
def Sys2Proof.Claims.LarderResults : Prop :=
  (∀ (d a : Field) (s : State) (x : Nat), Privileged s (ops2 d a) 2 → x = (readR s a).toNat → larderCheck s x = 0 →
    ((die s x).larderOpen = true → exec (.lwopen d a) s = answers s d 0)
    ∧ ((die s x).larderOpen = false → larderInUse s x = true → exec (.lwopen d a) s = answers s d 4)
    ∧ ((die s x).larderOpen = false → larderInUse s x = false →
        exec (.lwopen d a) s = answers (dregSet (setDie s x { die s x with larderOpen := true }) x 0x140 0) d 0)
    ∧ ((die s x).larderOpen = false → exec (.lwclose d a) s = answers s d 0)
    ∧ ((die s x).larderOpen = true → (die s x).closing = none →
        ((∀ o ∈ s.copies, o.aimsLarder s x = false) →
          exec (.lwclose d a) s = answers (setDie s x { die s x with larderOpen := false, closing := none }) d 0)
        ∧ ((∃ o ∈ s.copies, o.aimsLarder s x = true) → exec (.lwclose d a) s =
            .next (stalls (setDie s x { die s x with closing := some (s.copies.map (·.id)) }) d (.lwclose x (s.copies.map (·.id)))))))
  ∧ (∀ (s : State) (f : PForm) (x : Nat) (l : List Nat), f.kind = .lwclose x l → (∀ o ∈ s.copies, o.id ∈ l → o.aimsLarder s x = false) →
      settleClose s f = finishForm (setDie s x { die s x with larderOpen := false, closing := none }) f 0)
  ∧ (∀ (d a : Field) (s : State), Privileged s (ops2 d a) 2 → ∀ e, larderCheck s (readR s a).toNat = e → e ≠ 0 →
      exec (.lwopen d a) s = answers s d e ∧ exec (.lwclose d a) s = answers s d e)
  ∧ (∀ (d : Nat) (s : State), Config.isShading d = true → (die s d).larderOpen = false → dregGet s d 0x140 % 2 = 0 →
      ∃ t, exec (.larderDigestDone d) s = .next t ∧ dregGet t d 0x140 = 1 ∧ t = { s with dreg := t.dreg, free := t.free }
        ∧ (larderBad s d = false → t.free = s.free ∧ ∀ k < 8, dregGet t d (0x100 + 8 * k) =
            bits (Config.shake256 (Memory.read s.mem (larderBase + d * 2 ^ 30) larderBytes)).toNat (64 * k + 63) (64 * k)))

/-- Operating points, power states, thermal trips and Larders (R83, R137, R340, R415-R417, R419). That PSTEP to the point in
force relocks too (log 37), and which of its statuses PSTEP answers where several hold (log 18), are the model's readings. -/
def Obligations.PowerAndLarderResults : Prop :=
  Claims.PowerResults
  ∧ Claims.LarderResults

/-- CHBIND binds and unbinds a channel of a workgroup, a channel of another workgroup of its core or one with waiters being REFUSED,
PBSET sets the count of an idle barrier of the partition, DIERD and DIEWR access die registers, and LINKTRN answers DONE or FAILED as the
training went, and BUSY while the die is between two states (R333, R340, R393, R402; what BUSY means there is the model's choice, log 65). That
LINKTRN answers BADARG where a[63:4] is not 0, and REFUSED before BUSY, are the model's choices (log 18). -/
def Sys2Proof.Claims.UnitFormResults : Prop :=
  (∀ (d a b : Field) (s : State) (x w : Nat) (g : Workgroup), Privileged s (ops3 d a b) 1 → x = (readR s b).toNat →
    wrefWg s (readR s a).toNat = some (w, g) →
    (x < 16 → g.chans.find x = none → channelTaken s w x g = false → exec (.chbind d a b) s = answers (setChan s w x {}) d 0)
    ∧ (x < 16 → g.chans.find x = none → channelTaken s w x g = true → exec (.chbind d a b) s = answers s d 4)
    ∧ (x < 16 → (g.chans.find x).isSome = true → exec (.chbind d a b) s = answers s d 0)
    ∧ (256 ≤ x → x < 272 →
        (channelTaken s w (x - 256) g = true ∨ (∃ c, g.chans.find (x - 256) = some c ∧ (c.recvs ≠ [] ∨ c.sends ≠ [])) →
          exec (.chbind d a b) s = answers s d 4)
        ∧ (channelTaken s w (x - 256) g = false → (∀ c, g.chans.find (x - 256) = some c → c.recvs = [] ∧ c.sends = []) →
            exec (.chbind d a b) s = answers (updWg s w fun g => { g with chans := g.chans.erase (x - 256) }) d 0)))
  ∧ (∀ (d a b : Field) (s : State) (pb n : Nat), Privileged s (ops3 d a b) 1 → pb = (readR s a).toNat → n = (readR s b).toNat →
      (64 ≤ pb ∨ 2 ^ 20 ≤ n → exec (.pbset d a b) s = answers s d 7)
      ∧ (pb < 64 → n < 2 ^ 20 → pbAssigned s (namedPart s) pb = false → exec (.pbset d a b) s = answers s d 2)
      ∧ (pb < 64 → n < 2 ^ 20 → pbAssigned s (namedPart s) pb = true → (s.pbs.get {} pb).arr = [] →
          exec (.pbset d a b) s = answers { s with pbs := s.pbs.put pb { s.pbs.get {} pb with n := n } } d 0)
      ∧ (pb < 64 → n < 2 ^ 20 → pbAssigned s (namedPart s) pb = true → (s.pbs.get {} pb).arr ≠ [] → exec (.pbset d a b) s = answers s d 3))
  ∧ (∀ (d a : Field) (s : State) (n o : Nat), Privileged s (ops2 d a) 2 → dieOperand (readR s a).toNat = some (n, o) →
      exec (.dierd d a) s = answers (useFree s) d (dieRead s n o))
  ∧ (∀ (d a b : Field) (s : State), dieOperand (readR s a).toNat = none →
      (Privileged s (ops2 d a) 2 → exec (.dierd d a) s = answers s d 0) ∧ (Privileged s (ops3 d a b) 2 → exec (.diewr d a b) s = answers s d 7))
  ∧ (∀ (d a b : Field) (s : State) (n o : Nat), Privileged s (ops3 d a b) 2 → dieOperand (readR s a).toNat = some (n, o) →
      (diePresent s n = false → exec (.diewr d a b) s = answers s d 1)
      ∧ (diePresent s n = true → dregAssigned n o = false → exec (.diewr d a b) s = answers s d 7)
      ∧ (diePresent s n = true → dregAssigned n o = true →
          exec (.diewr d a b) s = answers (dieWrite s n o (readR s b).toNat).1 d (dieWrite s n o (readR s b).toNat).2))
  ∧ (∀ (d a : Field) (s : State) (x : Nat), Privileged s (ops2 d a) 2 → x = (readR s a).toNat →
      (16 ≤ x → exec (.linktrn d a) s = answers s d 7)
      ∧ (x < 16 → dieFitted (x + 1) = false → exec (.linktrn d a) s = answers s d 1)
      ∧ (x < 16 → dieFitted (x + 1) = true → dieInUse s (x + 1) = true → exec (.linktrn d a) s = answers s d 4)
      ∧ (x < 16 → dieFitted (x + 1) = true → dieInUse s (x + 1) = false → dieInTransition s (x + 1) = true →
          exec (.linktrn d a) s = answers s d 3)
      ∧ (x < 16 → dieFitted (x + 1) = true → dieInUse s (x + 1) = false → dieInTransition s (x + 1) = false → ∃ t,
          (exec (.linktrn d a) s = answers t d 0 ∧ bitAt (dregGet t 0 0x18) (x + 1) = false ∧ diePresent t (x + 1) = true ∨ exec (.linktrn d a) s = answers t d 8)
          ∧ t.wgs = s.wgs ∧ t.mem = s.mem))

/-- Regions, channels, barriers, die registers and links through the privileged forms (R340, R389, R393, R402). What
RGNQ and RGNFLUSH answer where reserved bits of RREF are set, BADARG of LINKTRN for a[63:4], which status is answered where several hold
(log 18), and what BUSY means of LINKTRN (log 65), are the model's readings. -/
def Obligations.UnitResults : Prop :=
  Claims.RegionResults
  ∧ Claims.UnitFormResults

/-- The privileged forms on workgroups (R341, R371-R375): WGSAVE and WGMIGR start a save and stall, or answer why they do not, WGLOAD answers
what its restore answers and stalls while the registers that a GROW of this raw cycle takes are not counted (R210) or the crossing to the
target's die holds (R416), WGKILL ends the workgroup; a WREF that names none is NOTFOUND. Which status is answered where several hold,
BADARG before all others, is the model's choice (log 18). -/
def Obligations.WorkgroupFormResults : Prop :=
  (∀ (d a b : Field) (s : State), Privileged s (ops3 d a b) 1 → wrefWg s (readR s a).toNat = none → (readR s b).toNat % 4096 = 0 →
    (readR s b).toNat < 2 ^ 16 →
    exec (.wgsave d a b) s = answers s d 1 ∧ exec (.wgload d a b) s = answers s d 1 ∧ exec (.wgmigr d a b) s = answers s d 1)
  ∧ (∀ (d a b : Field) (s : State) (w : Nat) (g : Workgroup), Privileged s (ops3 d a b) 1 → wrefWg s (readR s a).toNat = some (w, g) →
      (∀ t, saveCheck s (some (w, g)) = 0 → (readR s b).toNat % 4096 = 0 →
        (startSave s w (readR s b).toNat none .form = (t, true) →
          exec (.wgsave d a b) s = .next (stalls t d (.wgsave w (readR s b).toNat)))
        ∧ (startSave s w (readR s b).toNat none .form = (t, false) → exec (.wgsave d a b) s = answers t d 4))
      ∧ (saveCheck s (some (w, g)) ≠ 0 →
          ((readR s b).toNat % 4096 = 0 → exec (.wgsave d a b) s = answers s d (saveCheck s (some (w, g))))
          ∧ ((readR s b).toNat < 2 ^ 16 → exec (.wgmigr d a b) s = answers s d (saveCheck s (some (w, g)))))
      ∧ ((readR s b).toNat % 4096 ≠ 0 → exec (.wgsave d a b) s = answers s d 7))
  ∧ (∀ (d a b : Field) (s : State), Privileged s (ops3 d a b) 1 → 2 ^ 16 ≤ (readR s b).toNat →
      exec (.wgload d a b) s = answers s d 7 ∧ exec (.wgmigr d a b) s = answers s d 7)
  ∧ (∀ (d a b : Field) (s : State) (w : Nat) (g : Workgroup), Privileged s (ops3 d a b) 1 → wrefWg s (readR s a).toNat = some (w, g) →
      (readR s b).toNat < 2 ^ 16 →
      (g.saving.isSome = true → exec (.wgload d a b) s = answers s d 3)
      ∧ (g.saving = none → g.cid?.isSome = true → exec (.wgload d a b) s = answers s d 4)
      ∧ (∀ c, g.saving = none → g.cid? = none → c = (if (readR s b).toNat = 0xFFFF then none else some (readR s b).toNat) →
          (growing s = true ∨ restoreWaits s w c = true → exec (.wgload d a b) s = .next s)
          ∧ (growing s = false → restoreWaits s w c = false → ∀ st t, restoreWg s w c = (st, t) → exec (.wgload d a b) s = answers t d st)))
  ∧ (∀ (d a b : Field) (s : State) (w : Nat) (g : Workgroup) (l : Launch), Privileged s (ops3 d a b) 1 →
      wrefWg s (readR s a).toNat = some (w, g) → saveCheck s (some (w, g)) = 0 → (readR s b).toNat < 2 ^ 16 → launch? s g.part g.lid = some l →
      (freeSaveSlot s l false = none → exec (.wgmigr d a b) s = answers s d 5)
      ∧ (∀ k t, freeSaveSlot s l false = some k → startSave s w (slotVa l k) (some k) (.migrate (readR s b).toNat) = (t, true) →
          exec (.wgmigr d a b) s = .next (stalls t d (.wgmigr w (readR s b).toNat)))
      ∧ (∀ k t, freeSaveSlot s l false = some k → startSave s w (slotVa l k) (some k) (.migrate (readR s b).toNat) = (t, false) →
          exec (.wgmigr d a b) s = answers t d 4))
  ∧ (∀ (d a : Field) (s : State), Privileged s (ops2 d a) 1 →
      (wrefWg s (readR s a).toNat = none → exec (.wgkill d a) s = answers s d 1)
      ∧ (∀ w g, wrefWg s (readR s a).toNat = some (w, g) → exec (.wgkill d a) s = answers (killWg s w) d 0))

/-- RESUME and THKILL on what a fault reference of the partition names (R335-R337): a thread goes on at its word, or the next with SKIP,
with the transients of its record, or with LOADT of the image in memory; one whose entry failed enters its block anew, and SKIP is BADARG for
it (R29); a context goes on at its pc, an engine slot's operation is retried; THKILL ends each; a stale reference is NOTFOUND. -/
def Obligations.RecoveryResults : Prop :=
  (∀ (d a b : Field) (s : State), Privileged s (ops3 d a b) 1 → (readR s b).toNat % 64 = 0 → named s (readR s a).toNat = none →
    exec (.resume d a b) s = answers s d 1)
  ∧ (∀ (d a b : Field) (s : State) (n : Named), Privileged s (ops3 d a b) 1 → (readR s b).toNat % 64 = 0 → named s (readR s a).toNat = some n →
      n.part s ≠ some (namedPart s) → exec (.resume d a b) s = answers s d 2)
  ∧ (∀ (d a b : Field) (s s' : State) (cid k : Nat) (h : Held) (st y : Nat), Privileged s (ops3 d a b) 1 → y = (readR s b).toNat % 64 → y < 2 →
      (y = 1 → isTerminator h.word = false) → named s (readR s a).toNat = some (.vector cid k h) →
      (Named.vector cid k h).part s = some (namedPart s) → h.ts ≠ [] → resumeThread s cid k h (h.roff + y) h.ts = (st, s') →
      exec (.resume d a b) s = answers s' d st)
  ∧ (∀ (d a b : Field) (s : State) (cid k : Nat) (h : Held) (y : Nat), Privileged s (ops3 d a b) 1 → y = (readR s b).toNat % 64 → 2 ≤ y → y < 4 →
      named s (readR s a).toNat = some (.vector cid k h) → (Named.vector cid k h).part s = some (namedPart s) → h.ts ≠ [] →
      (y = 3 → isTerminator h.word = false) →
      (∀ l s1 st s', readMem s (me s) ((readR s b).toNat / 64 * 64) 64 = .ok (l, s1) →
        resumeThread s1 cid k h (h.roff + y % 2) ((List.range 16).map fun j => BitVec.ofNat 32 (ofBytes ((l.drop (4 * j)).take 4))) = (st, s') →
        exec (.resume d a b) s = answers s' d st)
      ∧ (∀ c v, readMem s (me s) ((readR s b).toNat / 64 * 64) 64 = .bad c v → exec (.resume d a b) s = .next (raiseState c v 0 s)))
  ∧ (∀ (d a b : Field) (s : State) (cid k : Nat) (h : Held), Privileged s (ops3 d a b) 1 → (readR s b).toNat % 64 < 2 →
      named s (readR s a).toNat = some (.vector cid k h) → (Named.vector cid k h).part s = some (namedPart s) → h.ts = [] →
      ((readR s b).toNat % 64 = 1 → exec (.resume d a b) s = answers s d 7)
      ∧ ((readR s b).toNat % 64 = 0 → exec (.resume d a b) s = answers (resumeEntry s cid k h) d 0))
  ∧ (∀ (d a b : Field) (s : State) (cid k : Nat) (h : Held) (y : Nat), Privileged s (ops3 d a b) 1 → y = (readR s b).toNat % 64 → y < 2 →
      (readR s a).toNat % 128 < 112 → named s (readR s a).toNat = some (.context cid k h) → (Named.context cid k h).part s = some (namedPart s) →
      exec (.resume d a b) s =
        answers (updCtx (freeSrec s cid k) h.wg fun c => { c with mode := .ready, pc := (c.pc + 4 * y) % 2 ^ 64 }) d 0)
  ∧ (∀ (d a b : Field) (s : State) (x : Susp), Privileged s (ops3 d a b) 1 → (readR s b).toNat % 64 = 0 →
      named s (readR s a).toNat = some (.slot x) → x.part = namedPart s → exec (.resume d a b) s = answers (slotResume s x) d 0)
  ∧ (∀ (d a : Field) (s : State), Privileged s (ops2 d a) 1 →
      (named s (readR s a).toNat = none → exec (.thkill d a) s = answers s d 1)
      ∧ (∀ n, named s (readR s a).toNat = some n → n.part s ≠ some (namedPart s) → exec (.thkill d a) s = answers s d 2)
      ∧ (∀ cid k h, named s (readR s a).toNat = some (.vector cid k h) → (Named.vector cid k h).part s = some (namedPart s) →
          exec (.thkill d a) s = answers (endThread (freeVrec s cid k) h.wg h.tid) d 0)
      ∧ (∀ cid k h, named s (readR s a).toNat = some (.context cid k h) → (Named.context cid k h).part s = some (namedPart s) →
          exec (.thkill d a) s = answers (killContext (freeSrec s cid k) h.wg) d 0)
      ∧ (∀ x, named s (readR s a).toNat = some (.slot x) → x.part = namedPart s → exec (.thkill d a) s = answers (slotKill s x) d 0))

/-! Table updates (R346-R361) -/

namespace Sys2Proof.Claims

open Sys2Proof Sys2Proof.Machine

/-- A table change is done with VALUE and RSTAT: a command without a shootdown goes on to its record and its post (R358). -/
def commandDone (s : State) (c : PtCmd) (v st : Nat) : State :=
  let c := { c with done := some (BitVec.ofNat 64 v, st) }
  let s := { s with ptq := setHeadCmd c.part (some c) s.ptq }
  if c.shoots then s else finishCmd s c

/-- The head of a partition's queue is a command of an operation, not yet done, that the engine may take up, and its entry's path is
there: the entry has this master address. -/
abbrev EntryAt (s : State) (p op : Nat) (c : PtCmd) (a : Nat) : Prop :=
  dueCmd s p op = some c ∧ entryAddr (applyReports s p) p c.im.lvl c.im.va = some a

/-- The same command where an entry above is not valid or is a leaf. -/
abbrev EntryMissing (s : State) (p op : Nat) (c : PtCmd) : Prop :=
  dueCmd s p op = some c ∧ entryAddr (applyReports s p) p c.im.lvl c.im.va = none

/-- A valid entry that names a table. -/
abbrev isLink (e : Nat) : Prop := bitAt e 0 = true ∧ pteLeaf e = false

/-- What an entry write stores: the entry in the master image and every replica, with its version gone on (R354, R356). -/
def storesEntry (s : State) (q : Pool) (a v : Nat) : State := bumpVer (writeEntry s q a v) a

/-- The tables a WRITE leaves: a table linked where none was linked before is cleared first (R356). -/
def tablesWritten (s : State) (q : Pool) (a v old : Nat) : State :=
  storesEntry (useEntries
    (if bitAt v 0 && !pteLeaf v && !(bitAt old 0 && !pteLeaf old) then writeTables s q (q.base + pteTable q v * 65536) (List.replicate 65536 0) else s) q)
    q a v

/-- A translation and everything written under it gone: R360. -/
def shotDown (s : State) (p : Nat) (c : PtCmd) : State :=
  let r := applyReports s p
  (r.tlb.filter (shotBy c)).foldl flushPage { r with tlb := r.tlb.filter fun t => !shotBy c t }

/-- The engine works on a partition's command whose tables have changed. -/
abbrev Posting (s : State) (p : Nat) (c : PtCmd) : Prop :=
  headCmd s p = some c ∧ c.done.isSome = true ∧ c.held = false ∧ accepts s tableEid = true ∧ someHeld s = false

end Sys2Proof.Claims

/-- PTUPD queues the command it reads where it passes R357's checks and its queue has room, and answers BADARG or FULL otherwise
(R340, R355, R357). -/
def Sys2Proof.Claims.TableCommandResults : Prop :=
  ∀ (d a : Field) (s : State) (t : Tgt) (x : Img), Privileged s (ops2 d a) 1 → Reads s (readR s a).toNat 64 t →
    x = BitVec.ofNat 512 (got s t 64) →
    (commandOk (after s t 64) (namedPart s) (me s).lvl x = false → exec (.ptupd d a) s = answers (after s t 64) d 7)
    ∧ (commandOk (after s t 64) (namedPart s) (me s).lvl x = true →
        (64 ≤ ((after s t 64).ptq.filter fun c => c.part == namedPart s).length → exec (.ptupd d a) s = answers (after s t 64) d 3)
        ∧ (((after s t 64).ptq.filter fun c => c.part == namedPart s).length < 64 →
            exec (.ptupd d a) s = answers { after s t 64 with ptq := (after s t 64).ptq ++
              [{ part := namedPart s, lvl := (me s).lvl, sec := (me s).sec, die := (me s).die, img := x, done := none, held := false,
                 wrote := false, wg := (me s).wg, cid := (me s).cid, lid := (me s).lid,
                 wid := (((me s).wg.bind (wg? (after s t 64))).map (·.wid)).getD 0 }] } d 0))

/-- WRITE, FILL and READ act on their entry and return its old value, or RSTAT 1 where its path is not there; WRITE refuses a table
linked elsewhere and clears a table that it links anew; FLUSH and SYNC change no table; POOL sets a pool no resident launch uses (one with a
workgroup on a core, log 99) and clears its root. Each then goes on to its shootdown, or to its record and post (R347, R356, R358). An entry
of a poisoned block is a free value (R421, log 2). -/
def Sys2Proof.Claims.TableOperationResults : Prop :=
  (∀ (p a : Nat) (s s' : State) (c : PtCmd), EntryAt s p 2 c a → s' = applyReports s p →
      exec (.ptupdRead p) s = .next (commandDone (useEntries s' (pool s' p)) c (masterEntry s' a) 0))
  ∧ (∀ (s : State) (q : Pool) (a : Nat),
      (linePoisoned s (lineOf a) = false → masterEntry s a = Memory.num s.mem a 8)
      ∧ (linePoisoned s (lineOf a) = true → masterEntry s a = (Config.freeValue (s.free + a / 8)).toNat)
      ∧ (poolPoisoned s q = false → useEntries s q = s))
  ∧ (∀ (p a : Nat) (s s' : State) (c : PtCmd), EntryAt s p 0 c a → s' = applyReports s p →
      (isLink c.im.val ∧ linked s' (pool s' p) (pteTable (pool s' p) c.im.val) a = true →
          exec (.ptupdWrite p) s = .next (commandDone (useEntries s' (pool s' p)) c (masterEntry s' a) 2))
      ∧ (¬(isLink c.im.val ∧ linked s' (pool s' p) (pteTable (pool s' p) c.im.val) a = true) →
          exec (.ptupdWrite p) s = .next (commandDone (tablesWritten s' (pool s' p) a c.im.val (masterEntry s' a)) c (masterEntry s' a) 0)))
  ∧ (∀ (p a : Nat) (s s' : State) (c : PtCmd), EntryAt s p 1 c a → s' = applyReports s p →
      exec (.ptupdFill p) s = .next (commandDone
        ((List.range c.im.count).foldl (fun t i => storesEntry t (pool s' p) (a + 8 * i) (fillEntry c.im.lvl c.im.val i)) (useEntries s' (pool s' p)))
        c (masterEntry s' a) 0))
  ∧ (∀ (p : Nat) (s u : State) (c : PtCmd), u = useEntries (applyReports s p) (pool (applyReports s p) p) →
      (EntryMissing s p 0 c → exec (.ptupdWrite p) s = .next (commandDone u c 0 1))
      ∧ (EntryMissing s p 1 c → exec (.ptupdFill p) s = .next (commandDone u c 0 1))
      ∧ (EntryMissing s p 2 c → exec (.ptupdRead p) s = .next (commandDone u c 0 1)))
  ∧ (∀ (p : Nat) (s : State) (c : PtCmd),
      (dueCmd s p 3 = some c → exec (.ptupdFlush p) s = .next (commandDone s c 0 0))
      ∧ (dueCmd s p 4 = some c → exec (.ptupdSync p) s = .next (commandDone s c 0 0)))
  ∧ (∀ (p : Nat) (s : State) (c : PtCmd), dueCmd s p 5 = some c →
      ((∃ x ∈ s.wgs, x.2.part = c.im.pool ∧ x.2.cid?.isSome = true) → exec (.ptupdPool p) s = .next (commandDone s c 0 3))
      ∧ ((∀ x ∈ s.wgs, x.2.part = c.im.pool → x.2.cid? = none) →
          exec (.ptupdPool p) s = .next (commandDone (writeTables
            { s with pools := s.pools.put c.im.pool { base := c.im.va, count := c.im.count, ridx := c.im.ridx } }
            { base := c.im.va, count := c.im.count, ridx := c.im.ridx } c.im.va (List.replicate 1024 0)) c 0 0)))

/-- A shootdown waits for the matrix operations that hold a page under it and for the partition's accesses to peer apertures, then takes the partition's reports, drops every translation
it names with what was written under it going to its home, and the command goes on to its record and post; a report sets its bit or
is dropped, and waits while the crossing to some die holds or its row is being copied; a walk caches the leaf it finds, an access whose walk
cannot be made yet waits, and one whose walk meets a poisoned entry faults with POISON, the model's choice (log 92; R351-R354, R358, R360,
R361, R416, R417, R420). -/
def Sys2Proof.Claims.TranslationResults : Prop :=
  (∀ (p : Nat) (s : State) (c : PtCmd), Posting s p c →
      (c.shoots = false → exec (.shootdownComplete p) s = .next (finishCmd s c))
      ∧ (c.shoots = true → matrixHolds s c = true ∨ (∃ x ∈ s.peerOut, x.part = c.part) → exec (.shootdownComplete p) s = .next s)
      ∧ (c.shoots = true → matrixHolds s c = false → (∀ x ∈ s.peerOut, x.part ≠ c.part) →
          (∀ c', headCmd (shotDown s p c) p = some c' → exec (.shootdownComplete p) s = .next (finishCmd (shotDown s p c) c'))
          ∧ (headCmd (shotDown s p c) p = none → exec (.shootdownComplete p) s = .next (shotDown s p c))))
  ∧ (∀ (s : State) (r : Report) (l : List Report), s.reports = r :: l →
      (someHeld s = false → rowCopying s r.addr = false → exec .adReport s = .next (applyReport { s with reports := l } r))
      ∧ (someHeld s = true ∨ rowCopying s r.addr = true → exec .adReport s = .next s))
  ∧ (∀ (d p va : Nat) (s : State) (t : TlbEnt), Config.isCompute d = true ∨ Config.dieKind d = .memory → p ≤ 64 → rangeOf va = .pages →
      canonical va = true → (∀ e ∈ s.tlb, tlbHit e d p va = false) → crossHeld s d = false → walkWaits s d p va = false → findLeaf s d p va = some t →
      exec (.pageWalk d p va) s = .next (useLeaf s t false))
  ∧ (∀ (s : State) (i : Issuer) (q : Acc), q.elem = true ∨ q.va % q.size = 0 →
      q.va / 2 ^ 49 = (if q.va / 2 ^ 48 % 2 = 1 then 2 ^ 15 - 1 else 0) → q.va % 2 ^ 49 < 0x1F00000000000 →
      (walkWaits s i.die i.part q.va = true → resolve s i q = .wait)
      ∧ (walkWaits s i.die i.part q.va = false → walkBad s (walkDie i.die) i.part q.va = true → resolve s i q = .bad .poison q.va))
  ∧ (∀ (s t : State) (r : Report) (q : Pool) (b : Byte), q = pool s r.part → s.pteVer.get 0 r.addr = r.ver → b = (if r.dirty then 0x80 else 0x40) →
      Memory.wf s.mem = true → Memory.wf s.tbl = true → t = applyReport s r →
      (q.base ≤ r.addr ∧ r.addr < q.base + q.count * 65536 →
        (linePoisoned s (lineOf r.addr) = false →
          ∀ a, Memory.get t.mem a = if a = r.addr then Memory.get s.mem a ||| b else Memory.get s.mem a)
        ∧ (linePoisoned s (lineOf r.addr) = true → t.mem = s.mem)
        ∧ (∀ d, Config.isCompute d = true → Memory.get t.tbl (replicaOf q d r.addr) = Memory.get s.tbl (replicaOf q d r.addr) ||| b)
        ∧ (∀ a, (∀ d, Config.isCompute d = true → a ≠ replicaOf q d r.addr) → Memory.get t.tbl a = Memory.get s.tbl a))
      ∧ (¬(q.base ≤ r.addr ∧ r.addr < q.base + q.count * 65536) → t = s))

/-- Table commands from PTUPD through their operations to their shootdowns, with reports and walks (R340, R347, R351-R361).
That a walk which meets a poisoned entry faults with POISON (log 92), and what a resident launch is for POOL (log 99), are the model's choices. -/
def Obligations.TableResults : Prop :=
  Claims.TableCommandResults
  ∧ Claims.TableOperationResults
  ∧ Claims.TranslationResults

/-! Launches, placement and the frontier (R26-R58, R364-R383) -/

namespace Sys2Proof.Claims

open Sys2Proof Sys2Proof.Machine

/-- A queue has a record to take: its size, HEAD and TAIL, and the address of the record at HEAD (R364, R365). -/
def qctl (s : State) (p q : Nat) : Nat := pregGet s p (0x20 * q + 8)
def qtail (s : State) (p q : Nat) : Nat := pregGet s p (0x20 * q + 0x10) % 2 ^ 32
def qaddr (s : State) (p q : Nat) : Nat := pregGet s p (0x20 * q) + 128 * (bits (qctl s p q) 63 32 % 2 ^ bits (qctl s p q) 4 0)

/-- How many records wait, modulo 2^32. -/
def qwaiting (s : State) (p q : Nat) : Nat := (qtail s p q + 2 ^ 32 - bits (qctl s p q) 63 32) % 2 ^ 32

/-- The state once a queue's turn is taken. -/
def turnTaken (s : State) (p q : Nat) : State := setPart s p { part s p with rr := (q + 1) % 16 }

/-- The queue's HEAD and the launch id have gone on; the state in which the dispatcher looks at a record it has read. -/
def headGone (s : State) (p q : Nat) (t : State) : State :=
  pregSet (takeLid t p) p (0x20 * q + 8) (setBits (qctl s p q) 63 32 (bits (qctl s p q) 63 32 + 1))

/-- The run of workgroups of a launch handed to a die. -/
def handOff (s : State) (p n : Nat) (l : Launch) (d k : Nat) : State :=
  let ws := pendingRun l k
  updLaunch (assignBatch s l d (ws.headD 0)) p n fun x =>
    { x with handed := x.handed ++ ws.map fun w => (d, w), back := x.back.filter fun w => !ws.contains w,
             next := Max.max x.next ((ws.map (· + 1)).foldl Max.max 0) }

/-- A complete launch: its partition's cores have released, and its completion is posted (R31). -/
def completed (s : State) (p n : Nat) : State := updLaunch (releaseLaunch s p) p n fun x => { x with st := .complete, posted := true }

/-- The stalled thread of a fault is the batch's again (R44). -/
def unstalled (s : State) (cid : Nat) (h : Held) (l : List Held) : State :=
  updThread (updCore s cid fun c => { c with stalls := l }) h.wg h.tid fun th =>
    match th.st with
    | .stalled b => { th with st := .running b }
    | _ => th

/-- The candidates of a quantum boundary (R370): saved workgroups of launches that may wait, and the unplaced ones of Ready launches. -/
def boundary (s : State) (p : Nat) : State :=
  setPart s p { part s p with
    bnd := timer s,
    candWgs := (s.wgs.filter fun x => x.2.part == p && x.2.cid?.isNone && (launch? s p x.2.lid).any waitingLaunch).map (·.1),
    candLids := (s.launches.filter fun l => l.part == p && l.st == .ready).map fun l => (l.lid, recW l.record - l.placed) }

/-- A core may form a batch in this raw cycle (R42, R383). -/
abbrev NibFree (s : State) (cid b : Nat) : Prop :=
  coreRuns s cid = true ∧ (coreAt s cid).nibRaw ≠ some (coreRaw s cid) ∧ freeBatch (coreAt s cid) = some b

end Sys2Proof.Claims

/-- The dispatcher takes the records of its queues in turn, of the device queue in order, makes a launch Ready once its dependence is met,
hands runs to dies, which place the workgroups, and completes a launch whose workgroups have all ended (R31, R58, R365-R369). That a record
which cannot be read is refused with the read's cause is the model's choice (log 67). -/
def Obligations.LaunchResults : Prop :=
  (∀ (p q : Nat) (s : State), p < 64 → nextQueue s p = some q → qwaiting s p q ≤ 2 ^ bits (qctl s p q) 4 0 →
    (∀ l r t, lineFault (turnTaken s p q) (lineOf (qaddr s p q)) = none → homeRead (turnTaken s p q) 0 (qaddr s p q) 128 = some (l, r) →
      startLaunch (headGone s p q r) p (nextLid (turnTaken s p q) p) (if q = 15 then 1 else 0) ((partWorld (turnTaken s p q) p).getD false) (q == 15)
        (BitVec.ofNat 1024 (ofBytes l)) = .ok t →
      exec (.queueRecordTake p q) s = .next t)
    ∧ (lineFault (turnTaken s p q) (lineOf (qaddr s p q)) = none → homeRead (turnTaken s p q) 0 (qaddr s p q) 128 = none →
        exec (.queueRecordTake p q) s = .next s)
    ∧ (∀ e, lineFault (turnTaken s p q) (lineOf (qaddr s p q)) = some e →
      exec (.queueRecordTake p q) s = .next (refuseRecord (headGone s p q (turnTaken s p q)) p (nextLid (turnTaken s p q) p) (if q = 15 then 1 else 0)
        ((partWorld (turnTaken s p q) p).getD false) 0 e (qaddr s p q))))
  ∧ (∀ (p q : Nat) (s : State), p < 64 → nextQueue s p = some q → 2 ^ bits (qctl s p q) 4 0 < qwaiting s p q →
      ∃ t, exec (.queueRecordTake p q) s = .next t ∧ bits (qctl t p q) 31 30 = 1 ∧ t.launches = s.launches)
  ∧ (∀ (p : Nat) (s t : State) (x : DlqRec), s.dlq.find? (fun x => x.part == p && (launch? s p x.lid).isNone) = some x →
      startLaunch s p x.lid 0 x.sec false x.record = .ok t → exec (.deviceLaunchTake p) s = .next t)
  ∧ (∀ (p n v : Nat) (s s' : State) (l : Launch), launch? s p n = some l → l.st = .pending → watchRead s l.depPa 8 = some (v, s') →
      (recField l.record 0x68 63 0 ≤ v → exec (.launchDependenceMet p n) s = .next (makeReady s' l))
      ∧ (v < recField l.record 0x68 63 0 → exec (.launchDependenceMet p n) s = .next s))
  ∧ (∀ (d : Nat) (s : State), Config.isCompute d = true → crossHeld s d = false →
      ∃ t, exec (.dispatcherReport d) s = .next t ∧ t.wgs = s.wgs ∧ t.launches = s.launches ∧ t.mem = s.mem ∧ t.cores = s.cores
        ∧ ∀ p < 64, (part t p).rep = ((part s p).rep.filter fun r => r.die != d)
            ++ ((List.range (Config.coreGroups d)).filter (groupPermitted s p d)).map (groupReport s d))
  ∧ (∀ (p n d k : Nat) (s : State) (l : Launch), launch? s p n = some l → offerable s l = true → l.handed = [] →
      (∀ x ∈ s.launches, x.part = p → offeredBefore x l = true → offerable s x = false) → runTarget s l = some (d, k) →
      crossHeld s d = false →
      exec (.workgroupRunHandoff p n) s = .next (handOff s p n l d k))
  ∧ (∀ (p n w d : Nat) (s : State) (l : Launch), launch? s p n = some l → l.handed.head? = some (d, w) → larderHold s l = false →
      crossHeld s d = false →
      (∀ c, placeTarget s l d w = some c → (slotWaiters s p).any (slotFits s c) = false → grewNow s c = false →
        exec (.workgroupPlace p n w) s = .next (startWorkgroup s l w c))
      ∧ (placeTarget s l d w = none → exec (.workgroupPlace p n w) s = .next (updLaunch s p n fun x =>
          { x with handed := x.handed.filter fun y => y.2 != w, back := insertAsc x.back w })))
  ∧ (∀ (p n : Nat) (s : State) (l : Launch), launch? s p n = some l → l.st = .draining → l.ended = recW l.record → endedPeers s = false →
      (recField l.record 0x70 63 0 = 0 → exec (.launchComplete p n) s = .next (completed s p n))
      ∧ (recField l.record 0x70 63 0 ≠ 0 →
          (∀ t, postAdd (completed s p n) (launchIssuer p l.lvl l.sec l.record) none (recField l.record 0x70 63 0) (recField l.record 0x78 31 0) = .ok t →
            exec (.launchComplete p n) s = .next t)
          ∧ (∀ c v, postAdd (completed s p n) (launchIssuer p l.lvl l.sec l.record) none (recField l.record 0x70 63 0) (recField l.record 0x78 31 0)
              = .bad c v → exec (.launchComplete p n) s = .next (postLaunch (completed s p n) l c 0 (recField l.record 0x70 63 0)))))

/-- The Nib forms a batch from the entry that R40 and R41 choose in a free batch context; ages and fill timers change no state; a freed
record is taken by the oldest stalled fault; a thread without a place tries again; spilled entries come back, and the oldest changes
places with the victim of a full frontier (R40-R45, R55, R56). A record that software has written into gives back its threads, and undefined
values for the rest (R16, R52, log 39). -/
def Obligations.FrontierResults : Prop :=
  (∀ (cid b : Nat) (s : State), NibFree s cid b →
    (∀ e, forcedEntry s cid = some e → exec (.nibBatchFormation cid) s = .next (formBatch
      (updCore s cid fun c => { c with deficit := c.deficit.putD 0 e.ctx (c.deficit.get 0 e.ctx - entryCost e) }) cid b e))
    ∧ (∀ t e, forcedEntry s cid = none → chooseEntry (visits (coreAt s cid)) s cid = (t, some e) →
        exec (.nibBatchFormation cid) s = .next (formBatch t cid b e)))
  ∧ (∀ (cid a : Nat) (s : State) (e : Entry), e ∈ (coreAt s cid).fr → e.baddr = a → e.wset ≠ [] →
      (65536 ≤ entryAge s cid e → exec (.entryAgeForce cid a) s = .next s)
      ∧ (e.res = false → e.fill ≠ 0 → recFillTimer (ctxRecord s (coreAt s cid) e.ctx) ≤ entryAge s cid e →
          exec (.fillTimerExpiry cid a) s = .next s))
  ∧ (∀ (cid k : Nat) (s : State) (h : Held) (l : List Held), (coreAt s cid).stalls = h :: l → freeRecord (coreAt s cid) = some k →
      exec (.faultedThreadRecord cid) s = .next (takeRecord (unstalled s cid h l) cid k h))
  ∧ (∀ (w t cid : Nat) (s : State) (th : Thread) (g : Workgroup), thread? s w t = some th → wg? s w = some g → g.cid? = some cid →
      th.st = .waiting .place → exec (.placementRetry w t) s = .next (wake s w t))
  ∧ (∀ (cid : Nat) (s : State) (r : Spilled), reloadFirst (coreAt s cid) = some r → (coreAt s cid).fr.length < Config.frontierEntries →
      coreRuns s cid = true →
      ∃ t, exec (.spillReload cid) s = .next t ∧ (coreAt t cid).fr = (coreAt s cid).fr ++ [(recordBack s cid r).1]
        ∧ (coreAt t cid).spilled = (coreAt s cid).spilled.filter (· != r))
  ∧ (∀ (cid : Nat) (s t : State) (r : Spilled) (l : List Spilled) (v : Entry), (coreAt s cid).spilled = r :: l → victim s cid (coreAt s cid).fr = some v →
      (coreAt s cid).fr.length = Config.frontierEntries → (coreAt s cid).swapRaw + 65536 ≤ coreRaw s cid →
      spillEntry (updCore (recordBack s cid r).2 cid fun c => { c with spilled := c.spilled.filter (· != r) }) cid v = some t →
      exec (.spillSwap cid) s = .next (updCore t cid fun c =>
        { c with fr := (c.fr.filter fun x => !sameEntry x v) ++ [(recordBack s cid r).1], swapRaw := coreRaw s cid }))
  ∧ (∀ (cid : Nat) (s : State) (r : Spilled), s.spoiled.contains (r.holder (coreAt s cid)) = false → recordBack s cid r = (r.back (coreRaw s cid), s))
  ∧ (∀ (cid : Nat) (s : State) (r : Spilled), (recordBack s cid r).1.wset = r.ent.wset)

/-- Time-slicing, saving, restoring and forwarding (R368, R370, R374-R377): at a quantum boundary the slicer takes its candidates; a save
writes its image once nothing of the workgroup is in flight, and what waited for it follows; the saved workgroup that waited
longest is restored; a swap, a migration and a restore put a placement off to the raw cycle after a GROW took words (R210) and while the
crossing to its die holds (R416, R417); what reaches a core that forwards goes to the workgroup's place, until no source sends there. -/
def Obligations.SaveResults : Prop :=
  (∀ (p : Nat) (s : State), p < 64 → swapOpen s p = false → timer s % quantumTicks s p = 0 → timer s ≠ (part s p).bnd →
    exec (.quantumBoundary p) s = .next (sliceNext (s.wgs.length + 1) (boundary s p) p))
  ∧ (∀ (p : Nat) (s : State), p < 64 → swapOpen s p = true → (∀ c, firstCand (candidates s p) = some c → candWaits s p c = false) →
      exec (.quantumBoundary p) s = .next (sliceSwap s p))
  ∧ (∀ (p : Nat) (s : State), swapOpen s p = false ∨ (∃ c, firstCand (candidates s p) = some c ∧ candWaits s p c = true) →
      timer s % quantumTicks s p ≠ 0 → exec (.quantumBoundary p) s = .next s)
  ∧ (∀ (w cid : Nat) (s : State) (g : Workgroup) (r : SaveReq), wg? s w = some g → g.cid? = some cid → g.saving = some r → coreRuns s cid = true →
      (∀ t, r.claimed = false → claimFwd s w = some t → exec (.workgroupSave w) s = .next t)
      ∧ (r.claimed = true → (∃ c ∈ g.chans, c.2.sends ≠ []) → exec (.workgroupSave w) s = .next (completeSends s w))
      ∧ (r.claimed = true → (∀ c ∈ g.chans, c.2.sends = []) → inFlight g = false → matDrained s cid w = true → saveReady s w = true →
          (moveWaits s (writeImage s w g cid r.area) w r.goal = false →
            exec (.workgroupSave w) s = .next (afterSave (writeImage s w g cid r.area) w g r.goal))
          ∧ (moveWaits s (writeImage s w g cid r.area) w r.goal = true → exec (.workgroupSave w) s = .next s)))
  ∧ (∀ (w cid : Nat) (s : State) (g : Workgroup) (l : Launch), wg? s w = some g → (slotWaiters s g.part).find? (fun x => x.1 == w) = some (w, g) →
      launch? s g.part g.lid = some l → growing s = false → crossHeld s (cidDie cid) = false → restoreTarget s l g = some cid →
      (∀ y ∈ slotWaiters s g.part, waitsLonger (y.2.since, y.2.lid, y.2.wid) (g.since, g.lid, g.wid) = true → slotFits s cid y = false) →
      exec (.workgroupRestore w cid) s = .next (restoreWg s w (some cid)).2)
  ∧ (∀ (cid : Nat) (s : State) (x : Item), s.items.find? (fun x => x.cid == cid) = some x →
      (arrives s (itemMsg s x) = false → exec (.forwardedItem cid) s = .next s)
      ∧ (arrives s (itemMsg s x) = true → ∀ n, x.kind = .push n → exec (.forwardedItem cid) s = .next (applyPush { s with items := s.items.erase x } n))
      ∧ (arrives s (itemMsg s x) = true → ∀ n, x.kind = .release n → exec (.forwardedItem cid) s = .next (pbDeliver { s with items := s.items.erase x } x.wg n)))
  ∧ (∀ (cid : Nat) (s : State) (f : Fwd), s.fwds = [f] → f.cid = cid → f.ops = [] → f.homes = [] → f.dies.length ≤ 1 → s.items = [] →
      (∀ x ∈ s.wgs, x.1 ∈ f.wgs → x.2.saving = none) → exec (.forwardingDrainAck cid) s = .next { s with fwds := [] })

/-! Registers, mailboxes and displays as others write them (R12, R118, R324, R327, R331, R364, R381, R382, R389, R398, R403-R410) -/

namespace Sys2Proof.Claims

open Sys2Proof Sys2Proof.Machine

/-- The fields of CTXCFG that a write keeps. -/
def ctxcfgKept (v : Word64) : Nat := maskBits v.toNat [(31, 31), (13, 8), (2, 2), (1, 0)]

/-- The environment of a write of BWORLD as named by a die and a core group (R344). -/
def worldEnv (d g : Nat) : CsrEnv := { part := devicePart, die := d, cg := g, cid := 0, ctl := none, lvl := 2, sec := true }

/-- A post as its log takes it at HEAD (R331): the release before it, its 128 bytes, and HEAD one further. -/
def logged (s : State) (x : Post) : State :=
  let head := csrGet s 0x106 x.log
  let pa := csrGet s 0x104 x.log + 128 * (head % 2 ^ csrGet s 0x105 x.log)
  let r := recode (putBytes (lineOwn (x.release s) (lineOf pa) (wordMask pa 128) none) pa (x.bytes head)) pa 128 false
  csrSet { r with posts := r.posts.filter fun y => y.id != x.id } 0x106 x.log ((head + 1) % 2 ^ 32)

/-- A region ownership entry as a write of it leaves it (R389). -/
def rotWritten (s : State) (n : Nat) (v : Word64) : State :=
  dregSet s 0 (0x100000 + 8 * n) (maskBits v.toNat [(31, 31), (15, 8), (7, 0)] + if bitAt (dregGet s 0 (0x100000 + 8 * n)) 30 then 2 ^ 30 else 0)

/-- A display's first frame that is due, with its tick and the registers in force at it; the stream's engine can work on it (R404, R410,
R416, R417). -/
abbrev FrameDue (s : State) (p v n k : Nat) (r : SMap Word64) : Prop := (disp s p v).due.head? = some (n, k, r)
abbrev Streaming (s : State) (p v : Nat) : Prop :=
  (disp s p v).held = false ∧ accepts s (encEid (streamEngine s p v)) = true ∧ (die s (encDie (streamEngine s p v))).tripped = false

/-- The engine that codes a stream can act for it, and the frame before has been posted (R336, R409). -/
abbrev EngineActs (s : State) (p v : Nat) : Prop :=
  (disp s p v).held = false ∧ encRuns s p v = true ∧ accepts s (encEid (streamEngine s p v)) = true

/-- The post of a coded frame has been made (R409). -/
def posted (s : State) (p v : Nat) : State := blocksAdopt (setDisp s p v { disp s p v with posting := false }) (encDie (streamEngine s p v))

/-- A stream's frame in front, and the bytes of its ring that no reader has given back (R409). -/
abbrev CodingFrame (s : State) (p v n k : Nat) (l : List Nat) (c : List (Nat × Nat × List Nat)) : Prop :=
  ((disp s p v).stream = true ∨ (disp s p v).ending = true) ∧ EngineActs s p v ∧ (disp s p v).posting = false ∧ (disp s p v).cap = (n, k, l) :: c
def ringUsed (s : State) (p v : Nat) : Nat := (bits (dispReg s p v 0x78) 63 32 + 2 ^ 32 - bits (dispReg s p v 0x78) 31 0) % 2 ^ 32
def ringSize (s : State) (p v : Nat) : Nat := bits (dispReg s p v 0x68) 31 0
def frameLimit (s : State) (p v : Nat) : Nat := bits (dispReg s p v 0x68) 63 32
def isKey (s : State) (p v : Nat) : Bool := keyFrame (disp s p v) (bits (dispReg s p v 0x50) 15 0)

/-- The coded unit of a frame, its record in the ring, where the record starts, and the bytes left unused before it (R409). -/
def codedUnit (s : State) (p v : Nat) (l : List Nat) : List Byte :=
  (Config.av1Unit ([0x50, 0x58, 0x68, 0, 0x08].map fun o => BitVec.ofNat 64 (dispReg s p v o)) (isKey s p v) l s.free).take (frameLimit s p v)
def ringRecord (s : State) (p v n k : Nat) (u : List Byte) : List Byte :=
  toBytes 4 u.length ++ toBytes 4 n ++ toBytes 8 k ++ toBytes 16 (b2n (isKey s p v)) ++ u
def ringGap (s : State) (p v n : Nat) : Nat :=
  if ringSize s p v < (disp s p v).off % ringSize s p v + n then ringSize s p v - (disp s p v).off % ringSize s p v else 0
def ringStart (s : State) (p v n : Nat) : Nat := if ringGap s p v n = 0 then (disp s p v).off % ringSize s p v else 0

/-- The stream once a record of n bytes stands in its ring: its write position and its distance from the last key frame have gone on, and
the frame is gone (R409). -/
def frameCoded (s t : State) (p v n : Nat) : State :=
  let d := disp s p v
  let d := { d with off := ringStart s p v n + n, sinceKey := some (if isKey s p v then 1 else d.sinceKey.getD 0 + 1), posting := true }
  frameGone (pregSet (setDisp t p v d) p (dispOff v 0x78)
    ((bits (dispReg s p v 0x78) 63 32 + ringGap s p v n + n) % 2 ^ 32 * 2 ^ 32 + bits (dispReg s p v 0x78) 31 0)) p v

end Sys2Proof.Claims

/-- CTXCFG starts a context that does not run at CTXPC with its registers 0, and stops one; a write with a level of 0 or 3 is dropped
(R324; of level 0 the model's reading, log 36); a fault log takes the next post of a source at HEAD while it has room, after a release, a later one of its faults and one
that a relock or a trip of its die holds waiting, and its registers take what R331 lets them (R331, R416, R417). -/
def Obligations.ContextAndLogResults : Prop :=
  (∀ (n : Nat) (v : Word64) (s : State), n < 32 → s.bootDead = false →
    (bits v.toNat 1 0 = 0 ∨ bits v.toNat 1 0 = 3 → exec (.ctxcfgWrite n v) s = .next s)
    ∧ (bits v.toNat 1 0 = 1 ∨ bits v.toNat 1 0 = 2 → v.getLsbD 31 = true → (ctl s n).run = false →
        ∃ t, exec (.ctxcfgWrite n v) s = .next t ∧ (ctl t n).run = true ∧ (ctl t n).pc = csrGet s (0x420 + n) 0 ∧ (ctl t n).lvl = bits v.toNat 1 0
          ∧ (ctl t n).sec = v.getLsbD 2 ∧ (ctl t n).part = bits v.toNat 13 8 ∧ (ctl t n).s = [] ∧ csrGet t (0x400 + n) 0 = ctxcfgKept v
          ∧ (∀ m, m ≠ n → ctl t m = ctl s m))
    ∧ (bits v.toNat 1 0 = 1 ∨ bits v.toNat 1 0 = 2 → v.getLsbD 31 = true → (ctl s n).run = true →
        exec (.ctxcfgWrite n v) s = .next (csrSet s (0x400 + n) 0 (ctxcfgKept v)))
    ∧ (bits v.toNat 1 0 = 1 ∨ bits v.toNat 1 0 = 2 → v.getLsbD 31 = false →
        ∃ t, exec (.ctxcfgWrite n v) s = .next t ∧ ctl t n = {} ∧ csrGet t (0x400 + n) 0 = ctxcfgKept v ∧ (∀ f ∈ t.forms, f.ag ≠ some (.control n))
          ∧ (∀ m, m ≠ n → ctl t m = ctl s m)))
  ∧ (∀ (n : Nat) (s : State), (ctl s n).run = true → (ctl s n).etcmp.toNat ≤ timer s → exec (.etcmpExpiry n) s = .next s ∧ bitAt (epend s n) 2 = true)
  ∧ (∀ (n : Nat) (s : State) (x : Post), s.posts.find? (fun y => y.id == n) = some x → csrGet s 0x105 x.log ≠ 0 →
      (csrGet s 0x106 x.log + 2 ^ 32 - csrGet s 0x107 x.log) % 2 ^ 32 < 2 ^ csrGet s 0x105 x.log → firstOfSource s x = true → x.ready s = true →
      x.crossing s = false → homeHeld s 0 (csrGet s 0x104 x.log + 128 * (csrGet s 0x106 x.log % 2 ^ csrGet s 0x105 x.log)) = false →
      exec (.faultLogPost n) s = .next (logged s x))
  ∧ (∀ (n : Nat) (s : State) (x : Post), s.posts.find? (fun y => y.id == n) = some x → firstOfSource s x = false ∨ x.crossing s = true →
      exec (.faultLogPost n) s = .next s)
  ∧ (∀ (log v : Nat) (s : State), log ≤ 64 → s.bootDead = false → exec (.flogTailWrite log v) s = .next (logWrite s log 0x107 v))
  ∧ (∀ (log : Nat) (b : Bool) (v : Word64) (s : State), log ≤ 64 → s.bootDead = false →
      exec (.flogConfigWrite log b v) s = .next (logWrite s log (if b then 0x105 else 0x104) v.toNat))

/-- BWORLD's write and its adoption by an idle block, LSCFG's by empty cores, and the die and partition registers that others write take
what their rules let them (R76, R118, R327, R364, R381, R382, R389, R407, R425); a raise of MINVER takes the greater value and is never undone (R412). When a region's entry is created is the model's reading
(log 63). Nothing but BOOTSTAT and the device mailbox is served after a failed boot (R411). -/
def Obligations.RegisterResults : Prop :=
  (∀ (d g : Nat) (v : Word64) (s : State), d < 256 → g < 255 → s.bootDead = false → exec (.bworldWrite d g v) s = .next (csrWrite s (worldEnv d g) 0x500 v.toNat))
  ∧ (∀ (d b : Nat) (s : State), b < 72 → bworldBit s d b ≠ blockWorld s d b → blockIdle s d b = true →
      exec (.bworldTakeEffect d b) s = .next (blockAdopt s d b))
  ∧ (∀ (d g : Nat) (v : Word64) (s : State), Config.isCompute d = true → g < Config.coreGroups d → s.bootDead = false →
      exec (.lscfgWrite d g v) s = .next ((cgCores d g).foldl adoptSplit (csrSet s 0x101 (cgKey d g) (v.toNat % 4))))
  ∧ (∀ (cid : Nat) (s : State), residents s cid = [] → csrGet s 0x101 (cgKey (cidDie cid) (cidCg cid)) % 4 ≠ (coreAt s cid).spsel →
      ∃ t, exec (.lscfgAdopt cid) s = .next t ∧ (coreAt t cid).spsel = csrGet s 0x101 (cgKey (cidDie cid) (cidCg cid)) % 4)
  ∧ (∀ (d : Nat) (v : Word64) (s : State), Config.isShading d = true → s.bootDead = false → diePresent s d = true → dregAssigned d 0x60 = true →
      exec (.accxWrite d v) s = .next (dieWrite s d 0x60 v.toNat).1)
  ∧ (∀ (d e : Nat) (v : Word64) (s : State), d ≠ 0 → s.bootDead = false → diePresent s d = true → dregAssigned d (0x3100 + 8 * e) = true →
      exec (.cpyownWrite d e v) s = .next (dieWrite s d (0x3100 + 8 * e) v.toNat).1)
  ∧ (∀ (d e : Nat) (v : Word64) (s : State), d ≠ 0 → e < 16 → s.bootDead = false → diePresent s d = true → dregAssigned d (0x3000 + 8 * e) = true →
      exec (.encownWrite d e v) s = .next (dieWrite s d (0x3000 + 8 * e) v.toNat).1)
  ∧ (∀ (v : Word64) (s : State), s.bootDead = false → diePresent s 0 = true → exec (.fabctlWrite v) s = .next (dregSet s 0 0 (Max.max 100 (v.toNat % 2 ^ 16))))
  ∧ (∀ (n : Nat) (v : Word64) (s : State), n < 16384 → s.bootDead = false → diePresent s 0 = true →
      (bitAt (dregGet s 0 (0x100000 + 8 * n)) 31 = true → bits v.toNat 15 0 ≠ bits (dregGet s 0 (0x100000 + 8 * n)) 15 0 →
        exec (.rotEntryWrite n v) s = .next s)
      ∧ (bitAt (dregGet s 0 (0x100000 + 8 * n)) 31 = true → bits v.toNat 15 0 = bits (dregGet s 0 (0x100000 + 8 * n)) 15 0 →
          exec (.rotEntryWrite n v) s = .next (if v.getLsbD 31 then rotWritten s n v else buildEntry (rotWritten s n v) n false))
      ∧ (bitAt (dregGet s 0 (0x100000 + 8 * n)) 31 = false →
          exec (.rotEntryWrite n v) s = .next (if v.getLsbD 31 then buildEntry (rotWritten s n v) n true else rotWritten s n v)))
  ∧ (∀ (p o : Nat) (v : Word64) (s : State), p ≤ 64 → o % 8 = 0 → o < 65536 →
      exec (.registerWrite p o v) s = .next (pregWrite s .host p o v.toNat (2 ^ 64 - 1)))
  ∧ (∀ (p q : Nat) (v : Word32) (s : State), p < 64 → q < 16 → s.bootDead = false →
      exec (.qctlWrite p q v) s = .next (pregWrite s .pm p (0x20 * q + 8) v.toNat (2 ^ 32 - 1)))
  ∧ (∀ (p d : Nat) (v : Word64) (s : State), p < 64 → d < 13 → s.bootDead = false →
      exec (.cgmaskMemberWrite p d v) s = .next (cgmaskWrite s p d v.toNat) ∧ exec (.cgmaskDepartWrite p d v) s = .next (cgmaskWrite s p d v.toNat))
  ∧ (∀ (d g p : Nat) (s : State), (List.range 64).find? (fun p => isMember s p d g && isDeparting s p d g) = some p → g < Config.coreGroups d →
      groupEmpty s d g = true →
      ∃ t, exec (.departureComplete d g) s = .next t
        ∧ t = { shareBack s d (cgCores d g) with preg := t.preg } ∧ bitAt (cgmask t p d) g = false ∧ bitAt (cgmask t p d) (16 + g) = false)
  ∧ (∀ (n p o q : Nat) (v : Word64) (x : Word32) (s : State), s.bootDead = true →
      exec (.ctxcfgWrite n v) s = .next s ∧ exec (.fabctlWrite v) s = .next s ∧ exec (.qctlWrite p q x) s = .next s
      ∧ (p ≠ 64 → exec (.registerWrite p o v) s = .next s ∧ exec (.mbinRelease p) s = .next s))
  ∧ (∀ (n : Nat) (s : State), s.bootDead = false → ∃ t, exec (.fuseMinverRaise n) s = .next t
      ∧ n % 2 ^ 32 ≤ t.minverNext ∧ s.minverNext ≤ t.minverNext ∧ s.minver ≤ t.minverNext
      ∧ (t.minverNext = n % 2 ^ 32 ∨ t.minverNext = s.minverNext ∨ t.minverNext = s.minver) ∧ t = { s with minverNext := t.minverNext })

/-- Mailboxes (R398): a post fills its mailbox with the message and sets its full bit while that is clear, a release clears it, and a
posted MBOUT message raises the host's vector; displays and streams start and stop as DCTL and SCTL are written (R403, R405, R408, R410). -/
def Obligations.MailboxResults : Prop :=
  (∀ (p : Nat) (m : BitVec 512) (s : State), p ≤ 64 → s.bootDead = false ∨ p = 64 → bitAt (pregGet s p 0x880) 0 = false →
    ∃ t, exec (.mbinPost p m) s = .next t ∧ bitAt (pregGet t p 0x880) 0 = true ∧ t.out = s.out
      ∧ (∀ k, k < 8 → pregGet t p (0x800 + 8 * k) = bits m.toNat (64 * k + 63) (64 * k)))
  ∧ (∀ (p : Nat) (s : State), p ≤ 64 → s.bootDead = false ∨ p = 64 → bitAt (pregGet s p 0x880) 0 = true →
      ∃ t, exec (.mbinRelease p) s = .next t ∧ bitAt (pregGet t p 0x880) 0 = false ∧ bitAt (pregGet t p 0x880) 1 = bitAt (pregGet s p 0x880) 1)
  ∧ (∀ (p : Nat) (m : BitVec 512) (s : State), p ≤ 64 → s.bootDead = false ∨ p = 64 → bitAt (pregGet s p 0x880) 1 = false →
      ∃ t, exec (.mboutPost p m) s = .next t ∧ bitAt (pregGet t p 0x880) 1 = true ∧ t.out = BitVec.ofNat 64 (2 * p + 1) :: s.out
        ∧ (∀ k, k < 8 → pregGet t p (0x840 + 8 * k) = bits m.toNat (64 * k + 63) (64 * k)))
  ∧ (∀ (p : Nat) (s : State), p ≤ 64 → s.bootDead = false ∨ p = 64 → bitAt (pregGet s p 0x880) 1 = true →
      ∃ t, exec (.mboutRelease p) s = .next t ∧ bitAt (pregGet t p 0x880) 1 = false ∧ bitAt (pregGet t p 0x880) 0 = bitAt (pregGet s p 0x880) 0)
  ∧ (∀ (p v : Nat) (x : Word64) (s : State), p < 64 → v < 2 → s.bootDead = false → x.getLsbD 31 = true → exec (.displayEnable p v x) s = .next (dctlWrite s p v x.toNat))
  ∧ (∀ (p v : Nat) (x : Word64) (s : State), p < 64 → v < 2 → s.bootDead = false → x.getLsbD 30 = false → bitAt (dispReg s p v 0) 30 = true →
      exec (.displayHoldRelease p v x) s = .next (dctlWrite s p v x.toNat))
  ∧ (∀ (p v : Nat) (x : Word64) (s : State), p < 64 → v < 2 → s.bootDead = false → x.getLsbD 63 = true → bitAt (dispReg s p v 0x50) 63 = false →
      exec (.streamEnable p v x) s = .next (sctlWrite s p v x.toNat))
  ∧ (∀ (p v : Nat) (x : Word64) (s : State), p < 64 → v < 2 → s.bootDead = false → x.getLsbD 63 = false → bitAt (dispReg s p v 0x50) 63 = true →
      exec (.streamDisable p v x) s = .next (sctlWrite s p v x.toNat))

/-- The frames of a display become due at the ticks of R404, the registers of the tick with them. The first that is due is captured: the planes
are composed for a stream that runs, the frame counts as skipped while the stream or its engine stands still, and the stream is suspended and the frame counted where
a plane cannot be read; a captured frame that the ring has no room for is dropped and counted, and one that it has room for is coded into the
ring, past a gap where its record would run over the end, and posted (R404-R410). That a frame counts as skipped while its engine has no
suspension slot free is the model's reading (log 46). -/
def Obligations.DisplayResults : Prop :=
  (∀ (s : State) (p v t n : Nat), lastFrame s p v t = some n → captureTick s p v n ≤ t ∧ t < captureTick s p v (n + 1))
  ∧ (∀ (s : State) (p v a t n : Nat), lastFrame s p v t = some n → Max.max a (disp s p v).frame ≤ n →
      disp (framesDue s p v a t) p v = { disp s p v with
        frame := n + 1
        due := (disp s p v).due ++ if (disp s p v).stream then
          ((List.range (n + 1)).drop (Max.max a (disp s p v).frame)).map fun k => (k, captureTick s p v k, captureRegs s p v) else [] })
  ∧ (∀ (p v n k : Nat) (r : SMap Word64) (s : State), FrameDue s p v n k r →
      ((disp s p v).stream = false → (disp s p v).ending = false → exec (.frameCapture p v) s = .next (dueGone s p v))
      ∧ ((disp s p v).stream = true ∨ (disp s p v).ending = true →
          (¬ Streaming s p v → exec (.frameCapture p v) s = .next (skipFrame (dueGone s p v) p v))
          ∧ (∀ w h, Streaming s p v → w = bits (r.get 0 0).toNat 13 0 + 1 → h = bits (r.get 0 0).toNat 29 16 + 1 →
              (∀ l t, frameColours s (streamIssuer s p v) (planes r) w (w * h) (w * h) = .ok (l, t) →
                exec (.frameCapture p v) s = .next (setDisp t p v { disp t p v with
                  due := (disp t p v).due.drop 1, cap := (disp t p v).cap ++ [(n, k, frameSamples w h l)] }))
              ∧ (∀ c va, frameColours s (streamIssuer s p v) (planes r) w (w * h) (w * h) = .bad c va →
                  exec (.frameCapture p v) s = .next (streamFault (skipFrame
                    (dueGone (framePages s (streamIssuer s p v) (planes r) w (w * h)) p v) p v) p v c va))
              ∧ (frameColours s (streamIssuer s p v) (planes r) w (w * h) (w * h) = .wait → exec (.frameCapture p v) s = .next s))))
  ∧ (∀ (p v n k : Nat) (s : State) (l : List Nat) (c : List (Nat × Nat × List Nat)), CodingFrame s p v n k l c →
      (ringSize s p v < ringUsed s p v + frameLimit s p v + 32 → exec (.frameEncodeDone p v) s = .next (skipFrame (frameGone s p v) p v))
      ∧ (∀ (t : State) (u : List Byte) (m : Nat) (x : Out Unit), ringUsed s p v + frameLimit s p v + 32 ≤ ringSize s p v → u = codedUnit s p v l →
          m = 32 + u.length →
          engineWrite (useFree s) (streamIssuer s p v) m ((dispReg s p v 0x60 + ringStart s p v m) % 2 ^ 64) (ringRecord s p v n k u) = (t, x) →
          (∀ e va, x = .bad e va → exec (.frameEncodeDone p v) s = .next (streamFault t p v e va))
          ∧ (x = .ok () → exec (.frameEncodeDone p v) s = .next (postFrame (frameCoded s t p v m) p v))))
  ∧ (∀ (p v : Nat) (s : State), EngineActs s p v → (disp s p v).posting = true → exec (.frameEncodeDone p v) s = .next (postFrame s p v))
  ∧ (∀ (p v : Nat) (s : State),
      (dispReg s p v 0x70 = 0 → postFrame s p v = posted s p v)
      ∧ (dispReg s p v 0x70 ≠ 0 →
          (∀ r, postAdd s (streamIssuer s p v) none (dispReg s p v 0x70) 1 = .ok r → postFrame s p v = posted r p v)
          ∧ (∀ e va, postAdd s (streamIssuer s p v) none (dispReg s p v 0x70) 1 = .bad e va →
              postFrame s p v = streamFault (posted s p v) p v e va)
          ∧ (postAdd s (streamIssuer s p v) none (dispReg s p v 0x70) 1 = .wait → postFrame s p v = s)))

/-! Homes and L1s, the host and the peers, boot and resets, errors (R119-R122, R139, R386-R401, R411-R422) -/

namespace Sys2Proof.Claims

open Sys2Proof Sys2Proof.Machine

/-- A request of an L1 that its home takes, with the cores to which it sends messages first. -/
def transaction (cid line : Nat) (words : Word32) (own : Bool) (dest : List Nat) : Trans :=
  { cid := cid, line := line, words := words, own := own, toL1 := dest, acks := [], reply := false, drop := 0, dw := 0 }

/-- An outside access by physical address that passes resolves to a target. -/
abbrev HostTarget (s : State) (pa n : Nat) (rd wr : Bool) (t : Tgt) : Prop := physTarget s devicePart pa n rd wr (hostPte s pa) = .ok t

/-- The L2 slice of its die through which a core reads a line (R114, R426). -/
def readerSlice (s : State) (cid line : Nat) : Nat := sliceFor (cidDie cid) ((cacheHome s cid line).getD (homeHash (line * 128))) line

/-- The LLC slice of the home of a line that a core writes back takes it (R127). -/
def homeUsed (s : State) (cid line : Nat) : State :=
  if ((lineState s line).get {} cid).home.getD (homeHash (line * 128)) < 256 ∧ line * 128 < hbmBytes then
    touchLlc s (((lineState s line).get {} cid).home.getD (homeHash (line * 128))) line true
  else s

end Sys2Proof.Claims

/-- A home's read and ownership requests, its messages and their acknowledgements (R119-R122, R388, R426): an L1 gives up what a message
takes, the reply brings the words, V on a read and V and W on an ownership request, into an L1 that gives up a line where it is full (R20); no
message of a class overtakes another from its source to its destination (R386); a write-back clears D, an eviction drops the
copy; a refresh holds its bank group's reads for its window (R139). -/
def Sys2Proof.Claims.HomeResults : Prop :=
  (∀ (cid line : Nat) (w : Word32) (s : State), requestOk s cid line w = true → homeFree s line = true →
    (∀ u, u = recallL2 (hostShare (combine s line) line) line w (some (readerSlice s cid line)) →
      exec (.homeReadRequest cid line w) s = .next (startTrans (hostPermit u line) (transaction cid line w false
        (holders u cid line (fun l => l.d &&& w != 0) fun m => m.own && m.dw &&& ~~~m.drop &&& w != 0))))
    ∧ (∀ u, u = clearL2 (hostOwn (combine s line) line) line w (some (readerSlice s cid line)) → (∀ x ∈ s.subs, lineOf x.pa = line → x.push = none) →
        exec (.homeOwnershipRequest cid line w) s = .next (startTrans (hostPermit u line) (transaction cid line w true
          (holders u cid line (fun l => (l.v ||| l.w ||| l.d) &&& w != 0) fun m => m.words &&& ~~~m.drop &&& w != 0)))))
  ∧ (∀ (s : State) (m : Trans), ∃ x, (startTrans s m).cohMsgs = s.cohMsgs ++ [x] ∧ x = { m with
        reply := m.toL1.isEmpty, home := (cacheHome s m.cid m.line).getD (homeHash (m.line * 128)), ord := s.nextId, rord := s.nextId, tick := timer s }
      ∧ (startTrans s m).mem = s.mem)
  ∧ (∀ (cid line : Nat) (s u : State) (m : Trans), s.cohMsgs.find? (fun m => m.cid == cid && m.line == line && m.reply && arrives s m.data) = some m →
      m.words &&& ~~~m.drop ≠ 0 → u = sliceLine (makeRoom s cid line) cid m.home line →
      ∃ t, exec (.dataReplyArrival cid line) s = .next t ∧ t.cohMsgs = u.cohMsgs.erase m
        ∧ ((lineState t line).get {} cid).v = ((lineState u line).get {} cid).v ||| (m.words &&& ~~~m.drop)
        ∧ ((lineState t line).get {} cid).w = (if m.own then ((lineState u line).get {} cid).w ||| (m.words &&& ~~~m.drop) else ((lineState u line).get {} cid).w)
        ∧ ((lineState t line).get {} cid).home = keptHome m.home (line * 128) ∧ t.mem = u.mem)
  ∧ (∀ (cid line : Nat) (s : State) (m : Trans), toward s cid line = some m →
      (arrives s (m.down cid) = true →
        (isRecall s cid m = false → exec (.l1Invalidation cid line) s = .next (gotMessage (loseWords s cid line m.words false) cid m 0 (ownsWords s cid m)))
        ∧ (isRecall s cid m = true → exec (.l1Recall cid line) s =
            .next (gotMessage (loseWords s cid line m.words (!m.own)) cid m (((lineState s line).get {} cid).d &&& m.words)
              (ownsWords s cid m))))
      ∧ (arrives s (m.down cid) = false → exec (.l1Invalidation cid line) s = .next s ∧ exec (.l1Recall cid line) s = .next s))
  ∧ (∀ (cid line : Nat) (s : State) (m : Trans), s.cohMsgs.find? (fun m => m.line == line && m.acks.contains cid) = some m →
      arrives s (m.up cid) = true →
      ∃ t, exec (.homeAckReceived line cid) s = .next t ∧ t = { s with cohMsgs := t.cohMsgs, nextId := s.nextId + 1 }
        ∧ (∀ x ∈ t.cohMsgs, x.line = line → cid ∉ x.acks))
  ∧ (∀ (s : State) (m x : Msg), arrives s m = true → x ∈ inFlightMsgs s → x.cls = m.cls → m.cls ≠ 4 → x.src = m.src → x.dst = m.dst →
      ¬(x.ord < m.ord ∨ (x.ord = m.ord ∧ x.key < m.key)))
  ∧ (∀ (cid line : Nat) (w : Word32) (s : State), w ≠ 0 → ((lineState s line).get {} cid).d &&& w = w →
      exec (.homeWriteback cid line w) s = .next (setLine (homeUsed s cid line) line ((lineState s line).put cid
        { (lineState s line).get {} cid with d := ((lineState s line).get {} cid).d &&& ~~~w })))
  ∧ (∀ (cid line word : Nat) (s : State) (u : UDelta), ((lineState s line).get {} cid).u.find word = some u →
      (lineWatched s line = false → exec (.homeUReduction cid line word u.kind u.val) s = .next s)
      ∧ (lineWatched s line = true → exec (.homeUReduction cid line word u.kind u.val) s =
          .next (setLine (applyDeltas s line [(word, u)]) line ((lineState s line).put cid
            { (lineState s line).get {} cid with u := ((lineState s line).get {} cid).u.erase word }))))
  ∧ (∀ (cid line : Nat) (s : State), ((lineState s line).find cid).isSome = true → exec (.l1Eviction cid line) s = .next (writeBackLine s cid line true))
  ∧ (∀ (d g : Nat) (s : State), Config.isShading d = true → g < 8 → refreshDue s d g = true → g ∉ (die s d).refresh →
      ∃ t, exec (.larderRefreshStart d g) s = .next t ∧ g ∈ (die t d).refresh)
  ∧ (∀ (d g : Nat) (s : State), g ∈ (die s d).refresh → refreshDue s d g = false →
      ∃ t, exec (.larderRefreshEnd d g) s = .next t ∧ g ∉ (die t d).refresh)

/-- Bytes that a read of a block transfers, by its code (R134). -/
def Sys2Proof.Claims.blockCost (code : Nat) : Nat :=
  match code with
  | 1 => 0
  | 2 => 32
  | c => ((bdiForms.find? fun f => f.1 == c).map fun f => f.2.2.2).getD 128

/-- A block's stored bytes under the code it gets are those of the code's form, and give the block back; no other form that reproduces
the block transfers fewer bytes, and none of as many has a lower code (R134, R135). -/
def Sys2Proof.Claims.BlockCodeResults : Prop :=
  ∀ blk : Nat, blk < 2 ^ 1024 →
    bdiDecoded (bdiCode blk) (bdiStored (bdiCode blk) blk) = blk
    ∧ (bdiStored (bdiCode blk) blk).length ≤ Claims.blockCost (bdiCode blk)
    ∧ bdiCode blk ≤ 10
    ∧ (∀ f ∈ bdiForms, bdiReproduces blk f.2.1 f.2.2.1 = true →
        Claims.blockCost (bdiCode blk) < f.2.2.2 ∨ (Claims.blockCost (bdiCode blk) = f.2.2.2 ∧ bdiCode blk ≤ f.1))
    ∧ (bdiCode blk = 1 ↔ blk = 0)

/-- Homes and L1s, and the stored codes of HBM blocks (R119-R122, R133-R135, R139, R388, R426). When a home serves
a request is the model's reading (log 42), and which line leaves a full cache its choice (log 59). -/
def Obligations.CoherenceResults : Prop :=
  Claims.HomeResults
  ∧ Claims.BlockCodeResults

/-- A host access within its windows reads the line as its home has it, or writes its bytes; one outside reads poison or is dropped, and is
counted; a snoop recalls the device's copies and the permission for the line; a peer's access without a window of the partition is refused and
counted, and an atomic of a peer has a function of R239; a peer port answers the part's own accesses in order, which is what a release waits for
(R394-R401). The directory's victim, and how a peer names its function, are the model's choice (logs 44 and 45). -/
def Obligations.HostResults : Prop :=
  (∀ (pa : Nat) (own : Bool) (s : State), pa % 64 = 0 → pa < hbmBytes →
    (inHostWindow s pa 64 = false → exec (.hostMemRead pa own) s = .next (answerOut (hostRej s) false (List.replicate 64 0)))
    ∧ (inHostWindow s pa 64 = true → areaGone s pa = true → exec (.hostMemRead pa own) s = .next (answerOut s false (List.replicate 64 0))))
  ∧ (∀ (pa : Nat) (s : State) (t : Tgt), pa % 64 = 0 → pa < hbmBytes → areaGone s pa = false → inHostWindow s pa 64 = true →
      HostTarget s pa 64 true false t →
      exec (.hostMemRead pa false) s = .next (answerOut { (readTgt s (outside devicePart) t 64).2 with hostDir := allocDir s.hostDir (pa / 64) false }
        true (readTgt s (outside devicePart) t 64).1))
  ∧ (∀ (pa : Nat) (s : State) (t : Tgt), pa % 64 = 0 → pa < hbmBytes → areaGone s pa = false → inHostWindow s pa 64 = true →
      HostTarget s pa 64 true true t →
      exec (.hostMemRead pa true) s = .next (answerOut { lineOwn (readTgt s (outside devicePart) t 64).2 (lineOf pa) (wordMask pa 64) none with
        hostDir := allocDir s.hostDir (pa / 64) true } true (readTgt s (outside devicePart) t 64).1))
  ∧ (∀ (pa : Nat) (l : List Byte) (s : State) (t : Tgt), l ≠ [] → pa % 64 + l.length ≤ 64 → pa < hbmBytes →
      (inHostWindow s pa l.length = false → exec (.hostMemWrite pa l) s = .next (hostRej s))
      ∧ (inHostWindow s pa l.length = true → areaGone s pa = false → HostTarget s pa l.length false true t →
          exec (.hostMemWrite pa l) s = .next { writeTgt s (outside devicePart) t l with hostDir := s.hostDir }))
  ∧ (∀ (pa : Nat) (s : State), area pa = .host → (∀ m ∈ s.cohMsgs, m.line ≠ lineOf pa) →
      exec (.hostSnoop pa) s = .next (hostRecall s (lineOf pa)))
  ∧ (∀ (s : State) (line : Nat), line ∉ (hostRecall s line).hostPerm
      ∧ (area (line * 128) = .host → line ∈ (hostPermit s line).hostPerm))
  ∧ (∀ (port o k n : Nat) (l : List Byte) (s : State), port < 12 → exec (.peerInboundAccess port o k n l) s =
      peerAccess (Config.peerWindow (BitVec.ofNat 64 (dregGet s 0 (0x4108 + 16 * port)))).1
        (Config.peerWindow (BitVec.ofNat 64 (dregGet s 0 (0x4108 + 16 * port)))).2 (dregGet s 0 (0x4100 + 16 * port)) o k n l s)
  ∧ (∀ (base last c o k n m : Nat) (l : List Byte) (s : State), peerForm o k (if k = 0 then n else l.length) = true →
      m = (if k = 0 then n else if k = 1 then l.length else peerWidth (k - 2) l.length) →
      (bitAt c 31 = false ∨ last < (base * 65536 + o + m - 1) / 65536 →
        peerAccess base last c o k n l s = .next (answerOut (hostRej s) false []))
      ∧ (∀ t e i, bitAt c 31 = true → (base * 65536 + o + m - 1) / 65536 ≤ last → leavesTo s (c % 64) (base * 65536 + o) = [e] → pteSlm e.2 = 0 →
          areaGone s (base * 65536 + o) = false → (k ≠ 0 → ∀ d x, area (base * 65536 + o) ≠ .larder d x) → i = outside (c % 64) →
          physTarget s (c % 64) (base * 65536 + o) m (k != 1) (k != 0) e.2 = .ok t →
          (k = 0 → peerAccess base last c o k n l s = .next (answerOut (readTgt s i t m).2 true (readTgt s i t m).1))
          ∧ (k = 1 → peerAccess base last c o k n l s = .next (answerOut (writeTgt s i t l) true []))
          ∧ (2 ≤ k →
              (∀ v, peerAtomic (k - 2) m (ofBytes (readTgt s i t m).1) (ofBytes l) = some v →
                peerAccess base last c o k n l s =
                  .next (answerOut (writeTgt (readTgt s i t m).2 i t (toBytes m v)) true (readTgt s i t m).1))
              ∧ (peerAtomic (k - 2) m (ofBytes (readTgt s i t m).1) (ofBytes l) = none →
                  peerAccess base last c o k n l s = .next (answerOut (readTgt s i t m).2 true (readTgt s i t m).1))))
      ∧ (∀ e d x, bitAt c 31 = true → (base * 65536 + o + m - 1) / 65536 ≤ last → leavesTo s (c % 64) (base * 65536 + o) = [e] → pteSlm e.2 = 0 →
          areaGone s (base * 65536 + o) = false → k ≠ 0 → area (base * 65536 + o) = .larder d x →
          peerAccess base last c o k n l s = .next (answerOut s false [])))
  ∧ (∀ (n : Nat) (s : State) (x : PeerOut), s.peerOut.find? (fun x => x.id == n) = some x →
      (s.peerOut.find? (fun y => y.port == x.port) = some x →
        exec (.peerCompletion n) s = .next { s with peerOut := s.peerOut.filter fun x => x.id != n })
      ∧ (s.peerOut.find? (fun y => y.port == x.port) ≠ some x → exec (.peerCompletion n) s = .next s))

/-- Package reset leaves what reset leaves; the boot ROM starts the firmware of an image that passes, or stops with the code of what
failed; a port that fails to train has its die recorded absent; a report is written when every digest is valid; the identity key is the public
half of the pair that the seed of the die's secret gives (R411-R414, R418, R419). What a package reset keeps of memory is the model's reading
(log 47). -/
def Obligations.BootResults : Prop :=
  (∀ s : State, ∃ t, exec .packageReset s = .next t ∧ t.ctl = State.reset.ctl ∧ t.wgs = [] ∧ t.launches = [] ∧ t.cores = State.reset.cores
    ∧ t.dreg = State.reset.dreg ∧ t.preg = State.reset.preg ∧ t.csr = State.reset.csr ∧ t.tlb = [] ∧ t.minver = Max.max s.minver s.minverNext
    ∧ t.lines = [] ∧ t.l2 = [] ∧ t.llc = []
    ∧ t.mem = s.mem.filter fun c => match area c.1 with | .host | .peer _ => true | _ => false)
  ∧ (∀ (l : List Byte) (s : State), (ctl s 0).run = true → bootStat s = 0 → s.bootDead = false → l.length ≤ 0x3FF000 →
      0x1000 + imageWord l 8 ≤ 0x3FF000 →
      ∃ t, exec (.bootImageFetch l) s = .next t ∧ (imageCheck s l = 0 → t = bootOn s l)
        ∧ (imageCheck s l ≠ 0 → (ctl t 0).run = false ∧ t.bootDead = true ∧ pregGet t 64 0x900 = 256 * imageCheck s l + 2))
  ∧ (∀ (l : List Byte) (s : State), (ctl s 0).run = true → bootStat s = 0 → s.bootDead = false → 0x3FF000 < Max.max l.length (0x1000 + imageWord l 8) →
      ∃ t, exec (.bootImageFetch l) s = .next t ∧ (ctl t 0).run = false ∧ t.bootDead = true ∧ pregGet t 64 0x900 = 256 * 1 + 1)
  ∧ (∀ (l : List Byte) (s : State), imageCheck s l =
      if (Config.shake256 (imageBytes l 0x10 1793)).setWidth 256 ≠ Config.keyHash then 2
      else if Config.falconValid (imageBytes l 0x10 1793) (imageBytes l 0x720 1280) (imageDigest l) = false then 3
      else if imageWord l 4 < s.minver then 4 else 0)
  ∧ (∀ s : State, (trainPorts s).absentDies = untrained s ∧ (∀ n ∈ untrained s, diePresent (trainPorts s) n = false))
  ∧ (∀ (s : State) (k : Nat), s.bootDead = false → k < 224 → pregRead s 64 (0x1000 + 8 * k) =
      ofBytes ((List.range 8).map fun i => Config.falconPublic
        ((toBytes 64 (Config.shake256 ([0x53, 0x5A, 0x2D, 0x49, 0x44] ++ toBytes 32 Config.dieSecret.toNat)).toNat).take 48) (8 * k + i)))
  ∧ (∀ (n : List Byte) (d : Nat) (s t : State), n.length = 32 → d % 4096 = 0 → (∀ x ∈ shadingDies s, dregGet s x 0x140 % 2 = 1) →
      writeParts s { part := devicePart, lvl := 2, sec := true, die := 0, cid := none, wg := none, lid := 0 } d 8 (report s n) 192 = .ok t →
      exec (.attestationReport n d) s = .next t)
  ∧ (∀ (n : List Byte) (d : Nat) (s : State), n.length = 32 → d % 4096 = 0 → (∃ x ∈ shadingDies s, dregGet s x 0x140 % 2 = 0) →
      exec (.attestationReport n d) s = .next s)

/-- Recovery, replays, lost flits, corrected and uncorrectable errors and die resets (R387, R391, R392, R420-R422): what each counts,
poisons, freezes, retires or resets. How a replay's lost flits are named is the model's own (log 87). -/
def Sys2Proof.Claims.ErrorResults : Prop :=
  (∀ (p c : Nat) (s : State), p < 25 → c < 6 →
    (stalled s p c = true → (∀ k < 6, classRank k < classRank c → stalled s p k = false) →
      ∃ t, exec (.dltoRecovery p c) s = .next t ∧ t = { s with dreg := t.dreg, escaped := t.escaped }
        ∧ dregGet t 0 0x08 = (dregGet s 0 0x08 + 1) % 2 ^ 64 ∧ (∀ x ∈ portQueue s p c, x.1 ∈ t.escaped))
    ∧ (stalled s p c = false → exec (.dltoRecovery p c) s = .next s))
  ∧ (∀ (p n k a : Nat) (s : State), p < 12 → quarantined s (p + 1) = false → 1 ≤ n → n ≤ 4 →
      ∃ t, exec (.linkReplay p n k a) s = .next t ∧ t = { s with dreg := t.dreg, replays := s.replays.filter (· != p) } ∧ dregGet t 0 0x10 % 2 ^ 32 = (dregGet s 0 0x10 + 1) % 2 ^ 32
        ∧ dregGet t 0 0x10 / 2 ^ 32 = dregGet s 0 0x10 / 2 ^ 32)
  ∧ (∀ (p n k a c : Nat) (s s' : State), p < 12 → quarantined s (p + 1) = false → 4 < n → c = dregGet s 0 0x10 →
      s' = { dregSet s 0 0x10 ((c / 2 ^ 32 + 1) % 2 ^ 32 * 2 ^ 32 + c % 2 ^ 32) with replays := insertAsc s.replays p } →
      (k < 4 → exec (.linkReplay p n k a) s = .next (loseFlit s' (p + 1) k a))
      ∧ (4 ≤ k → p ∈ s.replays → exec (.linkReplay p n k a) s = .next (loseFlit s (p + 1) (k % 4) a))
      ∧ (4 ≤ k → p ∉ s.replays → exec (.linkReplay p n k a) s = .next s))
  ∧ (∀ (d a : Nat) (s : State),
      (area a ≠ .hole → loseFlit s d 0 a = poisonHome s (lineOf a)) ∧ (area a = .hbm ∨ area a = .host → loseFlit s d 1 a = freezeLine s (lineOf a))
      ∧ loseFlit s d 2 a = quarantine s d)
  ∧ (∀ (d x : Nat) (s : State), diePresent s d = true →
      (lasting (putLoc (rasCount s d 32 32) (trackLoc s d x)) (trackLoc s d x) = false →
        exec (.correctedError d x) s = .next (putLoc (rasCount s d 32 32) (trackLoc s d x)))
      ∧ (lasting (putLoc (rasCount s d 32 32) (trackLoc s d x)) (trackLoc s d x) = true →
          exec (.correctedError d x) s = .next (retire (putLoc (rasCount s d 32 32) (trackLoc s d x)) (trackLoc s d x))))
  ∧ (∀ (a : Nat) (s : State), area a = .hbm → exec (.uncorrectableError 0 a) s = .next (poisonHome s (lineOf a)))
  ∧ (∀ (a : Nat) (s : State), area a = .hbm ∨ area a = .host →
      exec (.uncorrectableError 1 a) s = .next (dropCached (poisonHome s (lineOf a)) (lineOf a)))
  ∧ (∀ (a d o : Nat) (s : State), area a = .larder d o → exec (.uncorrectableError 3 a) s = .next
      (((List.range (larderBytes / 128)).filter fun k => Config.rowOf 2 (128 * k) == Config.rowOf 2 (o / 128 * 128)).foldl
        (fun s k => poisonLine s ((larderBase + d * 2 ^ 30) / 128 + k)) s))
  ∧ (∀ (w o : Nat) (s : State) (g : Workgroup), wg? s w = some g → o < g.spadLen → o < 2 ^ 20 →
      exec (.uncorrectableError 2 (2 ^ 20 * w + o)) s = .next (updWg s w fun g => { g with spadBad := insertAsc g.spadBad (o / 4) }))
  ∧ (∀ (w t k : Nat) (s : State) (th : Thread), thread? s w t = some th → t < 2048 → k < th.allot → k < 512 →
      exec (.uncorrectableError 4 (2 ^ 20 * w + 512 * t + k)) s = .next (updThread s w t fun x => { x with bad := insertAsc x.bad k }))
  ∧ (∀ (d x : Nat) (s : State), (d, x) ∈ s.spares → exec (.spareRowCopyEnd d x) s = .next { s with spares := s.spares.filter (· != (d, x)) })
  ∧ (∀ (d : Nat) (s : State), 1 ≤ d → d ≤ 12 →
      (∀ v, bitAt v 0 = true → ∃ t, dieWrite s d 0x80 v = (t, 0) ∧ t = { s with dreg := t.dreg }
        ∧ (dieInUse s d = true → bitAt (dregGet t d 0x80) 2 = true ∧ bitAt (dregGet t d 0x80) 0 = bitAt (dregGet s d 0x80) 0)
        ∧ (dieInUse s d = false → bitAt (dregGet t d 0x80) 0 = true))
      ∧ (bitAt (dregGet s d 0x80) 0 = true → dieInUse s d = false → exec (.dieOrderlyReset d) s = .next (resetDie (drainDie s d) d))
      ∧ (bitAt (dregGet s d 0x80) 0 = true → dieInUse s d = true → ∃ t, exec (.dieOrderlyReset d) s = .next t ∧ t = { s with dreg := t.dreg }
          ∧ bitAt (dregGet t d 0x80) 0 = false ∧ bitAt (dregGet t d 0x80) 2 = true)
      ∧ (bitAt (dregGet s d 0x80) 1 = true → exec (.dieForcedReset d) s = .next (resetDie (quarantine s d) d)))
  ∧ (∀ (s : State) (d : Nat), 1 ≤ d → d ≤ 12 → (die (resetDie s d) d).relock = none ∧ quarantined (resetDie s d) d = true
      ∧ (die (resetDie s d) d).larderOpen = false)

/-- An engine whose operation's next access fails suspends it (R336): a slice, a tensor copy, a ray query, a fragment's blend, a matrix
operation, a frame's capture and a table command each hold a slot of their engine from then on. -/
def Sys2Proof.Claims.EngineFaultResults : Prop :=
  (∀ (n k v : Nat) (c : Cause) (s t : State) (o : CopyOp), runnableCopy s n = some o → t.susp = s.susp →
    (o.tensor = none → copySlice (o.issuer s) o.src o.dst ((o.len - o.at') / 4) s o.at' = (t, k, .bad c v) →
      exec (.engineFault 0 n) s = .next (settleCloses (copyFault (updCopy t o.id fun y => { y with at' := k }) o c v)))
    ∧ (∀ x y, o.tensor = some (x, y) → copyElems (o.issuer s) x y (tdRows x * tdCols x - o.at') s o.at' = (t, k, .bad c v) →
        exec (.engineFault 1 n) s = .next (settleCloses (copyFault (updCopy t o.id fun y => { y with at' := k }) o c v))))
  ∧ (∀ (n v : Nat) (c : Cause) (s : State) (x : RayQ), s.rays.find? (fun x => x.id == n && !x.held) = some x → accepts s x.eid = true →
      cgRuns s (cidDie x.eid) (x.eid % 16) = true → (∀ y ∈ s.items, y.wg ≠ x.wg) →
      ∀ t, rayResult x (x.issuer s) s = .ok (.error (c, v), t) → t.susp = s.susp → exec (.engineFault 2 n) s = .next (rayFault t x c v))
  ∧ (∀ (n v : Nat) (c : Cause) (s t : State) (f f' : Frag) (r g b a : Word32), s.frags.find? (fun f => f.id == n && cgRuns s f.die f.cg) = some f →
      pixelFirst s f = true → (regionGet s f.part f.rx f.ry).held = false → accepts s (blendEid f) = true → f.res = .blend r g b a →
      blendRun [r, g, b, a] 4 s f = (t, f', .bad c v) → t.susp = s.susp →
      exec (.engineFault 3 n) s = .next (raiseEngine (updFrag (setRegion t { regionGet t f.part f.rx f.ry with held := true }) f.id fun _ => f')
        (blendEid f) f.part f.lvl f.sec f.lid f.wid 3 f.id c v))
  ∧ (∀ (cid v : Nat) (c : Cause) (s : State) (o : MatOp) (l : List MatOp) (g : Workgroup), (coreAt s cid).mq = o :: l → engineFree s cid o.wg = true →
      accepts s (matEid cid) = true → coreRuns s cid = true → wg? s o.wg = some g → o.run (takeEngine s cid o.wg) cid = .bad c v →
      exec (.engineFault 4 cid) s = .next (matFault s cid o c v))
  ∧ (∀ (p v n k w h va : Nat) (r : SMap Word64) (c : Cause) (s : State), v < 2 → FrameDue s p v n k r →
      ((disp s p v).stream = true ∨ (disp s p v).ending = true) → Streaming s p v → w = bits (r.get 0 0).toNat 13 0 + 1 →
      h = bits (r.get 0 0).toNat 29 16 + 1 → frameColours s (streamIssuer s p v) (planes r) w (w * h) (w * h) = .bad c va →
      ∀ t, t = framePages s (streamIssuer s p v) (planes r) w (w * h) → t.susp = s.susp →
      exec (.engineFault 5 (2 * p + v)) s = .next (streamFault (skipFrame (dueGone t p v) p v) p v c va))
  ∧ (∀ (p v : Nat) (c : Cause) (s : State) (m : PtCmd) (x : Word64 × Nat), Posting s p m → m.shoots = false → m.done = some x →
      (m.wrote = false → m.im.raddr ≠ 0 → writeMem s (m.issuer s) m.im.raddr (toBytes 8 x.1.toNat ++ toBytes 8 x.2) = .bad c v →
        exec (.engineFault 6 p) s = .next (faultCmd s m c v))
      ∧ (m.wrote = true ∨ m.im.raddr = 0 → m.im.caddr ≠ 0 → postAdd s (m.issuer s) m.cid m.im.caddr m.im.inc = .bad c v →
          exec (.engineFault 6 p) s = .next (faultCmd s m c v)))

/-- Errors, losses and resets of the part, and the faults of its engines (R336, R387, R391, R392, R420-R422). What a
retirement does, and how ENGINE_FAULT names an operation, are the model's readings (logs 49 and 50). -/
def Obligations.ReliabilityResults : Prop :=
  Claims.ErrorResults
  ∧ Claims.EngineFaultResults
end

