-- ==== Sys2Proof/Laws/Steps.lean ====
section
/-! SUPPORT. What one step can do: a turn of the agenda, or, with none, one act of the part's own round. -/

namespace Sys2Proof.Laws

open Sys2Proof Sys2Proof.Machine

/-- A step with a turn on the agenda is that turn, after its time. -/
theorem step_turn {s : State} {t : Turn} {l : List Turn} (h : s.agenda = t :: l) :
    step s = settled (runTurn t.act (passTime { s with agenda := l } t.dt)) := by simp only [step, h]

/-- A step with nothing on the agenda is the part's own. -/
theorem step_idle {s : State} (h : s.agenda = []) : step s = .next (takeUp (idleStep runTurn s)) := by simp only [step, h, settled]

/-- What ends a step changes nothing where no split and no world was ever set. -/
theorem takeUp_of_everSet {s : State} (h : everSet s = false) : takeUp s = s := by simp [takeUp, h]

/-- A step that ends in a next state ends in one whose settings are taken up. -/
theorem settled_next {r : Result} {t : State} (h : settled r = .next t) : ∃ u, r = .next u ∧ t = takeUp u := by
  cases r with
  | next u => exact ⟨u, rfl, by simpa [settled] using h.symm⟩
  | fault f => cases h
  | refused f => cases h

/-- What a round becomes changes its own bookkeeping alone. -/
theorem roundOn_eq (s : State) (a : List (Nat × Nat × Nat)) (t : State) : ∃ r n, roundOn s a t = { t with round := r, lull := n } := by
  unfold roundOn
  split
  · exact ⟨_, _, rfl⟩
  · exact ⟨_, _, rfl⟩

/-- What acts first is one of the list, and what it does is what it would do alone. -/
theorem firstActing_some {s : State} {l : List Doing} {n : Nat × Nat × Nat} {t : State} (h : firstActing s l = some (n, t)) :
    ∃ f ∈ l, f.name = n ∧ f.run s = .next t := by
  induction l with
  | nil => cases h
  | cons f l ih =>
    simp only [firstActing] at h
    have rest (h : firstActing s l = some (n, t)) : ∃ g ∈ f :: l, g.name = n ∧ g.run s = .next t := by
      obtain ⟨g, hg, hr⟩ := ih h
      exact ⟨g, .tail _ hg, hr⟩
    split at h
    · split at h
      · exact rest h
      · next hr _ => cases h; exact ⟨f, .head _, rfl, hr⟩
    · exact rest h

/-- What the part does by itself: an act that is due, or one cycle later an act of the round, or nothing but the cycle. -/
theorem idleStep_cases (turn : Act → State → Result) (s : State) :
    (∃ f ∈ dueActs s, f.run s = .next (idleStep turn s))
    ∨ (∃ f ∈ idleActs turn (passTime s 12), ∃ t r n, f.run (passTime s 12) = .next t ∧ idleStep turn s = { t with round := r, lull := n })
    ∨ ∃ r n, idleStep turn s = { passTime s 12 with round := r, lull := n } := by
  simp only [idleStep]
  split
  · next h =>
    obtain ⟨f, hf, -, hr⟩ := firstActing_some h
    exact .inl ⟨f, hf, hr⟩
  · split
    · next h =>
      obtain ⟨f, hf, -, hr⟩ := firstActing_some h
      exact .inr (.inl ⟨f, (List.mem_filter.mp hf).1, _, _, _, hr, rfl⟩)
    · split
      · next h =>
        obtain ⟨f, hf, -, hr⟩ := firstActing_some h
        obtain ⟨r, n, e⟩ := roundOn_eq (passTime s 12) _ _
        exact .inr (.inl ⟨f, (List.mem_filter.mp hf).1, _, r, n, hr, e⟩)
      · obtain ⟨r, n, e⟩ := roundOn_eq (passTime s 12) _ _
        exact .inr (.inr ⟨r, n, e⟩)

/-- What every word of an agent keeps, a batch's word keeps. -/
theorem runLanes_keeps {P : State → Prop} (h : ∀ a s t, P s → runWord a s = .next t → P t) (l : List Agent) (s : State) (hs : P s) :
    P (runLanes l s) := by
  induction l generalizing s with
  | nil => exact hs
  | cons a l ih =>
    simp only [runLanes]
    split
    · next hr => exact ih _ (h _ _ _ hs hr)
    · exact ih _ hs

end Sys2Proof.Laws
end

