-- ==== Sys2Proof/Safety.lean ====
section
/-! DEFINITION. What counts as a safe state and a safe step, in the terms the statements use. -/

namespace Sys2Proof.Machine

open Sys2Proof

/-- The memories of the part keep their canonical form. -/
def memoriesOk (s : State) : Prop :=
  Memory.wf s.mem = true ∧ Memory.wf s.bootRam = true ∧ Memory.wf s.tbl = true

/-- A step completes: it answers a next state. -/
def Completes (r : Result) : Prop := ∃ t, r = .next t

end Sys2Proof.Machine
end

