-- ==== Sys2Proof/Tests/Slice0.lean ====
section
/-! SUPPORT. Tests: ill-formed terms that WellFormed refuses, words written out from the spec's encodings, a state that meets the
hypotheses of each statement (`wit_…`), and results that the spec gives. -/

open Sys2Proof Sys2Proof.Machine Sys2Proof.Claims

namespace Slice0Tests
set_option Elab.async false

/-! States that witness the hypotheses of the statements -/

/-- A thread of a shading core: slot k of its first words holds 3 and 7, the pair 18 and 19 the self window, 20 and 21 an address. -/
def wThread : Thread :=
  { st := .running 0, allot := 96, v := [(0, 5), (1, 3), (3, 0xFFFFFF00), (4, 0x10100), (6, 1), (7, 0x40), (8, 8)] }

/-- A workgroup on core 0 of die 3, with a context. -/
def wGroup : Workgroup :=
  { part := 1, lid := 0, wid := 0, place := .resident 768, lvl := 0, sec := false, rows := [0, 1], tmax := 64, a := 96, spadLen := 4096, spad := [],
    spadBad := [], threads := [(0, wThread)],
    ctx := some { s := [(17, 3), (18, 0xFFFFFF0000000000), (20, 0x10100)] }, cRes := 4, cohorts := [], chans := [], tds := [], pts := [], pbSent := [],
    pbRel := [], since := 0, lastCid := 768, frag := false }

/-- A page of HBM at its own address, readable, writable, executable and not secure. -/
def wPte : Word64 := 0x40000000000101DF#64
def wLeaf (d p : Nat) : TlbEnt := { die := d, part := p, lvl := 3, page := 1, pte := wPte, addr := 0, ver := 0 }

/-- A launch record with everything 0. -/
def wLaunch : Launch :=
  { part := 1, lid := 0, record := 0, lvl := 0, sec := false, st := .ready, next := 1, handed := [], back := [], placed := 1, ended := 0, depPa := 0,
    readyAt := 0, posted := false }

/-- Thread 0 of the workgroup executes word k of a block of two words at 0x10000, which another block follows. -/
def wVec (k : Nat) (f : Workgroup → Workgroup := id) : State :=
  { State.reset with
    cur := .vthread 0 0, wgs := [(0, f wGroup)], launches := [wLaunch], tlb := [wLeaf 3 1, wLeaf 9 64, wLeaf 9 1],
    cores := [(768, { ctxs := [(0, (1, 0))], batches := [(0, { blk := 0x10000, len := 2, word := k, lanes := [(0, (0, 0))], todo := [0] })] })],
    icache := [(icKey 768 0x1000C, 0x20)] }

/-- The context of the workgroup executes its word at 0x10000. -/
def wScr (f : Workgroup → Workgroup := id) : State :=
  { wVec 0 f with cur := .scribe 0, wgs := [(0, f { wGroup with ctx := wGroup.ctx.map fun c => { c with pc := 0x10000 } })] }



/-- An access is answered, and what it answers has a property. -/
def answers? {α : Type} (x : Out α) (p : α → Bool) : Bool :=
  match x with
  | .ok a => p a
  | _ => false

theorem of_answers {α : Type} {x : Out α} {p : α → Bool} (h : answers? x p = true) : ∃ a, x = .ok a ∧ p a = true := by
  cases x with
  | ok a => exact ⟨a, rfl, h⟩
  | bad c v => cases h
  | wait => cases h

/-- A result is a next state with a property. -/
def answersNext (r : Result) (p : State → Bool) : Bool :=
  match r with
  | .next t => p t
  | _ => false


/-- A result is a fault of a given name. -/
def answersFault (r : Result) (f : Fault) : Bool :=
  match r with
  | .fault g => g == f
  | _ => false

/-- What a query has come to: its record, or its fault. -/
def rayComes (x : Out (Except (Cause × Nat) (List Byte) × State)) (p : Option (List Byte) → Option (Cause × Nat) → Bool) : Bool :=
  answers? x fun r =>
    match r.1 with
    | .ok l => p (some l) none
    | .error f => p none (some f)

/-! Ill-formed instructions: one for each check -/

theorem test_wellFormed_refuses_units :
    Instr.wellFormed (.cvt 0 6 1 2 0) = false ∧ Instr.wellFormed (.cvt 0 0 1 2 0x0C) = false ∧
    Instr.wellFormed (.pbara 64) = false ∧ Instr.wellFormed (.pbarw 64) = false ∧
    Instr.wellFormed (.xperm 1 2 32) = false ∧ Instr.wellFormed (.ptload 1 32) = false ∧
    Instr.wellFormed (.ptread 1 2 32) = false ∧ Instr.wellFormed (.send 1 16) = false ∧
    Instr.wellFormed (.recv 1 16) = false ∧ Instr.wellFormed (.chpoll 1 16) = false ∧
    Instr.wellFormed (.ldel 1 2 64) = false ∧ Instr.wellFormed (.ldeli 1 2 64) = false ∧
    Instr.wellFormed (.stel 1 2 64) = false := by
  decide

theorem test_wellFormed_refuses_matrix :
    Instr.wellFormed (.mzero 4) = false ∧ Instr.wellFormed (.mldw 4 1) = false ∧ Instr.wellFormed (.mldw 0 64) = false ∧
    Instr.wellFormed (.mstw 4 1) = false ∧ Instr.wellFormed (.mstw 0 64) = false ∧
    Instr.wellFormed (.mstore 4 1 2) = false ∧ Instr.wellFormed (.mstore 0 64 2) = false ∧
    Instr.wellFormed (.mmd 4 1 2) = false ∧ Instr.wellFormed (.mmd 0 64 2) = false ∧ Instr.wellFormed (.mmd 0 1 64) = false ∧
    Instr.wellFormed (.mmp 4 1 2) = false ∧ Instr.wellFormed (.mmp 0 64 2) = false ∧ Instr.wellFormed (.mmp 0 1 64) = false ∧
    Instr.wellFormed (.mflag 1 4) = false ∧ Instr.wellFormed (.tdset 64 1) = false ∧
    Instr.wellFormed (.tdclr 64) = false ∧ Instr.wellFormed (.tdget 64 1) = false := by
  decide

/-- The boundary below each check passes. -/
theorem test_wellFormed_accepts :
    Instr.wellFormed (.cvt 1 5 1 2 0x43) = true ∧ Instr.wellFormed (.pbara 63) = true ∧ Instr.wellFormed (.xperm 1 2 31) = true ∧
    Instr.wellFormed (.send 1 15) = true ∧ Instr.wellFormed (.mmp 3 63 63) = true ∧ Instr.wellFormed (.add 127 127 127) = true := by
  decide

theorem test_words_00_00 :
    decodeWord 0x014A6D30 = .ok (.block 2643 105 2 0) :=
  rfl

theorem test_words_01_01 :
    decodeWord 0x02155369 = .ok (.add 85 38 105) ∧
    decodeWord 0x02355369 = .ok (.sub 85 38 105) ∧
    decodeWord 0x02555369 = .ok (.and 85 38 105) ∧
    decodeWord 0x02755369 = .ok (.or 85 38 105) ∧
    decodeWord 0x02955369 = .ok (.xor 85 38 105) ∧
    decodeWord 0x02B55369 = .ok (.andn 85 38 105) ∧
    decodeWord 0x02D55369 = .ok (.shl 85 38 105) ∧
    decodeWord 0x02F55369 = .ok (.shr 85 38 105) ∧
    decodeWord 0x03155369 = .ok (.sar 85 38 105) ∧
    decodeWord 0x03355369 = .ok (.rotl 85 38 105) ∧
    decodeWord 0x03555369 = .ok (.min 85 38 105) ∧
    decodeWord 0x03755369 = .ok (.max 85 38 105) ∧
    decodeWord 0x03955369 = .ok (.minu 85 38 105) ∧
    decodeWord 0x03B55369 = .ok (.maxu 85 38 105) ∧
    decodeWord 0x03D55369 = .ok (.adds 85 38 105) ∧
    decodeWord 0x03F55369 = .ok (.subs 85 38 105) :=
  ⟨rfl, rfl, rfl, rfl, rfl, rfl, rfl, rfl, rfl, rfl, rfl, rfl, rfl, rfl, rfl, rfl⟩

theorem test_words_02_03 :
    decodeWord 0x04155369 = .ok (.mul 85 38 105) ∧
    decodeWord 0x04355369 = .ok (.mulh 85 38 105) ∧
    decodeWord 0x04555369 = .ok (.mulhu 85 38 105) ∧
    decodeWord 0x04755369 = .ok (.mad 85 38 105) ∧
    decodeWord 0x04955369 = .ok (.div 85 38 105) ∧
    decodeWord 0x04B55369 = .ok (.divu 85 38 105) ∧
    decodeWord 0x04D55369 = .ok (.rem 85 38 105) ∧
    decodeWord 0x04F55369 = .ok (.remu 85 38 105) ∧
    decodeWord 0x06155369 = .ok (.seq 85 38 105) ∧
    decodeWord 0x06355369 = .ok (.sne 85 38 105) ∧
    decodeWord 0x06555369 = .ok (.slt 85 38 105) ∧
    decodeWord 0x06755369 = .ok (.sge 85 38 105) ∧
    decodeWord 0x06955369 = .ok (.sltu 85 38 105) ∧
    decodeWord 0x06B55369 = .ok (.sgeu 85 38 105) :=
  ⟨rfl, rfl, rfl, rfl, rfl, rfl, rfl, rfl, rfl, rfl, rfl, rfl, rfl, rfl⟩

theorem test_words_04_05 :
    decodeWord 0x0815537F = .ok (.mov 85 38) ∧
    decodeWord 0x0835537F = .ok (.not 85 38) ∧
    decodeWord 0x0855537F = .ok (.neg 85 38) ∧
    decodeWord 0x0875537F = .ok (.abs 85 38) ∧
    decodeWord 0x0895537F = .ok (.clz 85 38) ∧
    decodeWord 0x08B5537F = .ok (.ctz 85 38) ∧
    decodeWord 0x08D5537F = .ok (.popc 85 38) ∧
    decodeWord 0x08F5537F = .ok (.brev 85 38) ∧
    decodeWord 0x0915537F = .ok (.sxb 85 38) ∧
    decodeWord 0x0935537F = .ok (.sxh 85 38) ∧
    decodeWord 0x0955537F = .ok (.zxb 85 38) ∧
    decodeWord 0x0975537F = .ok (.zxh 85 38) ∧
    decodeWord 0x0995537F = .ok (.bswap 85 38) ∧
    decodeWord 0x0A155369 = .ok (.sel 85 38 105) :=
  ⟨rfl, rfl, rfl, rfl, rfl, rfl, rfl, rfl, rfl, rfl, rfl, rfl, rfl, rfl⟩

theorem test_words_06_14 :
    decodeWord 0x0C155369 = .ok (.bfx 85 38 105) ∧
    decodeWord 0x0C355369 = .ok (.bfxu 85 38 105) ∧
    decodeWord 0x0C555369 = .ok (.bfi 85 38 105) ∧
    decodeWord 0x115535A3 = .ok (.addi 85 38 1443) ∧
    decodeWord 0x135535A3 = .ok (.andi 85 38 1443) ∧
    decodeWord 0x155535A3 = .ok (.ori 85 38 1443) ∧
    decodeWord 0x175535A3 = .ok (.xori 85 38 1443) ∧
    decodeWord 0x195535A3 = .ok (.shli 85 38 1443) ∧
    decodeWord 0x1B5535A3 = .ok (.shri 85 38 1443) ∧
    decodeWord 0x1D5535A3 = .ok (.sari 85 38 1443) ∧
    decodeWord 0x1F5535A3 = .ok (.slti 85 38 1443) ∧
    decodeWord 0x215535A3 = .ok (.sltui 85 38 1443) ∧
    decodeWord 0x235535A3 = .ok (.muli 85 38 1443) ∧
    decodeWord 0x255405A3 = .ok (.movi 85 1443) ∧
    decodeWord 0x275405A3 = .ok (.movhi 85 1443) ∧
    decodeWord 0x295405A3 = .ok (.pcadr 85 1443) :=
  ⟨rfl, rfl, rfl, rfl, rfl, rfl, rfl, rfl, rfl, rfl, rfl, rfl, rfl, rfl, rfl, rfl⟩

theorem test_words_18_19 :
    decodeWord 0x30155369 = .ok (.fadd 85 38 105) ∧
    decodeWord 0x30355369 = .ok (.fsub 85 38 105) ∧
    decodeWord 0x30555369 = .ok (.fmul 85 38 105) ∧
    decodeWord 0x30755369 = .ok (.fma 85 38 105) ∧
    decodeWord 0x30955369 = .ok (.fnma 85 38 105) ∧
    decodeWord 0x30B55369 = .ok (.fmin 85 38 105) ∧
    decodeWord 0x30D55369 = .ok (.fmax 85 38 105) ∧
    decodeWord 0x30F55369 = .ok (.fminm 85 38 105) ∧
    decodeWord 0x31155369 = .ok (.fmaxm 85 38 105) ∧
    decodeWord 0x31355369 = .ok (.fcpsgn 85 38 105) ∧
    decodeWord 0x32155369 = .ok (.feq 85 38 105) ∧
    decodeWord 0x32355369 = .ok (.flt 85 38 105) ∧
    decodeWord 0x32555369 = .ok (.fle 85 38 105) ∧
    decodeWord 0x32755369 = .ok (.fun 85 38 105) ∧
    decodeWord 0x3295537F = .ok (.fclass 85 38) :=
  ⟨rfl, rfl, rfl, rfl, rfl, rfl, rfl, rfl, rfl, rfl, rfl, rfl, rfl, rfl, rfl⟩

theorem test_words_1a_1a :
    decodeWord 0x3415537F = .ok (.fabs 85 38) ∧
    decodeWord 0x3435537F = .ok (.fneg 85 38) ∧
    decodeWord 0x3455537F = .ok (.fsqrt 85 38) ∧
    decodeWord 0x3475537F = .ok (.frcp 85 38) ∧
    decodeWord 0x3495537F = .ok (.frsq 85 38) ∧
    decodeWord 0x34B5537F = .ok (.fex2 85 38) ∧
    decodeWord 0x34D5537F = .ok (.flg2 85 38) ∧
    decodeWord 0x34F5537F = .ok (.fsinp 85 38) ∧
    decodeWord 0x3515537F = .ok (.fcosp 85 38) ∧
    decodeWord 0x3535537F = .ok (.ftanh 85 38) ∧
    decodeWord 0x3555537F = .ok (.fflr 85 38) ∧
    decodeWord 0x3575537F = .ok (.fceil 85 38) ∧
    decodeWord 0x3595537F = .ok (.ftrc 85 38) ∧
    decodeWord 0x35B5537F = .ok (.frnd 85 38) :=
  ⟨rfl, rfl, rfl, rfl, rfl, rfl, rfl, rfl, rfl, rfl, rfl, rfl, rfl, rfl⟩

theorem test_words_1b_1c :
    decodeWord 0x36155369 = .ok (.hadd2 85 38 105) ∧
    decodeWord 0x36355369 = .ok (.hsub2 85 38 105) ∧
    decodeWord 0x36555369 = .ok (.hmul2 85 38 105) ∧
    decodeWord 0x36755369 = .ok (.hfma2 85 38 105) ∧
    decodeWord 0x36955369 = .ok (.hmin2 85 38 105) ∧
    decodeWord 0x36B55369 = .ok (.hmax2 85 38 105) ∧
    decodeWord 0x36D55369 = .ok (.hdot2 85 38 105) ∧
    decodeWord 0x37155369 = .ok (.badd2 85 38 105) ∧
    decodeWord 0x37355369 = .ok (.bsub2 85 38 105) ∧
    decodeWord 0x37555369 = .ok (.bmul2 85 38 105) ∧
    decodeWord 0x37755369 = .ok (.bfma2 85 38 105) ∧
    decodeWord 0x37955369 = .ok (.bmin2 85 38 105) ∧
    decodeWord 0x37B55369 = .ok (.bmax2 85 38 105) ∧
    decodeWord 0x37D55369 = .ok (.bdot2 85 38 105) ∧
    decodeWord 0x39555333 = .ok (.cvt 1 2 85 38 51) :=
  ⟨rfl, rfl, rfl, rfl, rfl, rfl, rfl, rfl, rfl, rfl, rfl, rfl, rfl, rfl, rfl⟩

theorem test_words_1d_1e :
    decodeWord 0x3A155369 = .ok (.dadd 85 38 105) ∧
    decodeWord 0x3A355369 = .ok (.dsub 85 38 105) ∧
    decodeWord 0x3A555369 = .ok (.dmul 85 38 105) ∧
    decodeWord 0x3A755369 = .ok (.dfma 85 38 105) ∧
    decodeWord 0x3A955369 = .ok (.dmin 85 38 105) ∧
    decodeWord 0x3AB55369 = .ok (.dmax 85 38 105) ∧
    decodeWord 0x3AD55369 = .ok (.deq 85 38 105) ∧
    decodeWord 0x3AF55369 = .ok (.dlt 85 38 105) ∧
    decodeWord 0x3B155369 = .ok (.dle 85 38 105) ∧
    decodeWord 0x3C155369 = .ok (.ladd 85 38 105) ∧
    decodeWord 0x3C355369 = .ok (.lsub 85 38 105) ∧
    decodeWord 0x3C555369 = .ok (.lmul 85 38 105) ∧
    decodeWord 0x3C755369 = .ok (.lshl 85 38 105) ∧
    decodeWord 0x3C955369 = .ok (.lshr 85 38 105) ∧
    decodeWord 0x3CB55369 = .ok (.lsar 85 38 105) :=
  ⟨rfl, rfl, rfl, rfl, rfl, rfl, rfl, rfl, rfl, rfl, rfl, rfl, rfl, rfl, rfl⟩

theorem test_words_20_21 :
    decodeWord 0x4015537F = .ok (.cmake 85 38) ∧
    decodeWord 0x4035537F = .ok (.join 85 38) ∧
    decodeWord 0x405FD37F = .ok (.leave 38) ∧
    decodeWord 0x4075537F = .ok (.csize 85 38) ∧
    decodeWord 0x409FD37F = .ok (.bara 38) ∧
    decodeWord 0x40BFFFA9 = .ok (.pbara 41) ∧
    decodeWord 0x421FD37F = .ok (.barw 38) ∧
    decodeWord 0x423FFFA9 = .ok (.pbarw 41) :=
  ⟨rfl, rfl, rfl, rfl, rfl, rfl, rfl, rfl⟩

theorem test_words_22_2b :
    decodeWord 0x4415537F = .ok (.cradd 85 38) ∧
    decodeWord 0x4435537F = .ok (.crfadd 85 38) ∧
    decodeWord 0x4455537F = .ok (.crmin 85 38) ∧
    decodeWord 0x4475537F = .ok (.crmax 85 38) ∧
    decodeWord 0x4495537F = .ok (.cscan 85 38) ∧
    decodeWord 0x44B5537F = .ok (.cfscan 85 38) ∧
    decodeWord 0x44D55369 = .ok (.cbcast 85 38 105) ∧
    decodeWord 0x44F55315 = .ok (.xperm 85 38 21) ∧
    decodeWord 0x45155369 = .ok (.cshuf 85 38 105) ∧
    decodeWord 0x461FD30B = .ok (.send 38 11) ∧
    decodeWord 0x46357F8B = .ok (.recv 85 11) ∧
    decodeWord 0x46557F8B = .ok (.chpoll 85 11) ∧
    decodeWord 0x515535A3 = .ok (.ldb 85 38 1443) ∧
    decodeWord 0x535535A3 = .ok (.ldbu 85 38 1443) ∧
    decodeWord 0x555535A3 = .ok (.ldh 85 38 1443) ∧
    decodeWord 0x575535A3 = .ok (.ldhu 85 38 1443) :=
  ⟨rfl, rfl, rfl, rfl, rfl, rfl, rfl, rfl, rfl, rfl, rfl, rfl, rfl, rfl, rfl, rfl⟩

theorem test_words_2c_37 :
    decodeWord 0x595535A3 = .ok (.ldw 85 38 1443) ∧
    decodeWord 0x5B5535A3 = .ok (.ldd 85 38 1443) ∧
    decodeWord 0x5D5535A3 = .ok (.ldq 85 38 1443) ∧
    decodeWord 0x615535A3 = .ok (.stb 85 38 1443) ∧
    decodeWord 0x635535A3 = .ok (.sth 85 38 1443) ∧
    decodeWord 0x655535A3 = .ok (.stw 85 38 1443) ∧
    decodeWord 0x675535A3 = .ok (.std 85 38 1443) ∧
    decodeWord 0x695535A3 = .ok (.stq 85 38 1443) ∧
    decodeWord 0x6B35537F = .ok (.ldaq 2 1 85 38) ∧
    decodeWord 0x6D35537F = .ok (.strl 2 1 85 38) ∧
    decodeWord 0x6F5FFFFF = .ok (.fence 2 2) :=
  ⟨rfl, rfl, rfl, rfl, rfl, rfl, rfl, rfl, rfl, rfl, rfl⟩

theorem test_words_3a_3a :
    decodeWord 0x74155369 = .ok (.atomAdd 2 85 38 105) ∧
    decodeWord 0x74355369 = .ok (.atomMin 2 85 38 105) ∧
    decodeWord 0x74555369 = .ok (.atomMax 2 85 38 105) ∧
    decodeWord 0x74755369 = .ok (.atomMinu 2 85 38 105) ∧
    decodeWord 0x74955369 = .ok (.atomMaxu 2 85 38 105) ∧
    decodeWord 0x74B55369 = .ok (.atomAnd 2 85 38 105) ∧
    decodeWord 0x74D55369 = .ok (.atomOr 2 85 38 105) ∧
    decodeWord 0x74F55369 = .ok (.atomXor 2 85 38 105) ∧
    decodeWord 0x75155369 = .ok (.atomSwap 2 85 38 105) ∧
    decodeWord 0x75355369 = .ok (.atomCas 2 85 38 105) ∧
    decodeWord 0x75555369 = .ok (.atomIncw 2 85 38 105) ∧
    decodeWord 0x75755369 = .ok (.atomFadd 2 85 38 105) ∧
    decodeWord 0x75955369 = .ok (.atomHadd2 2 85 38 105) ∧
    decodeWord 0x75B55369 = .ok (.atomLadd 2 85 38 105) ∧
    decodeWord 0x75D55369 = .ok (.atomLcas 2 85 38 105) :=
  ⟨rfl, rfl, rfl, rfl, rfl, rfl, rfl, rfl, rfl, rfl, rfl, rfl, rfl, rfl, rfl⟩

theorem test_words_3c_3f :
    decodeWord 0x78155369 = .ok (.waitge 85 38 105) ∧
    decodeWord 0x78355369 = .ok (.waitne 85 38 105) ∧
    decodeWord 0x78555369 = .ok (.waiteq 85 38 105) ∧
    decodeWord 0x7A155369 = .ok (.ldsub 85 38 105) ∧
    decodeWord 0x7A355369 = .ok (.ldsubD 85 38 105) ∧
    decodeWord 0x7A557FE9 = .ok (.unsub 85 105) ∧
    decodeWord 0x7A755369 = .ok (.slotwait 85 38 105) ∧
    decodeWord 0x7A957FE9 = .ok (.slotrd 85 105) ∧
    decodeWord 0x7AB57FE9 = .ok (.slotst 85 105) ∧
    decodeWord 0x7C1FD369 = .ok (.copy 38 105) ∧
    decodeWord 0x7C3FD37F = .ok (.copyt 38) ∧
    decodeWord 0x7E1FD37F = .ok (.pref 38) ∧
    decodeWord 0x7E3FFFFF = .ok (.icinvCore) ∧
    decodeWord 0x7E5FFFFF = .ok (.icinvDie) ∧
    decodeWord 0x7E7FFFFF = .ok (.icinvDev) ∧
    decodeWord 0x7E9FFFFF = .ok (.icinvSys) :=
  ⟨rfl, rfl, rfl, rfl, rfl, rfl, rfl, rfl, rfl, rfl, rfl, rfl, rfl, rfl, rfl, rfl⟩

theorem test_words_40_4d :
    decodeWord 0x80155329 = .ok (.ldel 85 38 41) ∧
    decodeWord 0x80355329 = .ok (.ldeli 85 38 41) ∧
    decodeWord 0x80555329 = .ok (.stel 85 38 41) ∧
    decodeWord 0x821FD315 = .ok (.ptload 38 21) ∧
    decodeWord 0x82355315 = .ok (.ptread 85 38 21) ∧
    decodeWord 0x91FEC5A7 = .ok (.br 181671) ∧
    decodeWord 0x929AC5A7 = .ok (.bnz 38 181671) ∧
    decodeWord 0x949AC5A7 = .ok (.bz 38 181671) ∧
    decodeWord 0x961FD37F = .ok (.jmpr 38) ∧
    decodeWord 0x9635537F = .ok (.callr 85 38) ∧
    decodeWord 0x967FFFFF = .ok (.exit) ∧
    decodeWord 0x989AC5A7 = .ok (.call 38 181671) ∧
    decodeWord 0x9A155369 = .ok (.spawn 85 38 105) ∧
    decodeWord 0x9A35537F = .ok (.launch 85 38) :=
  ⟨rfl, rfl, rfl, rfl, rfl, rfl, rfl, rfl, rfl, rfl, rfl, rfl, rfl, rfl⟩

theorem test_words_4e_52 :
    decodeWord 0x9C1FD37F = .ok (.setwb 38) ∧
    decodeWord 0x9C35537F = .ok (.grow 85 38) ∧
    decodeWord 0x9C5FD37F = .ok (.shrink 38) ∧
    decodeWord 0x9E157FFF = .ok (.rdtime 85) ∧
    decodeWord 0x9E357FFF = .ok (.rdcyc 85) ∧
    decodeWord 0x9E557FFF = .ok (.rdncyc 85) ∧
    decodeWord 0x9E75537F = .ok (.rdlrw 85 38) ∧
    decodeWord 0xA01FD37F = .ok (.emitvp 38) ∧
    decodeWord 0xA21FD37F = .ok (.blnd 38) ∧
    decodeWord 0xA23FFFFF = .ok (.discard) ∧
    decodeWord 0xA25FD37F = .ok (.depthw 38) ∧
    decodeWord 0xA41FD369 = .ok (.rayq 38 105) :=
  ⟨rfl, rfl, rfl, rfl, rfl, rfl, rfl, rfl, rfl, rfl, rfl, rfl⟩

theorem test_words_58_62 :
    decodeWord 0xB000BFFF = .ok (.mzero 2) ∧
    decodeWord 0xB02094A6 = .ok (.mmd 2 41 38) ∧
    decodeWord 0xB040529A = .ok (.mmp 1 37 26) ∧
    decodeWord 0xB060D4E9 = .ok (.mstore 3 41 105) ∧
    decodeWord 0xB08094FF = .ok (.mldw 2 41) ∧
    decodeWord 0xB0A0557F = .ok (.mstw 1 42) ∧
    decodeWord 0xB0D5417F = .ok (.mflag 85 2) ∧
    decodeWord 0xB0FFD369 = .ok (.mcomp 38 105) ∧
    decodeWord 0xB11FD37F = .ok (.mrows 38) ∧
    decodeWord 0xB13FD37F = .ok (.mcols 38) ∧
    decodeWord 0xB20A537F = .ok (.tdset 41 38) ∧
    decodeWord 0xB23FD4E9 = .ok (.tdget 41 105) ∧
    decodeWord 0xB24A7FFF = .ok (.tdclr 41) ∧
    decodeWord 0xC1FC05A3 = .ok (.trap 1443) ∧
    decodeWord 0xC3FC05A3 = .ok (.brk 1443) ∧
    decodeWord 0xC55409A6 = .ok (.csrr 85 2470) :=
  ⟨rfl, rfl, rfl, rfl, rfl, rfl, rfl, rfl, rfl, rfl, rfl, rfl, rfl, rfl, rfl, rfl⟩

theorem test_words_63_6a :
    decodeWord 0xC75409A6 = .ok (.csrw 85 2470) ∧
    decodeWord 0xC81FFFFF = .ok (.eret) ∧
    decodeWord 0xCA15537F = .ok (.ptupd 85 38) ∧
    decodeWord 0xCC15537F = .ok (.rgnflush 85 38) ∧
    decodeWord 0xCC355369 = .ok (.ownxfer 85 38 105) ∧
    decodeWord 0xCC55537F = .ok (.rgnq 85 38) ∧
    decodeWord 0xCE155369 = .ok (.pstep 85 38 105) ∧
    decodeWord 0xD0155369 = .ok (.wgsave 85 38 105) ∧
    decodeWord 0xD0355369 = .ok (.wgload 85 38 105) ∧
    decodeWord 0xD0555369 = .ok (.wgmigr 85 38 105) ∧
    decodeWord 0xD075537F = .ok (.wgkill 85 38) ∧
    decodeWord 0xD0955369 = .ok (.resume 85 38 105) ∧
    decodeWord 0xD0B5537F = .ok (.thkill 85 38) ∧
    decodeWord 0xD215537F = .ok (.lwopen 85 38) ∧
    decodeWord 0xD235537F = .ok (.lwclose 85 38) ∧
    decodeWord 0xD4155369 = .ok (.chbind 85 38 105) :=
  ⟨rfl, rfl, rfl, rfl, rfl, rfl, rfl, rfl, rfl, rfl, rfl, rfl, rfl, rfl, rfl, rfl⟩

theorem test_words_6b_6d :
    decodeWord 0xD6155369 = .ok (.pbset 85 38 105) ∧
    decodeWord 0xD81FFFFF = .ok (.wfi) ∧
    decodeWord 0xDA15537F = .ok (.dierd 85 38) ∧
    decodeWord 0xDA355369 = .ok (.diewr 85 38 105) ∧
    decodeWord 0xDA55537F = .ok (.linktrn 85 38) :=
  ⟨rfl, rfl, rfl, rfl, rfl⟩

/-! The example words the spec writes out (R34, R154, R158, R168-R173, R226, R270, R299, R313, R355) -/

theorem test_spec_words_plain :
    decodeWord 0x01FFE040 = .ok (.block 4095 2 0 0) ∧
    decodeWord 0x1203C001 = .ok (.andi 0 120 1) ∧
    decodeWord 0x92000004 = .ok (.bnz 0 4) ∧
    decodeWord 0x1047F802 = .ok (.addi 17 127 2) ∧
    decodeWord 0x91FC0004 = .ok (.br 4) ∧
    decodeWord 0x967FFFFF = .ok .exit ∧
    decodeWord 0x6EDFFFFF = .ok (.fence 1 2) ∧
    decodeWord 0x5A50D003 = .ok (.ldd 20 26 3) ∧
    decodeWord 0x645CA003 = .ok (.stw 23 20 3) ∧
    decodeWord 0x741FCA16 = .ok (.atomAdd 2 127 20 22) ∧
    decodeWord 0x3904C910 = .ok (.cvt 1 0 19 18 0x10) ∧
    decodeWord 0xA41FC914 = .ok (.rayq 18 20) :=
  ⟨rfl, rfl, rfl, rfl, rfl, rfl, rfl, rfl, rfl, rfl, rfl, rfl⟩

theorem test_spec_words_matrix :
    decodeWord 0xB11FC2FF = .ok (.mrows 5) ∧
    decodeWord 0xB13FC37F = .ok (.mcols 6) ∧
    decodeWord 0xB0003FFF = .ok (.mzero 0) ∧
    decodeWord 0xB0200082 = .ok (.mmd 0 1 2) ∧
    decodeWord 0xB0400082 = .ok (.mmp 0 1 2) ∧
    decodeWord 0xB0600187 = .ok (.mstore 0 3 7) ∧
    decodeWord 0xB080427F = .ok (.mldw 1 4) ∧
    decodeWord 0xB0FFC409 = .ok (.mcomp 8 9) ∧
    decodeWord 0xB0C2C07F = .ok (.mflag 11 0) :=
  ⟨rfl, rfl, rfl, rfl, rfl, rfl, rfl, rfl, rfl⟩

theorem test_spec_words_system :
    decodeWord 0xC1FC0005 = .ok (.trap 5) ∧
    decodeWord 0xD080C082 = .ok (.resume 3 1 2) ∧
    decodeWord 0xC81FFFFF = .ok .eret ∧
    decodeWord 0xD81FFFFF = .ok .wfi ∧
    decodeWord 0xDA21C103 = .ok (.diewr 7 2 3) :=
  ⟨rfl, rfl, rfl, rfl, rfl⟩

/-- R177: the checks come in order, opcode, function, then unused and literal fields. -/
theorem test_words_refused :
    decodeWord 0x2A000000 = .error .opcode ∧
    decodeWord 0x36E00082 = .error .function ∧
    decodeWord 0x6EDFFF80 = .error .unusedField ∧
    decodeWord 0x39C4C910 = .error .function ∧
    decodeWord 0x40BFFFC0 = .error .literal ∧
    decodeWord 0xC4041000 = .error .function :=
  ⟨rfl, rfl, rfl, rfl, rfl, rfl⟩

/-! Encoding, the step and reset -/

theorem wit_DecodeOfEncode :
    Instr.wellFormed (.add 16 1 3) = true ∧ encode (.add 16 1 3) = some 0x02040083 ∧
    Instr.wellFormed (.mmp 3 63 63) = true ∧ encode (.mmp 3 63 63) = some 0xB040DFBF := by decide +kernel
theorem wit_DecodeIsExact :
    decode [0x83, 0x00, 0x04, 0x02, 0x55] = .ok (.add 16 1 3, [0x55]) ∧ (∀ p n f c, Instr.add 16 1 3 ≠ .block p n f c) :=
  ⟨rfl, by rintro _ _ _ _ ⟨⟩⟩

/-- Control context 0 about to execute a word, and one that does not decode. -/
def wCtl (w : Nat) : State := State.reset.withFetchWord 32 w

theorem wit_RunWord :
    canRun { wCtl 0x02040083 with cur := .control 0 } = true ∧
    fetchWord { wCtl 0x02040083 with cur := .control 0 } (.control 0) (curPc { wCtl 0x02040083 with cur := .control 0 })
      = .ok (0x02040083, { wCtl 0x02040083 with cur := .control 0 }) ∧
    decode (wordBytes 0x02040083) = .ok (.add 16 1 3, []) ∧
    fetchWord { wCtl 0xFE000000 with cur := .control 0 } (.control 0) (curPc { wCtl 0xFE000000 with cur := .control 0 })
      = .ok (0xFE000000, { wCtl 0xFE000000 with cur := .control 0 }) ∧
    decode (wordBytes 0xFE000000) = .error .opcode := ⟨rfl, rfl, rfl, rfl, rfl⟩
/-- The machine runs what is placed as its first instruction after reset. -/
theorem test_first_instruction : answersNext (step (wCtl 0x24400005)) (fun t => readR t 16 == 5 && t.ir == 0x24400005) = true := by decide +kernel

def wTurn : State := { wVec 0 with agenda := [] }

/-- A SPAWN of the batch whose release a push still holds back. -/
def wSpawning : State :=
  { wTurn with
    icache := [(icKey 768 0x10004, (encode (.spawn 16 20 17)).getD 0), (icKey 768 0x10100, 0x20)]
    subs := [{ id := 3, wg := 5, off := 64, pa := 0x10100, dw := false, push := some (5, 1), merged := none, closing := false, home := 0 }] }

theorem wit_StepRunsTurns :
    ({ wVec 0 with agenda := [⟨7, .batch 768 0⟩] } : State).agenda = [⟨7, .batch 768 0⟩] ∧
    batchHeads (passTime wTurn 7) 768 0 = [.vthread 0 0] ∧ batchMay (passTime wTurn 7) 768 0 = true ∧
    canRun { passTime wTurn 7 with cur := .vthread 0 0 } = true ∧
    torn (passTime wTurn 7) 768 0 = false ∧
    createsChildren (runLanes [.vthread 0 0] (noteBatch (passTime wTurn 7) 768 0)).ir = false ∧
    contextMay runWord (passTime wTurn 7) (.scribe 0) = true ∧
    betweenWords (passTime State.reset 7) 0 = none ∧ (ctl (passTime State.reset 7) 0).mode = .ready ∧
    contextMay runWord (passTime State.reset 7) (.control 0) = true ∧ (die State.reset 0).tripped = false := by decide +kernel

/-- The batch's block has other bytes now than when the batch was formed; its word is an ADD to field 16, and field 16 is a free value then
(R142). -/
def wTorn : State :=
  { wTurn with
    icache := [(icKey 768 0x10004, 0x02040083)]
    cores := wTurn.cores.map fun c => (c.1, { c.2 with batches := c.2.batches.map fun b => (b.1, { b.2 with code := [(0x10000, [1])] }) }) }

theorem wit_StepRunsTurns_torn :
    batchHeads (passTime wTorn 7) 768 0 = [.vthread 0 0] ∧ batchMay (passTime wTorn 7) 768 0 = true ∧
    canRun { passTime wTorn 7 with cur := .vthread 0 0 } = true ∧ torn (passTime wTorn 7) 768 0 = true ∧
    createsChildren (tornResults (passTime wTorn 7) (runLanes [.vthread 0 0] (noteBatch (passTime wTorn 7) 768 0))).ir = false := by decide +kernel

/-- What is settled at the end of a step: nothing at reset, and a world that a die's groups are to take up. -/
theorem wit_settled : everSet State.reset = false ∧ everSet { State.reset with csr := [(csrKey bworldDie 1, 1)] } = true := by decide +kernel

theorem wit_StepRunsTurns_unit : encode (.adReport) = none ∧ encode (.add 16 17 18) ≠ none := by decide +kernel

theorem wit_StepRunsTurns_spawn :
    batchHeads (passTime wSpawning 7) 768 0 = [.vthread 0 0] ∧ batchMay (passTime wSpawning 7) 768 0 = true ∧
    createsChildren (runLanes [.vthread 0 0] (noteBatch (passTime wSpawning 7) 768 0)).ir = true ∧
    laneLeft (runLanes [.vthread 0 0] (noteBatch (passTime wSpawning 7) 768 0)) 768 0 (wordAt (passTime wSpawning 7) 768 0) = true := by
  decide +kernel


theorem wit_runLanes :
    answersNext (runWord (.control 0) State.reset) (fun _ => true) = true ∧ canRun { State.reset with cur := .vthread 0 5 } = false := by decide +kernel


/-- A state in which everything has acted in its round. -/
def wRound (n : Nat) : State := { State.reset with round := (idleActs runTurn (passTime State.reset 12)).map (·.name), lull := n }

/-- No act of a list does anything. -/
def allStill (s : State) (l : List Doing) : Bool := l.all fun f => match f.run s with | .next x => decide (x = s) | _ => true

/-- At reset no act is due, and control context 0 has its turn, also when the round has come to its end. -/
theorem wit_StepRunsControl :
    State.reset.agenda = [] ∧ allStill State.reset (dueActs State.reset) = true ∧ (5, 0, 0) ∉ (passTime State.reset 12).round ∧
    answersNext (runControl 0 (passTime State.reset 12)) (fun t => decide ((ctl t 0).pc ≠ (ctl (passTime State.reset 12) 0).pc)) = true := by
  decide +kernel
theorem wit_StepRunsControl_round :
    (∀ n ∈ [0, 1, 2], (idleActs runTurn (passTime (wRound n) 12)).map (·.name) = (passTime (wRound n) 12).round ∧
      allStill (wRound n) (dueActs (wRound n)) = true ∧ (passTime (wRound n) 12).lull = n) ∧ (5, 0, 0) ∈ (passTime (wRound 2) 12).round ∧
    answersNext (runControl 0 (passTime (wRound 2) 12)) (fun t => decide ((ctl t 0).pc ≠ (ctl (passTime (wRound 2) 12) 0).pc)) = true := by
  decide +kernel


theorem wit_StepKeepsMemoryCanonical : Memory.wf State.reset.mem = true ∧ answersNext (step State.reset) (fun _ => true) = true := by decide +kernel

/-! Instructions on registers -/

theorem wit_integer :
    Passes (wVec 0) (dab 16 17 18) ∧ Passes (wVec 0) (mab 16 17 18) ∧ Passes (wVec 0) (da 111 127) ∧
    Passes wScr (dab 127 17 18) ∧ Passes State.reset (dab 16 17 18) := by decide +kernel
theorem wit_constant :
    Passes (wVec 0) { ops := [opW 16] } ∧ Passes (wVec 0) { ops := [opM 16] } ∧ Passes (wVec 0) { ops := [opWp 18] } ∧
    canRun State.reset = true ∧ isVector State.reset = false := by decide +kernel
theorem wit_packed_pair :
    Passes (wVec 0) { dab 16 17 18 with need := .vector } ∧ Passes (wVec 0) { mab 16 17 18 with need := .vector } ∧
    Passes (wVec 0) { ops := [opWp 16, opRp 18, opRp 127], need := .vector } ∧
    Passes (wVec 0) { ops := [opMp 16, opRp 18, opRp 20], need := .vector } ∧
    Passes (wVec 0) { ops := [opW 16, opRp 18, opRp 20], need := .vector } ∧
    Passes (wVec 0) { ops := [opWp 16, opRp 18, opR 17], need := .vector } := by decide +kernel
/-- The first and the last kind of CVT that R227 assigns. -/
theorem wit_convert :
    (∃ c, cvtKind (0 : Field).toNat = some c ∧ (5 : BitVec 3).toNat < 6 ∧
      Passes (wVec 0) { ops := [if c.dPair then opWp 16 else opW 16, if c.aPair then opRp 18 else opR 18] }) ∧
    ∃ c, cvtKind (0x43 : Field).toNat = some c ∧
      Passes (wVec 0) { ops := [if c.dPair then opWp 16 else opW 16, if c.aPair then opRp 18 else opR 18] } :=
  ⟨⟨_, rfl, by decide, rfl, rfl⟩, ⟨_, rfl, rfl, rfl⟩⟩

/-- A write of a read-only register, and a vector form on a context. -/
theorem wit_FailedChecks :
    canRun (wVec 0) = true ∧ checkForm (wVec 0) (dab 112 17 18) = some .rowrite ∧ checkForm (wVec 1) (dab 16 17 18) = some .blockfmt ∧
    canRun State.reset = true ∧ checkForm State.reset { dab 16 17 18 with need := .vector } = some .unit := by decide +kernel

/-! Memory -/

/-- A workgroup whose thread has the given carried slots. -/
def withV (v : SMap Word32) (g : Workgroup) : Workgroup := { g with threads := [(0, { wThread with v := v })] }

/-- The targets that pairs 18 (the scratchpad from 0 up) and 20 (memory from 0x10100 up) name. -/
def tSpad (o : Nat) : Tgt := { loc := .spad 0 o, pte := 0, tlb := none }
def tMem (o : Nat) (d : Nat := 3) (p : Nat := 1) : Tgt := { loc := .phys (0x10000 + o), pte := 0x40000000000101DF, tlb := some (wLeaf d p) }

theorem wit_LoadResults :
    Passes (wVec 0) { ops := [opW 16, opRp 18] } ∧ Reads (wVec 0) (address (wVec 0) 18 1023 4) 4 (tSpad 4092) ∧
    Passes (wVec 0) { ops := [opWp 16, opRp 20] } ∧ Reads (wVec 0) (address (wVec 0) 20 1 8) 8 (tMem 0x108) ∧
    Passes (wVec 0) { ops := [opWq 16, opRp 20] } ∧ Reads (wVec 0) (address (wVec 0) 20 0 16) 16 (tMem 0x100) ∧
    Passes wScr { ops := [opW 16, opRp 18] } ∧ Reads wScr (address wScr 18 0 1) 1 (tSpad 0) := by decide +kernel
/-- A push toward a record of another workgroup is on its way from the location at 0x10100. -/
def wPushed : State :=
  { wVec 0 with subs := [{ id := 3, wg := 5, off := 64, pa := 0x10100, dw := false, push := some (5, 1), merged := none, closing := false, home := 0, span := [(0x10100, 0x10104)] }] }

/-- Every access of the table fails where its pair names no page; a load and an atomic wait for a push that is under way. -/
theorem wit_FailedAccess :
    (∀ p ∈ accesses 20 127 20 1 0 3, Passes (wVec 0) p.2.1 ∧ resolve (wVec 0) (me (wVec 0)) (p.2.2 (wVec 0)) = .bad .xlateNp (p.2.2 (wVec 0)).va) ∧
    resolve (wVec 0 (withV [(2, 2)])) (me (wVec 0 (withV [(2, 2)]))) { va := (readP (wVec 0 (withV [(2, 2)])) 18).toNat, size := 4, rd := true, wr := true }
      = .bad .misalign 2 ∧
    ∃ p ∈ accesses 20 20 20 0 0 3, Passes wPushed p.2.1 ∧ resolve wPushed (me wPushed) (p.2.2 wPushed) = .wait := by decide +kernel

/-- The pair 18 holds an address whose bit 48 the upper bits do not repeat. -/
def wFar : State := wVec 0 (withV [(3, 0x10000)])

theorem wit_AddressSpaceDivides_access :
    (∀ p ∈ accesses 20 18 20 0 0 3, Passes wFar p.2.1 ∧ (p.2.2 wFar).va = 0x1000000000000 ∧ 0x1000000000000 % (p.2.2 wFar).size = 0) ∧
    0x1000000000000 / 2 ^ 49 ≠ (if 0x1000000000000 / 2 ^ 48 % 2 = 1 then 2 ^ 15 - 1 else 0) := by decide +kernel

/-- Two workgroups of one launch, 0 and 1. -/
def wTwo : State := { wVec 0 with wgs := [(0, wGroup), (1, { wGroup with wid := 1, rows := [2, 3] })] }

/-- An address in each range, the first and last ones of the windows among them. -/
theorem wit_AddressSpaceDivides_ranges :
    (me wTwo).wg = some 0 ∧ wg? wTwo 0 = some wGroup ∧
    (∀ a ∈ [0x10100, 0xFFFFEFFFFFFFFFFC, 0xFFFFF00000000000, 0xFFFFF00000100004, 0xFFFFF00000200004, 0xFFFFF0FFFFFFFFFC, 0xFFFFF10000000000,
        0xFFFFFF0000000000, 0xFFFFFF00000FFFFC, 0xFFFFFF0000100000, 0xFFFFFFFFFFFFFFFC],
      a % 4 = 0 ∧ a / 2 ^ 49 = if a / 2 ^ 48 % 2 = 1 then 2 ^ 15 - 1 else 0) ∧
    (0x10100 % 2 ^ 49 < 0x1F00000000000 ∧ 0xFFFFEFFFFFFFFFFC % 2 ^ 49 < 0x1F00000000000) ∧
    (0x1F00000000000 ≤ 0xFFFFF00000100004 % 2 ^ 49 ∧ 0xFFFFF0FFFFFFFFFC % 2 ^ 49 < 0x1F10000000000) ∧
    (wTwo.wgs.find? (fun y => y.2.part == wGroup.part && y.2.lid == wGroup.lid
        && y.2.wid == wGroup.wid / 2 ^ 20 * 2 ^ 20 + (0xFFFFF00000100004 % 2 ^ 49 - 0x1F00000000000) / 2 ^ 20)).isSome = true ∧
    (∀ y ∈ wTwo.wgs, y.2.wid ≠ wGroup.wid / 2 ^ 20 * 2 ^ 20 + (0xFFFFF00000200004 % 2 ^ 49 - 0x1F00000000000) / 2 ^ 20) ∧
    (0x1FF0000000000 ≤ 0xFFFFFF0000000000 % 2 ^ 49 ∧ 0xFFFFFF00000FFFFC % 2 ^ 49 < 0x1FF0000100000) ∧
    (0x1F10000000000 ≤ 0xFFFFF10000000000 % 2 ^ 49 ∧ 0x1FF0000100000 ≤ 0xFFFFFF0000100000 % 2 ^ 49) := by
  refine ⟨rfl, rfl, ?_⟩
  decide +kernel

/-- The pair 18 holds the first address beyond the reservation of 4,096 bytes, or the last word's. -/
def wEdge (o : Word32) : State := wVec 0 (withV [(2, o), (3, 0xFFFFFF00)])

theorem wit_SelfWindowAccess :
    (me (wVec 0)).wg = some 0 ∧ wg? (wVec 0) 0 = some wGroup ∧ (0xFFFFFF0000000000 + 4088) % 8 = 0 ∧ 4088 + 8 ≤ wGroup.spadLen ∧
    (∀ k ∈ wGroup.spadBad, 4088 + 8 ≤ 4 * k ∨ 4 * k + 4 ≤ 4088) ∧ (wVec 0).items = [] ∧ wGroup.slotBad = [] ∧
    ∀ p ∈ accesses 20 18 20 0 0 3, Passes (wEdge 4096) p.2.1 ∧ (p.2.2 (wEdge 4096)).va = 0xFFFFFF0000000000 + 4096 ∧
      4096 % (p.2.2 (wEdge 4096)).size = 0 ∧ (curWg (wEdge 4096)).any (fun x => x.2.spadLen < 4096 + (p.2.2 (wEdge 4096)).size) = true := by
  decide +kernel

def wSpoiled : State := { wPushed with subs := wPushed.subs.map fun x => { x with wg := 0 } }

/-- A store over bytes 64 to 67 spoils a live record that begins at 64. -/
theorem wit_SelfWindow_slot :
    wSpoiled.subs.any (fun x => x.wg == 0 && x.off < 64 + 4 && 64 < x.off + 32) = true ∧
    (wg? (spoilSlots wSpoiled 0 64 4) 0).any (fun h => h.slotBad == [64]) = true := by decide +kernel


theorem wit_StoreResults :
    Passes (wVec 0) { ops := [opR 17, opRp 18] } ∧
    Stores (wVec 0) (address (wVec 0) 18 0 4) 4 (tSpad 0) ∧
    Passes (wVec 0) { ops := [opRp 18, opRp 20] } ∧ Stores (wVec 0) (address (wVec 0) 20 2 8) 8 (tMem 0x110) ∧
    Passes (wVec 0) { ops := [opRq 20, opRp 20] } ∧ Stores (wVec 0) (address (wVec 0) 20 0x7FF 16) 16 (tMem 0xF0) := by decide +kernel
theorem wit_StoreFrame :
    (tSpad 8).loc = .spad 0 8 ∧ (tSpad 8).tlb = none ∧ wg? (wVec 0) 0 = some wGroup ∧ wGroup.cid?.isSome = true ∧ Memory.wf wGroup.spad = true ∧
    Memory.wf (wVec 0).mem = true ∧ (tMem 0x100).loc = .phys 0x10100 ∧ area 0x10100 = .hbm ∧
    (∀ x ∈ (wVec 0).lines, ∀ y ∈ x.2, ∀ u ∈ y.2.u, u.1 < 32) := by decide +kernel

/-! Ordering and atomics -/

/-- A peer access of the thread that waits for its completion. -/
def wPeerAccess : PeerOut := { id := 0, port := 0, part := 1, ag := some (.vthread 0 0) }

theorem wit_AcquireRelease :
    Passes (wVec 0) { ops := [if (2 : BitVec 2) = 3 then opWp 16 else opW 16, opRp 20] } ∧ Reads (wVec 0) (readP (wVec 0) 20).toNat (2 ^ (2 : BitVec 2).toNat) (tMem 0x100) ∧
    Passes (wVec 0) { ops := [if (3 : BitVec 2) = 3 then opRp 16 else opR 16, opRp 20] } ∧ Stores (wVec 0) (readP (wVec 0) 20).toNat (2 ^ (3 : BitVec 2).toNat) (tMem 0x100) ∧
    releaseReady (wVec 0) = true ∧ Passes (wVec 0) {} ∧ (1 : BitVec 2) ≠ 0 ∧
    Passes { wVec 0 with peerOut := [wPeerAccess] } {} ∧ releaseReady { wVec 0 with peerOut := [wPeerAccess] } = false := by decide +kernel
theorem wit_Cache : Passes (wVec 0) { ops := [opRp 18] } ∧ Passes (wVec 0) {} ∧ Passes State.reset {} := by decide +kernel
theorem wit_Atomic :
    (16 : Field) ≠ 127 ∧ Passes (wVec 0) { ops := [opW 16, opRp 20, opR 17] } ∧ Updates (wVec 0) (readP (wVec 0) 20).toNat 4 (tMem 0x100) ∧
    Passes (wVec 0) { ops := [opW 127, opRp 18, opRp 20] } ∧ Updates (wVec 0) (readP (wVec 0) 18).toNat 4 (tSpad 0) ∧
    Passes (wVec 0) { ops := [opWp 16, opRp 20, opRp 18] } ∧ Updates (wVec 0) (readP (wVec 0) 20).toNat 8 (tMem 0x100) ∧
    Passes (wVec 0) { ops := [opWp 16, opRp 20, opRq 20] } ∧ Passes (wVec 0) { ops := [opW 127, opRp 18, opR 17] } ∧
    uCase (wVec 0) (me (wVec 0)) (tSpad 0) (2 : BitVec 2).toNat = none := by decide +kernel

/-- The thread's page is one that L1s hold relaxed reductions for; a delta of another kind, and one of the same kind, wait there. -/
theorem wit_ReductionHeld :
    Passes (wVec 0) { ops := [opW 127, opRp 20, opR 17] } ∧ Updates (wVec 0) (readP (wVec 0) 20).toNat 4 (tMem 0x100) ∧
    (uCase (wVec 0) (me (wVec 0)) (tMem 0x100) (2 : BitVec 2).toNat).isSome = true ∧
    (∀ x ∈ (wVec 0).lines, ∀ y ∈ x.2, ∀ u ∈ y.2.u, u.1 < 32) := by decide +kernel


/-! Waiting, standing loads, cohorts, barriers and channels -/

/-- The successor of the thread's block, and a state after its header is read. -/
def wSucc : Succ := { baddr := 0x1000C, prio := 0, fill := 0, cold := false, len := 1 }
def wNext (f : Workgroup → Workgroup := id) : State := useTgt (wVec 1 f) (tMem 0xC) false

theorem wit_Wait :
    Passes (wVec 1) (term [opWcp 16, opRp 20, opRp 18]) ∧ nextBlock (wVec 1) = .ok (wSucc, wNext) ∧
    Reads wNext (readP (wVec 1) 20).toNat 8 (tMem 0x100) ∧ Passes (wVec 1) (term [opWc 16, opRp 20, opR 17]) ∧
    Reads wNext (readP (wVec 1) 20).toNat 4 (tMem 0x100) ∧ Passes State.reset (term [opWc 16, opRp 20, opR 17]) ∧
    nextBlock State.reset = .ok (default, State.reset) ∧ (moveOn wNext wSucc).isSome = true ∧ got wNext (tMem 0x100) 4 = 0 := by decide +kernel

/-- The frontier full of resume entries, which are never victims. -/
def wResume (k : Nat) : Entry :=
  { ctx := 0, baddr := 0x20000, prio := 0, fill := 0, cold := false, len := 1, res := true, roff := k, wset := [9], opn := false, since := 0 }
def wNoRoom : State := updCore wNext 768 fun c => { c with fr := (List.range Config.frontierEntries).map wResume }

/-- A core whose frontier and lists have no room, so that a thread that goes on has no place. -/
theorem wit_GoesOn_spill : moveOn wNoRoom wSucc = none := by decide +kernel

/-- The workgroup's thread waits. -/
def waitsFor (w : Wait) (g : Workgroup) : Workgroup := { g with threads := [(0, { wThread with st := .waiting w, succ := wSucc })] }

theorem wit_WaitReread :
    waitOf (wVec 0 (waitsFor (.watch 0 0x10100 0 7 16))) (.vthread 0 0) = some (.watch 0 0x10100 0 7 16) ∧
    agentHere (wVec 0 (waitsFor (.watch 0 0x10100 0 7 16))) (.vthread 0 0) = true ∧
    (rereadPlace (wVec 0 (waitsFor (.watch 0 0x10100 0 7 16))) 3 0 0x10100 (if (0 : Nat) = 0 then 8 else 4)).isSome = true := by decide +kernel


/-- Register 17 holds a slot offset, 64. -/
def wSlot : State := wVec 0 (withV [(1, 64), (4, 0x10100)])
def liveSlot (g : Workgroup) : Workgroup := { withV [(1, 64), (4, 0x10100)] g with spad := [(76, 1)] }

theorem wit_StandingLoad :
    Passes wSlot (vec [opW 16, opRp 20, opR 17]) ∧ slotTarget wSlot (readR wSlot 17).toNat true = .ok (readR wSlot 17).toNat ∧
    Reads wSlot (readP wSlot 20).toNat 4 (tMem 0x100) ∧ Subscribable (tMem 0x100) ∧ ((curWg wSlot).any fun x => x.1 == 0) = true ∧
    slotState (slotRead wSlot 0 (readR wSlot 17).toNat).1 ≠ 1 ∧ Passes wSlot (vec [opWp 16, opRp 20, opR 17]) ∧
    Reads wSlot (readP wSlot 20).toNat 8 (tMem 0x100) ∧ slotState (slotRead (wVec 0 liveSlot) 0 64).1 = 1 ∧
    ¬ Subscribable { tMem 0x100 with pte := 0x40000000000141DF } := by decide +kernel


/-- A workgroup with a live record at 64, in a state with its subscription. -/
def wLive : State :=
  { wVec 1 liveSlot with subs := [{ id := 3, wg := 0, off := 64, pa := 0x10100, dw := false, push := none, merged := none, closing := false, home := 0 }] }

/-- The same with a push on its way. -/
def wLivePush : State := { wLive with subs := wLive.subs.map fun x => { x with push := some (5, 1), span := [(0x10100, 0x10104)] } }

theorem wit_Slot_read :
    Passes wSlot (vec [opWq 16, opR 17]) ∧ ((curWg wSlot).any fun x => x.1 == 0) = true ∧
    slotTarget wSlot (readR wSlot 17).toNat false = .ok (readR wSlot 17).toNat ∧ slotPending wSlot 0 64 = false ∧
    slotPending wLivePush 0 64 = true ∧
    Passes wSlot (vec [opRp 20, opR 17]) ∧ slotTarget wSlot (readR wSlot 17).toNat true = .ok (readR wSlot 17).toNat ∧
    (wg? wLive 0).any (fun g => g.slotBad == []) = true := by decide +kernel

theorem wit_Slot_wait :
    Passes wLive (term [opWcq 16, opR 20, opR 17] .vector) ∧ ((curWg wLive).any fun x => x.1 == 0) = true ∧
    (answers? (nextBlock wLive) fun r => slotTarget r.2 (readR wLive 17).toNat false == .ok (readR wLive 17).toNat
      && bits (slotRead r.2 0 64).1 103 96 == 1 && bits (slotRead r.2 0 64).1 95 64 == 0 && !bitAt (slotRead r.2 0 64).1 104
      && (r.2.subs.any fun x => x.wg == 0 && x.off == 64)) = true ∧
    slotPending wLive 0 64 = false ∧ slotPending wLivePush 0 64 = true ∧ Passes wLive (term [opWc 16, opR 17] .vector) ∧
    (answers? (nextBlock (wVec 1 (withV [(1, 64)]))) fun r => bits (slotRead r.2 0 64).1 103 96 == 0 && r.2.subs == []) = true := by decide +kernel


/-- A push on its way to the workgroup's subscription, and a subscription that closes. -/
def wSub (p : Option (Word64 × Nat)) (closing : Bool) : Sub :=
  { id := 3, wg := 0, off := 64, pa := 0x10100, dw := false, push := p, merged := none, closing := closing, home := 0 }

/-- The home sent another push to the core before subscription 4's. -/
def wSwapped : State := { wVec 0 with subs := [wSub (some (5, 1)) false, { wSub (some (5, 1)) false with id := 4, ord := 1, off := 128 }] }

theorem wit_Push :
    ({ wVec 0 with subs := [wSub (some (5, 1)) false] } : State).subs.find? (fun y => y.id == 3) = some (wSub (some (5, 1)) false) ∧
    (wSub (some (5, 1)) false).push.isSome = true ∧ (wSub (some (5, 1)) false).fwd = false ∧
    (pushMsg { wVec 0 with subs := [wSub (some (5, 1)) false] } (wSub (some (5, 1)) false)).any (arrives { wVec 0 with subs := [wSub (some (5, 1)) false] }) = true ∧
    ((pushMsg wSwapped { wSub (some (5, 1)) false with id := 4, ord := 1, off := 128 }).any fun m => !arrives wSwapped m) = true ∧
    forwarder { wVec 0 with subs := [wSub (some (5, 1)) false] } 0 (some 0) = none ∧
    (forwarder { wVec 0 with subs := [wSub (some (5, 1)) false], fwds := [{ cid := 768, wgs := [0], ops := [], homes := [0] }] } 0 (some 0)).isSome = true ∧
    ({ wVec 0 with subs := [wSub none true] } : State).subs.find? (fun y => y.id == 3) = some (wSub none true) ∧ (wSub none true).closing = true ∧
    (wSub none true).merged = none := by decide +kernel

/-- The workgroup's cohort 0 with the given entry, and registers 16 and 17 with handle 0 and 1. -/
def withCohort (c : Cohort) (g : Workgroup) : Workgroup := { withV [(1, 1)] g with cohorts := [(0, c)] }

theorem wit_Cohort :
    Passes (wVec 0) (vec [opW 16, opR 17]) ∧ curThread (wVec 0) = some (0, wGroup, 0) ∧
    (List.range wGroup.cRes).find? (fun i => !(wGroup.cohorts.get {} i).alloc) = some 0 ∧
    (∀ i < ({ wGroup with cRes := 1, cohorts := [(0, { alloc := true })] } : Workgroup).cRes,
      (({ wGroup with cRes := 1, cohorts := [(0, { alloc := true })] } : Workgroup).cohorts.get {} i).alloc = true) ∧
    cohortOf wGroup 4 = none ∧ cohortOf (withCohort { alloc := true, lim := 1 } wGroup) 0 = some (0, { alloc := true, lim := 1 }) ∧
    rankOf { alloc := true, lim := 1, members := [0] } 0 = some 0 ∧ rankOf { alloc := true, lim := 1 } 0 = none ∧
    Passes (wVec 0) (vec [opR 17]) := by decide +kernel
def wMember : Cohort := { alloc := true, lim := 2, members := [0] }
def wArrived (k : Nat) : Cohort := { wMember with done := 1, bara := [(0, k)] }
def wNextC : State := useTgt (wVec 1 (withCohort wMember)) (tMem 0xC) false

theorem wit_Collective :
    (∀ p ∈ collectives 17 16 17, Passes (wVec 1 (withCohort wMember)) p.2.1) ∧ nextBlock (wVec 1 (withCohort wMember)) = .ok (wSucc, wNextC) ∧
    ((curThread wNextC).any fun x => x.1 == 0 && x.2.2 == 0 && memberOf x.2.1 ((readR (wVec 1 (withCohort wMember)) 16).setWidth 32) 0 == some (0, wMember))
      = true ∧ (∀ x ∈ wMember.bara, x.1 ≠ 0) ∧ (∃ x ∈ (wArrived 0).bara, x.1 = 0) ∧ releaseReady (wVec 1 (withCohort wMember)) = true ∧
    releaseReady { wVec 1 (withCohort wMember) with peerOut := [wPeerAccess] } = false ∧
    curThread wNext = some (0, wGroup, 0) ∧ memberOf wGroup ((readR (wVec 1) 16).setWidth 32) 0 = none := by decide +kernel


/-- The thread's cohort with another member that has still to arrive, and with none. -/
def wPair : Cohort := { alloc := true, lim := 2, members := [0, 1] }
def wOnly : State := wVec 1 (fun g => { withCohort wMember g with pts := [(17, 0)] })
def wOnlyNext : State := useTgt wOnly (tMem 0xC) false
/-- Its arrival at collective fn, with its input and b, has completed the instance. -/
def wOnlyDone (fn : Nat) (b : Word32) : State :=
  setCohort (setCohort (suspend wOnlyNext (.coll 0 0 17) wSucc) 0 0
    { wMember with inst := some { parts := [0], arr := [arrival wOnlyNext wOnly.ir 0 0 fn 1 b] } }) 0 0 { wMember with done := 1 }

theorem wit_CollectiveWaits :
    (∀ p ∈ collectives 17 16 17, Passes (wVec 1 (withCohort wPair)) p.2.1) ∧
    (answers? (nextBlock (wVec 1 (withCohort wPair))) fun r =>
      (curThread r.2).any fun x => x.1 == 0 && x.2.2 == 0 && memberOf x.2.1 ((readR (wVec 1 (withCohort wPair)) 16).setWidth 32) 0 == some (0, wPair))
      = true ∧
    releaseReady (wVec 1 (withCohort wPair)) = true ∧ 1 ∈ (wPair.inst.getD { parts := wPair.members, arr := [] }).parts := by decide +kernel

theorem wit_CollectiveCompletes :
    (∀ p ∈ collectives 17 16 17, Passes wOnly p.2.1 ∧ slotCurrent (wOnlyDone p.2.2.1 (p.2.2.2 wOnly)) 0 0 = true ∧
      ((wg? (wOnlyDone p.2.2.1 (p.2.2.2 wOnly)) 0).bind fun g => g.cid?).isSome = true ∧
      (placeThread (writeV (wOnlyDone p.2.2.1 (p.2.2.2 wOnly)) 0 0 17 (collResult p.2.2.1 0 [1] [p.2.2.2 wOnly] 0)) 0 0 wSucc).isSome = true) ∧
    nextBlock wOnly = .ok (wSucc, wOnlyNext) ∧
    ((curThread wOnlyNext).any fun x => x.1 == 0 && x.2.2 == 0 && memberOf x.2.1 ((readR wOnly 16).setWidth 32) 0 == some (0, wMember)) = true ∧
    releaseReady wOnly = true ∧ wSucc.len ≠ 0 ∧ (readR wOnlyNext 17).setWidth 32 = (1 : Word32) ∧
    ((wg? wOnlyNext 0).bind fun g => g.pts.find (17 : Field).toNat) = some 0 := by decide +kernel

/-- Both members' inputs, the second one's arriving last. -/
def wInput (t : Nat) (x : Word32) : CArr := { tid := t, fn := some 0, x := x, b := 0, blk := default, roff := 0, word := 0, ts := [] }
def wHalf : Cohort := { wPair with inst := some { parts := [0, 1], arr := [wInput 0 3] } }
def wHalfInst : CInst := { parts := [0, 1], arr := [wInput 0 3, wInput 1 4] }

theorem wit_CollectiveDelivers :
    wg? (wVec 1 (withCohort wHalf)) 0 = some (withCohort wHalf wGroup) ∧ (withCohort wHalf wGroup).cohorts.find 0 = some wHalf ∧
    (∀ t ∈ wHalfInst.parts, ∃ x ∈ wHalfInst.arr, x.tid = t) ∧ ranked wHalf wHalfInst = [wInput 0 3, wInput 1 4] ∧
    (∀ x ∈ ranked wHalf wHalfInst, x.fn = some 0) ∧ SMap.wf 0 wThread.v = true ∧
    ((thread? (wVec 0 (waitsFor (.coll 0 0 17))) 0 0).any fun th => th.st == .waiting (.coll 0 0 17)) = true ∧
    ((thread? (wake (writeV (wVec 0 (waitsFor (.coll 0 0 17))) 0 0 17 7) 0 0) 0 0).any fun th => th.v.get 0 (th.wbase + 1) == 7) = true := by
  decide +kernel

theorem wit_CollectiveValues : 1 < ([3, 0xFFFFFFFF] : List Word32).length ∧ ([1, 0] : List Word32) = 1 :: [0] ∧ 2 ≤ ([1, 0] : List Word32).length :=
  ⟨by decide, rfl, by decide⟩

theorem wit_Barrier :
    Passes (wVec 0 (withCohort wMember)) (vec [opR 16]) ∧ curThread (wVec 0 (withCohort wMember)) = some (0, withCohort wMember wGroup, 0) ∧
    memberOf (withCohort wMember wGroup) ((readR (wVec 0 (withCohort wMember)) 16).setWidth 32) 0 = some (0, wMember) ∧
    Passes (wVec 1 (withCohort wMember)) (term [opR 16] .vector) ∧ nextBlock (wVec 1 (withCohort wMember)) = .ok (wSucc, wNextC) ∧
    curThread wNextC = some (0, withCohort wMember wGroup, 0) ∧ (∀ x ∈ wMember.bara, x.1 ≠ 0) ∧
    memberOf (withCohort (wArrived 0) wGroup) 0 0 = some (0, wArrived 0) ∧ (wArrived 0).bara.find? (fun x => x.1 == 0) = some (0, 0) ∧ 0 < (wArrived 0).done ∧
    (wArrived 1).bara.find? (fun x => x.1 == 0) = some (0, 1) ∧ releaseReady (wVec 1 (withCohort wMember)) = true := by decide +kernel

/-- A member's arrival leaves it waiting for the others. -/
theorem wit_Arrives :
    ((thread? (arrive (suspend wNextC (.bar 0 0) wSucc) 0 0 (barArr 0)) 0 0).any fun th => th.st != .waiting .place) = true := by decide +kernel

/-- A sideband barrier 5 assigned to the partition, with the thread's arrival as given. -/
def wPb (k : Nat) (l : SMap Bool) : State :=
  { wVec k (fun g => { g with threads := [(0, { wThread with pbs := l })] }) with
    csr := [(csrKey 0x4C5 0, 0x80000001)], pbs := [(5, { n := 1 })] }

theorem wit_Sideband_arrive :
    Passes (wPb 0 []) { lits := [(5, 64)], need := .vector } ∧ pbFault (wPb 0 []) 5 = none ∧ (wPb 0 []).cur = .vthread 0 0 ∧
    ((thread? (wPb 0 []) 0 0).bind fun th => th.pbs.find 5) = none ∧ releaseReady (wPb 0 []) = true ∧
    ((thread? (wPb 0 [(5, false)]) 0 0).bind fun th => th.pbs.find 5) = some false ∧
    releaseReady { wPb 0 [] with peerOut := [wPeerAccess] } = false ∧
    Passes (wPb 1 [(5, true)]) { lits := [(5, 64)], need := .vector, term := true } ∧ pbFault (wPb 1 [(5, true)]) 5 = none ∧
    (answers? (nextBlock (wPb 1 [(5, true)])) fun r => ((thread? r.2 0 0).bind fun th => th.pbs.find 5) == some true) = true := by decide +kernel


/-- Arrivals at the root, and a phase that ended at tick 2. -/
def wRoot (now : Nat) : State := { State.reset with now := now, pbFlight := [(5, 0, 0)], pbs := [(5, { n := 1, arr := [0], endT := some 2 })] }

theorem wit_Sideband_root :
    (5, 0, 0) ∈ (wRoot 0).pbFlight ∧ ((wRoot 0).pbs.get {} 5).endT ≠ none ∧ ((wRoot 0).pbs.get {} 6).endT = none ∧
    ((wRoot 0).pbs.get {} 5).endT = some 2 ∧ 2 + 40 ≤ timer (wRoot (42 * 42)) ∧ timer (wRoot (42 * 42 - 1)) < 2 + 40 := by
  decide +kernel

/-- The workgroup's channel 15. -/
def withChan (c : Chan) (g : Workgroup) : Workgroup := { g with chans := [(15, c)] }
def fullChan : Chan := { fifo := List.replicate 64 7, sends := [(.scribe 0, 9)] }

theorem wit_Channel_send :
    Passes (wVec 0 (withChan {})) { ops := [opR 17], lits := [(15, 16)], need := .core } ∧ myChan (wVec 0 (withChan {})) 15 = some (0, {}) ∧
    ({} : Chan).fifo.length < 64 ∧ ({} : Chan).sends = [] ∧ myChan (wVec 0 (withChan fullChan)) 15 = some (0, fullChan) ∧
    64 ≤ fullChan.fifo.length ∧ (∀ y ∈ fullChan.sends, y.1 ≠ (wVec 0 (withChan fullChan)).cur) ∧ releaseReady (wVec 0 (withChan {})) = true ∧
    (withChan { fullChan with fifo := [] } wGroup).chans.find 15 = some { fullChan with fifo := [] } ∧ fullChan.sends = (.scribe 0, 9) :: [] := by
  decide +kernel

theorem wit_Channel_receive :
    Passes (wVec 1 (withChan fullChan)) { ops := [opWc 17], lits := [(15, 16)], term := true, need := .core } ∧
    (answers? (nextBlock (wVec 1 (withChan fullChan))) fun r => myChan r.2 15 == some (0, fullChan)) = true ∧ fullChan.fifo = 7 :: List.replicate 63 7 ∧
    (answers? (nextBlock (wVec 1 (withChan {}))) fun r => myChan r.2 15 == some (0, {})) = true ∧
    Passes (wVec 0 (withChan {})) { ops := [opW 17], lits := [(15, 16)], need := .core } ∧ myChan (wVec 0) 15 = none := by decide +kernel

/-! Copies, tensor handles and pattern tables -/

/-- The copy engine 0 of die 9 belongs to partition 1. -/
def withEngine (s : State) : State := { s with dreg := [(dregKey 9 0x3100, 0x80000001)] }
/-- Every suspension slot of that engine is taken. -/
def wHeldSlot (k : Nat) : Susp := { eid := eidOf 9 0, idx := k, part := 1, cls := 2, op := 0, faddr := 0 }
def wBusy (s : State) : State := { s with susp := (List.range Config.suspensionSlots).map wHeldSlot }
/-- A scratchpad with the given bytes listed. -/
def withSpad (m : SMap Byte) (g : Workgroup) : Workgroup := { g with spad := m }
def wCopier (m : SMap Byte) : State := withEngine (wVec 0 fun g => withSpad m { g with cohorts := [(0, wMember)], threads := [(0, { wThread with v := [(3, 0xFFFFFF00)] })] })

theorem wit_Copy :
    Passes (wCopier []) (vec [opRp 18, opR 16]) ∧ Reads (wCopier []) (readP (wCopier []) 18).toNat 32 (tSpad 0) ∧
    ((curThread (wCopier [])).any fun x => x.1 == 0 && x.2.2 == 0
      && memberOf x.2.1 ((readR (wCopier []) 16).setWidth 32) 0 == some (0, wMember)) = true ∧
    sliceMisaligned (got (wCopier []) (tSpad 0) 32) = none ∧ (pickCopyEngine (wCopier []) 1 false).isSome = true ∧ mayIssue (wCopier []) wMember 0 = true ∧
    sliceMisaligned (got (wCopier [(8, 2)]) (tSpad 0) 32) = some 2 ∧ copyEnginesOf { wCopier [] with dreg := [] } 1 false = [] ∧
    ((curThread (wVec 0)).any fun x => memberOf x.2.1 ((readR (wVec 0) 16).setWidth 32) 0 == none) = true := by decide +kernel

/-- Every engine of the partition is busy. -/
theorem wit_Copy_wait :
    copyEnginesOf (wBusy (wCopier [])) 1 false ≠ [] ∧ pickCopyEngine (wBusy (wCopier [])) 1 false = none := by decide +kernel


/-- A tensor of r × c FP32 elements, 16 bytes a row, in the scratchpad (or, with `loc` 0, at address 0). -/
def wImg (r c : Nat) (loc : Nat := 1) (fmt : Nat := 1) : Desc :=
  0#96 ++ 0x10001#32 ++ 0#192 ++ BitVec.ofNat 32 (fmt + 256 * loc) ++ 16#32 ++ BitVec.ofNat 32 c ++ BitVec.ofNat 32 r ++ 0#64
def withTds (g : Workgroup) : Workgroup :=
  { g with tds := [(0, { img := wImg 2 2, ver := 1, live := true }), (1, { img := wImg 2 3, ver := 1, live := true })] }
def wCopyt (m : SMap Byte) : State := withEngine (wScr fun g => withSpad m (withTds g))

theorem wit_TensorCopy :
    Passes (wCopyt []) { ops := [opRp 18], need := .coreScribe } ∧ Reads (wCopyt []) (readP (wCopyt []) 18).toNat 32 (tSpad 0) ∧
    ((curWg (wCopyt [])).any fun x => x.1 == 0) = true ∧
    (bits (got (wCopyt [(1, 1)]) (tSpad 0) 32) 31 14 = 0 ∧ bits (got (wCopyt [(1, 1)]) (tSpad 0) 32) 7 6 = 0 ∧ bits (got (wCopyt [(1, 1)]) (tSpad 0) 32) 255 128 = 0) ∧
    myHandle (wCopyt []) (bits (got (wCopyt []) (tSpad 0) 32) 5 0) = some (wImg 2 2) ∧
    myHandle (wCopyt [(1, 1)]) (bits (got (wCopyt [(1, 1)]) (tSpad 0) 32) 13 8) = some (wImg 2 3) ∧
    SameShape (wImg 2 2) (wImg 2 2) ∧ ¬ SameShape (wImg 2 2) (wImg 2 3) ∧ bits (got (wCopyt []) (tSpad 0) 32) 127 64 % 8 = 0 ∧
    (pickCopyEngine (wCopyt []) 1 false).isSome = true := by decide +kernel

/-- A set reserved bit, a handle that the workgroup does not own, a misaligned counter, no engine and busy engines. -/
theorem wit_TensorCopy_fails :
    bits (got (wCopyt [(3, 1)]) (tSpad 0) 32) 31 14 ≠ 0 ∧ myHandle (wCopyt [(1, 5)]) (bits (got (wCopyt [(1, 5)]) (tSpad 0) 32) 13 8) = none ∧
    bits (got (wCopyt [(8, 4)]) (tSpad 0) 32) 127 64 % 8 ≠ 0 ∧ copyEnginesOf { wCopyt [] with dreg := [] } 1 false = [] ∧
    copyEnginesOf (wBusy (wCopyt [])) 1 false ≠ [] ∧ pickCopyEngine (wBusy (wCopyt [])) 1 false = none := by decide +kernel


/-- A copy operation in progress: a slice of two words, or a tensor copy. -/
def wOp (src dst : Nat) (t : Option (Desc × Desc) := none) : CopyOp :=
  { id := 4, eid := eidOf 9 0, part := 1, lvl := 0, sec := false, wg := 0, lid := 0, wid := 0, tensor := t, src := src, dst := dst, len := 8, at' := 0,
    inst := none, caddr := 0, inc := 0, held := false }
def wCopying (o : CopyOp) : State := { withEngine (wVec 0) with copies := [o] }
def aSlice : CopyOp := wOp 0xFFFFFF0000000000 0xFFFFFF0000000080
def badSlice : CopyOp := wOp 0 0xFFFFFF0000000080
def aCopyt : CopyOp := wOp 0 0 (some (wImg 2 2, wImg 2 2))
def badCopyt : CopyOp := wOp 0 0 (some (wImg 2 2 0, wImg 2 2))

/-- A slice whose source a push is still under way for. -/
def waitSlice : CopyOp := wOp 0x10100 0xFFFFFF0000000080
def waitCopyt : CopyOp := wOp 0 0 (some (wImg 2 2 0 + 0x10100, wImg 2 2))
def wWaiting : State := { wCopying waitSlice with subs := wPushed.subs }

theorem wit_CopyPerform_wait :
    runnableCopy wWaiting 4 = some waitSlice ∧
    (copySlice (waitSlice.issuer wWaiting) waitSlice.src waitSlice.dst ((waitSlice.len - waitSlice.at') / 4) wWaiting waitSlice.at').2.2 = .wait ∧
    (copyElems (waitCopyt.issuer wWaiting) (wImg 2 2 0 + 0x10100) (wImg 2 2) 4 { wWaiting with copies := [waitCopyt] } 0).2.2 = .wait := by decide +kernel

theorem wit_CopyPerform_slice :
    runnableCopy (wCopying aSlice) 4 = some aSlice ∧ aSlice.tensor = none ∧
    (copySlice (aSlice.issuer (wCopying aSlice)) aSlice.src aSlice.dst ((aSlice.len - aSlice.at') / 4) (wCopying aSlice) aSlice.at').2.2 = .ok () ∧
    runnableCopy (wCopying badSlice) 4 = some badSlice ∧
    (copySlice (badSlice.issuer (wCopying badSlice)) badSlice.src badSlice.dst ((badSlice.len - badSlice.at') / 4) (wCopying badSlice) badSlice.at').2.2 =
      .bad .xlateNp 0 := by
  decide +kernel

theorem wit_CopyPerform_tensor :
    runnableCopy (wCopying aCopyt) 4 = some aCopyt ∧ aCopyt.tensor = some (wImg 2 2, wImg 2 2) ∧
    (copyElems (aCopyt.issuer (wCopying aCopyt)) (wImg 2 2) (wImg 2 2) (tdRows (wImg 2 2) * tdCols (wImg 2 2) - aCopyt.at') (wCopying aCopyt)
      aCopyt.at').2.2 = .ok () ∧
    runnableCopy (wCopying badCopyt) 4 = some badCopyt ∧
    (copyElems (badCopyt.issuer (wCopying badCopyt)) (wImg 2 2 0) (wImg 2 2) (tdRows (wImg 2 2 0) * tdCols (wImg 2 2 0) - badCopyt.at') (wCopying badCopyt)
      badCopyt.at').2.2 = .bad .xlateNp 0 := by
  decide +kernel

/-- The thread's pair 18 holds row 1 and column 1, and its pair 20 row 2. -/
def wElem : State := wVec 0 fun g => { withTds g with threads := [(0, { wThread with v := [(2, 1), (3, 1), (4, 2)] })] }

theorem wit_Element :
    Passes wElem { ops := [opW 16, opRp 18], lits := [(0, 64)], need := .core } ∧ tldDesc wElem 0 = some (wImg 2 2) ∧
    (readP wElem 18).toNat = 1 * 2 ^ 32 + 1 ∧ 1 < tdRows (wImg 2 2) ∧ 1 < tdCols (wImg 2 2) ∧
    answers? (readElem wElem (me wElem) false false (wImg 2 2) 1 1) (fun r => answers? (readScale r.2 (me wElem) (wImg 2 2) 1 1) fun _ => true) = true ∧
    answers? (readElem wElem (me wElem) false true (wImg 2 2) 1 1) (fun _ => true) = true ∧ (readP wElem 20).toNat = 0 * 2 ^ 32 + 2 ∧ tdRows (wImg 2 2) ≤ 2 ∧
    Passes wElem { ops := [opR 16, opRp 18], lits := [(0, 64)], need := .core } ∧ tldDesc wElem 7 = none ∧
    Passes wElem { ops := [opR 16, opRp 18], lits := [(7, 64)], need := .core } ∧ Passes wElem { ops := [opW 16, opRp 18], lits := [(7, 64)], need := .core } ∧
    answers? (writeElem wElem (me wElem) { va := 0, size := 1 } (wImg 2 2) 1 1 (stelBits (wImg 2 2) (width wElem) (readR wElem 16).toNat)) (fun _ => true)
      = true := by decide +kernel

/-- A scratchpad that holds a good image, one row of two elements, from 0 up. -/
def imgSpad : SMap Byte := [(8, 1), (12, 2), (16, 16), (20, 1), (21, 1), (48, 1), (50, 1)]

theorem wit_Descriptor :
    Passes (wScr (withSpad imgSpad)) { ops := [opR 18], lits := [(63, 64)], need := .coreScribe } ∧
    ((curWg (wScr (withSpad imgSpad))).any fun x => x.1 == 0) = true ∧ (readR (wScr (withSpad imgSpad)) 18).toNat % 64 = 0 ∧
    answers? (readParts (wScr (withSpad imgSpad)) (me (wScr (withSpad imgSpad))) (readR (wScr (withSpad imgSpad)) 18).toNat 16 4)
      (fun r => decide (Settable (wScr (withSpad imgSpad)) 0 63 (BitVec.ofNat 512 (ofBytes r.1)))) = true ∧
    answers? (readParts wScr (me wScr) (readR wScr 18).toNat 16 4) (fun r => !decide (Settable wScr 0 63 (BitVec.ofNat 512 (ofBytes r.1)))) = true ∧
    (readR wScr 17).toNat % 64 ≠ 0 ∧ Passes wScr { ops := [opR 17], lits := [(63, 64)], need := .coreScribe } := by decide +kernel


theorem wit_Descriptor_get :
    Passes (wScr withTds) { ops := [opR 18], lits := [(1, 64)], need := .coreScribe } ∧ myHandle (wScr withTds) 1 = some (wImg 2 3) ∧
    answers? (writeParts (wScr withTds) (me (wScr withTds)) (readR (wScr withTds) 18).toNat 16 (toBytes 64 (wImg 2 3).toNat) 4) (fun _ => true) = true ∧
    Passes (wScr withTds) { lits := [(1, 64)], need := .coreScribe } ∧ (withTds wGroup).tds.find 1 = some { img := wImg 2 3, ver := 1, live := true } ∧
    Passes (wScr withTds) { lits := [(2, 64)], need := .coreScribe } ∧ myHandle (wScr withTds) 2 = none := by decide +kernel
theorem wit_Pattern :
    Passes (wVec 0) { ops := [opRp 18], lits := [(31, 32)], need := .core } ∧ curWg (wVec 0) = some (0, wGroup) ∧ (readP (wVec 0) 18).toNat % 64 = 0 ∧
    answers? (readParts (wVec 0) (me (wVec 0)) (readP (wVec 0) 18).toNat 16 4) (fun r => bits (BitVec.ofNat 512 (ofBytes r.1)).toNat 511 448 == 0) = true ∧
    answers? (readParts (wVec 0 (withSpad [(56, 1)])) (me (wVec 0)) (readP (wVec 0) 18).toNat 16 4)
      (fun r => bits (BitVec.ofNat 512 (ofBytes r.1)).toNat 511 448 != 0) = true ∧
    patternForeign (wVec 0) 0 31 = false ∧ Passes (wVec 0) { ops := [opW 16, opR 17], lits := [(31, 32)], need := .core } ∧
    ({ wGroup with pts := [(31, 5)] } : Workgroup).pts.find 31 = some 5 ∧ wGroup.pts.find 31 = none := by decide +kernel

/-! Control flow, threads, launches, windows and time -/

/-- Register pair 20 holds the address of the next block. -/
def withTarget : Workgroup → Workgroup := withV [(1, 1), (4, 0x1000C)]

theorem wit_Branch :
    (∀ p ∈ transfers 18 20 1, Passes (wVec 1 withTarget) p.2.1 ∧ answers? (transferTarget (wVec 1 withTarget) (p.2.2.1 (wVec 1 withTarget))) (fun r =>
      r.2.cur == .vthread 0 0 && (placeThread (leaveBatch (p.2.2.2 (wVec 1 withTarget) r.2) 0 0) 0 0 r.1).isSome) = true) ∧
    Passes wScr (term []) ∧ Reaches wScr (target wScr 1) default wScr ∧ Reaches State.reset (target State.reset 0x1FFFF) default State.reset := by
  decide +kernel

theorem wit_Room : Room wNext wSucc ∧ Room wScr default := ⟨by rintro _ _ ⟨⟩; rfl, by rintro _ _ ⟨⟩⟩


theorem wit_BranchFaults :
    transferTarget (wVec 1) (target (wVec 1) 0x8000) = .bad .xlateNp 0x30008 ∧ Passes (wVec 1) (term [opRp 18]) ∧
    transferTarget (wVec 1) (readP (wVec 1) 18).toNat = .bad .xlatePerm 0xFFFFFF0000000000 ∧ 0x1FFFFFFFFFFFE % 4 ≠ 0 ∧
    placeThread (leaveBatch wNoRoom 0 0) 0 0 wSucc = none := by decide +kernel

theorem wit_Exit :
    Passes (wVec 1) (term [] .core) ∧ (wVec 1).cur = .vthread 0 0 ∧ Passes wScr (term [] .core) ∧ wScr.cur = .scribe 0 ∧ matrixPending wScr 0 = false ∧
    matrixPending (wScr fun g => { g with ctx := g.ctx.map fun c => { c with saved := [default] } }) 0 = true := by decide +kernel
theorem wit_Spawn :
    Passes (wVec 0 withTarget) { ops := [opW 16, opRp 20, opR 17], need := .core } ∧
    answers? (checkEntry (wVec 0 withTarget) (wVec 0 withTarget).cur (readP (wVec 0 withTarget) 20).toNat) (fun r =>
      ((curWg r.2).any fun x => x.1 == 0 && freeTid x.2 == some 1) && (spawnChild r.2 0 1 r.1 5).isSome) = true ∧
    freeTid { wGroup with tmax := 1 } = none ∧ releaseReady (wVec 0 withTarget) = true ∧ spawnChild wNoRoom 0 1 wSucc 5 = none ∧
    checkEntry (wVec 0) (wVec 0).cur (readP (wVec 0) 18).toNat = .bad .xlatePerm 0xFFFFFF0000000000 := by decide +kernel


/-- A scratchpad with a launch record of which every check passes. -/
def recSpad1 : SMap Byte := [(2, 1), (0x19, 1)]
def goodRecord : BitVec 1024 := BitVec.ofNat 1024 (0x10000 + 0x100 * 2 ^ 192)

theorem wit_Launch :
    Passes (wVec 0) { ops := [opW 16, opRp 18] } ∧ (readP (wVec 0) 18).toNat % 128 = 0 ∧ releaseReady (wVec 0) = true ∧
    answers? (readParts (wVec 0 (withSpad recSpad1)) (me (wVec 0)) (readP (wVec 0) 18).toNat 16 8) (fun r =>
      BitVec.ofNat 1024 (ofBytes r.1) == goodRecord
        && answers? (offerLaunch r.2 (namedPart (wVec 0)) (me (wVec 0)).sec (BitVec.ofNat 1024 (ofBytes r.1))) fun x => x.1 == 0) = true ∧
    answers? (entryChecks (wVec 0) 1 0 false false goodRecord) (fun r => r.1 == none) = true ∧
    answers? (entryChecks (wVec 0) 1 0 false false 0) (fun r => r.1 != none) = true ∧ dlqCount (wVec 0) 1 < Config.deviceQueueDepth ∧
    Config.deviceQueueDepth ≤ dlqCount { wVec 0 with dlq := List.replicate 256 { part := 1, lid := 0, record := 0, sec := false } } 1 ∧
    (readP (wVec 0 withTarget) 20).toNat % 128 ≠ 0 := by decide +kernel

theorem wit_Window :
    Passes (wVec 0) (vec [opR 17]) ∧ (wVec 0).cur = .vthread 0 0 ∧ (readR (wVec 0) 24).toNat % 8 = 0 ∧ (readR (wVec 0) 24).toNat ≤ 248 ∧
    (readR (wVec 0) 17).toNat % 8 ≠ 0 ∧ Passes (wVec 0 (withV [(1, 256)])) (vec [opW 16, opR 17]) ∧ thread? (wVec 0) 0 0 = some wThread ∧
    wg? (wVec 0) 0 = some wGroup ∧ (readR (wVec 0 (withV [(1, 256)])) 17).toNat = 256 ∧ wThread.allot ≤ 256 ∧
    256 - Max.max wThread.allot wGroup.a ≤ bankFree (wVec 0) 768 0 ∧
    bankFree { wVec 0 with wgs := [(0, { wGroup with rows := List.range 64 })] } 768 0 < 256 - Max.max wThread.allot wGroup.a ∧
    8 ≤ (readR (wVec 0) 24).toNat ∧ (readR (wVec 0) 24).toNat ≤ wThread.allot ∧ wThread.allot < (readR (wVec 0 (withV [(1, 256)])) 17).toNat ∧
    (readR (wVec 0) 17).toNat % 8 ≠ 0 ∧ (readR (wVec 0) 24).toNat < wThread.allot ∧ 256 < (readR (wVec 0 (withV [(1, 264)])) 17).toNat ∧
    (readR (wVec 0 (withV [])) 17).toNat < 8 ∧ (readR (wVec 0 (withV [])) 17).toNat % 8 = 0 := by decide +kernel
theorem wit_Time :
    Passes (wVec 0) { ops := [opWp 16] } ∧ Passes State.reset { ops := [opWp 16] } ∧ Passes (wVec 0) { ops := [opWp 16, opRp 20] } ∧
    Reads (wVec 0) (readP (wVec 0) 20).toNat 1 (tMem 0x100) := by decide +kernel

/-! The matrix engine -/

/-- A tile of 32 × 32 (or `t` × `t`) elements over a tensor of r × c of them in the scratchpad, with the word at 14H given. -/
def wTile (r c word : Nat) (t : Nat := 32) : Desc :=
  0#96 ++ BitVec.ofNat 32 (t * 65537) ++ 0#192 ++ BitVec.ofNat 32 word ++ 64#32 ++ BitVec.ofNat 32 c ++ BitVec.ofNat 32 r ++ 0#64
/-- FP32 activations, a laminate of 2 planes in groups of 16, and images of running sums. -/
def tFp : Desc := wTile 1 1 0x101
def tLam : Desc := wTile 16 1 0x222910
def tWrs : Desc := wTile 1 1 0x10C
def withTiles (g : Workgroup) : Workgroup :=
  { g with tds := [(0, { img := tFp, ver := 1, live := true }), (1, { img := tLam, ver := 1, live := true }), (2, { img := tWrs, ver := 1, live := true })] }
def wMat : State := wScr withTiles

/-- The executing context is that of a workgroup. -/
def inCtx (s : State) (w : Nat) : Bool := ((curWg s).any fun x => x.1 == w) && (ctxOf s w).held == []

theorem matPasses_of {s : State} {fm : Form} {w : Nat} (h : Passes s { fm with need := .matrix }) (c : inCtx s w = true) : MatPasses s fm w := by
  refine ⟨h, ?_⟩
  unfold inCtx at c
  cases e : curWg s with
  | none => simp [e] at c
  | some x =>
    simp only [e, Option.any_some, Bool.and_eq_true, beq_iff_eq] at c
    exact ⟨⟨x.2, by rw [← c.1]⟩, c.2⟩

theorem wit_MatrixIssue_passes :
    inCtx wMat 0 = true ∧ Passes wMat { lits := [(3, 4)], need := .matrix } ∧ Passes wMat { lits := [(0, 4), (0, 64), (1, 64)], need := .matrix } ∧
    Passes wMat { ops := [opR 17], lits := [(0, 4), (0, 64)], need := .matrix } ∧ Passes wMat { lits := [(3, 4), (2, 64)], need := .matrix } ∧
    myHandle wMat 0 = some tFp ∧ myHandle wMat 1 = some tLam ∧ myHandle wMat 2 = some tWrs ∧ mulCheck false 0 tFp tFp = none ∧
    mulCheck true 0 tFp tLam = none ∧ (readR wMat 17).toNat % 8 ≤ 5 ∧ storeOk tFp = true ∧ ImageTile tWrs 3 := by decide +kernel

theorem wit_MatrixIssue_accepts :
    (∀ o ∈ [matOp wMat 0 0 3 0 0, { matOp wMat 0 1 0 tFp tFp with tag := (0, myVer wMat 0) }, { matOp wMat 0 2 0 tFp tLam with tag := (1, myVer wMat 1) },
        { matOp wMat 0 3 0 0 tFp with mode := (readR wMat 17).toNat % 8 }, matOp wMat 0 4 3 0 tWrs, matOp wMat 0 5 3 0 tWrs],
      Accepts wMat o ∧ ((wg? wMat o.wg).any fun g => g.cid? == some 768) = true) ∧
    (∃ c, mulCheck false 0 tFp tWrs = some c) = (∃ c, some Cause.tdesc = some c) := by
  refine ⟨by decide +kernel, ?_⟩
  rw [show mulCheck false 0 tFp tWrs = some .tdesc by decide +kernel]

/-- An operation held after an engine fault makes every form wait. -/
theorem wit_MatrixIssue_held :
    (∀ p ∈ matForms 3 0 1, Passes { wMat with wgs := [(0, withTiles { wGroup with ctx := some { s := [(17, 1)], pc := 0x10000, held := [matOp wMat 0 0 3 0 0] } })] } p.2) ∧
    (ctxOf { wMat with wgs := [(0, withTiles { wGroup with ctx := some { s := [(17, 1)], pc := 0x10000, held := [matOp wMat 0 0 3 0 0] } })] } 0).held ≠ [] := by
  decide +kernel

/-- A full queue makes a form wait, and an operand that no page backs is its fault. -/
theorem wit_MatrixIssue_stops :
    matStall (updCore wMat 768 fun c => { c with mq := List.replicate 16 (matOp wMat 0 0 3 0 0) }) 0 true = true ∧
    matStall wMat 0 true = false ∧ (matOp wMat 0 5 3 0 (wTile 1 1 0x0C)).memFail wMat (me wMat) = some (.xlateNp, 0) := by decide +kernel


theorem wit_MatrixOperands :
    tdTr tFp ≠ tdTc (wTile 1 1 0x101 64) ∧ tdFmt (wTile 1 1 0x100) = 0 ∧ 0x0A < tdFmt tWrs ∧
    mulCheck false 0 (wTile 1 1 0x101 64) (wTile 1 1 0x101 64) = none ∧ tdTr (wTile 1 1 0x101 64) = 64 ∧ mulCheck true 3 tFp tLam = none := by
  decide +kernel

/-- A core whose engine has an operation to perform. -/
def wQueued (o : MatOp) : State := updCore wMat 768 fun c => { c with mq := [o] }
def badComp : MatOp := { matOp wMat 0 7 0 0 0 with addr := 0 }

theorem wit_MatrixControl :
    inCtx wMat 0 = true ∧ Passes wMat { ops := [opW 16], lits := [(3, 4)], need := .matrix } ∧ matStall wMat 0 false = false ∧ accPending wMat 0 3 = false ∧
    accPending (wQueued (matOp wMat 0 0 3 0 0)) 0 3 = true ∧ Passes wMat { ops := [opR 18, opR 17], need := .matrix } ∧ (readR wMat 18).toNat % 8 = 0 ∧
    Accepts wMat { matOp wMat 0 7 0 0 0 with addr := (readR wMat 18).toNat, inc := (readR wMat 17).toNat } ∧ (readR wMat 17).toNat % 8 ≠ 0 ∧
    Passes wMat { ops := [opR 17], need := .matrix } ∧ 1 ≤ (readR wMat 17).toNat ∧ (readR wMat 17).toNat ≤ 64 ∧ (ctxOf wMat 0).held = [] ∧
    Passes wMat { ops := [opR 127], need := .matrix } ∧ (readR wMat 127).toNat = 0 := by decide +kernel


/-- An MMD of the core's engine at 0 core-cycles and after its cycles, a post whose counter has no page, and one that waits for a push. -/
def mmdOp : MatOp := matOp wMat 0 1 0 tFp tFp
def waitComp : MatOp := { matOp wMat 0 7 0 0 0 with addr := 0x10100 }
def wCompWaits : State := { wQueued waitComp with subs := wPushed.subs }

theorem wit_MatrixPerform :
    (coreAt (wQueued mmdOp) 768).mq = [mmdOp] ∧ engineFree (wQueued mmdOp) 768 0 = true ∧ accepts (wQueued mmdOp) (matEid 768) = true ∧
    coreRuns (wQueued mmdOp) 768 = true ∧
    answers? (mmdOp.run (takeEngine (wQueued mmdOp) 768 0) 768) (fun x =>
      (coreRaw (wQueued mmdOp) 768 < (coreAt (wQueued mmdOp) 768).mqSince + x.2)
      && ((coreAt (wQueued mmdOp) 768).mqSince + x.2 ≤ coreRaw { wQueued mmdOp with now := 100000 } 768)) = true ∧
    mmdOp.fn = 1 ∧ badComp.run (takeEngine (wQueued badComp) 768 0) 768 = .bad .xlateNp 0 ∧
    waitComp.run (takeEngine wCompWaits 768 0) 768 = .wait := by
  decide +kernel


/-! The geometry and fragment paths and ray queries -/

/-- The thread on core 0 of the geometry die 1, its workgroup the first of a batch, with one render state record. -/
def wGeo (q : List Meshlet := []) : State :=
  { wVec 0 fun g => { g with place := .resident 256, lastCid := 256 } with
    cores := [(256, { ctxs := [(0, (1, 0))], batches := [(0, { blk := 0x10000, len := 2, word := 0, lanes := [(0, (0, 0))], todo := [0] })] })],
    csr := [(csrKey 0x103 1, 1)], binq := q,
    batches := [{ part := 1, bseq := 5, die := 1, lid := 0, first := 0, count := 1, ended := 0, retired := false, sent := [] }] }

/-- A meshlet of one vertex and one triangle of it. -/
def wMeshlet : Meshlet := { part := 1, die := 1, cg := 0, bseq := 5, lvl := 0, sec := false, lid := 0, bytes := List.replicate 36 0, tri := 0, reg := 0 }

theorem wit_Geometry_emit :
    Passes wGeo { ops := [opRp 18], need := .geometry } ∧ (readP wGeo 18).toNat % 16 = 0 ∧ canonical (readP wGeo 18).toNat = true ∧
    rangeOf (readP wGeo 18).toNat = .self 0 ∧ ((curWg wGeo).any fun x => x.1 == 0 && (batchOf wGeo x.2.part x.2.lid x.2.wid).isSome) = true ∧
    spadTarget wGeo (me wGeo) { va := (readP wGeo 18).toNat, size := 16, rd := true } 0 0 = .ok (tSpad 0) ∧
    meshletBad wGeo 1 (ofBytes (locBytes wGeo (tSpad 0).loc 16)) = false ∧ meshletBad { wGeo with csr := [] } 1 0 = true ∧
    meshletBytes (ofBytes (locBytes wGeo (tSpad 0).loc 16)) = 36 ∧
    spadTarget wGeo (me wGeo) { va := (readP wGeo 18).toNat, size := 36, rd := true } 0 0 = .ok (tSpad 0) ∧
    binRoom wGeo 1 1 0 5 = true ∧ binRoom (wGeo (List.replicate 64 wMeshlet)) 1 1 0 5 = false := by decide +kernel


theorem wit_Geometry_bin :
    cgRuns (wGeo [wMeshlet]) 1 0 = true ∧ nextMeshlet (wGeo [wMeshlet]) 1 0 = some wMeshlet ∧
    answers? (readRst (wGeo [wMeshlet]) wMeshlet.issuer (wMeshlet.word 0 / 2 ^ 16)) (fun x =>
      (binTriangles wMeshlet x.1 (wMeshlet.nt - wMeshlet.tri) x.2 wMeshlet.tri wMeshlet.reg).2 == none) = true := by
  decide +kernel

def wPacket (g : PkStage) : Packet :=
  { id := 9, part := 1, src := 256, bseq := 5, rx := 0, ry := 0, pidx := 0, state := 0, rst := 0, tris := [], codes := 0, stage := g, die := 3, cg := 0 }
def wSeal : Seal := { id := 4, part := 1, bseq := 5, src := 1, last := true, die := 3, cg := 0, held := false, ents := [] }
def wPath (g : PkStage) : State :=
  { State.reset with packets := [wPacket g], seals := [wSeal],
                     batches := [{ part := 1, bseq := 6, die := 1, lid := 0, first := 0, count := 1, ended := 1, retired := false, sent := [] }] }

/-- A packet without a place in the hold store behind one of its batch that has not arrived. -/
def wLate : Packet := { wPacket .full with id := 10 }
def wBehind : State := { wPath .hold with packets := [wPacket .hold, wLate] }

theorem wit_Geometry_path :
    (wPath .hold).packets.find? (fun k => k.id == 9 && (k.stage == .hold || k.stage == .full)) = some (wPacket .hold) ∧
    mayArrive (wPath .hold) (wPacket .hold) = true ∧ ownerRuns (wPath .hold) (wPacket .hold) = true ∧ (wPacket .hold).stage = .hold ∧
    holdRoom (wPath .full) 1 1 5 = true ∧ mayArrive (wPath .full) (wPacket .full) = true ∧
    (wPath .refused).packets.find? (fun k => k.id == 9 && k.stage == .refused) = some (wPacket .refused) ∧
    (mayArrive wBehind wLate && ownerRuns wBehind wLate) = false ∧ wLate.stage = .full ∧ holdRoom wBehind wLate.part (wLate.src / 256) wLate.bseq = true ∧
    wBehind.packets.find? (fun k => k.id == 10 && (k.stage == .hold || k.stage == .full)) = some wLate ∧
    mayArrive (wPath .refused) (wPacket .refused) = true ∧ ownerRuns (wPath .refused) (wPacket .refused) = true ∧
    hearthNext (wPath .hearth) 9 = some (wPacket .hearth) ∧ ownerRuns (wPath .hearth) (wPacket .hearth) = true := by
  decide +kernel

theorem wit_Geometry_seals :
    ((wPath .hold).batches.find? (fun b => b.part == 1 && b.bseq == 6 && !b.retired)).any (fun b => b.count ≤ b.ended) = true ∧
    batchQueued (wPath .hold) 1 6 = false ∧ batchOut (wPath .hold) 1 6 = false ∧
    (wPath .hold).seals.find? (fun x => x.id == 4 && !x.held && cgRuns (wPath .hold) x.die x.cg) = some wSeal ∧
    (∀ y ∈ (wPath .hold).seals, ¬ y.cast < wSeal.cast) ∧ cgRuns (wPath .hold) 3 0 = true := by
  decide +kernel


theorem wit_Geometry_input : inputRoom (wPath .hold) 3 0 = true := by
  simp [inputRoom, wPath, wPacket, Config.rasterInput]

/-- A fragment whose thread enters the block at 0x1000C, with targets at the given addresses, resolved as given. -/
def wFrag (z c : Nat) (r : Resolve) : Frag :=
  { id := 7, part := 1, die := 3, cg := 0, rx := 0, ry := 0, x := 0, y := 0, tag := 0, z := 0, b1 := 0, b2 := 0, meshlet := 0, prim := 0, front := true,
    rst := 0#64 ++ 0x1000C#64 ++ BitVec.ofNat 64 z ++ BitVec.ofNat 64 c ++ 0#256, thread := none, lvl := 0, sec := false, lid := 0, wid := 0, res := r,
    stage := 0, pend := 0 }
def wFrags (f : Frag) (host : Bool := true) : State := { wVec 0 (fun g => { g with frag := host }) with frags := [f], packets := [wPacket .raster] }

theorem wit_Fragment_spawn :
    (wFrags (wFrag 0 0 .no)).packets.find? (fun k => k.stage == .raster && k.die == 3 && k.cg == 0 && cgRuns (wFrags (wFrag 0 0 .no)) 3 0) = some (wPacket .raster) ∧
    (wFrags (wFrag 0 0 .no)).frags.find? (fun f => f.die == 3 && f.cg == 0 && f.thread.isNone && f.res == .no && cgRuns (wFrags (wFrag 0 0 .no)) 3 0)
      = some (wFrag 0 0 .no) ∧
    fragHost (fragHosts (wFrags (wFrag 0 0 .no) false) 1 3 0) = none ∧
    (match fragHost (fragHosts (wFrags (wFrag 0 0 .no)) 1 3 0) with
      | some (cid, w, x) => freeTid x == some 1 && answers? (checkEntryAs (wFrags (wFrag 0 0 .no)) { issuer (wFrags (wFrag 0 0 .no)) (.vthread w 1) with ag := none } cid
          (rstFentry (wFrag 0 0 .no).rst)) fun r =>
          (placeThread (spadWrite (addThread r.2 w 1 { newThread r.2 x 1 (BitVec.ofNat 32 (32 * 1)) with frag := some 7 }) w (32 * 1) (fragRecord (wFrag 0 0 .no))) w 1
            r.1).isSome
      | none => false) = true := by
  decide +kernel

theorem wit_Fragment_blend :
    (wFrags (wFrag 0 0 .discard)).frags.find? (fun f => f.id == 7 && cgRuns (wFrags (wFrag 0 0 .discard)) f.die f.cg) = some (wFrag 0 0 .discard) ∧
    pixelFirst (wFrags (wFrag 0 0 .discard)) (wFrag 0 0 .discard) = true ∧ (regionGet (wFrags (wFrag 0 0 .discard)) 1 0 0).held = false ∧
    accepts (wFrags (wFrag 0 0 .discard)) (blendEid (wFrag 0 0 .discard)) = true ∧
    (blendRun [0, 0, 0, 0] 4 (wFrags (wFrag 0x10000 0x10100 (.blend 0 0 0 0))) (wFrag 0x10000 0x10100 (.blend 0 0 0 0))).2.2 = .ok () ∧
    (blendRun [0, 0, 0, 0] 4 (wFrags (wFrag 0 0x10100 (.blend 0 0 0 0))) (wFrag 0 0x10100 (.blend 0 0 0 0))).2.2 = .bad .xlateNp 0 ∧
    (blendRun [0, 0, 0, 0] 4 { wFrags (wFrag 0x10100 0 (.blend 0 0 0 0)) with subs := wPushed.subs } (wFrag 0x10100 0 (.blend 0 0 0 0))).2.2 = .wait ∧
    pixelFirst { wFrags (wFrag 0 0 .no) with frags := [wFrag 0 0 .no, { wFrag 0 0 .discard with id := 8, tag := 1 }] } { wFrag 0 0 .discard with id := 8, tag := 1 }
      = false := by
  decide +kernel


def wFragThread (o : Option Nat) : State := wVec 0 fun g => { g with threads := [(0, { wThread with frag := o })] }

theorem wit_Resolve :
    ((curThread (wFragThread (some 7))).any fun x => x.1 == 0 && x.2.2 == 0) = true ∧ ((thread? (wFragThread (some 7)) 0 0).bind fun x => x.frag) = some 7 ∧
    Passes (wFragThread (some 7)) { ops := [opRq 20], need := .shading } ∧ Passes (wFragThread (some 7)) { need := .shading } ∧
    Passes (wFragThread (some 7)) { ops := [opR 17], need := .shading } ∧
    ((curThread (wFragThread none)).any fun x => x.1 == 0 && x.2.2 == 0) = true ∧ ((thread? (wFragThread none) 0 0).bind fun x => x.frag) = none ∧
    Passes (wFragThread none) { need := .shading } := by decide +kernel


/-- A query of the workgroup along x, or with no direction, of the structure at 0. -/
def wRay (d : Word32) (c : Word64 := 0) : RayQ :=
  { id := 6, eid := rayEid 768, wg := 0, lid := 0, wid := 0, part := 1, lvl := 0, sec := false, off := 64,
    slot := [0, 0, 0, 0, d, 0, 0, 0x7F800000, 0, 0, 0, 0, c.setWidth 32, (c >>> 32).setWidth 32, 1, 0xFF], hdr := 0, held := false }
def wRays (d : Word32) : State := { wVec 0 with rays := [wRay d] }

/-- A thread about to query with the slot at 64 of its scratchpad and the structure at an address. -/
def wQuery (h : Word32) (m : SMap Byte) : State := wVec 0 fun g => withV [(1, 64), (4, h)] (withSpad m g)

theorem wit_Ray :
    Passes (wQuery 0x10100 []) { ops := [opR 17, opRp 20], need := .shading } ∧ (readR (wQuery 0x10100 []) 17).toNat % 64 = 0 ∧
    (readP (wQuery 0x10100 []) 20).toNat % 64 = 0 ∧ Reads (wQuery 0x10100 []) (selfVa 64) 64 (tSpad 64) ∧
    (bits (ofBytes (locBytes (wQuery 0x10100 []) (tSpad 64).loc 64)) 511 491 = 0 ∧ bits (ofBytes (locBytes (wQuery 0x10100 []) (tSpad 64).loc 64)) 447 384 % 8 = 0) ∧
    bits (ofBytes (locBytes (wQuery 0x10100 [(127, 128)]) (tSpad 64).loc 64)) 511 491 ≠ 0 ∧
    bits (ofBytes (locBytes (wQuery 0x10100 [(112, 4)]) (tSpad 64).loc 64)) 447 384 % 8 ≠ 0 ∧
    Reads (wQuery 0x10100 []) 0x10100 64 (tMem 0x100) ∧ accepts (wVec 0) (rayEid 768) = true ∧
    ((wVec 0).rays.filter fun x => x.eid == rayEid 768).length < 512 ∧
    512 ≤ (({ wVec 0 with rays := List.replicate 512 (wRay 0) } : State).rays.filter fun x => x.eid == rayEid 768).length ∧
    (readR (wVec 0) 17).toNat % 64 ≠ 0 ∧ (readP (wQuery 0x10108 []) 20).toNat % 64 ≠ 0 := by decide +kernel

theorem wit_Ray_complete :
    (wRays 0).rays.find? (fun x => x.id == 6 && !x.held) = some (wRay 0) ∧ accepts (wRays 0) (wRay 0).eid = true ∧
    cgRuns (wRays 0) (cidDie (wRay 0).eid) ((wRay 0).eid % 16) = true ∧ (wRays 0).items = [] ∧
    rayComes (rayResult (wRay 0) ((wRay 0).issuer (wRays 0)) (wRays 0)) (fun l _ => l.isSome) = true ∧ ((wRay 0).issuer (wRays 0)).wg = some (wRay 0).wg ∧
    rayCounter (wRay 0) = 0 ∧ (wRays 0).subs = [] ∧ ((wg? (wRays 0) 0).any fun g => g.cid?.isSome) = true ∧
    rayComes (rayResult (wRay 0x3F800000) ((wRay 0x3F800000).issuer (wRays 0x3F800000)) (wRays 0x3F800000)) (fun _ f => f == some (.xlateNp, 0)) = true ∧
    rayOf (vec3 0 0 0) (vec3 0 0 0) (boundOf 0) (boundOf 0x7F800000) = none := by
  decide +kernel

/-- A query that posts to a counter, in the workgroup's own scratchpad, and one whose counter has no page. -/
def wHit : State := putHit (wRays 0) (wRay 0) ((wRay 0).issuer (wRays 0)) (hitRecord none)

theorem wit_Ray_posts :
    rayCounter (wRay 0 0xFFFFFF0000000100) = 0xFFFFFF0000000100 ∧ rayCounter (wRay 0 8) = 8 ∧
    rayComes (rayResult (wRay 0 8) ((wRay 0 8).issuer (wRays 0)) (wRays 0)) (fun l _ => l == some (hitRecord none)) = true ∧
    answers? (postAdd wHit ((wRay 0).issuer (wRays 0)) (some (wRay 0).cid) 0xFFFFFF0000000100 1) (fun _ => true) = true ∧
    postAdd wHit ((wRay 0).issuer (wRays 0)) (some (wRay 0).cid) 8 1 = .bad .xlateNp 8 := by
  decide +kernel


theorem wit_Ray_closest : ∀ x ∈ [({ t := ⟨1, 2⟩, u := ⟨0, 1⟩, v := ⟨0, 1⟩, inst := 3, prim := 4 } : Hit)], 0 < x.t.d := by decide

/-! Traps, events, CSRs and the privileged forms -/

/-- A control context of partition 1 at partition-manager level, and one at device-manager level, with registers 17 and 18, and the workgroup. -/
def wPm (a b : Word64) (f : Workgroup → Workgroup := id) : State :=
  { wVec 0 f with cur := .control 8, ctl := [(8, { run := true, lvl := 1, part := 1, s := [(17, a), (18, b)], evec := 0x10000, estat := 1 })] }
def wDm (a b : Word64) (f : Workgroup → Workgroup := id) : State :=
  { wVec 0 f with cur := .control 0, ctl := [(0, { Ctl.boot with s := [(17, a), (18, b)] })] }

theorem wit_ControlTrap :
    Passes (wPm 0 0) {} ∧ (wPm 0 0).cur = .control 8 ∧ (ctl (wPm 0 0) 8).estat.getLsbD 0 = true ∧
    Passes State.reset {} ∧ State.reset.cur = .control 0 ∧ (ctl State.reset 0).estat.getLsbD 0 = false := by decide +kernel
theorem wit_CoreFault :
    Passes (wVec 0) {} ∧ runPlace (wVec 0) 0 0 = some (768, 0) ∧ ((coreAt (wVec 0) 768).batches.find 0).isSome = true ∧ freeRecord (coreAt (wVec 0) 768) = some 0 ∧
    Passes wScr {} ∧ wScr.cur = .scribe 0 ∧ ((wg? wScr 0).any fun g => g.ctx.isSome && g.cid? == some 768) = true := by decide +kernel


theorem wit_Event :
    Privileged (wPm 0 0) [] 1 ∧ (wPm 0 0).cur = .control 8 ∧
    Privileged (wScr fun g => { g with lvl := 1 }) [] 1 ∧ (wScr fun g => { g with lvl := 1 }).cur = .scribe 0 ∧
    (die (wPm 0 0) 0).tripped = false ∧ (ctl (wPm 0 0) 8).run = true ∧ (ctl (wPm 0 0) 8).mode = .ready ∧
    pendingEvent { wPm 0 0 with now := 42 * 8, ctl := [(8, { run := true, lvl := 1, part := 1, estat := 1, een := 4, etcmp := 8 })] } 8 = some 2 := by decide +kernel
theorem wit_Csr :
    Passes State.reset { ops := [opW 16], lvl := csrNeed State.reset (0x400 : BitVec 12).toNat false } ∧
    Passes State.reset { ops := [opR 16], lvl := csrNeed State.reset (0x400 : BitVec 12).toNat true } ∧
    canRun (wPm 0 0) = true ∧ isVector (wPm 0 0) = false ∧ (me (wPm 0 0)).lvl < csrNeed (wPm 0 0) (0x400 : BitVec 12).toNat false ∧
    (me (wPm 0 0)).lvl < csrNeed (wPm 0 0) (0x400 : BitVec 12).toNat true ∧ csrLevels 0x7FF (isControl State.reset) = none := by decide +kernel

/-- Control context 0 writes its own CTXCFG: with EN set it goes on, with EN clear it stops itself. -/
theorem wit_Csr_writes :
    stillRuns (csrEffect (csrWrite State.reset (csrEnv State.reset State.reset.cur) 0x400 0x80000006) (csrEnv State.reset State.reset.cur) 0x400) = true ∧
    stillRuns (csrEffect (csrWrite State.reset (csrEnv State.reset State.reset.cur) 0x400 6) (csrEnv State.reset State.reset.cur) 0x400) = false := by
  decide +kernel

theorem wit_Privilege :
    canRun (wPm 0 0) = true ∧ isVector (wPm 0 0) = false ∧ (me (wPm 0 0)).lvl < 2 ∧ canRun wScr = true ∧ isVector wScr = false ∧ (me wScr).lvl < 1 := by decide +kernel
/-- Region (0, 0) of partition 1 has its table entry; core groups 0 and 1 of die 3 are the partition's. -/
def withRegion (v : Word64) (s : State) : State :=
  { s with dreg := [(dregKey 0 0x1008, 0x8000000000000000), (dregKey 0 0x100000, v)], preg := [(pregKey 1 0x418, 3)],
           forms := [{ id := 2, ag := some (.control 8), d := 16, kind := .ownxfer 1 0 0 3 1 }] }

theorem wit_Region :
    Privileged (wPm 0 0x301) (ops2 16 17) 1 ∧ rref (readR (wPm 0 0x301) 17).toNat = some (0, 0) ∧ rotEntry (wPm 0 0x301) (namedPart (wPm 0 0x301)) 0 0 = none ∧
    rotEntry (withRegion 0x80000300 (wPm 0 0x301)) 1 0 0 = some 0x80000300 ∧ namedPart (withRegion 0x80000300 (wPm 0 0x301)) = 1 ∧
    Privileged (withRegion 0x80000300 (wPm 0 0x301)) (ops3 16 17 18) 1 ∧ ownxferCheck (withRegion 0x80000300 (wPm 0 0x301)) 1 0 0 0x301 = 0 ∧
    ownxferCheck (withRegion 0x80000300 (wPm 0 0)) 1 0 0 0x10000 = 7 ∧ rref 0xFFFFFFFF = none := by decide +kernel

theorem wit_Region_transfer :
    ((withRegion 0xC0000300 (wPm 0 0)).forms.find? (fun f => f.id == 2)).any (fun f => f.kind == .ownxfer 1 0 0 3 1) = true ∧
    rotOwner (withRegion 0xC0000300 (wPm 0 0)) 1 0 0 = some (3, 0, true) ∧ regionQuiet (withRegion 0xC0000300 (wPm 0 0)) 1 0 0 = true ∧
    cgRuns (withRegion 0xC0000300 (wPm 0 0)) 3 0 = true ∧ cgRuns (withRegion 0xC0000300 (wPm 0 0)) 3 1 = true := by decide +kernel


/-- Die 3 in a relock that begins at time 42. -/
def wRelock (now : Nat) : State := { State.reset with now := now, dies := [(3, { relock := some { point := 2, start := 42 } })] }

theorem wit_Power :
    Privileged (wDm 0x300 5) (ops3 16 17 18) 2 ∧ (readR (wDm 0x300 5) 17).toNat = 0x300 ∧ (readR (wDm 0x300 5) 18).toNat = 5 ∧ ¬ 0x10000 < 2 ^ 16 ∧
    bits 6 2 0 = 6 ∧ 0x300 < 2 ^ 16 ∧ 5 < 6 ∧ Config.isCompute (0x300 / 256) = true ∧ 0x300 % 256 < Config.coreGroups (0x300 / 256) ∧
    (die (wDm 0x300 5) 3).relock = none ∧ (die (wDm 0x300 5) 3).tripped = false ∧ csrGet { wDm 0x300 0 with csr := [(csrKey 0x501 0, 1)] } 0x501 0 % 2 = 1 ∧
    (die (wRelock 462) 3).relock = some { point := 2, start := 42 } ∧ 42 + 420 ≤ (wRelock 462).now ∧ (wRelock 462).forms = [] ∧ (wRelock 420).now ≤ 42 + 378 ∧
    (cgroup { State.reset with now := 42 * 7, cgs := [(cgKey 3 0, { power := 2, upAt := some 7 })] } 3 0).upAt = some 7 ∧
    7 ≤ timer { State.reset with now := 42 * 7, cgs := [(cgKey 3 0, { power := 2, upAt := some 7 })] } ∧ diePresent State.reset 12 = true ∧ 105 ≤ 105 := by decide +kernel

/-- The Larder of die 3 is open, and a launch of a resident workgroup may read it. -/
def wOpen : State := { wDm 3 0 with dies := [(3, { larderOpen := true })] }
def wReader : State := { wDm 3 0 with launches := [{ wLaunch with record := 1#1024 <<< 202 }] }

theorem wit_Larder :
    Privileged (wDm 3 0) (ops2 16 17) 2 ∧ Privileged wOpen (ops2 16 17) 2 ∧ (readR (wDm 3 0) 17).toNat = 3 ∧ larderCheck (wDm 3 0) 3 = 0 ∧
    (die wOpen 3).larderOpen = true ∧ larderCheck wOpen 3 = 0 ∧ wOpen.copies = [] ∧ (die wReader 3).larderOpen = false ∧ larderInUse wReader 3 = true ∧
    (die (wDm 3 0) 3).larderOpen = false ∧ larderInUse (wDm 3 0) 3 = false ∧ larderCheck (wDm 256 0) 256 = 7 ∧ larderCheck (wDm 1 0) 1 = 1 ∧
    Config.isShading 3 = true ∧ dregGet (wDm 3 0) 3 0x140 % 2 = 0 := by decide +kernel

/-- Page 1 of partition 1 lies in that Larder, and a copy writes there. -/
def wOpenCopy : State :=
  { wOpen with copies := [wOp 0xFFFFFF0000000000 0x10000], tlb := [{ wLeaf 9 1 with pte := BitVec.ofNat 64 (wPte.toNat - 0x10000 + (larderBase + 3 * 2 ^ 30)) }] }

/-- A copy whose destination is the Larder of die 3 keeps LWCLOSE waiting. -/
theorem wit_Larder_copy :
    (die wOpenCopy 3).larderOpen = true ∧ (die wOpenCopy 3).closing = none ∧ (∃ o ∈ wOpenCopy.copies, o.aimsLarder wOpenCopy 3 = true) ∧
    larderCheck wOpenCopy 3 = 0 := by decide +kernel


theorem wit_UnitForm_channel :
    Privileged (wPm 0 15) (ops3 16 17 18) 1 ∧ (readR (wPm 0 15) 18).toNat = 15 ∧ wrefWg (wPm 0 15) (readR (wPm 0 15) 17).toNat = some (0, wGroup) ∧
    wGroup.chans.find 15 = none ∧ channelTaken (wPm 0 15) 0 15 wGroup = false ∧
    channelTaken { wPm 0 15 with wgs := [(0, wGroup), (1, { wGroup with wid := 1, chans := [(15, {})] })] } 0 15 wGroup = true ∧
    (readR (wPm 0 271) 18).toNat = 271 ∧ (256 ≤ 271 ∧ 271 < 272) ∧ channelTaken (wPm 0 271) 0 (271 - 256) wGroup = false ∧
    (withChan fullChan wGroup).chans.find (271 - 256) = some fullChan ∧ fullChan.sends ≠ [] ∧
    ((withChan {} wGroup).chans.find 15).isSome = true ∧ channelTaken (wPm 0 271 (withChan {})) 0 15 (withChan {} wGroup) = false := by
  decide +kernel


theorem wit_UnitForm_barrier :
    Privileged (wPm 5 1) (ops3 16 17 18) 1 ∧ (readR (wPm 5 1) 17).toNat = 5 ∧ (64 ≤ 64 ∨ 2 ^ 20 ≤ 1) ∧ pbAssigned (wPm 5 1) (namedPart (wPm 5 1)) 5 = false ∧
    pbAssigned { wPm 5 1 with csr := [(csrKey 0x4C5 0, 0x80000001)] } 1 5 = true ∧ ((wPm 5 1).pbs.get {} 5).arr = [] := by decide +kernel

theorem wit_UnitForm_die :
    Privileged (wDm 0x0300000000000060 1) (ops2 16 17) 2 ∧ dieOperand (readR (wDm 0x0300000000000060 1) 17).toNat = some (3, 0x60) ∧
    Privileged (wDm 0x0300000000000060 1) (ops3 16 17 18) 2 ∧ dieOperand 0xC800000000000060 = some (200, 0x60) ∧ diePresent (wDm 0x0300000000000060 1) 200 = false ∧
    diePresent (wDm 0x0300000000000060 1) 3 = true ∧ dregAssigned 3 0x60 = true ∧ dregAssigned 3 0x7FFFF8 = false ∧ dieOperand 4 = none := by decide +kernel

theorem wit_UnitForm_link :
    Privileged (wDm 2 0) (ops2 16 17) 2 ∧ (readR (wDm 2 0) 17).toNat = 2 ∧ dieFitted (15 + 1) = false ∧ dieFitted (2 + 1) = true ∧
    dieInUse { wDm 2 0 with preg := [(pregKey 1 0x418, 3)] } (2 + 1) = true ∧ dieInUse (wRelock 0) (2 + 1) = false ∧
    dieInTransition (wRelock 0) (2 + 1) = true ∧ dieInUse State.reset (2 + 1) = false ∧ dieInTransition State.reset (2 + 1) = false := by
  decide +kernel


/-- A launch whose record gives one save slot at 0x10000. -/
def wSaver : Launch := { wLaunch with record := BitVec.ofNat 1024 (2 ^ 672 + 0x10000 * 2 ^ 704) }
def wPages (s : State) : State :=
  { s with tlb := [wLeaf 9 1, { wLeaf 9 1 with page := 2, pte := wPte + 0x10000 }, { wLeaf 9 1 with page := 3, pte := wPte + 0x20000 }] }
def wSaved (g : Workgroup) : Workgroup := { g with place := .saved { va := 0x10000, slot := none } }

theorem wit_WorkgroupForm :
    Privileged (wPm 5 0x1000) (ops3 16 17 18) 1 ∧ wrefWg (wPm 5 0x1000) (readR (wPm 5 0x1000) 17).toNat = none ∧ (readR (wPm 5 0x1000) 18).toNat % 4096 = 0 ∧
    (readR (wPm 5 0x1000) 18).toNat < 2 ^ 16 ∧ wrefWg (wPm 0 0x10000) (readR (wPm 0 0x10000) 17).toNat = some (0, wGroup) ∧
    saveCheck (wPm 0 0x10000) (some (0, wGroup)) = 0 ∧ (readR (wPm 0 0x10000) 18).toNat % 4096 = 0 ∧
    (startSave (wPages (wPm 0 0x10000)) 0 0x10000 none .form).2 = true ∧ (startSave (wPm 0 0x10000) 0 0x20000 none .form).2 = false ∧
    saveCheck (wPm 0 0xFFFF wSaved) (wrefWg (wPm 0 0xFFFF wSaved) 0) ≠ 0 ∧ Privileged (wPm 0 0) (ops2 16 17) 1 := by decide +kernel

theorem wit_WorkgroupForm_saved :
    wGroup.saving = none ∧ wGroup.cid?.isSome = true ∧
    (wrefWg (wPm 0 0xFFFF wSaved) 0).map (fun x => x.2.cid?) = some none ∧ (wSaved wGroup).saving = none ∧
    launch? { wPm 0 0xFFFF with launches := [wSaver] } 1 0 = some wSaver ∧ freeSaveSlot { wPm 0 0xFFFF with launches := [wSaver] } wSaver false = some 0 ∧
    (startSave (wPages { wPm 0 0xFFFF with launches := [wSaver] }) 0 (slotVa wSaver 0) (some 0) (.migrate 0xFFFF)).2 = true := by decide +kernel


/-- The thread's or the context's fault held in a record with generation 1, and an engine's suspension slot. -/
def wHeld : Held :=
  { wg := 0, tid := 0, hdr := wSucc, roff := 0, ts := List.replicate 16 0, cause := .trap, faddr := 0, word := 0x02040083, info := 0 }
def wSusp : Susp := { eid := eidOf 9 0, idx := 0, part := 1, cls := 0, op := 4, faddr := 0 }
def wFaulted (a b : Word64) : State :=
  { wPm a b (fun g => { g with threads := [(0, { wThread with st := .faulted 768 0 })] }) with
    cores := [(768, { ctxs := [(0, (1, 0))], vrec := [(0, { gen := 1, held := some wHeld })], srec := [(0, { gen := 1, held := some wHeld })] })],
    susp := [wSusp], suspGen := [(suspKey (eidOf 9 0) 0, 1)] }

theorem wit_Recovery :
    Privileged (wFaulted 0x03000200 1) (ops3 16 17 18) 1 ∧ named (wFaulted 0x03000200 1) (readR (wFaulted 0x03000200 1) 17).toNat = some (.vector 768 0 wHeld) ∧
    (Named.vector 768 0 wHeld).part (wFaulted 0x03000200 1) = some (namedPart (wFaulted 0x03000200 1)) ∧ (readR (wFaulted 0x03000200 1) 18).toNat % 64 = 1 ∧
    isTerminator wHeld.word = false ∧ wHeld.ts ≠ [] ∧
    named (wFaulted 0x03000240 0) 0x03000240 = some (.context 768 0 wHeld) ∧ 0x03000240 % 128 < 112 ∧
    named (wFaulted 0 0) (65536 * eidOf 9 0 + 512 + 112) = some (.slot wSusp) ∧ wSusp.part = namedPart (wFaulted 0 0) ∧
    named (wFaulted 0x03000000 0) 0x03000000 = none ∧ Privileged (wFaulted 0 0) (ops2 16 17) 1 ∧
    (Named.slot { wSusp with part := 2 }).part (wFaulted 0 0) ≠ some (namedPart (wFaulted 0 0)) := by decide +kernel

/-! Table updates -/

/-- A command of partition 1 at the head of its queue, with its fields. -/
def wCmd (op lvl va val count : Nat) : PtCmd :=
  { part := 1, lvl := 1, sec := false, die := 0, img := BitVec.ofNat 512 (op + lvl * 2 ^ 10 + count * 2 ^ 32 + va * 2 ^ 64 + val * 2 ^ 128), done := none,
    held := false, wrote := false }

/-- Partition 1 has a pool of three tables at 0x100000, which its first entries link. -/
def wTab (c : PtCmd) : State :=
  { State.reset with
    ptq := [c], pools := [(1, { base := 0x100000, count := 3 })], mem := [(0x100000, 1), (0x100002, 0x11), (0x110000, 1), (0x110002, 0x12)],
    tbl := [(3 * 2 ^ 26, 1), (3 * 2 ^ 26 + 2, 0x11), (3 * 2 ^ 26 + 0x10000, 0xDF), (3 * 2 ^ 26 + 0x10007, 0x40)] }

/-- An entry has a leaf in a die's replica. -/
def leafAt (s : State) (d p va : Nat) : Bool := (findLeaf s d p va).isSome

theorem wit_Table_issue :
    Privileged (wPm 0x10000 0) (ops2 16 17) 1 ∧ Reads (wPm 0x10000 0) (readR (wPm 0x10000 0) 17).toNat 64 (tMem 0 9 1) ∧
    commandOk (after (wPm 0x10000 0) (tMem 0 9 1) 64) 1 1 (BitVec.ofNat 512 (got (wPm 0x10000 0) (tMem 0 9 1) 64)) = false ∧
    (let s := { wPm 0x10000 0 with mem := [(0x10001, 0x0C)] }
     commandOk (after s (tMem 0 9 1) 64) 1 1 (BitVec.ofNat 512 (got s (tMem 0 9 1) 64)) = true ∧ namedPart s = 1 ∧ (me s).lvl = 1 ∧
     ((after s (tMem 0 9 1) 64).ptq.filter fun c => c.part == 1).length < 64) ∧
    (let s := { wPm 0x10000 0 with mem := [(0x10001, 0x0C)], ptq := List.replicate 64 (wCmd 3 0 0 0 0) }
     commandOk (after s (tMem 0 9 1) 64) 1 1 (BitVec.ofNat 512 (got s (tMem 0 9 1) 64)) = true ∧
     64 ≤ ((after s (tMem 0 9 1) 64).ptq.filter fun c => c.part == 1).length) := by decide +kernel

/-- A link of a table that another entry links, and of one in a pool without links. -/
def wLinked : PtCmd := wCmd 0 1 (2 ^ 42) 0x110001 0
def wLinks : PtCmd := wCmd 0 1 (2 ^ 42) 0x130001 0
def wLinkTab : State := { wTab wLinks with mem := [], pools := [(1, { base := 0x100000, count := 4 })] }

theorem wit_Table_entries :
    EntryAt (wTab (wCmd 2 3 0 0 0)) 1 2 (wCmd 2 3 0 0 0) 0x120000 ∧ EntryAt (wTab (wCmd 0 3 0 0 0)) 1 0 (wCmd 0 3 0 0 0) 0x120000 ∧
    bitAt (wCmd 0 3 0 0 0).im.val 0 = false ∧ EntryAt (wTab wLinked) 1 0 wLinked 0x100008 ∧ isLink wLinked.im.val ∧
    linked (applyReports (wTab wLinked) 1) (pool (applyReports (wTab wLinked) 1) 1) (pteTable (pool (applyReports (wTab wLinked) 1) 1) wLinked.im.val) 0x100008
      = true ∧
    EntryAt (wTab (wCmd 1 3 0 0 1)) 1 1 (wCmd 1 3 0 0 1) 0x120000 ∧ (wCmd 1 3 0 0 1).im.count = 1 := by decide +kernel

theorem wit_Table_missing :
    (∀ op ∈ [0, 1, 2], EntryMissing (wTab (wCmd op 3 (2 ^ 29) 0 0)) 1 op (wCmd op 3 (2 ^ 29) 0 0)) ∧
    dueCmd (wTab (wCmd 3 0 0 0 0)) 1 3 = some (wCmd 3 0 0 0 0) ∧ dueCmd (wTab (wCmd 4 0 0 0 0)) 1 4 = some (wCmd 4 0 0 0 0) ∧
    EntryAt wLinkTab 1 0 wLinks 0x100008 ∧ isLink wLinks.im.val ∧
    linked (applyReports wLinkTab 1) (pool (applyReports wLinkTab 1) 1) (pteTable (pool (applyReports wLinkTab 1) 1) wLinks.im.val) 0x100008
      = false := by decide +kernel


def wPool : PtCmd := wCmd 5 0 0x100000 0x10000 3
def wFlushed : PtCmd := { wCmd 3 0 0 0 0 with done := some (0, 0) }
def wReadDone : PtCmd := { wCmd 2 3 0 0 0 with done := some (0, 0) }
def aReport : Report := { part := 1, addr := 0x110000, ver := 0, dirty := true }

theorem wit_Table_pool :
    dueCmd (wTab wPool) 1 5 = some wPool ∧ (∀ x ∈ (wTab wPool).wgs, x.2.part = wPool.im.pool → x.2.cid? = none) ∧
    dueCmd { wTab wPool with wgs := [(0, wGroup)] } 1 5 = some wPool ∧ (∃ x ∈ [(0, wGroup)], x.2.part = wPool.im.pool ∧ x.2.cid?.isSome = true) := by
  decide +kernel

/-- A shootdown that goes on, one that a queued matrix operation holds up, and a command without one. -/
theorem wit_Table_shootdown :
    Posting (wTab wFlushed) 1 wFlushed ∧ wFlushed.shoots = true ∧ matrixHolds (wTab wFlushed) wFlushed = false ∧
    headCmd (shotDown (wTab wFlushed) 1 wFlushed) 1 = some wFlushed ∧
    matrixHolds { wQueued (matOp wMat 0 3 0 0 (wTile 1 1 1)) with ptq := [wFlushed] } wFlushed = true ∧
    Posting (wTab wReadDone) 1 wReadDone ∧ wReadDone.shoots = false := by decide +kernel

theorem wit_Table_walk :
    ({ wTab wFlushed with reports := [aReport] } : State).reports = aReport :: [] ∧ (wTab wFlushed).pteVer.get 0 aReport.addr = aReport.ver ∧
    (pool (wTab wFlushed) 1).base ≤ aReport.addr ∧ aReport.addr < (pool (wTab wFlushed) 1).base + (pool (wTab wFlushed) 1).count * 65536 ∧
    Config.isCompute 3 = true ∧ Config.dieKind 9 = .memory ∧ rangeOf 0 = .pages ∧ canonical 0 = true ∧
    (∀ e ∈ (wTab wFlushed).tlb, tlbHit e 3 1 0 = false) ∧ leafAt (wTab wFlushed) 3 1 0 = true := by
  decide +kernel

/-! Launches -/

/-- A record with one thread, shading dies, and its vector entry at 0x10000, where a header of one word stands. -/
def wRec : BitVec 1024 := BitVec.ofNat 1024 (0x10000 + 0x200 * 2 ^ 192)
def wLr (st : LState := .ready) : Launch := { wLaunch with record := wRec, st := st, next := 0, placed := 0 }
/-- Core group 0 of die 3 is partition 1's; its queue 0 has a record at 0x10080, whose bytes are those of `wRec`. -/
def wQue (n : Nat := 1) : State :=
  { State.reset with
    mem := [(0x10000, 0x20), (0x10082, 1), (0x10099, 2)], tlb := [wLeaf 9 1, wLeaf 3 1],
    preg := [(pregKey 1 0, 0x10080), (pregKey 1 8, 0x80000000), (pregKey 1 0x10, n), (pregKey 1 0x418, 1)], launches := [wLr] }

/-- The launch's only run goes to die 3, which has reported. -/
def wRun : State := setPart (wQue 0) 1 { part (wQue 0) 1 with rep := [groupReport (wQue 0) 3 0] }
def wHanded : Launch := { wLr with handed := [(3, 0)], next := 1 }

/-- The record's line is frozen, or a push of one of its words is on its way. -/
def wBad : State := { wQue with frozen := [lineOf 0x10080] }
def wMoving : State := { wQue with subs := wPushed.subs.map fun x => { x with pa := 0x10080, span := [(0x10080, 0x10084)] } }

theorem wit_Launch_queue :
    nextQueue (wQue) 1 = some 0 ∧ qwaiting (wQue) 1 0 ≤ 2 ^ bits (qctl (wQue) 1 0) 4 0 ∧
    lineFault (turnTaken wQue 1 0) (lineOf (qaddr wQue 1 0)) = none ∧
    (homeRead (turnTaken wQue 1 0) 0 (qaddr wQue 1 0) 128).any (fun r => BitVec.ofNat 1024 (ofBytes r.1) == wRec
      && answers? (startLaunch (headGone wQue 1 0 r.2) 1 (nextLid (turnTaken wQue 1 0) 1) 0 ((partWorld (turnTaken wQue 1 0) 1).getD false) false wRec)
        fun t => t.launches.length == 2) = true ∧
    nextQueue (wQue 2) 1 = some 0 ∧ 2 ^ bits (qctl (wQue 2) 1 0) 4 0 < qwaiting (wQue 2) 1 0 ∧
    nextQueue wBad 1 = some 0 ∧ lineFault (turnTaken wBad 1 0) (lineOf (qaddr wBad 1 0)) = some .frozen := by
  decide +kernel

theorem wit_Launch_queue_waits :
    nextQueue wMoving 1 = some 0 ∧ qwaiting wMoving 1 0 ≤ 2 ^ bits (qctl wMoving 1 0) 4 0 ∧
    lineFault (turnTaken wMoving 1 0) (lineOf (qaddr wMoving 1 0)) = none ∧ homeRead (turnTaken wMoving 1 0) 0 (qaddr wMoving 1 0) 128 = none := by
  decide +kernel


theorem wit_Launch_state :
    (let x : DlqRec := { part := 1, lid := 4, record := wRec, sec := false }
     let s := { wQue with dlq := [x] }
     s.dlq.find? (fun x => x.part == 1 && (launch? s 1 x.lid).isNone) = some x ∧
     answers? (startLaunch s 1 x.lid 0 x.sec false x.record) (fun t => t.launches.length == 2) = true) ∧
    (let s := { wQue with launches := [{ wLr .pending with depPa := 0x10080 }] }
     launch? s 1 0 = some { wLr .pending with depPa := 0x10080 } ∧ (watchRead s 0x10080 8).isSome = true ∧ recField wRec 0x68 63 0 ≤ 0x10000) ∧
    (let l := { wLr .pending with record := wRec ||| (1#1024 <<< 832), depPa := 0x10088 }
     let s := { wQue with launches := [l] }
     launch? s 1 0 = some l ∧ (watchRead s 0x10088 8).map (·.1) = some 0 ∧ 0 < recField l.record 0x68 63 0) ∧
    Config.isCompute 3 = true := by
  decide +kernel

def wGiven : State := { wRun with launches := [wHanded] }

theorem wit_Launch_place :
    launch? wRun 1 0 = some wLr ∧ offerable wRun wLr = true ∧ wLr.handed = [] ∧
    (∀ x ∈ wRun.launches, x.part = 1 → offeredBefore x wLr = true → offerable wRun x = false) ∧ runTarget wRun wLr = some (3, 64) ∧
    launch? wGiven 1 0 = some wHanded ∧ wHanded.handed.head? = some (3, 0) ∧ larderHold wGiven wHanded = false ∧
    placeTarget wGiven wHanded 3 0 = some 768 ∧ (slotWaiters wGiven 1).any (slotFits wGiven 768) = false ∧ grewNow wGiven 768 = false ∧
    placeTarget { wGiven with preg := [] } wHanded 3 0 = none := by
  decide +kernel

/-- A launch whose only workgroup has ended, with a completion address: none, one in its page, one without a page. -/
def wEnded (a : Nat) : Launch := { wLr .draining with ended := 1, record := wRec ||| BitVec.ofNat 1024 (a * 2 ^ 896) }
def wOver (a : Nat) : State := { wRun with launches := [wEnded a] }

theorem wit_Launch_complete :
    launch? (wOver 0) 1 0 = some (wEnded 0) ∧ (wEnded 0).st = .draining ∧ (wEnded 0).ended = recW (wEnded 0).record ∧ endedPeers (wOver 0) = false ∧
    recField (wEnded 0).record 0x70 63 0 = 0 ∧ recField (wEnded 0x10100).record 0x70 63 0 = 0x10100 ∧ recField (wEnded 8).record 0x70 63 0 = 8 ∧
    answers? (postAdd (completed (wOver 0x10100) 1 0) (launchIssuer 1 0 false (wEnded 0x10100).record) none 0x10100 1) (fun _ => true) = true ∧
    postAdd (completed (wOver 8) 1 0) (launchIssuer 1 0 false (wEnded 8).record) none 8 1 = .bad .xlateNp 8 := by
  decide +kernel

/-! The frontier, saves and forwarding -/

def wEnt (k : Nat) : Entry :=
  { ctx := 0, baddr := 0x10000 + 16 * k, prio := 0, fill := 1, cold := false, len := 2, res := false, roff := 0, wset := [k], opn := false, since := 0 }
def wSpill : Spilled := { idx := 0, ent := { wEnt 5 with since := 3 }, sord := 0 }
/-- Core 768 with a frontier, spilled entries and stalled faults, and its thread in a state. -/
def wFront (now : Nat) (c : Core) (st : TState := .pending) : State :=
  { wVec 0 (fun g => { g with threads := [(0, { wThread with st := st })] }) with
    now := now, cores := [(768, { c with ctxs := [(0, (1, 0))] })], launches := [{ wLaunch with record := 1#1024 <<< 576 }] }
def wFull : Core := { fr := (List.range Config.frontierEntries).map wEnt, spilled := [wSpill] }

theorem wit_Frontier :
    NibFree (wFront 0 { fr := [wEnt 0] }) 768 0 ∧ forcedEntry (wFront 0 { fr := [wEnt 0] }) 768 = none ∧
    (chooseEntry (visits (coreAt (wFront 0 { fr := [wEnt 0] }) 768)) (wFront 0 { fr := [wEnt 0] }) 768).2 = some (wEnt 0) ∧
    NibFree (wFront 10000000 { fr := [wEnt 0] }) 768 0 ∧ forcedEntry (wFront 10000000 { fr := [wEnt 0] }) 768 = some (wEnt 0) := by
  decide +kernel

theorem wit_Frontier_ages :
    wEnt 0 ∈ (coreAt (wFront 10000000 { fr := [wEnt 0] }) 768).fr ∧ (wEnt 0).wset ≠ [] ∧ 65536 ≤ entryAge (wFront 10000000 { fr := [wEnt 0] }) 768 (wEnt 0) ∧
    (wEnt 0).res = false ∧ (wEnt 0).fill ≠ 0 ∧
    recFillTimer (ctxRecord (wFront 10000000 { fr := [wEnt 0] }) (coreAt (wFront 10000000 { fr := [wEnt 0] }) 768) 0) ≤
      entryAge (wFront 10000000 { fr := [wEnt 0] }) 768 (wEnt 0) ∧
    (coreAt (wFront 0 { stalls := [wHeld] }) 768).stalls = wHeld :: [] ∧ freeRecord (coreAt (wFront 0 { stalls := [wHeld] }) 768) = some 0 ∧
    ((thread? (wFront 0 {} (.waiting .place)) 0 0).map fun t => t.st) = some (.waiting .place) ∧
    ((wg? (wFront 0 {} (.waiting .place)) 0).map fun g => g.cid?) = some (some 768) := by
  decide +kernel


theorem wit_Frontier_spills :
    reloadFirst (coreAt (wFront 0 { fr := [wEnt 0], spilled := [wSpill] }) 768) = some wSpill ∧
    (coreAt (wFront 0 { fr := [wEnt 0], spilled := [wSpill] }) 768).fr.length < Config.frontierEntries ∧
    coreRuns (wFront 0 { fr := [wEnt 0], spilled := [wSpill] }) 768 = true ∧
    (coreAt (wFront 10000000 wFull) 768).spilled = wSpill :: [] ∧ (victim (wFront 10000000 wFull) 768 (coreAt (wFront 10000000 wFull) 768).fr).isSome = true ∧
    (coreAt (wFront 10000000 wFull) 768).fr.length = Config.frontierEntries ∧
    (coreAt (wFront 10000000 wFull) 768).swapRaw + 65536 ≤ coreRaw (wFront 10000000 wFull) 768 ∧
    (spillEntry (updCore (wFront 10000000 wFull) 768 fun c => { c with spilled := c.spilled.filter (· != wSpill) }) 768 (wEnt 0)).isSome = true := by
  decide +kernel

/-- The workgroup in a save, its threads waiting; and saved, with the state of its partition. -/
def wArea : SaveArea := { va := 0x10000, slot := some 0 }
def wAsk (claimed : Bool) : SaveReq := { area := wArea, claimed := claimed, goal := .slice }
def wSaving (claimed : Bool) (ch : SMap Chan := []) : Workgroup :=
  { wGroup with saving := some (wAsk claimed), chans := ch, threads := [(0, { wThread with st := .waiting .place })] }
def wHome (g : Workgroup) : State := { wVec 0 with wgs := [(0, g)], preg := [(pregKey 1 0x418, 1)], launches := [wLr .draining] }
def wAway : Workgroup := { wGroup with place := .saved wArea, rows := [], threads := [(0, { wThread with st := .waiting .place })] }

/-- A quantum of one tick, at tick 20,000. -/
def wQuantum : State := { State.reset with now := 42 * 20000, preg := [(pregKey 1 0x200, 1)] }

theorem wit_Save_quantum :
    timer wQuantum % quantumTicks wQuantum 1 = 0 ∧ timer wQuantum ≠ (part wQuantum 1).bnd ∧
    timer { State.reset with now := 42 } % quantumTicks { State.reset with now := 42 } 1 ≠ 0 := by decide +kernel

theorem wit_Save_save :
    wg? (wHome (wSaving false)) 0 = some (wSaving false) ∧ (wSaving false).cid? = some 768 ∧ (wSaving false).saving = some (wAsk false) ∧
    coreRuns (wHome (wSaving false)) 768 = true ∧ (claimFwd (wHome (wSaving false)) 0).isSome = true ∧
    (∃ c ∈ (wSaving true [(3, { sends := [(.vthread 0 0, 1)] })]).chans, c.2.sends ≠ []) ∧
    (wAsk true).claimed = true ∧ (∀ c ∈ (wSaving true).chans, c.2.sends = []) ∧ inFlight (wSaving true) = false ∧
    matDrained (wHome (wSaving true)) 768 0 = true ∧ saveReady (wHome (wSaving true)) 0 = true := by decide +kernel

theorem wit_Save_restore :
    wg? (wHome wAway) 0 = some wAway ∧ (slotWaiters (wHome wAway) 1).find? (fun x => x.1 == 0) = some (0, wAway) ∧
    launch? (wHome wAway) 1 0 = some (wLr .draining) ∧ restoreTarget (wHome wAway) (wLr .draining) wAway = some 768 ∧
    (∀ y ∈ slotWaiters (wHome wAway) 1, waitsLonger (y.2.since, y.2.lid, y.2.wid) (wAway.since, wAway.lid, wAway.wid) = true → slotFits (wHome wAway) 768 y = false)
    := by decide +kernel

def wDrained : State := { wHome wAway with fwds := [{ cid := 768, wgs := [0], ops := [], homes := [] }] }

theorem wit_Save_forward :
    (∀ k ∈ [ItemKind.push 3, .release 3], [({ cid := 768, wg := 0, kind := k } : Item)].find? (fun x => x.cid == 768) = some { cid := 768, wg := 0, kind := k }) ∧
    (wDrained.fwds.all fun f => f.cid == 768 && f.ops == [] && f.homes == [] && f.dies.length ≤ 1) = true ∧ wDrained.fwds.length = 1 ∧ wDrained.items = [] ∧
    (∀ x ∈ wDrained.wgs, x.2.saving = none) := by decide +kernel

/-! Registers, mailboxes and displays -/

theorem wit_Context :
    (bits (0x80000000#64).toNat 1 0 = 0 ∨ bits (0x80000000#64).toNat 1 0 = 3) ∧
    (bits (0x80000101#64).toNat 1 0 = 1 ∨ bits (0x80000101#64).toNat 1 0 = 2) ∧ (0x80000101#64).getLsbD 31 = true ∧ (ctl State.reset 8).run = false ∧
    (bits (2#64).toNat 1 0 = 1 ∨ bits (2#64).toNat 1 0 = 2) ∧ (2#64).getLsbD 31 = false ∧
    (ctl State.reset 0).run = true ∧ (ctl State.reset 0).etcmp.toNat ≤ timer State.reset := by
  decide +kernel

/-- A post for the log of partition 1, which has 16 entries. -/
def aPost : Post := { id := 5, log := 1, src := 3, words := List.replicate 16 0 }
def wLog : State := { State.reset with posts := [aPost], csr := [(csrKey 0x105 1, 4)] }

theorem wit_FaultLog :
    wLog.posts.find? (fun y => y.id == 5) = some aPost ∧ csrGet wLog 0x105 aPost.log ≠ 0 ∧
    (csrGet wLog 0x106 aPost.log + 2 ^ 32 - csrGet wLog 0x107 aPost.log) % 2 ^ 32 < 2 ^ csrGet wLog 0x105 aPost.log ∧ firstOfSource wLog aPost = true ∧
    aPost.ready wLog = true ∧ State.reset.bootDead = false ∧
    homeHeld wLog 0 (csrGet wLog 0x104 aPost.log + 128 * (csrGet wLog 0x106 aPost.log % 2 ^ csrGet wLog 0x105 aPost.log)) = false := by
  decide +kernel

/-- Core group 0 of die 3 is to take up the secure world, and another split. -/
def wWorld : State := { State.reset with csr := [(csrKey 0x500 (cgKey 3 0), 1), (csrKey 0x101 (cgKey 3 0), 1)] }
def wLeaving : State := { State.reset with preg := [(pregKey 1 0x418, 0x10001)] }
def wRot (v : Word64) : State := { State.reset with dreg := [(dregKey 0 (0x100000 + 8 * 5), v)] }

theorem wit_Register :
    bworldBit wWorld 3 0 ≠ blockWorld wWorld 3 0 ∧ blockIdle wWorld 3 0 = true ∧ residents wWorld 768 = [] ∧
    csrGet wWorld 0x101 (cgKey (cidDie 768) (cidCg 768)) % 4 ≠ (coreAt wWorld 768).spsel ∧
    Config.isCompute 3 = true ∧ 0 < Config.coreGroups 3 ∧ Config.isShading 3 = true ∧ diePresent State.reset 3 = true ∧ dregAssigned 3 0x60 = true ∧
    dregAssigned 3 (0x3100 + 8 * 1) = true ∧ diePresent State.reset 1 = true ∧ dregAssigned 1 (0x3000 + 8 * 15) = true ∧
    (List.range 64).find? (fun p => isMember wLeaving p 3 0 && isDeparting wLeaving p 3 0) = some 1 ∧ groupEmpty wLeaving 3 0 = true := by
  decide +kernel

theorem wit_Register_regions :
    bitAt (dregGet (wRot 0x80000301) 0 (0x100000 + 8 * 5)) 31 = true ∧ bits (0x80000302#64).toNat 15 0 ≠ bits (dregGet (wRot 0x80000301) 0 (0x100000 + 8 * 5)) 15 0 ∧
    bits (0x301#64).toNat 15 0 = bits (dregGet (wRot 0x80000301) 0 (0x100000 + 8 * 5)) 15 0 ∧ bitAt (dregGet (wRot 0x301) 0 (0x100000 + 8 * 5)) 31 = false := by
  decide +kernel

theorem wit_Mailbox :
    bitAt (pregGet State.reset 64 0x880) 0 = false ∧ bitAt (pregGet State.reset 64 0x880) 1 = false ∧
    bitAt (pregGet { State.reset with preg := [(pregKey 64 0x880, 3)] } 64 0x880) 0 = true ∧
    bitAt (pregGet { State.reset with preg := [(pregKey 64 0x880, 3)] } 64 0x880) 1 = true ∧
    (0x80000000#64).getLsbD 31 = true ∧ (0#64).getLsbD 30 = false ∧
    bitAt (dispReg { State.reset with preg := [(pregKey 1 (dispOff 1 0), 0x40000000)] } 1 1 0) 30 = true ∧
    (0x8000000000000000#64).getLsbD 63 = true ∧ bitAt (dispReg State.reset 1 1 0x50) 63 = false ∧ (0#64).getLsbD 63 = false ∧
    bitAt (dispReg { State.reset with preg := [(pregKey 1 (dispOff 1 0x50), 0x8000000000000000)] } 1 1 0x50) 63 = true := by
  decide +kernel

/-- Display 0 of partition 1, of 2 × 2 pixels and no source, at 200 frames a second, runs; its ring is at 0x10000. -/
def wDisp (x : Disp) (size : Word64 := 0x80) (post : Word64 := 0) (ring : Word64 := 0x10000) : State :=
  { State.reset with
    disps := [(2, { x with run := true })], tlb := [wLeaf 1 1, wLeaf 9 1],
    preg := [(pregKey 1 0xC00, 0x80010001), (pregKey 1 0xC08, 0x100C8), (pregKey 1 0xC60, ring), (pregKey 1 0xC68, size), (pregKey 1 0xC70, post)] }

/-- Frame 0 due with the registers of its tick, and with a plane at an address. -/
def wRegs (x : Disp) : SMap Word64 := captureRegs (wDisp x) 1 0
def dueNow (x : Disp) (a : Option Word64 := none) : State :=
  wDisp { x with due := [(0, 0, match a with | some a => (wRegs x).put 0x10 a | none => wRegs x)] }
def captured : Disp := { stream := true, cap := [(0, 0, [])] }

theorem wit_Display_due :
    (lastFrame (wDisp {}) 1 0 0).isSome = true ∧ (lastFrame (wDisp {}) 1 0 0).any (fun n => Max.max 0 (disp (wDisp {}) 1 0).frame ≤ n) = true := by
  decide +kernel

theorem wit_Display_capture :
    FrameDue (dueNow {}) 1 0 0 0 (wRegs {}) ∧ (disp (dueNow {}) 1 0).stream = false ∧ (disp (dueNow {}) 1 0).ending = false ∧
    (disp (dueNow { stream := true, held := true }) 1 0).stream = true ∧ FrameDue (dueNow { stream := true, held := true }) 1 0 0 0 (wRegs { stream := true, held := true }) ∧
    ¬ Streaming (dueNow { stream := true, held := true }) 1 0 := by
  decide +kernel

theorem wit_Display_compose :
    Streaming (dueNow { stream := true }) 1 0 ∧ FrameDue (dueNow { stream := true }) 1 0 0 0 (wRegs { stream := true }) ∧
    bits ((wRegs { stream := true }).get 0 0).toNat 13 0 + 1 = 2 ∧ bits ((wRegs { stream := true }).get 0 0).toNat 29 16 + 1 = 2 ∧
    answers? (frameColours (dueNow { stream := true }) (streamIssuer (dueNow { stream := true }) 1 0) (planes (wRegs { stream := true })) 2 4 4)
      (fun r => r.1.length == 4) = true := by
  decide +kernel

/-- A frame that its ring has no room for, and one that it has room for, with and without a counter to post to. -/
theorem wit_Display_code :
    CodingFrame (wDisp captured 0x10) 1 0 0 0 [] [] ∧
    ringSize (wDisp captured 0x10) 1 0 < ringUsed (wDisp captured 0x10) 1 0 + frameLimit (wDisp captured 0x10) 1 0 + 32 ∧
    CodingFrame (wDisp captured) 1 0 0 0 [] [] ∧
    ringUsed (wDisp captured) 1 0 + frameLimit (wDisp captured) 1 0 + 32 ≤ ringSize (wDisp captured) 1 0 ∧ frameLimit (wDisp captured) 1 0 = 0 ∧
    answers? (engineWrite (useFree (wDisp captured)) (streamIssuer (wDisp captured) 1 0) 32
      ((dispReg (wDisp captured) 1 0 0x60 + ringStart (wDisp captured) 1 0 32) % 2 ^ 64) (ringRecord (wDisp captured) 1 0 0 0 [])).2 (fun _ => true) = true ∧
    (engineWrite (useFree (wDisp captured 0x80 0 0)) (streamIssuer (wDisp captured 0x80 0 0) 1 0) 32
      ((dispReg (wDisp captured 0x80 0 0) 1 0 0x60 + ringStart (wDisp captured 0x80 0 0) 1 0 32) % 2 ^ 64) (ringRecord (wDisp captured 0x80 0 0) 1 0 0 0 [])).2
      = .bad .xlateNp 0 := by
  decide +kernel

/-- A coded frame whose post is still to be made: none, one to a counter, to an address without a page, and one that waits for a push. -/
def wPosting (a : Word64) : State := wDisp { stream := true, posting := true } 0x80 a

theorem wit_Display_post :
    EngineActs (wPosting 0) 1 0 ∧ (disp (wPosting 0) 1 0).posting = true ∧
    dispReg (wPosting 0) 1 0 0x70 = 0 ∧ dispReg (wPosting 0x10100) 1 0 0x70 = 0x10100 ∧
    answers? (postAdd (wPosting 0x10100) (streamIssuer (wPosting 0x10100) 1 0) none 0x10100 1) (fun _ => true) = true ∧
    postAdd (wPosting 8) (streamIssuer (wPosting 8) 1 0) none 8 1 = .bad .xlateNp 8 ∧
    postAdd { wPosting 0x10100 with subs := wPushed.subs } (streamIssuer (wPosting 0x10100) 1 0) none 0x10100 1 = .wait := by
  decide +kernel

/-! Coherence, the host and the peers -/

/-- Line 0x200 (at 0x10000) as cores hold it, with a transaction under way. -/
def wHold (l : SMap L1Line) (m : List Trans := []) : State := { State.reset with lines := [(0x200, l)], cohMsgs := m, tlb := [wLeaf 3 1] }
def wAskL1 (own : Bool) : Trans := { cid := 769, line := 0x200, words := 3, own := own, toL1 := [768], acks := [], reply := false, drop := 0, dw := 0 }
def wReply : Trans := { cid := 769, line := 0x200, words := 3, own := true, toL1 := [], acks := [], reply := true, drop := 0, dw := 0 }

theorem wit_Coherence :
    (requestOk (wHold [(768, { v := 3 })]) 769 0x200 3 = true ∧ homeFree (wHold [(768, { v := 3 })]) 0x200 = true ∧
      ∀ x ∈ (wHold [(768, { v := 3 })]).subs, lineOf x.pa = 0x200 → x.push = none) ∧
    ((wHold [] [wReply]).cohMsgs.find? (fun m => m.cid == 769 && m.line == 0x200 && m.reply && arrives (wHold [] [wReply]) m.data) = some wReply ∧
      wReply.words &&& ~~~wReply.drop ≠ 0) ∧
    (toward (wHold [(768, { v := 3 })] [wAskL1 true]) 768 0x200 = some (wAskL1 true) ∧ isRecall (wHold [(768, { v := 3 })] [wAskL1 true]) 768 (wAskL1 true) = false ∧
      arrives (wHold [(768, { v := 3 })] [wAskL1 true]) ((wAskL1 true).down 768) = true) ∧
    (toward (wHold [(768, { v := 3, w := 3, d := 1 })] [wAskL1 false]) 768 0x200 = some (wAskL1 false) ∧
      isRecall (wHold [(768, { v := 3, w := 3, d := 1 })] [wAskL1 false]) 768 (wAskL1 false) = true ∧
      arrives (wHold [(768, { v := 3, w := 3, d := 1 })] [wAskL1 false]) ((wAskL1 false).down 768) = true) := by
  decide +kernel

/-- The home sent core 768 a message about another line before that about line 0x200. -/
def wLater : Trans := { wAskL1 true with ord := 1 }
def wOrdered : State := wHold [(768, { v := 3 })] [{ wAskL1 true with line := 0x201 }, wLater]

theorem wit_Coherence_order :
    toward wOrdered 768 0x200 = some wLater ∧ arrives wOrdered (wLater.down 768) = false ∧
    arrives wOrdered (({ wAskL1 true with line := 0x201 } : Trans).down 768) = true ∧ wLater.down 768 ∈ inFlightMsgs wOrdered ∧
    (wLater.down 768).cls = (({ wAskL1 true with line := 0x201 } : Trans).down 768).cls ∧ (wLater.down 768).cls ≠ 4 ∧
    (wLater.down 768).src = (({ wAskL1 true with line := 0x201 } : Trans).down 768).src ∧
    (wLater.down 768).dst = (({ wAskL1 true with line := 0x201 } : Trans).down 768).dst := by
  decide +kernel

/-- A transaction whose message core 768 has acknowledged. -/
def wAcked : Trans := { wAskL1 true with toL1 := [], acks := [768] }

/-- A delta of core 768 on word 4 of the line, which a subscription of another word watches or none does. -/
def wDelta (l : List Machine.Sub) : State := { wHold [(768, { u := [(4, { kind := 0, val := 7 })] })] with subs := l }

theorem wit_Coherence_acks :
    (wHold [] [wAcked]).cohMsgs.find? (fun m => m.line == 0x200 && m.acks.contains 768) = some wAcked ∧ arrives (wHold [] [wAcked]) (wAcked.up 768) = true ∧
    (1 : Word32) ≠ 0 ∧ ((lineState (wHold [(768, { v := 3, w := 3, d := 1 })]) 0x200).get {} 768).d &&& 1 = 1 ∧
    ((lineState (wDelta []) 0x200).get {} 768).u.find 4 = some { kind := 0, val := 7 } ∧ lineWatched (wDelta []) 0x200 = false ∧
    lineWatched (wDelta [{ wSub none false with pa := 0x10000 }]) 0x200 = true ∧
    ((lineState (wHold [(768, { v := 3 })]) 0x200).find 768).isSome = true ∧ Config.isShading 3 = true := by decide +kernel

/-- The codes of a block of zeros, and of one whose 4-byte elements lie near one base. -/
theorem test_block_codes : bdiCode 0 = 1 ∧ bdiCode (ofBytes ((List.range 32).flatMap fun i => toBytes 4 (0x11223344 + i))) = 6 := by decide +kernel


/-- Die 3 at a tick, and bank groups of its Larder in refresh. -/
def wTick (k : Nat) (l : List Nat) : State := { State.reset with now := 42 * k, dies := [(3, { refresh := l })] }

theorem refreshing (k : Nat) (l : List Nat) : (die (wTick k l) 3).refresh = l := rfl

theorem refresh_at (k : Nat) (l : List Nat) (hk : k < 10000) :
    refreshDue (wTick k l) 3 0 = decide ((k + 12800 - Config.lrphase 3 - 800 * 0) % 6400 < 200) := by
  have h : timer (wTick k l) = k := by
    show 42 * k / 42 % 2 ^ 64 = k
    rw [Nat.mul_div_cancel_left _ (by decide), Nat.mod_eq_of_lt (by omega)]
  unfold refreshDue
  rw [h]

/-- A time in the refresh window of bank group 0, whatever the phase of the Larder, and one after it. -/
theorem wit_Coherence_refresh :
    refreshDue (wTick (Config.lrphase 3) []) 3 0 = true ∧ 0 ∉ (die (wTick (Config.lrphase 3) []) 3).refresh ∧
    refreshDue (wTick (Config.lrphase 3 + 300) [0]) 3 0 = false ∧ 0 ∈ (die (wTick (Config.lrphase 3 + 300) [0]) 3).refresh := by
  have h : Config.lrphase 3 < 6400 := Nat.mod_lt _ (by decide)
  rw [refresh_at (Config.lrphase 3) [] (Nat.lt_trans h (by decide)), refresh_at (Config.lrphase 3 + 300) [0] (Nat.lt_of_lt_of_le (Nat.add_lt_add_right h 300) (by decide)),
    refreshing, refreshing]
  generalize Config.lrphase 3 = x at h ⊢
  refine ⟨by simp only [decide_eq_true_eq]; omega, by decide, ?_, by decide⟩
  rw [show x + 300 + 12800 - x - 800 * 0 = 13100 by omega]
  rfl

/-- A window of the host over page 1, and a page of 0x10000 mapped for partition 1 at level 2 from its pool. -/
def wHostWin : State := { State.reset with dreg := [(dregKey 0 0x4000, 0x10000), (dregKey 0 0x4008, 0x10001)] }
def tHost : Tgt := { loc := .phys 0x10000, pte := 0, tlb := none }

/-- The die that holds that page is quarantined. -/
def wHostGone : State := { wHostWin with dreg := (dregKey 0 0x18, BitVec.ofNat 64 (2 ^ hbmDie 0x10000)) :: wHostWin.dreg }
/-- Two accesses of control context 0 to one peer port. -/
def wPeers : State := { State.reset with peerOut := [{ id := 5, port := 2, part := 1, ag := some (.control 0) }, { id := 6, port := 2, part := 1, ag := none }] }

theorem wit_Host :
    0x10000 % 64 = 0 ∧ 0x10000 < hbmBytes ∧ areaGone State.reset 0x10000 = false ∧ inHostWindow State.reset 0x10000 64 = false ∧
    areaGone wHostWin 0x10000 = false ∧ inHostWindow wHostWin 0x10000 64 = true ∧ HostTarget wHostWin 0x10000 64 true false tHost ∧
    HostTarget wHostWin 0x10000 64 true true tHost ∧ inHostWindow wHostGone 0x10000 64 = true ∧
    (0x10000 % 64 + [(7 : Byte)].length ≤ 64 ∧ inHostWindow State.reset 0x10000 [(7 : Byte)].length = false ∧
      inHostWindow wHostWin 0x10000 [(7 : Byte)].length = true) ∧ HostTarget wHostWin 0x10000 [(7 : Byte)].length false true tHost ∧
    (∀ m ∈ State.reset.cohMsgs, m.line ≠ lineOf 0x2000000000000) ∧ area 0x2000000000000 = .host ∧ area (lineOf 0x2000000000000 * 128) = .host ∧
    (wPeers.peerOut.find? (fun x => x.id == 5)).any (fun x => wPeers.peerOut.find? (fun y => y.port == x.port) == some x) = true ∧
    (wPeers.peerOut.find? (fun x => x.id == 6)).any (fun x => wPeers.peerOut.find? (fun y => y.port == x.port) != some x) = true := by decide +kernel

theorem wit_Host_gone : areaGone wHostGone 0x10000 = true := by decide +kernel


/-- A 2^29-byte page of HBM in the tables of partition 1. -/
def wPeer : State :=
  { State.reset with
    pools := [(1, { base := 0x100000, count := 2 })],
    mem := [(0x100000, 1), (0x100002, 0x11), (0x110000, 0xDF), (0x110001, 1), (0x110007, 0x40)] }

/-- The same with a page of the Larder of die 3. -/
def wPeerLarder : State :=
  let v := 0x40000000000001DF + larderBase + 3 * 2 ^ 30
  { wPeer with mem := [(0x100000, 1), (0x100002, 0x11)] ++ ((List.range 8).map fun k => (0x110000 + k, BitVec.ofNat 8 (v / 256 ^ k))).filter (·.2 != 0) }

theorem wit_Host_peer_larder :
    leavesTo wPeerLarder (0x80000001 % 64) (larderBase + 3 * 2 ^ 30 + 8) = [(2, 0x40000000000001DF + larderBase + 3 * 2 ^ 30)] ∧
    pteSlm (0x40000000000001DF + larderBase + 3 * 2 ^ 30) = 0 ∧ area (larderBase + 3 * 2 ^ 30 + 8) = .larder 3 8 ∧ (larderBase + 3 * 2 ^ 30) % 65536 = 0 ∧
    areaGone wPeerLarder (larderBase + 3 * 2 ^ 30 + 8) = false := by decide +kernel

/-- A write, a read, an atomic and a compare and swap whose compare fails of a peer. -/
theorem wit_Host_peer :
    bitAt 0x80000001 31 = true ∧ bitAt 1 31 = false ∧ (1 * 65536 + 8 + 8 - 1) / 65536 ≤ 1 ∧ 0 < (1 * 65536 + 8 + 8 - 1) / 65536 ∧
    leavesTo wPeer (0x80000001 % 64) (1 * 65536 + 8) = [(2, 0x40000000000001DF)] ∧ pteSlm 0x40000000000001DF = 0 ∧ area (1 * 65536 + 8) = .hbm ∧
    areaGone wPeer (1 * 65536 + 8) = false ∧
    physTarget wPeer (0x80000001 % 64) (1 * 65536 + 8) 8 true true 0x40000000000001DF = .ok { loc := .phys 0x10008, pte := 0x40000000000001DF, tlb := none } ∧
    peerForm 8 0 8 = true ∧ peerForm 8 1 8 = true ∧ peerForm 8 2 8 = true ∧ peerForm 8 16 16 = true ∧ peerWidth 14 16 = 8 ∧
    peerAtomic 0 8 3 4 = some 7 ∧ peerAtomic 14 8 3 4 = none := by
  decide +kernel

/-! Boot and reliability -/

theorem wit_Boot :
    ((ctl State.reset 0).run = true ∧ bootStat State.reset = 0 ∧ State.reset.bootDead = false ∧ ([] : List Byte).length ≤ 0x3FF000 ∧
      0x1000 + imageWord [] 8 ≤ 0x3FF000) ∧
    ((List.replicate 32 (0 : Byte)).length = 32 ∧ 0x10000 % 4096 = 0 ∧ ∃ x ∈ shadingDies State.reset, dregGet State.reset x 0x140 % 2 = 0) ∧
    (∀ x ∈ shadingDies { State.reset with dreg := (shadingDies State.reset).map fun d => (dregKey d 0x140, 1) },
      dregGet { State.reset with dreg := (shadingDies State.reset).map fun d => (dregKey d 0x140, 1) } x 0x140 % 2 = 1) ∧
    0x3FF000 < Max.max (List.replicate 12 (0xFF : Byte)).length (0x1000 + imageWord (List.replicate 12 0xFF) 8) := by
  decide +kernel


/-- A workgroup on a die in use, a soft error recorded twice, a spare row being copied. -/
def wSoft : State := { State.reset with ras := [{ die := 3, loc := 8, times := [0, 0], noSpare := false }] }

def wReset3 : State := { State.reset with dreg := [(dregKey 3 0x80, 3)] }

theorem wit_Reliability :
    quarantined State.reset (3 + 1) = false ∧ area 0x10000 = .hbm ∧ area (larderBase + 3 * 2 ^ 30) = .larder 3 0 ∧ diePresent State.reset 3 = true ∧
    lasting (putLoc (rasCount State.reset 3 32 32) (trackLoc State.reset 3 8)) (trackLoc State.reset 3 8) = false ∧
    lasting (putLoc (rasCount wSoft 3 32 32) (trackLoc wSoft 3 8)) (trackLoc wSoft 3 8) = true ∧
    wg? (wVec 0) 0 = some wGroup ∧ 4 < wGroup.spadLen ∧ thread? (wVec 0) 0 0 = some wThread ∧ 95 < wThread.allot ∧
    (3, 8) ∈ ({ State.reset with spares := [(3, 8)] } : State).spares ∧ bitAt (dregGet wReset3 3 0x80) 0 = true ∧
    bitAt (dregGet wReset3 3 0x80) 1 = true ∧ dieInUse wReset3 3 = false ∧ dieInUse { wReset3 with preg := [(pregKey 1 0x418, 1)] } 3 = true ∧
    bitAt (dregGet { wReset3 with preg := [(pregKey 1 0x418, 1)] } 3 0x80) 0 = true ∧ 2 ∈ insertAsc State.reset.replays 2 ∧ 2 ∉ State.reset.replays := by
  decide +kernel

/-- Every Larder digest is valid, and the page at 0x10000 is the device's. -/
def wAttest : State := { State.reset with dreg := (shadingDies State.reset).map fun d => (dregKey d 0x140, 1), tlb := [wLeaf 9 64] }
def wReport : List Byte := report wAttest (List.replicate 32 0)

theorem report_length : wReport.length = 1536 := by
  unfold wReport report
  rw [List.length_append, List.length_take, List.length_append, List.length_replicate]
  rw [show (reportHead wAttest (List.replicate 32 0)).length = 256 by decide +kernel]
  omega

theorem wit_Attestation :
    answers? (writeParts wAttest { part := devicePart, lvl := 2, sec := true, die := 0, cid := none, wg := none, lid := 0 } 0x10000 8 wReport 192)
      (fun _ => true) = true := by
  have h : wReport = (List.range 1536).map fun k => wReport.getD k 0 := by
    apply List.ext_getElem
    · rw [report_length, List.length_map, List.length_range]
    · intro k h1 h2
      simp [List.getD_eq_getElem?_getD, List.getElem?_eq_getElem h1]
  rw [h]
  decide +kernel

/-- One act of each engine that ends in a suspension. -/
theorem wit_EngineFault :
    (copySlice (badSlice.issuer (wCopying badSlice)) badSlice.src badSlice.dst 2 (wCopying badSlice) 0).1.susp = [] ∧
    (copyElems (badCopyt.issuer (wCopying badCopyt)) (wImg 2 2 0) (wImg 2 2) 4 (wCopying badCopyt) 0).1.susp = [] ∧
    rayComes (rayResult (wRay 0x3F800000) ((wRay 0x3F800000).issuer (wRays 0x3F800000)) (wRays 0x3F800000)) (fun _ f => f == some (.xlateNp, 0)) = true ∧
    answers? (rayResult (wRay 0x3F800000) ((wRay 0x3F800000).issuer (wRays 0x3F800000)) (wRays 0x3F800000)) (fun r => r.2.susp == []) = true ∧
    (blendRun [0, 0, 0, 0] 4 (wFrags (wFrag 0 0x10100 (.blend 0 0 0 0))) (wFrag 0 0x10100 (.blend 0 0 0 0))).1.susp = [] ∧
    badComp.run (takeEngine (wQueued badComp) 768 0) 768 = .bad .xlateNp 0 ∧ ((wg? (wQueued badComp) badComp.wg).isSome = true) ∧
    (framePages (dueNow { stream := true }) (streamIssuer (dueNow { stream := true }) 1 0) (planes (((wRegs { stream := true }).put 0x10 0).put 0x20 0x8000000000000000)) 2 4).susp
      = (dueNow { stream := true }).susp := by
  decide +kernel

/-- A READ that is done, with a record or a counter that no page backs. -/
def wRecord (record counter : Nat) : PtCmd :=
  { wReadDone with img := wReadDone.img ||| BitVec.ofNat 512 (counter * 2 ^ 192) ||| BitVec.ofNat 512 (record * 2 ^ 320) }

theorem wit_EngineFault_tables :
    Posting (wTab (wRecord 16 0)) 1 (wRecord 16 0) ∧ (wRecord 16 0).shoots = false ∧ (wRecord 16 0).done = some (0, 0) ∧
    (wRecord 16 0).wrote = false ∧ (wRecord 16 0).im.raddr ≠ 0 ∧ (wRecord 0 8).im.raddr = 0 ∧ (wRecord 0 8).im.caddr ≠ 0 ∧
    writeMem (wTab (wRecord 16 0)) ((wRecord 16 0).issuer (wTab (wRecord 16 0))) 16 (toBytes 8 0 ++ toBytes 8 0) = .bad .xlateNp 16 ∧
    postAdd (wTab (wRecord 0 8)) ((wRecord 0 8).issuer (wTab (wRecord 0 8))) (wRecord 0 8).cid 8 0 = .bad .xlateNp 8 := by
  decide +kernel

/-! More of the statements' hypotheses -/

/-- The page at address 0 is walked through a poisoned entry of the master image. -/
def wBadWalk : State := poisonLine (wTab (wCmd 3 0 0 0 0)) (lineOf 0x110000)

theorem wit_AddressSpaceDivides_poison :
    walkBad wBadWalk (walkDie 0) 1 0 = true ∧ 0 % 8 = 0 ∧ 0 / 2 ^ 49 = (if 0 / 2 ^ 48 % 2 = 1 then 2 ^ 15 - 1 else 0) ∧
    walkBad (wTab (wCmd 3 0 0 0 0)) (walkDie 0) 1 0 = false := by decide +kernel

/-- Each shape of form with a read-only register as its destination. -/
theorem wit_FailedChecks_shapes :
    ∀ fm ∈ [dab 112 17 18, mab 112 17 18, da 112 17, { dab 112 17 18 with need := .vector }, { mab 112 17 18 with need := .vector },
      { ops := [opWp 112, opRp 18, opRp 20], need := .vector }, { ops := [opW 112, opRp 18, opRp 20], need := .vector },
      { ops := [opWp 112, opRp 18, opR 17], need := .vector }],
      canRun (wVec 0) = true ∧ (checkForm (wVec 0) fm).isSome = true := by decide +kernel

/-- A vector thread of level 0 and of level 2. -/
theorem wit_Privilege_vector :
    canRun (wVec 0) = true ∧ isVector (wVec 0) = true ∧ positionOk (wVec 0) false = true ∧ (me (wVec 0)).lvl < 1 ∧
    positionOk (wVec 0 fun g => { g with lvl := 2 }) false = true ∧ 2 ≤ (me (wVec 0 fun g => { g with lvl := 2 })).lvl ∧
    (ops3 16 17 18).all (opFieldOk true) = true ∧ (ops2 16 17).all (opFieldOk true) = true := by decide +kernel

/-- An older fault of the core waits for a record. -/
theorem wit_CoreFault_stalls :
    (coreAt (wVec 0) 768).stalls = [] ∧ (coreAt (updCore (wVec 0) 768 fun c => { c with stalls := [wHeld] }) 768).stalls ≠ [] ∧
    runPlace (updCore (wVec 0) 768 fun c => { c with stalls := [wHeld] }) 0 0 = some (768, 0) := by decide +kernel

/-- LOADT of an image in the page at 0x10000 and of one without a page, and a record of a failed entry. -/
def wFailedEntry (b : Word64) : State :=
  updCore (wFaulted 0x03000200 b) 768 fun c => { c with vrec := [(0, { gen := 1, held := some { wHeld with ts := [] } })] }

theorem wit_Recovery_image :
    (readR (wFaulted 0x03000200 0x10002) 18).toNat % 64 = 2 ∧ Privileged (wFaulted 0x03000200 0x10002) (ops3 16 17 18) 1 ∧
    named (wFaulted 0x03000200 0x10002) (readR (wFaulted 0x03000200 0x10002) 17).toNat = some (.vector 768 0 wHeld) ∧
    answers? (readMem (wFaulted 0x03000200 0x10002) (me (wFaulted 0x03000200 0x10002)) 0x10000 64) (fun _ => true) = true ∧
    readMem (wFaulted 0x03000200 3) (me (wFaulted 0x03000200 3)) 0 64 = .bad .xlateNp 0 ∧
    named (wFailedEntry 0) (readR (wFailedEntry 0) 17).toNat = some (.vector 768 0 { wHeld with ts := [] }) ∧
    (Named.vector 768 0 { wHeld with ts := [] }).part (wFailedEntry 0) = some (namedPart (wFailedEntry 0)) ∧
    Privileged (wFailedEntry 1) (ops3 16 17 18) 1 ∧ (readR (wFailedEntry 1) 18).toNat % 64 = 1 := by decide +kernel

theorem wit_Table_sound :
    (EntryAt (wTab (wCmd 2 3 0 0 0)) 1 2 (wCmd 2 3 0 0 0) 0x120000 ∧ linePoisoned (wTab (wCmd 2 3 0 0 0)) (lineOf 0x120000) = false ∧
      poolPoisoned (wTab (wCmd 2 3 0 0 0)) (pool (wTab (wCmd 2 3 0 0 0)) 1) = false) ∧
    (let s := poisonLine (wTab (wCmd 2 3 0 0 0)) (lineOf 0x120000)
     EntryAt s 1 2 (wCmd 2 3 0 0 0) 0x120000 ∧ linePoisoned (applyReports s 1) (lineOf 0x120000) = true ∧ poolPoisoned s (pool s 1) = true) := by decide +kernel

/-- The second half of a quantum boundary, and a placement that a GROW of the same raw cycle puts off. -/
def wSecondHalf : State := setPart wQuantum 1 { part wQuantum 1 with half := true }

/-- A swap whose victim has ended, with a saved workgroup to swap in; and the same with die 3 tripped. -/
def wEndedVictim : State := setPart (wHome wAway) 1 { part (wHome wAway) 1 with victim := some 7, candWgs := [0] }
def aVecPost : Post := { aPost with src := 768 }
def tripNine (s : State) : State := { s with dies := [(9, { tripped := true })] }
def tripAll (s : State) : State := { s with dies := [(3, { tripped := true })] }

theorem wit_Save_moves :
    moveWaits (wHome (wSaving true)) (wHome wAway) 0 .slice = false ∧ moveWaits (wHome (wSaving true)) (tripAll (wHome wAway)) 0 .depart = true ∧
    crossHeld (wHome wAway) (cidDie 768) = false ∧ restoreWaits (wHome wAway) 0 none = false ∧ restoreWaits (tripAll (wHome wAway)) 0 none = true ∧
    (∀ k ∈ [ItemKind.push 3, .release 3], arrives wDrained (itemMsg wDrained { cid := 768, wg := 0, kind := k }) = true ∧
      arrives (tripAll wDrained) (itemMsg (tripAll wDrained) { cid := 768, wg := 0, kind := k }) = false) := by decide +kernel

/-- A table command's partition has an access to a peer on its way; a report waits for a tripped die and for a row that is copied. -/
theorem wit_Table_waits :
    (∃ x ∈ ({ wTab wFlushed with peerOut := [{ id := 5, port := 2, part := 1, ag := none }] } : State).peerOut, x.part = wFlushed.part) ∧
    (∀ x ∈ (wTab wFlushed).peerOut, x.part ≠ wFlushed.part) ∧ someHeld (tripAll (wTab wFlushed)) = true ∧ someHeld (wTab wFlushed) = false ∧
    crossHeld (wTab wFlushed) 3 = false ∧ walkWaits (wTab wFlushed) 3 1 0 = false ∧ walkWaits (wTab wFlushed) 0 1 0 = false ∧
    walkWaits (tripNine (wTab wFlushed)) 0 1 0 = true ∧ walkWaits wBadWalk 0 1 0 = false ∧
    Memory.wf (wTab wFlushed).mem = true ∧ Memory.wf (wTab wFlushed).tbl = true ∧ linePoisoned (wTab wFlushed) (lineOf aReport.addr) = false ∧
    linePoisoned (poisonLine (wTab wFlushed) (lineOf aReport.addr)) (lineOf aReport.addr) = true := by decide +kernel

theorem wit_Table_copying :
    rowCopying (wTab wFlushed) aReport.addr = false ∧
    rowCopying { wTab wFlushed with spares := [(hbmDie aReport.addr, 4 * Config.rowOf 0 (hbmOffset aReport.addr * 8 + hbmStack aReport.addr))] } aReport.addr = true := by
  have h : area aReport.addr = .hbm := by decide
  constructor <;> simp [rowCopying, rowPlace, h, wTab, State.reset]

/-- A post of a relocking or tripped die, and one with an older fault of its source before it. -/
theorem wit_FaultLog_waits :
    aPost.crossing wLog = false ∧ aVecPost.crossing (tripAll wLog) = true ∧
    firstOfSource { wLog with posts := [aPost, { aPost with id := 6, ord := 1 }] } { aPost with id := 6, ord := 1 } = false := by decide +kernel

/-- A point in force, a gated region, a point unnamed (7) and all core groups. -/
theorem wit_Power_states :
    (∀ p ∈ [0, 1, 5, 7], ∀ st < 4, p + 16 * st < 2 ^ 16 ∧ p < 8 ∧ p ≠ 6) ∧ diePresent State.reset (0x3FF / 256) = true ∧ 0x3FF % 256 = 0xFF ∧
    (∀ g ∈ List.range (Config.coreGroups 3), gateRefused State.reset 3 g = false) ∧ gateRefused (wDm 0x300 0x25) 3 0 = true ∧
    (die (wRelock 0) 3).relock ≠ none ∧ csrGet (wDm 0x300 0) 0x501 0 % 2 = 0 ∧ (die (tripAll (wDm 0x300 0)) 3).tripped = true := by decide +kernel

/-- WGLOAD of a workgroup in a save, after a GROW of the same raw cycle and toward a die that has tripped. -/
theorem wit_WorkgroupForm_waits :
    (wSaving false).saving.isSome = true ∧ growing (wPm 0 0xFFFF wSaved) = false ∧ restoreWaits (wPm 0 0xFFFF wSaved) 0 none = false ∧
    growing (updCore (wPm 0 0xFFFF wSaved) 768 fun c => { c with growRaw := some (coreRaw (wPm 0 0xFFFF wSaved) 768) }) = true ∧ 2 ^ 16 ≤ (readR (wPm 0 0x10000) 18).toNat ∧
    freeSaveSlot { wPm 0 0xFFFF with launches := [wLaunch] } wLaunch false = none ∧
    (startSave { wPm 0 0xFFFF with launches := [wSaver] } 0 (slotVa wSaver 0) (some 0) (.migrate 0xFFFF)).2 = false := by decide +kernel

/-- The context's set was in a slot that a poisoned block took. -/
def wLost : State := wScr fun g => { withTiles g with ctx := g.ctx.map fun c => { c with bad := some .poison } }

theorem wit_Flag_lost :
    (ctxOf (withSet wMat 0) 0).bad = none ∧ (ctxOf (withSet wLost 0) 0).bad = some .poison ∧ inCtx wLost 0 = true ∧
    Passes wLost { ops := [opW 16], lits := [(3, 4)], need := .matrix } := by decide +kernel

theorem wit_Save_half :
    swapOpen wQuantum 1 = false ∧ swapOpen wSecondHalf 1 = true ∧ firstCand (candidates wSecondHalf 1) = none ∧ swapOpen wEndedVictim 1 = true ∧
    (firstCand (candidates wEndedVictim 1)).any (fun c => !candWaits wEndedVictim 1 c) = true ∧
    (firstCand (candidates (tripAll wEndedVictim) 1)).any (candWaits (tripAll wEndedVictim) 1) = true ∧ growing wSecondHalf = false ∧ growing (wHome (wSaving true)) = false ∧
    growing (wHome wAway) = false ∧ wQuantum.spoiled = [] ∧ (wAsk true).goal ≠ .form := by decide +kernel

/-- A data reply toward die 3 that has not moved for longer than DLTO. -/
def wStuck : State := { wHold [] [wReply] with now := 42 * 1000000 }

theorem wit_Reliability_fabric :
    stalled wStuck 2 1 = true ∧ (∀ k < 6, classRank k < classRank 1 → stalled wStuck 2 k = false) ∧ stalled (wHold [] [wReply]) 2 1 = false ∧
    4 < 5 ∧ area 0x10000 ≠ .hole ∧ dieInUse State.reset 3 = false ∧ bitAt 1 0 = true := by decide +kernel

/-- A plane at address 0, which no page backs, and one in the page at 0x10000 toward which a push is under way. -/
def planeAt (a : Word64) : SMap Word64 := ((wRegs { stream := true }).put 0x10 a).put 0x20 0x8000000000000000

theorem wit_Display_planes :
    frameColours (dueNow { stream := true }) (streamIssuer (dueNow { stream := true }) 1 0) (planes (planeAt 0)) 2 4 4 = .bad .xlateNp 0 ∧
    frameColours { dueNow { stream := true } with subs := wPushed.subs } (streamIssuer (dueNow { stream := true }) 1 0) (planes (planeAt 0x10100)) 2 4 4
      = .wait := by decide +kernel

theorem wit_Registers_boot : State.reset.bootDead = false ∧ ({ State.reset with bootDead := true } : State).bootDead = true ∧ diePresent State.reset 0 = true := by
  decide +kernel

/-! Results, calculated by hand from the rules -/

/-- An instruction of the thread, with words 0 to 2 of its bank given, leaves a value in word 2. -/
def leaves (i : Instr) (a b d v : Word32) : Bool :=
  answersNext (exec i (wVec 0 fun g => { g with threads := [(0, { wThread with v := [(0, a), (1, b), (2, d)] })] })) fun t =>
    (thread? t 0 0).any fun th => th.v.get 0 2 == v

theorem test_add_wraps : leaves (.add 18 16 17) 0xFFFFFFFF 2 0 1 = true := by decide +kernel
theorem test_adds_saturates : leaves (.adds 18 16 17) 0x7FFFFFFF 1 0 0x7FFFFFFF = true := by decide +kernel
theorem test_mulh_signed : leaves (.mulh 18 16 17) 0xFFFFFFFF 2 0 0xFFFFFFFF = true := by decide +kernel
theorem test_div_by_zero : leaves (.div 18 16 17) 7 0 0 0xFFFFFFFF = true := by decide +kernel
theorem test_rem_sign : leaves (.rem 18 16 17) 0xFFFFFFF9 2 0 0xFFFFFFFF = true := by decide +kernel
theorem test_shl_counts_mod_width : leaves (.shl 18 16 17) 1 33 0 2 = true := by decide +kernel
theorem test_sel_takes_b_at_zero : leaves (.sel 18 16 17) 3 4 0 4 = true := by decide +kernel
theorem test_clz : leaves (.clz 18 16) 0x00010000 0 0 15 = true := by decide +kernel
theorem test_bfx_sign_extends : leaves (.bfx 18 16 17) 0x80 0x304 0 0xFFFFFFF8 = true := by decide +kernel
theorem test_fadd : leaves (.fadd 18 16 17) 0x3F800000 0x40000000 0 0x40400000 = true := by decide +kernel
theorem test_fmul_rounds_even : leaves (.fmul 18 16 17) 0x3F800001 0x3F800001 0 0x3F800002 = true := by decide +kernel
theorem test_fsqrt : leaves (.fsqrt 18 16) 0x40800000 0 0 0x40000000 = true := by decide +kernel
theorem test_fmin_drops_nan : leaves (.fmin 18 16 17) 0x7FC00000 0x3F800000 0 0x3F800000 = true := by decide +kernel

end Slice0Tests
end

section
/-! SUPPORT. The reset tables, the register window, the allotment and the counters (R6, R67-R70, R81, R82, R140, R209, R211). -/

namespace Sys2Proof.Laws

open Sys2Proof Sys2Proof.Machine Sys2Proof.Claims

/-- Settles O7: the reset tables list no byte. -/
theorem resetMemoryCanonical : Obligations.ResetMemoryCanonical := ⟨rfl, rfl, rfl⟩

/-- A key at or above a bound reads as the default once a table keeps the keys below the bound only. -/
theorem get_filter_lt {α : Type} (d : α) (m : SMap α) {n k : Nat} (h : n ≤ k) : SMap.get d (m.filter (·.1 < n)) k = d := by
  suffices hf : SMap.find (m.filter (·.1 < n)) k = none by simp [SMap.get, hf]
  induction m with
  | nil => rfl
  | cons e m ih =>
    by_cases he : e.1 < n
    · have hne : e.1 ≠ k := by omega
      simpa [he, SMap.find, hne] using ih
    · simpa [he] using ih

/-- The workgroup of an executing thread. -/
theorem curWg_vthread {s : State} {w t : Nat} {g : Workgroup} (hc : s.cur = .vthread w t) (hg : wg? s w = some g) : curWg s = some (w, g) := by
  simp [curWg, hc, hg]

/-- SETWB by the value of its operand. -/
theorem setwb_passed {s : State} {a : Field} {w t : Nat} (h : Passes s (vec [opR a])) (hc : s.cur = .vthread w t) :
    exec (.setwb a) s = if (readR s a).toNat % 8 = 0 ∧ (readR s a).toNat ≤ 248 then
        .next (advance (updThread s w t fun th => { th with wbase := (readR s a).toNat }))
      else .next (raiseState .regbound 0 0 s) := by
  obtain ⟨hr, hf⟩ := h
  change execSetwb a s = _
  rw [execSetwb, show ({ ops := [opR a], need := .vector } : Form) = vec [opR a] from rfl, guarded_passed hr hf]
  simp only [hc, done_next, raise_next]

/-- GROW by the value of its operand and the free words of the lane's bank. -/
theorem grow_passed {s : State} {d a : Field} {w t : Nat} {g : Workgroup} {th : Thread} (h : Passes s (vec [opW d, opR a]))
    (hc : s.cur = .vthread w t) (hg : wg? s w = some g) (ht : thread? s w t = some th) :
    exec (.grow d a) s = if (readR s a).toNat % 8 = 0 ∧ th.allot ≤ (readR s a).toNat ∧ (readR s a).toNat ≤ 256 then
        if (readR s a).toNat - Max.max th.allot g.a ≤ bankFree s (g.cid?.getD 0) (t % 32) then
          writes (updThread (noteGrow s (g.cid?.getD 0) (Max.max th.allot g.a) (readR s a).toNat) w t fun x =>
            { x with v := x.v.filter (·.1 < th.allot), bad := x.bad.filter (· < th.allot), allot := (readR s a).toNat })
            d (BitVec.ofNat 64 (readR s a).toNat)
        else writes s d 0
      else .next (raiseState .regbound 0 0 s) := by
  obtain ⟨hr, hf⟩ := h
  change execGrow d a s = _
  rw [execGrow, show ({ ops := [opW d, opR a], need := .vector } : Form) = vec [opW d, opR a] from rfl, guarded_passed hr hf]
  simp only [hc, curWg_vthread hc hg, ht, Option.map_some, Option.getD_some, done_next, raise_next, writes, noteGrow]

/-- SHRINK by the value of its operand. -/
theorem shrink_passed {s : State} {a : Field} {w t : Nat} {th : Thread} (h : Passes s (vec [opR a])) (hc : s.cur = .vthread w t)
    (ht : thread? s w t = some th) :
    exec (.shrink a) s = if (readR s a).toNat % 8 = 0 ∧ 8 ≤ (readR s a).toNat ∧ (readR s a).toNat ≤ th.allot then
        .next (advance (updThread s w t fun x => { x with
          v := x.v.filter (·.1 < (readR s a).toNat), bad := x.bad.filter (· < (readR s a).toNat), allot := (readR s a).toNat }))
      else .next (raiseState .regbound 0 0 s) := by
  obtain ⟨hr, hf⟩ := h
  change execShrink a s = _
  rw [execShrink, show ({ ops := [opR a], need := .vector } : Form) = vec [opR a] from rfl, guarded_passed hr hf]
  simp only [hc, ht, Option.map_some, Option.getD_some, done_next, raise_next]

theorem windowResults : Claims.WindowResults := by
  refine ⟨fun a s w t h hc => ⟨fun h8 hn => ?_, fun hn => ?_⟩,
    fun d a s w t g th n h hc hg ht e h8 hlo hhi => ⟨fun hfree => ?_, fun hfree => ?_, fun k hk => get_filter_lt 0 th.v hk⟩,
    fun d a s w t g th n h hc hg ht e hn => ?_,
    fun a s w t th n h hc ht e => ⟨fun h8 hlo hhi => ?_, fun hn => ?_⟩⟩
  · rw [setwb_passed h hc, if_pos ⟨h8, hn⟩]
  · rw [setwb_passed h hc, if_neg (by omega)]
  · subst e
    rw [grow_passed h hc hg ht, if_pos ⟨h8, hlo, hhi⟩, if_pos hfree]
  · subst e
    rw [grow_passed h hc hg ht, if_pos ⟨h8, hlo, hhi⟩, if_neg (Nat.not_le.2 hfree)]
  · subst e
    rw [grow_passed h hc hg ht, if_neg (by omega)]
  · subst e
    rw [shrink_passed h hc ht, if_pos ⟨h8, hlo, hhi⟩]
  · subst e
    rw [shrink_passed h hc ht, if_neg (by omega)]

/-- RDLRW at an address whose one-byte load resolves. -/
theorem rdlrw_resolved {s : State} {d a : Field} {t : Tgt} (h : Passes s { ops := [opWp d, opRp a] }) (ht : Reads s (readP s a).toNat 1 t) :
    exec (.rdlrw d a) s = writes2 (noteLeaf s (me s) (readP s a).toNat) d (BitVec.ofNat 64 (lrwValue s (me s) (readP s a).toNat)) := by
  obtain ⟨hr, hf⟩ := h
  have ht' : resolve s (issuer s s.cur) { va := (readP s a).toNat, size := 1, rd := true } = .ok t := ht
  change execRdlrw d a s = _
  rw [execRdlrw, guarded_passed hr hf]
  simp only [ht', done_next, writes2, me]

/-- A number brought up to the next one, above it, of a residue modulo m. -/
theorem next_congruent (c n m : Nat) (hm : 0 < m) :
    (n + (c % m + m - n % m) % m) % m = c % m := by
  have hn := Nat.mod_lt n hm
  rw [Nat.add_mod_mod, ← Nat.mod_add_mod, show n % m + (c % m + m - n % m) = c % m + m by omega, Nat.add_mod_right, Nat.mod_mod]

/-- The next window opens within 6,400 ticks, at the phase of the bank group (R139, R140). -/
theorem nextWindow_spec (die g now : Nat) : now < nextWindow die g now ∧ nextWindow die g now ≤ now + 6400
    ∧ nextWindow die g now % 6400 = (Config.lrphase die + 800 * g) % 6400 := by
  refine ⟨?_, ?_, next_congruent _ _ _ (by decide)⟩ <;> simp only [nextWindow] <;> omega

theorem timeResults : Claims.TimeResults := by
  refine ⟨fun d s h => ?_, fun d a s t h ht => rdlrw_resolved h ht, nextWindow_spec⟩
  obtain ⟨hr, hf⟩ := h
  refine ⟨?_, ?_, ?_⟩
  · change execRdtime d s = _
    rw [execRdtime, guarded_passed hr hf, done_next, writes2]
  · change execRdcyc d s = _
    rw [execRdcyc, guarded_passed hr hf, done_next, writes2]
  · change execRdncyc d s = _
    rw [execRdncyc, guarded_passed hr hf, done_next, writes2]

/-- Settles O35: each form with its checks passed is its own effect, which the value of its operand decides. -/
theorem windowAndTimeResults : Obligations.WindowAndTimeResults := ⟨windowResults, timeResults⟩

end Sys2Proof.Laws
end

section
/-! SUPPORT. That memory stays in canonical form (log 3): the predicates, and the rules for the shapes that operations are built of.

Of each operation one lemma says what it does to memory. An operation that leaves memory alone has `<operation>_mem`; one that may write it has
`<operation>_wf`: from a state whose memory is in form to one whose memory is. What gives a `Result` has its `_wf` as `ResWf`. -/

namespace Sys2Proof.Laws

open Sys2Proof Sys2Proof.Machine

/-- Memory is in canonical form. -/
abbrev MemWf (s : State) : Prop := Memory.wf s.mem = true

theorem MemWf.of_mem {s t : State} (hs : MemWf s) (h : t.mem = s.mem) : MemWf t := by
  rwa [MemWf, h]

theorem MemWf.ite {c : Prop} [Decidable c] {s t : State} (hs : MemWf s) (ht : MemWf t) : MemWf (if c then s else t) := by
  split <;> assumption

/-- A next state, where there is one, has its memory in canonical form. -/
def ResWf (r : Result) : Prop := ∀ t, r = .next t → MemWf t

@[simp] theorem resWf_next {s : State} : ResWf (.next s) ↔ MemWf s :=
  ⟨fun h => h s rfl, fun h t e => by cases e; exact h⟩

@[simp] theorem resWf_fault {f : Fault} : ResWf (.fault f) := fun _ e => by cases e

theorem ResWf.ite {c : Prop} [Decidable c] {r q : Result} (hr : ResWf r) (hq : ResWf q) : ResWf (if c then r else q) := by
  split <;> assumption

theorem foldl_mem {α : Type} {f : State → α → State} (h : ∀ s x, (f s x).mem = s.mem) (l : List α) (s : State) :
    (l.foldl f s).mem = s.mem :=
  List.foldlRecOn (motive := fun t => t.mem = s.mem) l f rfl fun t ht x _ => (h t x).trans ht

theorem foldl_wf {α : Type} {f : State → α → State} (h : ∀ s x, MemWf s → MemWf (f s x)) (l : List α) {s : State} (hs : MemWf s) :
    MemWf (l.foldl f s) :=
  List.foldlRecOn (motive := MemWf) l f hs fun t ht x _ => h t x ht

theorem bind_ok {α β : Type} {x : Out α} {f : α → Out β} {b : β} (h : x.bind f = .ok b) : ∃ a, x = .ok a ∧ f a = .ok b := by
  cases x with
  | ok a => exact ⟨a, rfl, h⟩
  | bad c v => cases h
  | wait => cases h

theorem run_next {α : Type} {x : Out α} {s t : State} {k : α → Result} (h : x.run s k = .next t) :
    (∃ a, x = .ok a ∧ k a = .next t) ∨ (∃ c v, t = raiseState c v 0 s) ∨ t = s := by
  cases x with
  | ok a => exact .inl ⟨a, rfl, h⟩
  | bad c v => cases h; exact .inr (.inl ⟨c, v, rfl⟩)
  | wait => cases h; exact .inr (.inr rfl)

end Sys2Proof.Laws
end

section
/-! SUPPORT. Memory's form under the operations of Machine/Ops.lean, in their order. -/

namespace Sys2Proof.Laws

open Sys2Proof Sys2Proof.Machine

@[simp] theorem resWf_off {s : State} : ResWf (off s) ↔ MemWf s := resWf_next

@[simp] theorem updWg_mem (s : State) (w : Nat) (f : Workgroup → Workgroup) : (updWg s w f).mem = s.mem := by
  unfold updWg
  split <;> simp

@[simp] theorem updThread_mem (s : State) (w t : Nat) (f : Thread → Thread) : (updThread s w t f).mem = s.mem := by
  simp [updThread]

@[simp] theorem updCtx_mem (s : State) (w : Nat) (f : Ctx → Ctx) : (updCtx s w f).mem = s.mem := by
  simp [updCtx]

@[simp] theorem setMatQueue_mem (s : State) (cid : Nat) (q : List MatOp) : (setMatQueue s cid q).mem = s.mem := by
  simp [setMatQueue]

@[simp] theorem writeV_mem (s : State) (w t f : Nat) (v : Word32) : (writeV s w t f v).mem = s.mem := by
  grind [writeV, updCore_mem, updThread_mem]

@[simp] theorem writeS_mem (s : State) (w f : Nat) (v : Word64) : (writeS s w f v).mem = s.mem := by
  unfold writeS
  split <;> simp

@[simp] theorem writeC_mem (s : State) (n f : Nat) (v : Word64) : (writeC s n f v).mem = s.mem := by
  unfold writeC
  split <;> simp

@[simp] theorem writeRA_mem (s : State) (a : Agent) (f : Nat) (v : Word64) : (writeRA s a f v).mem = s.mem := by
  unfold writeRA
  split <;> simp

@[simp] theorem writeR_mem (s : State) (f : Field) (v : Word64) : (writeR s f v).mem = s.mem := by
  simp [writeR]

@[simp] theorem writePA_mem (s : State) (a : Agent) (f : Nat) (v : Word64) : (writePA s a f v).mem = s.mem := by
  unfold writePA
  grind [writeV_mem, writeRA_mem]

@[simp] theorem writeP_mem (s : State) (f : Field) (v : Word64) : (writeP s f v).mem = s.mem := by
  simp [writeP]

@[simp] theorem writeQA_mem (s : State) (a : Agent) (f : Nat) (v : BitVec 128) : (writeQA s a f v).mem = s.mem := by
  unfold writeQA
  grind [writeV_mem, writeRA_mem]

@[simp] theorem writeQ_mem (s : State) (f : Field) (v : BitVec 128) : (writeQ s f v).mem = s.mem := by
  simp [writeQ]

@[simp] theorem setRngA_mem (s : State) (a : Agent) (g : Word32) : (setRngA s a g).mem = s.mem := by
  unfold setRngA
  split <;> simp

@[simp] theorem leaveBatch_mem (s : State) (w t : Nat) : (leaveBatch s w t).mem = s.mem := by
  unfold leaveBatch
  split <;> simp

@[simp] theorem advanceA_mem (s : State) (a : Agent) : (advanceA s a).mem = s.mem := by
  unfold advanceA
  grind [updCore_mem, updCtx_mem, updCtl_mem]

@[simp] theorem advance_mem (s : State) : (advance s).mem = s.mem := by
  simp [advance]

@[simp] theorem resWf_done {s : State} : ResWf (done s) ↔ MemWf s := by
  rw [done_next, resWf_next, MemWf, advance_mem]

@[simp] theorem countStale_mem (s : State) (cid n : Nat) : (countStale s cid n).mem = s.mem := by
  simp [countStale]

@[simp] theorem addPostAt_mem (s : State) (log src ord : Nat) (ws : List Word32) : (addPostAt s log src ord ws).mem = s.mem := by
  simp [addPostAt]

@[simp] theorem addPost_mem (s : State) (log src : Nat) (ws : List Word32) : (addPost s log src ws).mem = s.mem := by
  simp [addPost]

@[simp] theorem postKind3_mem (s : State) (p lvl : Nat) (sec : Bool) (c : Cause) (lid wid faddr : Nat) (info : Word64) :
    (postKind3 s p lvl sec c lid wid faddr info).mem = s.mem := by
  simp [postKind3]

@[simp] theorem postKind5_mem (s : State) (p : Nat) (c : Cause) (info : Word64) : (postKind5 s p c info).mem = s.mem := by
  simp [postKind5]

@[simp] theorem waitRecord_mem (s : State) (cid : Nat) (h : Held) : (waitRecord s cid h).mem = s.mem := by
  simp [waitRecord]

@[simp] theorem takeRecord_mem (s : State) (cid k : Nat) (h : Held) : (takeRecord s cid k h).mem = s.mem := by
  unfold takeRecord
  split <;> simp

@[simp] theorem raiseThread_mem (s : State) (w t : Nat) (c : Cause) (faddr : Nat) (info : Word64) :
    (raiseThread s w t c faddr info).mem = s.mem := by
  grind [raiseThread, updThread_mem, takeRecord_mem, waitRecord_mem]

@[simp] theorem raiseScribe_mem (s : State) (w : Nat) (c : Cause) (faddr : Nat) (info : Word64) :
    (raiseScribe s w c faddr info).mem = s.mem := by
  grind [raiseScribe, updCore_mem, updCtx_mem, addPost_mem]

@[simp] theorem takeEvent_mem (s : State) (n epc ecause : Nat) (einfo : Word64) : (takeEvent s n epc ecause einfo).mem = s.mem := by
  simp [takeEvent]

@[simp] theorem stopCtl_mem (s : State) (n : Nat) : (stopCtl s n).mem = s.mem := by
  simp [stopCtl]

@[simp] theorem doubleFault_mem (s : State) (n : Nat) (c : Cause) (faddr : Nat) (info : Word64) :
    (doubleFault s n c faddr info).mem = s.mem := by
  simp [doubleFault]

@[simp] theorem raiseControl_mem (s : State) (n : Nat) (c : Cause) (faddr : Nat) (info : Word64) :
    (raiseControl s n c faddr info).mem = s.mem := by
  simp [raiseControl, apply_ite State.mem]

@[simp] theorem raiseState_mem (c : Cause) (faddr : Nat) (info : Word64) (s : State) : (raiseState c faddr info s).mem = s.mem := by
  unfold raiseState
  split <;> simp

@[simp] theorem resWf_raise {c : Cause} {f : Nat} {i : Word64} {s : State} : ResWf (raise c f i s) ↔ MemWf s := by
  rw [raise_next, resWf_next, MemWf, raiseState_mem]

theorem run_wf {α : Type} {x : Out α} {s : State} {k : α → Result} (hs : MemWf s) (hk : ∀ a, x = .ok a → ResWf (k a)) :
    ResWf (x.run s k) := by
  cases x with
  | ok a => exact hk a rfl
  | bad c v => exact resWf_raise.2 hs
  | wait => exact resWf_next.2 hs

@[simp] theorem eventReturn_mem (s : State) (n : Nat) : (eventReturn s n).mem = s.mem := by
  simp [eventReturn]

end Sys2Proof.Laws
end

section
/-! SUPPORT. Memory's form under the operations of Machine/Phys.lean, in their order. -/

namespace Sys2Proof.Laws

open Sys2Proof Sys2Proof.Machine

@[simp] theorem poisonLine_mem (s : State) (line : Nat) : (poisonLine s line).mem = s.mem := by
  unfold poisonLine
  split <;> simp

@[simp] theorem noteWrite_mem (s : State) (pa n : Nat) : (noteWrite s pa n).mem = s.mem := by
  unfold noteWrite
  split <;> simp

theorem layPut_wf {s : State} {pa : Nat} {l : List Byte} (hs : MemWf s) : MemWf (layPut s pa l) := by
  unfold layPut
  rw [MemWf, noteWrite_mem]
  exact memory_write_wf l s.mem pa hs

@[simp] theorem freeBytes_mem (s : State) (n : Nat) : (freeBytes s n).2.mem = s.mem := by
  simp [freeBytes]

@[simp] theorem physRead_mem (s : State) (pa n : Nat) : (physRead s pa n).2.mem = s.mem := by
  grind [physRead, freeBytes_mem]

@[simp] theorem recode_mem (s : State) (pa n : Nat) (cmp : Bool) : (recode s pa n cmp).mem = s.mem := by
  simp [recode, apply_ite State.mem]

@[simp] theorem recodeRange_mem (s : State) (pa n : Nat) : (recodeRange s pa n).mem = s.mem := by
  unfold recodeRange
  exact foldl_mem (fun s x => by grind [recode_mem]) _ _

theorem applyDeltas_wf {s : State} {line : Nat} {l : SMap UDelta} (hs : MemWf s) : MemWf (applyDeltas s line l) := by
  induction l generalizing s with
  | nil => exact hs
  | cons x l ih => exact ih (.of_mem (putBytes_wf _ _ _ (hs.of_mem (physRead_mem ..))) (recode_mem ..))

@[simp] theorem hostOwn_mem (s : State) (line : Nat) : (hostOwn s line).mem = s.mem := by
  simp [hostOwn]

@[simp] theorem hostShare_mem (s : State) (line : Nat) : (hostShare s line).mem = s.mem := by
  simp [hostShare]

@[simp] theorem hostPermit_mem (s : State) (line : Nat) : (hostPermit s line).mem = s.mem := by
  unfold hostPermit
  split <;> simp

theorem combine_wf {s : State} {line : Nat} (hs : MemWf s) : MemWf (combine s line) := by
  unfold combine
  dsimp only
  split
  · exact hs
  · exact .of_mem (foldl_wf (fun s x h => applyDeltas_wf h) _ (hs.of_mem (hostOwn_mem ..))) (setLine_mem ..)

@[simp] theorem touchLlc_mem (s : State) (h line : Nat) (dirty : Bool) : (touchLlc s h line dirty).mem = s.mem := by
  simp [touchLlc]

@[simp] theorem touchL2_mem (s : State) (k h line : Nat) (w d : Word32) : (touchL2 s k h line w d).mem = s.mem := by
  grind [touchL2, touchLlc_mem]

@[simp] theorem clearL2_mem (s : State) (line : Nat) (mask : Word32) (keep : Option Nat) : (clearL2 s line mask keep).mem = s.mem := by
  simp [clearL2]

@[simp] theorem recallL2_mem (s : State) (line : Nat) (mask : Word32) (keep : Option Nat) : (recallL2 s line mask keep).mem = s.mem := by
  simp [recallL2]

@[simp] theorem drainL2_mem (s : State) (die : Nat) : (drainL2 s die).mem = s.mem := by
  unfold drainL2
  exact foldl_mem (fun s x => by grind [touchLlc_mem]) _ _

@[simp] theorem drainL2Lines_mem (s : State) (pa n : Nat) : (drainL2Lines s pa n).mem = s.mem := by
  unfold drainL2Lines
  exact foldl_mem (fun s x => by grind [touchLlc_mem]) _ _

theorem writeBackLine_wf {s : State} {cid line : Nat} {drop : Bool} (hs : MemWf s) : MemWf (writeBackLine s cid line drop) := by
  grind [writeBackLine, touchLlc_mem, applyDeltas_wf, setLine_mem]

theorem makeRoom_wf {s : State} {cid line : Nat} (hs : MemWf s) : MemWf (makeRoom s cid line) := by
  grind [makeRoom, writeBackLine_wf]

theorem giveUp_wf {s : State} {key : Nat} (hs : MemWf s) : MemWf (giveUp s key) := by
  grind [giveUp, touchLlc_mem, writeBackLine_wf]

theorem disableWay_wf {s : State} {key : Nat} (hs : MemWf s) : MemWf (disableWay s key) := by
  grind [disableWay, giveUp_wf]

theorem lineRead_wf {s : State} {line : Nat} {mask : Word32} {cid : Option Nat} (hs : MemWf s) : MemWf (lineRead s line mask cid) := by
  unfold lineRead
  grind [setLine_mem, hostPermit_mem, combine_wf, makeRoom_wf, hostShare_mem]

theorem lineGrant_wf {s : State} {line : Nat} {mask dirty : Word32} {cid : Option Nat} (hs : MemWf s) :
    MemWf (lineGrant s line mask dirty cid) := by
  unfold lineGrant
  grind [setLine_mem, hostPermit_mem, hostOwn_mem, combine_wf, makeRoom_wf]

theorem lineOwn_wf {s : State} {line : Nat} {mask : Word32} {cid : Option Nat} (hs : MemWf s) : MemWf (lineOwn s line mask cid) := by
  grind [lineOwn, lineGrant_wf]

@[simp] theorem sliceLine_mem (s : State) (cid h line : Nat) : (sliceLine s cid h line).mem = s.mem := by
  simp [sliceLine]

theorem writeBackCore_wf {s : State} {cid : Nat} {drop : Bool} (hs : MemWf s) : MemWf (writeBackCore s cid drop) := by
  unfold writeBackCore
  exact foldl_wf (fun s x hs => by grind [writeBackLine_wf]) _ hs

@[simp] theorem dropL2_mem (s : State) (d : Nat) (f : L2Line → Bool) : (dropL2 s d f).mem = s.mem := by
  simp [dropL2]

theorem shareBack_wf {s : State} {d : Nat} {cids : List Nat} (hs : MemWf s) : MemWf (shareBack s d cids) := by
  have h : MemWf (cids.foldl (fun s c => writeBackCore s c true) s) := foldl_wf (fun s c h => writeBackCore_wf h) cids hs
  simpa [MemWf, shareBack] using h

@[simp] theorem spadWrite_mem (s : State) (w o : Nat) (l : List Byte) : (spadWrite s w o l).mem = s.mem := by
  simp [spadWrite]

end Sys2Proof.Laws
end

section
/-! SUPPORT. Memory's form under the operations of Machine/Registers.lean, in their order. -/

namespace Sys2Proof.Laws

open Sys2Proof Sys2Proof.Machine

theorem blockAdopt_wf {s : State} {d blk : Nat} (hs : MemWf s) : MemWf (blockAdopt s d blk) := by
  grind [blockAdopt, shareBack_wf, setCg_mem, setDie_mem]

theorem adoptIdle_wf {s : State} {d blk : Nat} (hs : MemWf s) : MemWf (adoptIdle s d blk) := by
  grind [adoptIdle, blockAdopt_wf]

theorem blocksAdopt_wf {s : State} {d : Nat} (hs : MemWf s) : MemWf (blocksAdopt s d) := by
  unfold blocksAdopt
  exact foldl_wf (fun s x hs => by grind [adoptIdle_wf]) _ hs

@[simp] theorem logWrite_mem (s : State) (log num v : Nat) : (logWrite s log num v).mem = s.mem := by
  simp [logWrite, apply_ite State.mem]

@[simp] theorem ctxcfgWrite_mem (s : State) (n v : Nat) : (ctxcfgWrite s n v).mem = s.mem := by
  simp [ctxcfgWrite, apply_ite State.mem]

theorem csrWrite_wf {s : State} {e : CsrEnv} {num v : Nat} (hs : MemWf s) : MemWf (csrWrite s e num v) := by
  have h (n k v : Nat) : MemWf (blocksAdopt (csrSet (csrSet s bworldDie e.die n) 0x500 k v) e.die) := blocksAdopt_wf hs
  simp only [MemWf, csrWrite, apply_ite State.mem, apply_ite Memory.wf, csrSet_mem, updCtl_mem, logWrite_mem, ctxcfgWrite_mem, hs, h,
    ite_self]

@[simp] theorem framesDue_mem (s : State) (p v a t : Nat) : (framesDue s p v a t).mem = s.mem := by
  grind [framesDue, setDisp_mem]

@[simp] theorem elapse_mem (s : State) (dt : Nat) : (elapse s dt).mem = s.mem := by
  unfold elapse
  exact foldl_mem (fun s x => by grind [framesDue_mem]) _ _

@[simp] theorem dctlWrite_mem (s : State) (p v x : Nat) : (dctlWrite s p v x).mem = s.mem := by
  have h (l : List (Nat × Word64)) (s : State) : (l.foldl (fun s r => pregSet s p (dispOff v r.1) r.2.toNat) s).mem = s.mem :=
    foldl_mem (fun _ _ => pregSet_mem ..) l s
  unfold dctlWrite
  dsimp only
  split <;> split <;> simp [h]

theorem sctlWrite_wf {s : State} {p v x : Nat} (hs : MemWf s) : MemWf (sctlWrite s p v x) := by
  grind [sctlWrite, blocksAdopt_wf, pregSet_mem, setDisp_mem]

theorem dispWrite_wf {s : State} {p v o x m : Nat} (hs : MemWf s) : MemWf (dispWrite s p v o x m) := by
  grind [dispWrite, pregSet_mem, setDisp_mem, dctlWrite_mem, sctlWrite_wf]

@[simp] theorem buildPart_mem (s : State) (p : Nat) : (buildPart s p).mem = s.mem := by
  simp [buildPart]

@[simp] theorem cgmaskWrite_mem (s : State) (p d x : Nat) : (cgmaskWrite s p d x).mem = s.mem := by
  simp [cgmaskWrite, apply_ite State.mem]

@[simp] theorem qctlWrite_mem (s : State) (p q x m : Nat) : (qctlWrite s p q x m).mem = s.mem := by
  simp [qctlWrite, apply_ite State.mem]

@[simp] theorem mbctlWrite_mem (s : State) (w : Who) (p x : Nat) : (mbctlWrite s w p x).mem = s.mem := by
  simp [mbctlWrite, apply_ite State.mem]

theorem pregWrite_wf {s : State} {w : Who} {p o val m : Nat} (hs : MemWf s) : MemWf (pregWrite s w p o val m) := by
  simp only [MemWf, pregWrite, apply_ite State.mem, apply_ite Memory.wf, pregSet_mem, mbctlWrite_mem, qctlWrite_mem, cgmaskWrite_mem, hs,
    dispWrite_wf hs, ite_self]

theorem regsWrite_wf {s : State} {w : Who} {off : Nat} {l : List Byte} (hs : MemWf s) : MemWf (regsWrite s w off l) := by
  grind [regsWrite, pregWrite_wf]

@[simp] theorem buildRegion_mem (s : State) (p rx ry : Nat) (valid : Bool) : (buildRegion s p rx ry valid).mem = s.mem := by
  simp [buildRegion]

@[simp] theorem buildEntry_mem (s : State) (i : Nat) (valid : Bool) : (buildEntry s i valid).mem = s.mem := by
  unfold buildEntry
  exact foldl_mem (fun s x => by grind [buildRegion_mem]) _ _

@[simp] theorem buildWindow_mem (s : State) (p v : Nat) : (buildWindow s p v).mem = s.mem := by
  simp [buildWindow]

@[simp] theorem rstctlWrite_mem (s : State) (d v : Nat) : (rstctlWrite s d v).mem = s.mem := by
  simp [rstctlWrite]

theorem dieWrite_wf {s : State} {d o v : Nat} (hs : MemWf s) : MemWf (dieWrite s d o v).1 := by
  grind [dieWrite, pregWrite_wf, dregSet_mem, buildWindow_mem, buildEntry_mem, rstctlWrite_mem]

end Sys2Proof.Laws
end

section
/-! SUPPORT. Memory's form under the operations of Machine/Access.lean, in their order. -/

namespace Sys2Proof.Laws

open Sys2Proof Sys2Proof.Machine

@[simp] theorem endCopies_mem (s : State) (pa n : Nat) : (endCopies s pa n).mem = s.mem := by
  unfold endCopies
  split <;> simp

@[simp] theorem useLeaf_mem (s : State) (t : TlbEnt) (wr : Bool) : (useLeaf s t wr).mem = s.mem := by
  simp [useLeaf, apply_ite State.mem]

theorem layPhys_wf {s : State} {pa : Nat} {l : List Byte} {cmp : Bool} (hs : MemWf s) : MemWf (layPhys s pa l cmp) := by
  unfold layPhys
  exact foldl_wf (fun s x hs => by grind [recode_mem, layPut_wf, lineOwn_wf]) _ (by grind [endCopies_mem])

theorem layBytes_wf {s : State} {d p va : Nat} {l : List Byte} (hs : MemWf s) : MemWf (layBytes s d p va l) := by
  unfold layBytes
  exact foldl_wf (fun s x hs => by grind [useLeaf_mem, layPhys_wf]) _ hs

theorem headerPut_wf {s : State} {p : Nat} {a : SaveArea} {o : Nat} {l : List Byte} (hs : MemWf s) : MemWf (headerPut s p a o l) := by
  grind [headerPut, layBytes_wf]

theorem countItem_wf {s : State} {w : Nat} (hs : MemWf s) : MemWf (countItem s w) := by
  grind [countItem, headerPut_wf, setWg_mem]

@[simp] theorem markLaid_mem (s : State) (d p va n : Nat) (h : Holder) (dark : Bool) : (markLaid s d p va n h dark).mem = s.mem := by
  unfold markLaid
  exact foldl_mem (fun s x => by grind) _ _

@[simp] theorem unspoil_mem (s : State) (h : Holder) : (unspoil s h).mem = s.mem := by
  simp [unspoil]

@[simp] theorem useTgt_mem (s : State) (t : Tgt) (wr : Bool) : (useTgt s t wr).mem = s.mem := by
  unfold useTgt
  split <;> simp

@[simp] theorem notePeer_mem (s : State) (i : Issuer) (pa : Nat) : (notePeer s i pa).mem = s.mem := by
  unfold notePeer
  split <;> simp

@[simp] theorem cacheUse_mem (s : State) (i : Issuer) (e pa n : Nat) (wr : Bool) : (cacheUse s i e pa n wr).mem = s.mem := by
  grind [cacheUse, touchLlc_mem, setLine_mem, clearL2_mem, recallL2_mem, touchL2_mem]

@[simp] theorem spoilSlots_mem (s : State) (w o n : Nat) : (spoilSlots s w o n).mem = s.mem := by
  simp [spoilSlots, apply_ite State.mem]

theorem readTgt_wf {s : State} {i : Issuer} {t : Tgt} {n : Nat} (hs : MemWf s) : MemWf (readTgt s i t n).2 := by
  grind [readTgt, freeBytes_mem, physRead_mem, useTgt_mem, countItem_wf, notePeer_mem, lineRead_wf, cacheUse_mem]

theorem homeRead_wf {s : State} {d pa n : Nat} {r : List Byte × State} (hs : MemWf s) (e : homeRead s d pa n = .some r) : MemWf r.2 := by
  grind [homeRead, physRead_mem, lineRead_wf, recallL2_mem]

@[simp] theorem dirtyToL2_mem (s : State) (cid : Nat) : (dirtyToL2 s cid).mem = s.mem := by
  unfold dirtyToL2
  exact foldl_mem (fun s x => by grind [setLine_mem, touchL2_mem]) _ _

theorem releaseCore_wf {s : State} {cid scope : Nat} (hs : MemWf s) : MemWf (releaseCore s cid scope) := by
  unfold releaseCore
  grind [drainL2_mem, writeBackCore_wf, dirtyToL2_mem]

theorem writeTgt_wf {s : State} {i : Issuer} {t : Tgt} {l : List Byte} (hs : MemWf s) : MemWf (writeTgt s i t l) := by
  have h : MemWf (useTgt s t true) := hs.of_mem (useTgt_mem ..)
  unfold writeTgt
  dsimp only
  split
  · exact countItem_wf (h.of_mem (by simp))
  · split
    · refine regsWrite_wf (MemWf.ite ?_ h)
      cases i.cid with
      | none => exact h
      | some c => exact releaseCore_wf (scope := 3) h
    · next pa _ _ _ =>
      have h := lineOwn_wf (line := lineOf pa) (mask := wordMask pa l.length) (cid := l1Of i t) h
      exact MemWf.of_mem (putBytes_wf _ _ l (h.of_mem (by simp))) (recode_mem ..)

theorem heldBytes_wf {s : State} {t : Tgt} {n : Nat} (hs : MemWf s) : MemWf (heldBytes s t n).2 := by
  grind [heldBytes, freeBytes_mem, physRead_mem, combine_wf]

theorem readMem_wf {s : State} {i : Issuer} {va n : Nat} {r : List Byte × State} (hs : MemWf s)
    (e : readMem s i va n = .ok r) : MemWf r.2 := by
  grind [readMem, → bind_ok, readTgt_wf]

theorem writeMem_wf {s : State} {i : Issuer} {va : Nat} {l : List Byte} {t : State} (hs : MemWf s)
    (e : writeMem s i va l = .ok t) : MemWf t := by
  grind [writeMem, → bind_ok, writeTgt_wf]

@[simp] theorem holdInSlice_mem (s : State) (i : Issuer) (t : Tgt) (scope n : Nat) (dirty : Bool) :
    (holdInSlice s i t scope n dirty).mem = s.mem := by
  grind [holdInSlice, touchL2_mem]

theorem grantWord_wf {s : State} {i : Issuer} {t : Tgt} {scope n : Nat} (hs : MemWf s) : MemWf (grantWord s i t scope n) := by
  grind [grantWord, lineGrant_wf, clearL2_mem]

theorem rmwMem_wf {s : State} {i : Issuer} {scope va n : Nat} {f : Nat → Option Nat} {home : Nat → Bool} {r : Nat × State} (hs : MemWf s)
    (e : rmwMem s i scope va n f home = .ok r) : MemWf r.2 := by
  grind [rmwMem, → bind_ok, readTgt_wf, holdInSlice_mem, writeTgt_wf, grantWord_wf]

theorem releaseA_wf {s : State} {a : Agent} {scope : Nat} (hs : MemWf s) : MemWf (releaseA s a scope) := by
  grind [releaseA, releaseCore_wf]

theorem release_wf {s : State} {scope : Nat} (hs : MemWf s) : MemWf (release s scope) := by
  grind [release, releaseA_wf]

theorem postAdd_wf {s : State} {i : Issuer} {core : Option Nat} {va inc : Nat} {t : State} (hs : MemWf s)
    (e : postAdd s i core va inc = .ok t) : MemWf t := by
  unfold postAdd at e
  cases core <;> grind [→ bind_ok, releaseCore_wf, → rmwMem_wf]

theorem readParts_wf {s : State} {i : Issuer} {va n k : Nat} {r : List Byte × State} (hs : MemWf s)
    (e : readParts s i va n k = .ok r) : MemWf r.2 := by
  induction k generalizing s va r with
  | zero => cases e; exact hs
  | succ k ih => grind [readParts, → bind_ok, → readMem_wf]

theorem writeParts_wf {s : State} {i : Issuer} {va n : Nat} {l : List Byte} {k : Nat} {t : State} (hs : MemWf s)
    (e : writeParts s i va n l k = .ok t) : MemWf t := by
  induction k generalizing s va l with
  | zero => cases e; exact hs
  | succ k ih =>
    obtain ⟨u, hu, e⟩ := bind_ok e
    exact ih (writeMem_wf hs hu) e

theorem fetchTgt_wf {s : State} {i : Issuer} {cid : Nat} {t : Tgt} (hs : MemWf s) : MemWf (fetchTgt s i cid t).2 := by
  grind [fetchTgt, useTgt_mem, readTgt_wf]

theorem fetchAs_wf {s : State} {i : Issuer} {cid va : Nat} {r : Word32 × State} (hs : MemWf s)
    (e : fetchAs s i cid va = .ok r) : MemWf r.2 := by
  grind [fetchAs, → bind_ok, useTgt_mem, fetchTgt_wf]

theorem fetchContext_wf {s : State} {a : Agent} {va : Nat} {r : Word32 × State} (hs : MemWf s)
    (e : fetchContext s a va = .ok r) : MemWf r.2 := by
  grind [fetchContext, → fetchAs_wf]

@[simp] theorem keepFetched_mem (s : State) (cid b : Nat) (w : Word32) : (keepFetched s cid b w).mem = s.mem := by
  simp [keepFetched]

theorem fetchWord_wf {s : State} {a : Agent} {va : Nat} {r : Word32 × State} (hs : MemWf s) (e : fetchWord s a va = .ok r) : MemWf r.2 := by
  cases a <;> grind [fetchWord, → bind_ok, → fetchContext_wf, keepFetched_mem]

theorem checkEntryAs_wf {s : State} {i : Issuer} {cid va : Nat} {r : Succ × State} (hs : MemWf s)
    (e : checkEntryAs s i cid va = .ok r) : MemWf r.2 := by
  grind [checkEntryAs, → bind_ok, → fetchAs_wf]

theorem checkEntry_wf {s : State} {a : Agent} {va : Nat} {r : Succ × State} (hs : MemWf s) (e : checkEntry s a va = .ok r) : MemWf r.2 := by
  grind [checkEntry, → checkEntryAs_wf]

theorem nextBlock_wf {s : State} {r : Succ × State} (hs : MemWf s) (e : nextBlock s = .ok r) : MemWf r.2 := by
  grind [nextBlock, → checkEntry_wf]

end Sys2Proof.Laws
end

section
/-! SUPPORT. Memory's form under the operations of Machine/Packets.lean, in their order. -/

namespace Sys2Proof.Laws

open Sys2Proof Sys2Proof.Machine

@[simp] theorem countUp_mem (s : State) (key : Nat) : (countUp s key).mem = s.mem := by
  simp [countUp]

@[simp] theorem closePacket_mem (s : State) (k : Packet) : (closePacket s k).mem = s.mem := by
  simp [closePacket]

@[simp] theorem closeBatch_mem (s : State) (p bseq : Nat) : (closeBatch s p bseq).mem = s.mem := by
  unfold closeBatch
  split
  · split
    · exact foldl_mem (fun s x => closePacket_mem s x) _ _
    · rfl
  · rfl

@[simp] theorem batchEnded_mem (s : State) (p l wid : Nat) : (batchEnded s p l wid).mem = s.mem := by
  unfold batchEnded
  split <;> simp

@[simp] theorem setPacket_mem (s : State) (id : Nat) (f : Packet → Packet) : (setPacket s id f).mem = s.mem := by
  simp [setPacket]

@[simp] theorem passPacket_mem (s : State) (k : Packet) (d g : Nat) : (passPacket s k d g).mem = s.mem := by
  simp [passPacket]

@[simp] theorem dropPacket_mem (s : State) (id : Nat) : (dropPacket s id).mem = s.mem := by
  simp [dropPacket]

@[simp] theorem stepRegion_mem (k : Nat) (s : State) (p d g x y : Nat) : (stepRegion k s p d g x y).mem = s.mem := by
  induction k generalizing s with
  | zero => rfl
  | succ n ih => grind [stepRegion, setRegion_mem, passPacket_mem]

@[simp] theorem dropSeals_mem (s : State) (d g : Nat) : (dropSeals s d g).mem = s.mem := by
  simp [dropSeals]

@[simp] theorem stepUnit_mem (s : State) (d g : Nat) : (stepUnit s d g).mem = s.mem := by
  have h (l : List (Nat × Nat)) (k p : Nat) (s : State) : (l.foldl (fun s r => match rotOwner s p r.1 r.2 with
      | some (_, _, false) => stepRegion k s p d g r.1 r.2
      | _ => s) s).mem = s.mem := foldl_mem (fun s r => by split <;> simp) l s
  unfold stepUnit
  rw [dropSeals_mem]
  exact foldl_mem (fun s p => h ..) _ _

@[simp] theorem hearthPacket_mem (s : State) (k : Packet) (d g : Nat) : (hearthPacket s k d g).mem = s.mem := by
  simp [hearthPacket]

@[simp] theorem acceptPacket_mem (s : State) (k : Packet) (cap : Bool) : (acceptPacket s k cap).mem = s.mem := by
  unfold acceptPacket
  dsimp only
  split
  · simp
  · split <;> simp
  · split
    · simp
    · split
      · simp
      · split
        · simp
        · split <;> simp

@[simp] theorem hearthDrain_mem (n : Nat) (s : State) (p x y : Nat) : (hearthDrain n s p x y).mem = s.mem := by
  induction n generalizing s with
  | zero => rfl
  | succ n ih =>
    unfold hearthDrain
    split
    · rw [ih, acceptPacket_mem]
    · rfl

end Sys2Proof.Laws
end

section
/-! SUPPORT. Memory's form under the operations of Machine/Fabric.lean, in their order. -/

namespace Sys2Proof.Laws

open Sys2Proof Sys2Proof.Machine

theorem execDltoRecovery_wf {port cls : Nat} {s : State} (hs : MemWf s) : ResWf (execDltoRecovery port cls s) := by
  grind [execDltoRecovery, dregSet_mem, resWf_off, resWf_next]

end Sys2Proof.Laws
end

section
/-! SUPPORT. Memory's form under the operations of Machine/Engines.lean, in their order. -/

namespace Sys2Proof.Laws

open Sys2Proof Sys2Proof.Machine

@[simp] theorem raiseEngine_mem (s : State) (eid part lvl : Nat) (sec : Bool) (lid wid cls op : Nat) (c : Cause) (faddr : Nat) :
    (raiseEngine s eid part lvl sec lid wid cls op c faddr).mem = s.mem := by
  unfold raiseEngine
  split <;> simp

theorem freeSusp_wf {s : State} {eid idx : Nat} (hs : MemWf s) : MemWf (freeSusp s eid idx) := by
  grind [freeSusp, blocksAdopt_wf]

@[simp] theorem addCopy_mem (s : State) (o : CopyOp) : (addCopy s o).mem = s.mem := by
  simp [addCopy]

@[simp] theorem updCopy_mem (s : State) (id : Nat) (f : CopyOp → CopyOp) : (updCopy s id f).mem = s.mem := by
  simp [updCopy]

theorem dropCopy_wf {s : State} {id : Nat} (hs : MemWf s) : MemWf (dropCopy s id) := by
  grind [dropCopy, blocksAdopt_wf]

@[simp] theorem copyFault_mem (s : State) (o : CopyOp) (c : Cause) (faddr : Nat) : (copyFault s o c faddr).mem = s.mem := by
  simp [copyFault]

theorem postCopy_wf {s : State} {o : CopyOp} (hs : MemWf s) : MemWf (postCopy s o) := by
  grind [postCopy, dropCopy_wf, → postAdd_wf, copyFault_mem]

theorem finishCopyInst_wf {s : State} {id : Nat} (hs : MemWf s) : MemWf (finishCopyInst s id) := by
  grind [finishCopyInst, updWg_mem, postCopy_wf, addCopy_mem]

theorem leaveCopyInst_wf {s : State} {id tid : Nat} (hs : MemWf s) : MemWf (leaveCopyInst s id tid) := by
  grind [leaveCopyInst, finishCopyInst_wf]

theorem endCopyInsts_wf {s : State} {w : Nat} (hs : MemWf s) : MemWf (endCopyInsts s w) := by
  unfold endCopyInsts
  exact foldl_wf (fun s x hs => by grind [finishCopyInst_wf]) _ hs

end Sys2Proof.Laws
end

section
/-! SUPPORT. Memory's form under the operations of Machine/Operands.lean, in their order. -/

namespace Sys2Proof.Laws

open Sys2Proof Sys2Proof.Machine

theorem guarded_wf {fm : Form} {s : State} {k : State → Result} (hs : MemWf s) (hk : ResWf (k s)) : ResWf (guarded fm s k) := by
  unfold guarded
  split
  · split
    · simpa using hs
    · exact hk
  · simp

end Sys2Proof.Laws
end

section
/-! SUPPORT. Memory's form under the operations of Machine/FloatOps.lean, in their order. -/

namespace Sys2Proof.Laws

open Sys2Proof Sys2Proof.Machine

theorem fpWRR_wf {f : Nat → Nat → Nat} {d a b : Field} {s : State} (hs : MemWf s) : ResWf (fpWRR f d a b s) := by
  refine guarded_wf hs ?_
  simp [MemWf, hs]

theorem fpMRR_wf {f : Nat → Nat → Nat → Nat} {d a b : Field} {s : State} (hs : MemWf s) : ResWf (fpMRR f d a b s) := by
  refine guarded_wf hs ?_
  simp [MemWf, hs]

theorem fpWR_wf {f : Nat → Nat} {d a : Field} {s : State} (hs : MemWf s) : ResWf (fpWR f d a s) := by
  refine guarded_wf hs ?_
  simp [MemWf, hs]

theorem half2_wf {f : Nat → Nat → Nat} {d a b : Field} {s : State} (hs : MemWf s) : ResWf (half2 f d a b s) := by
  refine guarded_wf hs ?_
  simp [MemWf, hs]

theorem half3_wf {f : Nat → Nat → Nat → Nat} {d a b : Field} {s : State} (hs : MemWf s) : ResWf (half3 f d a b s) := by
  refine guarded_wf hs ?_
  simp [MemWf, hs]

theorem dalu_wf {f : Nat → Nat → Nat} {d a b : Field} {s : State} (hs : MemWf s) : ResWf (dalu f d a b s) := by
  refine guarded_wf hs ?_
  simp [MemWf, hs]

theorem dcmp_wf {f : Nat → Nat → Bool} {d a b : Field} {s : State} (hs : MemWf s) : ResWf (dcmp f d a b s) := by
  refine guarded_wf hs ?_
  simp [MemWf, hs]

theorem execDfma_wf {d a b : Field} {s : State} (hs : MemWf s) : ResWf (execDfma d a b s) := by
  refine guarded_wf hs ?_
  simp [MemWf, hs]

theorem lalu_wf {f : Word64 → Word64 → Word64} {d a b : Field} {s : State} (hs : MemWf s) : ResWf (lalu f d a b s) := by
  refine guarded_wf hs ?_
  simp [MemWf, hs]

theorem lshift_wf {f : Word64 → Nat → Word64} {d a b : Field} {s : State} (hs : MemWf s) : ResWf (lshift f d a b s) := by
  refine guarded_wf hs ?_
  simp [MemWf, hs]

theorem execCvt_wf {sat : BitVec 1} {r : BitVec 3} {d a k : Field} {s : State} (hs : MemWf s) : ResWf (execCvt sat r d a k s) := by
  grind [execCvt, resWf_done, guarded, resWf_raise, resWf_fault, writeR_mem, writeP_mem, setRngA_mem]

end Sys2Proof.Laws
end

section
/-! SUPPORT. Memory's form under the operations of Machine/Frontier.lean, in their order. -/

namespace Sys2Proof.Laws

open Sys2Proof Sys2Proof.Machine

theorem layRecord_wf {s : State} {p l base cid : Nat} {r : Spilled} (hs : MemWf s) : MemWf (layRecord s p l base cid r) := by
  grind [layRecord, layBytes_wf, markLaid_mem, unspoil_mem]

theorem spillEntry_wf {s : State} {cid : Nat} {e : Entry} {t : State} (hs : MemWf s) (he : spillEntry s cid e = .some t) : MemWf t := by
  grind [spillEntry, updCore_mem, layRecord_wf]

theorem addEntry_wf {s : State} {cid : Nat} {e : Entry} {t : State} (hs : MemWf s) (he : addEntry s cid e = .some t) : MemWf t := by
  grind [addEntry, setCore_mem, updCore_mem, → spillEntry_wf, Option.map_eq_some_iff]

@[simp] theorem noteFresh_mem (s : State) (cid slot : Nat) : (noteFresh s cid slot).mem = s.mem := by
  simp [noteFresh]

theorem relayRecord_wf {s : State} {cid p l ctx baddr : Nat} (hs : MemWf s) : MemWf (relayRecord s cid p l ctx baddr) := by
  grind [relayRecord, layRecord_wf]

theorem placeSlot_wf {s : State} {cid p l slot : Nat} {u : Succ} {t : State} (hs : MemWf s)
    (e : placeSlot s cid p l slot u = .some t) : MemWf t := by
  grind [placeSlot, setCore_mem, noteFresh_mem, relayRecord_wf, → addEntry_wf, Option.map_eq_some_iff]

theorem placeThread_wf {s : State} {w t : Nat} {u : Succ} {t' : State} (hs : MemWf s) (e : placeThread s w t u = .some t') : MemWf t' := by
  grind [placeThread, updThread_mem, → placeSlot_wf, Option.map_eq_some_iff]

@[simp] theorem faultEntry_mem (s : State) (cid w t va : Nat) (c : Cause) (faddr : Nat) :
    (faultEntry s cid w t va c faddr).mem = s.mem := by
  unfold faultEntry
  split <;> simp

theorem enterThread_wf {s : State} {cid w t va : Nat} (hs : MemWf s) : MemWf (enterThread s cid w t va) := by
  grind [enterThread, updThread_mem, → checkEntryAs_wf, → placeThread_wf, faultEntry_mem]

theorem wake_wf {s : State} {w t : Nat} (hs : MemWf s) : MemWf (wake s w t) := by
  unfold wake
  split
  · split
    · split
      · exact enterThread_wf hs
      · split
        · next h => exact placeThread_wf hs h
        · simpa [MemWf] using hs
    · next th _ _ _ =>
      cases h : placeThread s w t th.succ with
      | none => exact hs
      | some u => exact placeThread_wf hs h
  · exact hs

@[simp] theorem slotPut_mem (s : State) (w o r : Nat) : (slotPut s w o r).mem = s.mem := by
  simp [slotPut]

@[simp] theorem slotRead_mem (s : State) (w o : Nat) : (slotRead s w o).2.mem = s.mem := by
  unfold slotRead
  split <;> simp

theorem slotWakeOne_wf {s : State} {w o t : Nat} {th : Thread} (hs : MemWf s) : MemWf (slotWakeOne s w o t th) := by
  grind [slotWakeOne, wake_wf, writeQA_mem, slotRead_mem]

theorem slotWake_wf {s : State} {w o : Nat} (hs : MemWf s) : MemWf (slotWake s w o) := by
  unfold slotWake
  have hf (l : List (Nat × Thread)) : MemWf (l.foldl (fun s t => slotWakeOne s w o t.1 t.2) s) := foldl_wf (fun s t h => slotWakeOne_wf h)
    l hs
  grind

theorem wakeSlots_wf {s : State} {x : Sub} (hs : MemWf s) : MemWf (wakeSlots s x) := by
  unfold wakeSlots
  exact foldl_wf (fun s x hs => by grind [slotWake_wf]) _ hs

theorem dropSubs_wf {s : State} {f : Sub → Bool} (hs : MemWf s) : MemWf (dropSubs s f) := by
  unfold dropSubs
  exact foldl_wf (fun s x hs => by grind [wakeSlots_wf]) _ hs

theorem wakeAgent_wf {s : State} {a : Agent} (hs : MemWf s) : MemWf (wakeAgent s a) := by
  unfold wakeAgent
  grind [updCtx_mem, updCtl_mem, advanceA_mem, wake_wf]

@[simp] theorem suspend_mem (s : State) (wt : Wait) (u : Succ) : (suspend s wt u).mem = s.mem := by
  unfold suspend
  split <;> simp

theorem moveOn_wf {s : State} {u : Succ} {t : State} (hs : MemWf s) (e : moveOn s u = .some t) : MemWf t := by
  grind [moveOn, leaveBatch_mem, advance_mem, → placeThread_wf]

theorem goOnWith_wf {s t : State} {u : Succ} (hs : MemWf s) (ht : MemWf t) : ResWf (goOnWith s t u) := by
  unfold goOnWith
  split
  · next h => exact resWf_next.2 (moveOn_wf ht h)
  · exact resWf_raise.2 hs

end Sys2Proof.Laws
end

section
/-! SUPPORT. Memory's form under the operations of Machine/Threads.lean, in their order. -/

namespace Sys2Proof.Laws

open Sys2Proof Sys2Proof.Machine

@[simp] theorem bumpSlot_mem (s : State) (cid slot : Nat) : (bumpSlot s cid slot).mem = s.mem := by
  simp [bumpSlot]

@[simp] theorem addThread_mem (s : State) (w tid : Nat) (t : Thread) : (addThread s w tid t).mem = s.mem := by
  grind [addThread, setWg_mem, bumpSlot_mem]

theorem spawnChild_wf {s : State} {w tid : Nat} {u : Succ} {v0 : Word32} {t : State} (hs : MemWf s)
    (e : spawnChild s w tid u v0 = .some t) : MemWf t := by
  grind [spawnChild, → placeThread_wf, addThread_mem]

@[simp] theorem setCohort_mem (s : State) (w i : Nat) (c : Cohort) : (setCohort s w i c).mem = s.mem := by
  simp [setCohort]

@[simp] theorem takeFault_mem (s : State) (h : Held) : (takeFault s h).mem = s.mem := by
  grind [takeFault, setWg_mem, updThread_mem, takeRecord_mem, waitRecord_mem]

@[simp] theorem faultArrival_mem (s : State) (w : Nat) (a : CArr) : (faultArrival s w a).mem = s.mem := by
  simp [faultArrival]

theorem releaseArrival_wf {s : State} {w h inst : Nat} {mixed : Bool} {res : Word32} {a : CArr} (hs : MemWf s) :
    MemWf (releaseArrival s w h inst mixed res a) := by
  grind [releaseArrival, writeV_mem, wake_wf, useFree_mem]

theorem releaseAll_wf {s : State} {w h inst : Nat} {mixed : Bool} {res : Nat → Word32} {k : Nat} {l : List CArr} (hs : MemWf s) :
    MemWf (releaseAll s w h inst mixed res k l) := by
  induction l generalizing s k with
  | nil => simpa [releaseAll] using hs
  | cons a l ih => exact ih (releaseArrival_wf hs)

theorem settle_wf {n : Nat} {s : State} {w h : Nat} (hs : MemWf s) : MemWf (settle n s w h) := by
  induction n generalizing s with
  | zero => exact hs
  | succ n ih =>
    unfold settle
    split
    · split
      · split
        · split
          · refine ih ?_
            split
            · exact releaseAll_wf (hs.of_mem (setCohort_mem ..))
            · exact hs.of_mem ((foldl_mem (fun s a => faultArrival_mem s w a) _ _).trans (setCohort_mem ..))
          · exact hs
        · exact hs
      · exact hs
    · exact hs

theorem arrive_wf {s : State} {w h : Nat} {a : CArr} (hs : MemWf s) : MemWf (arrive s w h a) := by
  grind [arrive, setCohort_mem, settle_wf]

theorem leaveCohort_wf {s : State} {w h t : Nat} (hs : MemWf s) : MemWf (leaveCohort s w h t) := by
  grind [leaveCohort, setCohort_mem, settle_wf, leaveCopyInst_wf]

theorem leaveAll_wf {s : State} {w t : Nat} (hs : MemWf s) : MemWf (leaveAll s w t) := by
  unfold leaveAll
  split
  · exact foldl_wf (fun s h hs => leaveCohort_wf hs) _ hs
  · exact hs

@[simp] theorem pbarCheck_mem (s : State) (w pb : Nat) : (pbarCheck s w pb).mem = s.mem := by
  grind [pbarCheck, setWg_mem]

@[simp] theorem pbarAll_mem (s : State) (w : Nat) : (pbarAll s w).mem = s.mem := by
  unfold pbarAll
  split
  · exact foldl_mem (fun s pb => pbarCheck_mem ..) _ s
  · rfl

@[simp] theorem freeRecords_mem (s : State) (w : Nat) : (freeRecords s w).mem = s.mem := by
  simp [freeRecords]

@[simp] theorem freeContext_mem (s : State) (cid p l : Nat) : (freeContext s cid p l).mem = s.mem := by
  unfold freeContext
  split <;> simp

theorem dropWg_wf {s : State} {w : Nat} (hs : MemWf s) : MemWf (dropWg s w) := by
  grind [dropWg, blocksAdopt_wf, updCore_mem, freeContext_mem]

@[simp] theorem freeMatrixSlots_mem (s : State) (w : Nat) : (freeMatrixSlots s w).mem = s.mem := by
  simp [freeMatrixSlots]

@[simp] theorem discardFrags_mem (s : State) (w : Nat) : (discardFrags s w).mem = s.mem := by
  simp [discardFrags]

theorem finishForm_wf {s : State} {f : PForm} {st : Nat} (hs : MemWf s) : MemWf (finishForm s f st) := by
  grind [finishForm, writeRA_mem, releaseA_wf, wakeAgent_wf]

theorem endForms_wf {s : State} {w : Nat} (hs : MemWf s) : MemWf (endForms s w) := by
  unfold endForms
  exact foldl_wf (fun s x hs => by grind [finishForm_wf]) _ hs

theorem endWorkgroup_wf {s : State} {w : Nat} (hs : MemWf s) : MemWf (endWorkgroup s w) := by
  grind [endWorkgroup, dropSubs_wf, countStale_mem, updLaunch_mem, endCopyInsts_wf, dropWg_wf, freeMatrixSlots_mem, freeRecords_mem,
    endForms_wf, discardFrags_mem, batchEnded_mem]

theorem checkEnd_wf {s : State} {w : Nat} (hs : MemWf s) : MemWf (checkEnd s w) := by
  grind [checkEnd, endWorkgroup_wf]

@[simp] theorem discardFrag_mem (s : State) (w t : Nat) : (discardFrag s w t).mem = s.mem := by
  simp [discardFrag]

theorem endThread_wf {s : State} {w t : Nat} (hs : MemWf s) : MemWf (endThread s w t) := by
  grind [endThread, leaveBatch_mem, updWg_mem, discardFrag_mem, leaveAll_wf, checkEnd_wf, pbarAll_mem]

end Sys2Proof.Laws
end

section
/-! SUPPORT. Memory's form under the operations of Machine/Launches.lean, in their order. -/

namespace Sys2Proof.Laws

open Sys2Proof Sys2Proof.Machine

theorem entryHeader_wf {s : State} {i : Issuer} {va : Nat} {r : Succ × State} (hs : MemWf s)
    (e : entryHeader s i va = .ok r) : MemWf r.2 := by
  grind [entryHeader, → bind_ok, readTgt_wf]

theorem out_check_wf {x : Out State} {s : State} {n : Nat} {r : CheckFail × State} (hx : ∀ t, x = .ok t → MemWf t) (hs : MemWf s)
    (e : x.check s n = .ok r) : MemWf r.2 := by
  cases x with
  | ok t => cases e; exact hx t rfl
  | bad c v => cases e; exact hs
  | wait => cases e

theorem andThen_wf {x : Out (CheckFail × State)} {f : State → Out (CheckFail × State)} {r : CheckFail × State}
    (hx : ∀ u, x = .ok u → MemWf u.2) (hf : ∀ t, MemWf t → f t = .ok r → MemWf r.2) (e : andThen x f = .ok r) : MemWf r.2 := by
  unfold andThen at e
  split at e
  · exact hf _ (hx _ rfl) e
  · exact hx _ e

theorem checked_mem {s : State} {i : Issuer} {q : Acc} {t : State} (e : checked s i q = .ok t) : t.mem = s.mem := by
  grind [checked, → bind_ok, useTgt_mem]

theorem entryChecks_wf {s : State} {p lvl : Nat} {sec sysq : Bool} {r : BitVec 1024} {u : CheckFail × State} (hs : MemWf s)
    (e : entryChecks s p lvl sec sysq r = .ok u) : MemWf u.2 := by
  unfold entryChecks at e
  dsimp only at e
  split at e
  · cases e; exact hs
  split at e
  · cases e; exact hs
  split at e
  · cases e; exact hs
  have hc (q : Acc) (n : Nat) (t : State) (ht : MemWf t) (v : CheckFail × State)
      (h : (checked t (launchIssuer p lvl sec r) q).check t n = .ok v) : MemWf v.2 := out_check_wf (fun _ h => ht.of_mem (checked_mem h))
        ht h
  refine andThen_wf (fun v hv => out_check_wf (fun t ht => ?_) hs hv) (fun t ht e => ?_) e
  · obtain ⟨x, hx, ht⟩ := bind_ok ht
    cases ht
    exact entryHeader_wf hs hx
  refine andThen_wf (fun v hv => ?_) (fun t ht e => ?_) e
  · split at hv
    · cases hv; exact ht
    · exact hc _ _ _ ht _ hv
  refine andThen_wf (fun v hv => ?_) (fun t ht e => ?_) e
  · split at hv
    · cases hv; exact ht
    · exact hc _ _ _ ht _ hv
  split at e
  · cases e; exact ht
  · exact hc _ _ _ ht _ e

@[simp] theorem takeLid_mem (s : State) (p : Nat) : (takeLid s p).mem = s.mem := by
  simp [takeLid]

theorem offerLaunch_wf {s : State} {p : Nat} {sec : Bool} {r : BitVec 1024} {u : Nat × State} (hs : MemWf s)
    (e : offerLaunch s p sec r = .ok u) : MemWf u.2 := by
  grind [offerLaunch, → bind_ok, → entryChecks_wf, takeLid_mem]

end Sys2Proof.Laws
end

section
/-! SUPPORT. Memory's form under the operations of Machine/Control.lean, in their order. -/

namespace Sys2Proof.Laws

open Sys2Proof Sys2Proof.Machine

theorem transferTarget_wf {s : State} {va : Nat} {r : Succ × State} (hs : MemWf s) (e : transferTarget s va = .ok r) : MemWf r.2 := by
  grind [transferTarget, → bind_ok, useTgt_mem, → checkEntry_wf]

@[simp] theorem setPc_mem (s : State) (va : Nat) : (setPc s va).mem = s.mem := by
  unfold setPc
  split <;> simp

theorem transfer_wf {s : State} {va : Nat} {f : State → State} (hs : MemWf s) (hf : ∀ u, (f u).mem = u.mem) : ResWf (transfer s va f) := by
  refine run_wf hs fun r hr => ?_
  have h : MemWf (f r.2) := .of_mem (transferTarget_wf hs hr) (hf _)
  split
  · exact goOnWith_wf hs h
  · simpa [MemWf] using h

theorem execBr_wf {o : BitVec 18} {s : State} (hs : MemWf s) : ResWf (execBr o s) := by
  refine guarded_wf hs ?_
  grind [transfer_wf]

theorem execBnz_wf {a : Field} {o : BitVec 18} {s : State} (hs : MemWf s) : ResWf (execBnz a o s) := by
  refine guarded_wf hs ?_
  grind [transfer_wf]

theorem execBz_wf {a : Field} {o : BitVec 18} {s : State} (hs : MemWf s) : ResWf (execBz a o s) := by
  refine guarded_wf hs ?_
  grind [transfer_wf]

theorem execCall_wf {a : Field} {o : BitVec 18} {s : State} (hs : MemWf s) : ResWf (execCall a o s) := by
  refine guarded_wf hs ?_
  grind [writeP_mem, transfer_wf]

theorem execJmpr_wf {a : Field} {s : State} (hs : MemWf s) : ResWf (execJmpr a s) := by
  refine guarded_wf hs ?_
  grind [transfer_wf]

theorem execCallr_wf {d a : Field} {s : State} (hs : MemWf s) : ResWf (execCallr d a s) := by
  refine guarded_wf hs ?_
  grind [writeP_mem, transfer_wf]

theorem execExit_wf {s : State} (hs : MemWf s) : ResWf (execExit s) := by
  refine guarded_wf hs ?_
  grind [updCtx_mem, checkEnd_wf, endThread_wf, resWf_next]

theorem execSpawn_wf {d a b : Field} {s : State} (hs : MemWf s) : ResWf (execSpawn d a b s) := by
  refine guarded_wf hs (run_wf hs fun r hr => ?_)
  have h := checkEntry_wf hs hr
  grind [resWf_raise, resWf_done, resWf_next, writeR_mem, → spawnChild_wf]

theorem execLaunch_wf {d a : Field} {s : State} (hs : MemWf s) : ResWf (execLaunch d a s) := by
  refine guarded_wf hs ?_
  grind [→ bind_ok, resWf_raise, resWf_done, writeR_mem, release_wf, → run_next, ResWf, raiseState_mem, → readParts_wf, → offerLaunch_wf]

theorem execSetwb_wf {a : Field} {s : State} (hs : MemWf s) : ResWf (execSetwb a s) := by
  refine guarded_wf hs ?_
  grind [updThread_mem, resWf_raise, resWf_done, resWf_next]

theorem execGrow_wf {d a : Field} {s : State} (hs : MemWf s) : ResWf (execGrow d a s) := by
  refine guarded_wf hs ?_
  grind [updCore_mem, updThread_mem, resWf_raise, resWf_done, writeR_mem, resWf_next]

theorem execShrink_wf {a : Field} {s : State} (hs : MemWf s) : ResWf (execShrink a s) := by
  refine guarded_wf hs ?_
  grind [updThread_mem, resWf_raise, resWf_done, resWf_next]

theorem execRdtime_wf {d : Field} {s : State} (hs : MemWf s) : ResWf (execRdtime d s) := by
  refine guarded_wf hs ?_
  simp [MemWf, hs]

theorem execRdcyc_wf {d : Field} {s : State} (hs : MemWf s) : ResWf (execRdcyc d s) := by
  refine guarded_wf hs ?_
  simp [MemWf, hs]

theorem execRdncyc_wf {d : Field} {s : State} (hs : MemWf s) : ResWf (execRdncyc d s) := by
  refine guarded_wf hs ?_
  simp [MemWf, hs]

@[simp] theorem noteLeaf_mem (s : State) (i : Issuer) (va : Nat) : (noteLeaf s i va).mem = s.mem := by
  unfold noteLeaf
  split <;> simp

theorem execRdlrw_wf {d a : Field} {s : State} (hs : MemWf s) : ResWf (execRdlrw d a s) := by
  refine guarded_wf hs ?_
  grind [resWf_raise, resWf_done, writeP_mem, noteLeaf_mem, resWf_next]

end Sys2Proof.Laws
end

section
/-! SUPPORT. Memory's form under the operations of Machine/Memory.lean, in their order. -/

namespace Sys2Proof.Laws

open Sys2Proof Sys2Proof.Machine

theorem loadAt_wf {s : State} {va n : Nat} {wr : State → Nat → State} (hs : MemWf s) (hw : ∀ u x, (wr u x).mem = u.mem) :
    ResWf (loadAt s va n wr) :=
  run_wf hs fun _ hr => resWf_done.2 (.of_mem (readMem_wf hs hr) (hw ..))

theorem storeAt_wf {s : State} {va : Nat} {l : List Byte} (hs : MemWf s) : ResWf (storeAt s va l) := by
  grind [storeAt, resWf_done, → run_next, ResWf, raiseState_mem, → writeMem_wf]

theorem load1_wf {n : Nat} {sg : Bool} {d a : Field} {m : BitVec 11} {s : State} (hs : MemWf s) : ResWf (load1 n sg d a m s) := by
  refine guarded_wf hs ?_
  grind [writeR_mem, loadAt_wf]

theorem execLdd_wf {d a : Field} {m : BitVec 11} {s : State} (hs : MemWf s) : ResWf (execLdd d a m s) := by
  refine guarded_wf hs ?_
  grind [writeP_mem, loadAt_wf]

theorem execLdq_wf {d a : Field} {m : BitVec 11} {s : State} (hs : MemWf s) : ResWf (execLdq d a m s) := by
  refine guarded_wf hs ?_
  grind [loadAt_wf, writeQ_mem]

theorem store1_wf {n : Nat} {d a : Field} {m : BitVec 11} {s : State} (hs : MemWf s) : ResWf (store1 n d a m s) := by
  refine guarded_wf hs ?_
  grind [storeAt_wf]

theorem execStd_wf {d a : Field} {m : BitVec 11} {s : State} (hs : MemWf s) : ResWf (execStd d a m s) := by
  refine guarded_wf hs ?_
  grind [storeAt_wf]

theorem execStq_wf {d a : Field} {m : BitVec 11} {s : State} (hs : MemWf s) : ResWf (execStq d a m s) := by
  refine guarded_wf hs ?_
  grind [storeAt_wf]

theorem execLdaq_wf {x z : BitVec 2} {d a : Field} {s : State} (hs : MemWf s) : ResWf (execLdaq x z d a s) := by
  grind [execLdaq, guarded, resWf_raise, resWf_fault, writeR_mem, writeP_mem, loadAt_wf]

theorem execStrl_wf {x z : BitVec 2} {d a : Field} {s : State} (hs : MemWf s) : ResWf (execStrl x z d a s) := by
  grind [execStrl, resWf_done, guarded, resWf_raise, writeTgt_wf, release_wf, → run_next, ResWf, raiseState_mem]

theorem execFence_wf {k x : BitVec 2} {s : State} (hs : MemWf s) : ResWf (execFence k x s) := by
  refine guarded_wf hs ?_
  grind [resWf_done, release_wf, resWf_next]

theorem uReduce_wf {s : State} {c h pa fn : Nat} {v : Word32} {cmp : Bool} (hs : MemWf s) : MemWf (uReduce s c h pa fn v cmp) := by
  grind [uReduce, applyDeltas_wf, setLine_mem, makeRoom_wf, sliceLine_mem]

theorem atomAt_wf {x : BitVec 2} {n : Nat} {red : Bool} {f : Nat → Option Nat} {wr : State → Nat → State} {va : Nat} {s : State} (hs : MemWf s)
    (hw : ∀ u x, (wr u x).mem = u.mem) : ResWf (atomAt x n red f wr va s) :=
  run_wf hs fun _ hr => resWf_done.2 (.of_mem (rmwMem_wf hs hr) (hw ..))

theorem atom32_wf {x : BitVec 2} {f : Word32 → Word32 → Word32} {d a b : Field} {s : State} (hs : MemWf s) :
    ResWf (atom32 x f d a b s) := by
  refine guarded_wf hs ?_
  grind [writeR_mem, atomAt_wf]

theorem reduce32_wf {fn : Nat} {x : BitVec 2} {d a b : Field} {s : State} (hs : MemWf s) : ResWf (reduce32 fn x d a b s) := by
  grind [reduce32, useTgt_mem, resWf_done, guarded, resWf_raise, → run_next, ResWf, raiseState_mem, atomAt_wf, atom32_wf, uReduce_wf]

theorem execAtomCas_wf {x : BitVec 2} {d a b : Field} {s : State} (hs : MemWf s) : ResWf (execAtomCas x d a b s) := by
  refine guarded_wf hs ?_
  grind [writeR_mem, atomAt_wf]

theorem execAtomLadd_wf {x : BitVec 2} {d a b : Field} {s : State} (hs : MemWf s) : ResWf (execAtomLadd x d a b s) := by
  refine guarded_wf hs ?_
  grind [writeP_mem, atomAt_wf]

theorem execAtomLcas_wf {x : BitVec 2} {d a b : Field} {s : State} (hs : MemWf s) : ResWf (execAtomLcas x d a b s) := by
  refine guarded_wf hs ?_
  grind [writeP_mem, atomAt_wf]

theorem execPref_wf {a : Field} {s : State} (hs : MemWf s) : ResWf (execPref a s) := by
  refine guarded_wf hs ?_
  grind [useTgt_mem, lineRead_wf, cacheUse_mem, resWf_done]

theorem icinv_wf {f : State → Nat → Bool} {s : State} (hs : MemWf s) : ResWf (icinv f s) := by
  refine guarded_wf hs ?_
  simp [MemWf, hs]

theorem execIcinvSys_wf {s : State} (hs : MemWf s) : ResWf (execIcinvSys s) := by
  refine guarded_wf hs ?_
  grind [resWf_done, release_wf, resWf_next]

end Sys2Proof.Laws
end

section
/-! SUPPORT. Memory's form under the operations of Machine/Sync.lean, in their order. -/

namespace Sys2Proof.Laws

open Sys2Proof Sys2Proof.Machine

theorem waiting_wf {s : State} {k : Succ → State → Result} (hs : MemWf s) (hk : ∀ u t, MemWf t → ResWf (k u t)) : ResWf (waiting s k) :=
  run_wf hs fun r hr => hk r.1 r.2 (nextBlock_wf hs hr)

@[simp] theorem writeSized_mem (s : State) (a : Agent) (n : OpSize) (f : Nat) (v : BitVec 128) : (writeSized s a n f v).mem = s.mem := by
  unfold writeSized
  split <;> simp

theorem waitForm_wf {form : Nat} {d : Field} {va b : Nat} {s : State} (hs : MemWf s) : ResWf (waitForm form d va b s) := by
  grind [waitForm, readTgt_wf, → run_next, ResWf, raiseState_mem, waiting_wf, goOnWith_wf, suspend_mem, writeSized_mem]

theorem execWaitge_wf {d a b : Field} {s : State} (hs : MemWf s) : ResWf (execWaitge d a b s) := by
  refine guarded_wf hs ?_
  grind [waitForm_wf]

theorem execWaitne_wf {d a b : Field} {s : State} (hs : MemWf s) : ResWf (execWaitne d a b s) := by
  refine guarded_wf hs ?_
  grind [waitForm_wf]

theorem execWaiteq_wf {d a b : Field} {s : State} (hs : MemWf s) : ResWf (execWaiteq d a b s) := by
  refine guarded_wf hs ?_
  grind [waitForm_wf]

theorem rereadPlace_wf {s : State} {d spad pa n : Nat} {r : Nat × State} (hs : MemWf s)
    (e : rereadPlace s d spad pa n = .some r) : MemWf r.2 := by
  unfold rereadPlace at e
  split at e
  · split at e
    · cases e
    · split at e <;> cases e <;> exact hs
  · split at e
    · cases e; exact hs
    · split at e
      · cases e
      · obtain ⟨q, hq, rfl⟩ := Option.map_eq_some_iff.1 e
        exact homeRead_wf hs hq

theorem reread_wf {s : State} {a : Agent} {x : Wait} {t : State} (hs : MemWf s) (e : reread s a x = .some t) : MemWf t := by
  unfold reread at e
  split at e
  · dsimp only at e
    split at e
    · next h =>
      have hu := rereadPlace_wf hs h
      cases e
      split
      · exact wakeAgent_wf (hu.of_mem (writeSized_mem ..))
      · exact hu
    · cases e
  · cases e

theorem execWaitReread_wf {ag : Agent} {s : State} (hs : MemWf s) : ResWf (execWaitReread ag s) := by
  grind [execWaitReread, → reread_wf, resWf_off, resWf_next]

theorem dropSlot_wf {s : State} {w o : Nat} (hs : MemWf s) : MemWf (dropSlot s w o) := by
  grind [dropSlot, updWg_mem, dropSubs_wf]

theorem ldsub_wf {dw : Bool} {d : Field} {va o : Nat} {s : State} (hs : MemWf s) : ResWf (ldsub dw d va o s) := by
  grind [ldsub, readTgt_wf, resWf_raise, resWf_done, writeR_mem, writeP_mem, → run_next, ResWf, raiseState_mem, slotRead_mem, dropSlot_wf,
    slotPut_mem]

theorem execLdsub_wf {d a b : Field} {s : State} (hs : MemWf s) : ResWf (execLdsub d a b s) := by
  refine guarded_wf hs ?_
  grind [ldsub_wf]

theorem execLdsubD_wf {d a b : Field} {s : State} (hs : MemWf s) : ResWf (execLdsubD d a b s) := by
  refine guarded_wf hs ?_
  grind [ldsub_wf]

theorem execSlotrd_wf {d b : Field} {s : State} (hs : MemWf s) : ResWf (execSlotrd d b s) := by
  refine guarded_wf hs ?_
  grind [resWf_done, → run_next, ResWf, raiseState_mem, writeQ_mem, slotRead_mem]

theorem execSlotst_wf {d b : Field} {s : State} (hs : MemWf s) : ResWf (execSlotst d b s) := by
  refine guarded_wf hs ?_
  grind [resWf_done, → run_next, ResWf, raiseState_mem, slotPut_mem]

theorem execSlotwait_wf {d a b : Field} {s : State} (hs : MemWf s) : ResWf (execSlotwait d a b s) := by
  refine guarded_wf hs ?_
  grind [→ run_next, ResWf, raiseState_mem, waiting_wf, goOnWith_wf, suspend_mem, writeQ_mem, slotRead_mem]

theorem execUnsub_wf {d b : Field} {s : State} (hs : MemWf s) : ResWf (execUnsub d b s) := by
  refine guarded_wf hs ?_
  grind [writeR_mem, → run_next, ResWf, raiseState_mem, waiting_wf, goOnWith_wf, suspend_mem, slotRead_mem]

theorem applyPush_wf {s : State} {sub : Nat} (hs : MemWf s) : MemWf (applyPush s sub) := by
  grind [applyPush, countItem_wf, wakeSlots_wf, slotPut_mem]

theorem execSubscriptionPush_wf {sub : Nat} {s : State} (hs : MemWf s) : ResWf (execSubscriptionPush sub s) := by
  grind [execSubscriptionPush, resWf_off, applyPush_wf, resWf_next]

theorem unsubWake_wf {s : State} {w o : Nat} (hs : MemWf s) : MemWf (unsubWake s w o) := by
  unfold unsubWake
  split
  · refine foldl_wf (fun s t hs => ?_) _ hs
    split
    · split
      · exact wake_wf (hs.of_mem (by simp))
      · exact hs
    · exact hs
  · exact hs

theorem endSub_wf {s : State} {x : Sub} {st : Nat} (hs : MemWf s) : MemWf (endSub s x st) := by
  grind [endSub, slotWake_wf, dropSubs_wf, slotPut_mem, unsubWake_wf]

theorem execUnsubComplete_wf {sub : Nat} {s : State} (hs : MemWf s) : ResWf (execUnsubComplete sub s) := by
  grind [execUnsubComplete, resWf_off, endSub_wf, resWf_next]

theorem loseSubs_wf {s : State} {line : Nat} (hs : MemWf s) : MemWf (loseSubs s line) := by
  unfold loseSubs
  exact foldl_wf (fun s x hs => by grind [endSub_wf]) _ hs

theorem execCmake_wf {d a : Field} {s : State} (hs : MemWf s) : ResWf (execCmake d a s) := by
  refine guarded_wf hs ?_
  grind [resWf_done, writeR_mem, setCohort_mem, resWf_next]

theorem execJoin_wf {d a : Field} {s : State} (hs : MemWf s) : ResWf (execJoin d a s) := by
  refine guarded_wf hs ?_
  grind [resWf_done, resWf_next, writeR_mem, setCohort_mem]

theorem execLeave_wf {a : Field} {s : State} (hs : MemWf s) : ResWf (execLeave a s) := by
  refine guarded_wf hs ?_
  grind [resWf_done, leaveCohort_wf, resWf_next]

theorem execCsize_wf {d a : Field} {s : State} (hs : MemWf s) : ResWf (execCsize d a s) := by
  refine guarded_wf hs ?_
  grind [resWf_done, writeR_mem, resWf_next]

theorem arrived_wf {s u : State} {w t : Nat} (hs : MemWf s) (hu : MemWf u) : ResWf (arrived s u w t) := by
  unfold arrived
  split <;> simpa

theorem execBara_wf {a : Field} {s : State} (hs : MemWf s) : ResWf (execBara a s) := by
  refine guarded_wf hs ?_
  grind [resWf_raise, resWf_done, setCohort_mem, arrive_wf, resWf_next]

theorem execBarw_wf {a : Field} {s : State} (hs : MemWf s) : ResWf (execBarw a s) := by
  refine guarded_wf hs ?_
  grind [resWf_raise, setCohort_mem, arrive_wf, waiting_wf, goOnWith_wf, suspend_mem, arrived_wf, resWf_next]

theorem collective_wf {fn : Nat} {d : Field} {h b : Word32} {s : State} (hs : MemWf s) : ResWf (collective fn d h b s) := by
  grind [collective, resWf_raise, arrive_wf, waiting_wf, suspend_mem, arrived_wf, resWf_next]

theorem coll1_wf {fn : Nat} {d a : Field} {s : State} (hs : MemWf s) : ResWf (coll1 fn d a s) := by
  refine guarded_wf hs ?_
  grind [collective_wf]

theorem execCbcast_wf {d a b : Field} {s : State} (hs : MemWf s) : ResWf (execCbcast d a b s) := by
  refine guarded_wf hs ?_
  grind [collective_wf]

theorem execXperm_wf {d a b : Field} {s : State} (hs : MemWf s) : ResWf (execXperm d a b s) := by
  refine guarded_wf hs ?_
  grind [collective_wf]

theorem execCshuf_wf {d a b : Field} {s : State} (hs : MemWf s) : ResWf (execCshuf d a b s) := by
  refine guarded_wf hs ?_
  grind [collective_wf]

theorem pbArrive_wf {s : State} {w t pb : Nat} (hs : MemWf s) : MemWf (pbArrive s w t pb) := by
  grind [pbArrive, updThread_mem, pbarCheck_mem, release_wf]

theorem execPbara_wf {b : Field} {s : State} (hs : MemWf s) : ResWf (execPbara b s) := by
  refine guarded_wf hs ?_
  grind [resWf_raise, resWf_done, pbArrive_wf, resWf_next]

theorem execPbarw_wf {b : Field} {s : State} (hs : MemWf s) : ResWf (execPbarw b s) := by
  refine guarded_wf hs ?_
  grind [updThread_mem, resWf_raise, pbArrive_wf, waiting_wf, goOnWith_wf, suspend_mem, resWf_next]

@[simp] theorem rootArrive_mem (s : State) (x : Nat × Nat × Nat) : (rootArrive s x).mem = s.mem := by
  simp [rootArrive]

theorem execPbarrierRootArrival_wf {pb wg : Nat} {s : State} (hs : MemWf s) : ResWf (execPbarrierRootArrival pb wg s) := by
  grind [execPbarrierRootArrival, resWf_off, rootArrive_mem, resWf_next]

theorem pbDeliver_wf {s : State} {w pb : Nat} (hs : MemWf s) : MemWf (pbDeliver s w pb) := by
  unfold pbDeliver
  split
  · split
    · have h (g : Workgroup) (n : Nat) : MemWf (countItem (setWg s w g) n) := countItem_wf (hs.of_mem rfl)
      dsimp only
      split
      · exact headerPut_wf (h ..)
      · exact h ..
    · refine foldl_wf (fun s t hs => ?_) _ (hs.of_mem rfl)
      split
      · split
        · exact wake_wf (hs.of_mem (updThread_mem ..))
        · exact hs.of_mem (updThread_mem ..)
      · exact hs
  · exact hs

theorem pbRelease_wf {s : State} {pb : Nat} (hs : MemWf s) : MemWf (pbRelease s pb) := by
  unfold pbRelease
  exact foldl_wf (fun s x hs => by grind [pbDeliver_wf]) _ hs

theorem execPbarrierRelease_wf {pb : Nat} {s : State} (hs : MemWf s) : ResWf (execPbarrierRelease pb s) := by
  grind [execPbarrierRelease, resWf_off, pbRelease_wf, resWf_next]

theorem barriersUntil_wf {n : Nat} {s : State} {now : Nat} (hs : MemWf s) : MemWf (barriersUntil n s now) := by
  induction n generalizing s with
  | zero => exact hs
  | succ n ih =>
    unfold barriersUntil
    split
    · split
      · refine ih ?_
        split
        · exact hs.of_mem (by simp)
        · exact pbRelease_wf (hs.of_mem (elapse_mem ..))
      · exact hs
    · exact hs

theorem passTime_wf {s : State} {dt : Nat} (hs : MemWf s) : MemWf (passTime s dt) := by
  grind [passTime, elapse_mem, barriersUntil_wf]

@[simp] theorem setChan_mem (s : State) (w ch : Nat) (c : Chan) : (setChan s w ch c).mem = s.mem := by
  simp [setChan]

theorem deliver_wf {s : State} {w ch : Nat} {c : Chan} {x : Word32} (hs : MemWf s) : MemWf (deliver s w ch c x) := by
  grind [deliver, writeRA_mem, setChan_mem, wakeAgent_wf]

theorem execSend_wf {a b : Field} {s : State} (hs : MemWf s) : ResWf (execSend a b s) := by
  refine guarded_wf hs ?_
  grind [resWf_raise, resWf_done, setChan_mem, deliver_wf, resWf_next]

theorem execRecv_wf {d b : Field} {s : State} (hs : MemWf s) : ResWf (execRecv d b s) := by
  refine guarded_wf hs ?_
  grind [resWf_raise, writeR_mem, waiting_wf, goOnWith_wf, suspend_mem, setChan_mem, resWf_next]

theorem execChpoll_wf {d b : Field} {s : State} (hs : MemWf s) : ResWf (execChpoll d b s) := by
  refine guarded_wf hs ?_
  grind [resWf_raise, resWf_done, writeR_mem]

theorem execChannelSendResume_wf {wg ch : Nat} {s : State} (hs : MemWf s) : ResWf (execChannelSendResume wg ch s) := by
  grind [execChannelSendResume, advanceA_mem, deliver_wf, resWf_off, resWf_next]

end Sys2Proof.Laws
end

section
/-! SUPPORT. Memory's form under the operations of Machine/Tensor.lean, in their order. -/

namespace Sys2Proof.Laws

open Sys2Proof Sys2Proof.Machine

theorem readAs_wf {s : State} {i : Issuer} {copy : Bool} {va n : Nat} {r : List Byte × State} (hs : MemWf s)
    (e : readAs s i copy va n = .ok r) : MemWf r.2 := by
  grind [readAs, → bind_ok, readTgt_wf, useFree_mem]

theorem writeAs_wf {s : State} {i : Issuer} {q : Acc} {va : Nat} {l : List Byte} {t : State} (hs : MemWf s)
    (e : writeAs s i q va l = .ok t) : MemWf t := by
  grind [writeAs, → bind_ok, writeTgt_wf, countStale_mem]

theorem readSpanList_wf {s : State} {i : Issuer} {copy : Bool} {l : List (Nat × Nat)} {r : List Byte × State} (hs : MemWf s)
    (e : readSpanList s i copy l = .ok r) : MemWf r.2 := by
  induction l generalizing s r with
  | nil => cases e; exact hs
  | cons x l ih => grind [readSpanList, → bind_ok, → readAs_wf]

theorem oldSpanList_wf {s : State} {i : Issuer} {q : Acc} {l : List (Nat × Nat)} {r : List Byte × State} (hs : MemWf s)
    (e : oldSpanList s i q l = .ok r) : MemWf r.2 := by
  induction l generalizing s r with
  | nil => cases e; exact hs
  | cons x l ih =>
    unfold oldSpanList at e
    split at e
    · obtain ⟨u, hu, e⟩ := bind_ok e
      cases e
      exact ih (r := u) hs hu
    · obtain ⟨t, -, e⟩ := bind_ok e
      obtain ⟨u, hu, e⟩ := bind_ok e
      cases e
      exact ih (r := u) (s := { s with free := (heldBytes s t x.2).2.free }) hs hu

theorem writeSpanList_wf {s : State} {i : Issuer} {q : Acc} {b : List Byte} {l : List (Nat × Nat)} {t : State} (hs : MemWf s)
    (e : writeSpanList s i q b l = .ok t) : MemWf t := by
  induction l generalizing s b with
  | nil => cases e; exact hs
  | cons x l ih => grind [writeSpanList, → bind_ok, → writeAs_wf]

theorem readElem_wf {s : State} {i : Issuer} {copy all : Bool} {x : Desc} {r c : Nat} {u : Nat × State} (hs : MemWf s)
    (e : readElem s i copy all x r c = .ok u) : MemWf u.2 := by
  grind [readElem, → bind_ok, → readSpanList_wf]

theorem writeElem_wf {s : State} {i : Issuer} {q : Acc} {x : Desc} {r c v : Nat} {t : State} (hs : MemWf s)
    (e : writeElem s i q x r c v = .ok t) : MemWf t := by
  grind [writeElem, → bind_ok, → oldSpanList_wf, → writeSpanList_wf]

theorem readScale_wf {s : State} {i : Issuer} {x : Desc} {r c : Nat} {u : FVal × State} (hs : MemWf s)
    (e : readScale s i x r c = .ok u) : MemWf u.2 := by
  grind [readScale, → bind_ok, → readSpanList_wf]

@[simp] theorem dropWeights_mem (s : State) (w h : Nat) : (dropWeights s w h).mem = s.mem := by
  unfold dropWeights
  split <;> simp

theorem execTdset_wf {d a : Field} {s : State} (hs : MemWf s) : ResWf (execTdset d a s) := by
  refine guarded_wf hs ?_
  grind [updWg_mem, resWf_raise, resWf_done, → run_next, ResWf, raiseState_mem, → readParts_wf, dropWeights_mem, resWf_next]

theorem execTdget_wf {a b : Field} {s : State} (hs : MemWf s) : ResWf (execTdget a b s) := by
  refine guarded_wf hs ?_
  grind [resWf_raise, resWf_done, → run_next, ResWf, raiseState_mem, → writeParts_wf]

theorem execTdclr_wf {d : Field} {s : State} (hs : MemWf s) : ResWf (execTdclr d s) := by
  refine guarded_wf hs ?_
  grind [updWg_mem, resWf_raise, resWf_done, dropWeights_mem]

theorem execLdel_wf {d a b : Field} {s : State} (hs : MemWf s) : ResWf (execLdel d a b s) := by
  refine guarded_wf hs ?_
  split
  · simpa
  · dsimp only
    split
    · refine run_wf hs fun r hr => ?_
      obtain ⟨q, hq, hr⟩ := bind_ok hr
      obtain ⟨z, hz, hr⟩ := bind_ok hr
      cases hr
      simpa [MemWf] using readScale_wf (readElem_wf hs hq) hz
    · simpa [MemWf] using hs

theorem execLdeli_wf {d a b : Field} {s : State} (hs : MemWf s) : ResWf (execLdeli d a b s) := by
  refine guarded_wf hs ?_
  grind [resWf_raise, resWf_done, writeR_mem, → run_next, ResWf, raiseState_mem, → readElem_wf]

theorem execStel_wf {d a b : Field} {s : State} (hs : MemWf s) : ResWf (execStel d a b s) := by
  refine guarded_wf hs ?_
  grind [resWf_raise, resWf_done, → run_next, ResWf, raiseState_mem, → writeElem_wf]

theorem execPtload_wf {a b : Field} {s : State} (hs : MemWf s) : ResWf (execPtload a b s) := by
  refine guarded_wf hs ?_
  dsimp only
  split
  · simpa
  · refine run_wf hs fun r hr => ?_
    split
    · simpa
    · simpa [MemWf] using readParts_wf hs hr

theorem execPtread_wf {d a b : Field} {s : State} (hs : MemWf s) : ResWf (execPtread d a b s) := by
  refine guarded_wf hs ?_
  grind [resWf_raise, resWf_done, writeR_mem]

end Sys2Proof.Laws
end

section
/-! SUPPORT. Memory's form under the operations of Machine/Copies.lean, in their order. -/

namespace Sys2Proof.Laws

open Sys2Proof Sys2Proof.Machine

@[simp] theorem issueSlice_mem (s : State) (w h t : Nat) (c : Cohort) (eid r : Nat) : (issueSlice s w h t c eid r).mem = s.mem := by
  unfold issueSlice
  split <;> simp

theorem execCopy_wf {a b : Field} {s : State} (hs : MemWf s) : ResWf (execCopy a b s) := by
  refine guarded_wf hs (run_wf hs fun t ht => ?_)
  have h : MemWf (readTgt s (me s) t 32).2 := readTgt_wf hs
  grind [resWf_raise, resWf_done, resWf_next, issueSlice_mem]

theorem execCopyt_wf {a : Field} {s : State} (hs : MemWf s) : ResWf (execCopyt a s) := by
  refine guarded_wf hs (run_wf hs fun t ht => ?_)
  have h : MemWf (readTgt s (me s) t 32).2 := readTgt_wf hs
  grind [resWf_raise, resWf_done, resWf_next, addCopy_mem]

theorem settleClose_wf {s : State} {f : PForm} (hs : MemWf s) : MemWf (settleClose s f) := by
  grind [settleClose, setDie_mem, finishForm_wf]

theorem settleCloses_wf {s : State} (hs : MemWf s) : MemWf (settleCloses s) := by
  unfold settleCloses
  exact foldl_wf (fun s x hs => by grind [settleClose_wf]) _ hs

theorem copyWords_wf {i : Issuer} {src dst n : Nat} {s : State} {k : Nat} (hs : MemWf s) : MemWf (copyWords i src dst n s k).1 := by
  induction n generalizing s k with
  | zero => exact hs
  | succ n ih =>
    unfold copyWords
    split
    · next h =>
      obtain ⟨r, hr, h⟩ := bind_ok h
      exact ih (writeAs_wf (readAs_wf hs hr) h)
    · exact hs
    · exact hs

theorem copyBlocks_wf {i : Issuer} {src dst n : Nat} {s : State} {k : Nat} (hs : MemWf s) : MemWf (copyBlocks i src dst n s k).1 := by
  induction n generalizing s k with
  | zero => exact hs
  | succ n ih =>
    unfold copyBlocks
    split
    · next h =>
      obtain ⟨r, hr, h⟩ := bind_ok h
      exact ih (writeAs_wf (readSpanList_wf hs hr) h)
    · have h := copyWords_wf (i := i) (src := src) (dst := dst) (n := 32) (k := k) hs
      split
      · next h' =>
        rw [h'] at h
        exact ih h
      · exact h

theorem copySlice_wf {i : Issuer} {src dst n : Nat} {s : State} {k : Nat} (hs : MemWf s) : MemWf (copySlice i src dst n s k).1 := by
  grind [copySlice, copyWords_wf, copyBlocks_wf]

theorem copyElems_wf {i : Issuer} {x y : Desc} {n : Nat} {s : State} {k : Nat} (hs : MemWf s) : MemWf (copyElems i x y n s k).1 := by
  induction n generalizing s k with
  | zero => exact hs
  | succ n ih =>
    unfold copyElems
    dsimp only
    split
    · next h =>
      obtain ⟨r, hr, h⟩ := bind_ok h
      exact ih (writeElem_wf (readElem_wf hs hr) h)
    · exact hs
    · exact hs

theorem copyOutcome_wf {o : CopyOp} {x : State × Nat × Out Unit} {fin : State → State} (hx : MemWf x.1)
    (hf : ∀ t, MemWf t → MemWf (fin t)) : ResWf (copyOutcome o x fin) := by
  unfold copyOutcome
  dsimp only
  split
  · exact resWf_next.2 (settleCloses_wf (hf _ (hx.of_mem (updCopy_mem ..))))
  · exact resWf_next.2 (settleCloses_wf (hx.of_mem (by simp)))
  · exact resWf_next.2 (hx.of_mem (updCopy_mem ..))

theorem endSlice_wf {s : State} {o : CopyOp} (hs : MemWf s) : MemWf (endSlice s o) := by
  grind [endSlice, dropCopy_wf, postCopy_wf, finishCopyInst_wf]

theorem execCopySlicePerform_wf {op : Nat} {s : State} (hs : MemWf s) : ResWf (execCopySlicePerform op s) := by
  unfold execCopySlicePerform
  split
  · split
    · exact copyOutcome_wf (copySlice_wf hs) fun t ht => endSlice_wf ht
    · exact resWf_off.2 hs
  · exact resWf_off.2 hs

theorem execCopytPerform_wf {op : Nat} {s : State} (hs : MemWf s) : ResWf (execCopytPerform op s) := by
  unfold execCopytPerform
  split
  · split
    · exact copyOutcome_wf (copyElems_wf hs) fun t ht => postCopy_wf ht
    · exact resWf_off.2 hs
  · exact resWf_off.2 hs

end Sys2Proof.Laws
end

section
/-! SUPPORT. Memory's form under the operations of Machine/Placement.lean, in their order. -/

namespace Sys2Proof.Laws

open Sys2Proof Sys2Proof.Machine

@[simp] theorem postLaunch_mem (s : State) (l : Launch) (c : Cause) (info faddr : Nat) : (postLaunch s l c info faddr).mem = s.mem := by
  simp [postLaunch]

@[simp] theorem makeReady_mem (s : State) (l : Launch) : (makeReady s l).mem = s.mem := by
  simp [makeReady, apply_ite State.mem]

theorem startLaunch_wf {s : State} {p lid lvl : Nat} {sec sysq : Bool} {r : BitVec 1024} {t : State} (hs : MemWf s)
    (e : startLaunch s p lid lvl sec sysq r = .ok t) : MemWf t := by
  grind [startLaunch, → bind_ok, useTgt_mem, → entryChecks_wf, updLaunch_mem, postLaunch_mem, makeReady_mem]

@[simp] theorem refuseRecord_mem (s : State) (p lid lvl : Nat) (sec : Bool) (r : BitVec 1024) (c : Cause) (faddr : Nat) :
    (refuseRecord s p lid lvl sec r c faddr).mem = s.mem := by
  simp [refuseRecord]

theorem execQueueRecordTake_wf {p q : Nat} {s : State} (hs : MemWf s) : ResWf (execQueueRecordTake p q s) := by
  unfold execQueueRecordTake
  split
  · dsimp only
    split
    · exact resWf_next.2 (hs.of_mem (by simp))
    · split
      · exact resWf_next.2 (hs.of_mem (by simp))
      · split
        · next r hr =>
          have h : MemWf r.2 := homeRead_wf (hs.of_mem (setPart_mem ..)) hr
          split
          · next t ht => exact resWf_next.2 (startLaunch_wf (h.of_mem (by simp)) ht)
          · exact resWf_off.2 hs
        · exact resWf_off.2 hs
  · exact resWf_off.2 hs

theorem execDeviceLaunchTake_wf {p : Nat} {s : State} (hs : MemWf s) : ResWf (execDeviceLaunchTake p s) := by
  grind [execDeviceLaunchTake, resWf_off, → startLaunch_wf, resWf_next]

theorem watchRead_wf {s : State} {pa n : Nat} {r : Nat × State} (hs : MemWf s) (e : watchRead s pa n = .some r) : MemWf r.2 := by
  unfold watchRead at e
  split at e
  · cases e; exact hs
  · split at e
    · cases e
    · obtain ⟨q, hq, rfl⟩ := Option.map_eq_some_iff.1 e
      exact homeRead_wf hs hq

theorem execLaunchDependenceMet_wf {p lid : Nat} {s : State} (hs : MemWf s) : ResWf (execLaunchDependenceMet p lid s) := by
  grind [execLaunchDependenceMet, resWf_off, makeReady_mem, → watchRead_wf, resWf_next]

theorem execDispatcherReport_wf {d : Nat} {s : State} (hs : MemWf s) : ResWf (execDispatcherReport d s) := by
  unfold execDispatcherReport
  split
  · refine resWf_next.2 (foldl_wf (fun s p hs => ?_) _ hs)
    dsimp only
    split
    · exact hs
    · exact hs.of_mem rfl
  · exact resWf_off.2 hs

@[simp] theorem assignBatch_mem (s : State) (l : Launch) (d w : Nat) : (assignBatch s l d w).mem = s.mem := by
  simp [assignBatch, apply_ite State.mem]

theorem execWorkgroupRunHandoff_wf {p lid : Nat} {s : State} (hs : MemWf s) : ResWf (execWorkgroupRunHandoff p lid s) := by
  grind [execWorkgroupRunHandoff, updLaunch_mem, resWf_off, assignBatch_mem, resWf_next]

theorem adoptSplit_wf {s : State} {cid : Nat} (hs : MemWf s) : MemWf (adoptSplit s cid) := by
  grind [adoptSplit, writeBackCore_wf, updCore_mem]

theorem adoptPending_wf {s : State} {cid : Nat} (hs : MemWf s) : MemWf (adoptPending s cid) := by
  grind [adoptPending, adoptIdle_wf, adoptSplit_wf]

@[simp] theorem takeContext_mem (s : State) (cid p l : Nat) : (takeContext s cid p l).mem = s.mem := by
  grind [takeContext, setCore_mem]

theorem startWorkgroup_wf {s : State} {l : Launch} {wid cid : Nat} (hs : MemWf s) : MemWf (startWorkgroup s l wid cid) := by
  have h : MemWf (adoptPending s cid) := adoptPending_wf hs
  unfold startWorkgroup
  dsimp only
  refine MemWf.of_mem (foldl_wf (fun s t hs => enterThread_wf hs) _ (foldl_wf (fun s t hs => hs.of_mem (addThread_mem ..)) _ ?_)) rfl
  exact h.of_mem (by simp)

theorem releaseLaunch_wf {s : State} {p : Nat} (hs : MemWf s) : MemWf (releaseLaunch s p) := by
  unfold releaseLaunch
  exact foldl_wf (fun s x hs => by grind [releaseCore_wf]) _ hs

theorem execLaunchComplete_wf {p lid : Nat} {s : State} (hs : MemWf s) : ResWf (execLaunchComplete p lid s) := by
  grind [execLaunchComplete, → postAdd_wf, updLaunch_mem, resWf_off, postLaunch_mem, releaseLaunch_wf, resWf_next]

end Sys2Proof.Laws
end

section
/-! SUPPORT. Memory's form under the operations of Machine/System.lean, in their order. -/

namespace Sys2Proof.Laws

open Sys2Proof Sys2Proof.Machine

theorem sysForm_wf {ops : List Opnd} {lvl : Nat} {s : State} {k : State → Result} (hs : MemWf s) (hk : ResWf (k s)) :
    ResWf (sysForm ops lvl s k) := by
  refine guarded_wf hs ?_
  split
  · exact hk
  · exact resWf_next.2 hs

theorem answer_wf {s : State} {d : Field} {v : Nat} (hs : MemWf s) : ResWf (answer s d v) := by
  grind [answer, resWf_done, writeR_mem, release_wf]

theorem startForm_wf {s : State} {d : Field} {k : FormKind} (hs : MemWf s) : ResWf (startForm s d k) := by
  grind [startForm, updCtx_mem, updCtl_mem, resWf_next]

theorem execTrap_wf {k : BitVec 18} {s : State} (hs : MemWf s) : ResWf (execTrap k s) := by
  refine guarded_wf hs ?_
  simp [MemWf, hs]

theorem execBrk_wf {k : BitVec 18} {s : State} (hs : MemWf s) : ResWf (execBrk k s) := by
  refine guarded_wf hs ?_
  simp [MemWf, hs]

theorem execCsrr_wf {d : Field} {c : BitVec 12} {s : State} (hs : MemWf s) : ResWf (execCsrr d c s) := by
  refine guarded_wf hs ?_
  simp [MemWf, hs]

theorem csrEffect_wf {s : State} {e : CsrEnv} {c : Nat} (hs : MemWf s) : MemWf (csrEffect s e c) := by
  unfold csrEffect
  split
  · exact foldl_wf (fun s c hs => adoptSplit_wf hs) _ hs
  · exact hs

theorem execCsrw_wf {d : Field} {c : BitVec 12} {s : State} (hs : MemWf s) : ResWf (execCsrw d c s) := by
  refine guarded_wf hs ?_
  grind [resWf_done, csrEffect_wf, csrWrite_wf, resWf_next]

theorem execEret_wf {s : State} (hs : MemWf s) : ResWf (execEret s) := by
  grind [execEret, resWf_raise, sysForm_wf, eventReturn_mem, resWf_next]

theorem execWfi_wf {s : State} (hs : MemWf s) : ResWf (execWfi s) := by
  grind [execWfi, updCtl_mem, resWf_raise, sysForm_wf, resWf_next]

theorem execRgnflush_wf {d a : Field} {s : State} (hs : MemWf s) : ResWf (execRgnflush d a s) := by
  grind [execRgnflush, sysForm_wf, answer_wf, setRegion_mem]

theorem execRgnq_wf {d a : Field} {s : State} (hs : MemWf s) : ResWf (execRgnq d a s) := by
  grind [execRgnq, sysForm_wf, answer_wf]

@[simp] theorem setRot_mem (s : State) (p rx ry v : Nat) : (setRot s p rx ry v).mem = s.mem := by
  unfold setRot
  split <;> simp

theorem execOwnxfer_wf {d a b : Field} {s : State} (hs : MemWf s) : ResWf (execOwnxfer d a b s) := by
  grind [execOwnxfer, sysForm_wf, answer_wf, startForm_wf, setRot_mem]

theorem dropRows_wf {s : State} {d g : Nat} {lines : List Nat} (hs : MemWf s) : MemWf (dropRows s d g lines) := by
  exact MemWf.of_mem (foldl_wf (fun s l hs => foldl_wf (fun s c hs => writeBackLine_wf hs) (cgCores d g) hs) lines hs) (dropL2_mem ..)

theorem moveRegion_wf {s : State} {p rx ry d0 g0 d g : Nat} (hs : MemWf s) : MemWf (moveRegion s p rx ry d0 g0 d g) := by
  grind [moveRegion, adoptIdle_wf, setRegion_mem, setRot_mem, dropRows_wf, stepUnit_mem, hearthDrain_mem]

theorem execOwnxferComplete_wf {form : Nat} {s : State} (hs : MemWf s) : ResWf (execOwnxferComplete form s) := by
  grind [execOwnxferComplete, finishForm_wf, resWf_off, moveRegion_wf, resWf_next]

@[simp] theorem stopClock_mem (s : State) (d g : Nat) : (stopClock s d g).mem = s.mem := by
  simp [stopClock, apply_ite State.mem]

@[simp] theorem startClock_mem (s : State) (d g : Nat) : (startClock s d g).mem = s.mem := by
  grind [startClock, setCg_mem]

@[simp] theorem dropGroup_mem (s : State) (d g : Nat) : (dropGroup s d g).mem = s.mem := by
  simp [dropGroup]

theorem gateCore_wf {s : State} {cid : Nat} (hs : MemWf s) : MemWf (gateCore s cid) := by
  grind [gateCore, writeBackCore_wf, setCore_mem]

theorem setPower_wf {s : State} {d g st : Nat} (hs : MemWf s) : MemWf (setPower s d g st) := by
  unfold setPower
  dsimp only
  split
  · split
    · exact hs.of_mem rfl
    · have h := foldl_wf (fun s c hs => gateCore_wf (cid := c) hs) (cgCores d g) (hs.of_mem (stopClock_mem s d g))
      exact h.of_mem (by simp)
  · split
    · exact hs.of_mem rfl
    · split <;> exact hs.of_mem (by simp)

@[simp] theorem resumeCrossing_mem (s : State) (d : Nat) : (resumeCrossing s d).mem = s.mem := by
  simp [resumeCrossing]

@[simp] theorem clearTrip_mem (s : State) (d : Nat) : (clearTrip s d).mem = s.mem := by
  unfold clearTrip
  exact foldl_mem (fun s x => by grind [startClock_mem]) _ _

@[simp] theorem startRelock_mem (s : State) (d p : Nat) : (startRelock s d p).mem = s.mem := by
  simp [startRelock]

theorem execPstep_wf {d a b : Field} {s : State} (hs : MemWf s) : ResWf (execPstep d a b s) := by
  refine sysForm_wf hs ?_
  dsimp only
  split
  · exact answer_wf hs
  · split
    · exact answer_wf hs
    · split
      · refine .ite (answer_wf (.ite ?_ (foldl_wf (fun _ _ h => setPower_wf h) _ ?_)))
          (startForm_wf (.of_mem (.ite ?_ (foldl_wf (fun _ _ h => setPower_wf h) _ ?_)) (startRelock_mem ..))) <;>
        exact .ite (hs.of_mem (by simp)) hs
      · exact answer_wf (hs.of_mem (useFree_mem ..))

theorem execRelockEnd_wf {d : Nat} {s : State} (hs : MemWf s) : ResWf (execRelockEnd d s) := by
  unfold execRelockEnd
  dsimp only
  split
  · split
    · exact resWf_next.2 (foldl_wf (fun s f hs => finishForm_wf hs) _ (hs.of_mem rfl))
    · exact resWf_off.2 hs
  · exact resWf_off.2 hs

theorem execPowerUpComplete_wf {d g : Nat} {s : State} (hs : MemWf s) : ResWf (execPowerUpComplete d g s) := by
  grind [execPowerUpComplete, setCg_mem, startClock_mem, resWf_off, resWf_next]

theorem execThermalTrip_wf {d temp : Nat} {s : State} (hs : MemWf s) : ResWf (execThermalTrip d temp s) := by
  unfold execThermalTrip
  split
  · have h (l : List Nat) : (l.foldl (fun s g => stopClock s d g) s).mem = s.mem := foldl_mem (fun s g => stopClock_mem s d g) l s
    exact resWf_next.2 (hs.of_mem (by simp [h]))
  · exact resWf_off.2 hs

theorem execLwopen_wf {d a : Field} {s : State} (hs : MemWf s) : ResWf (execLwopen d a s) := by
  grind [execLwopen, setDie_mem, sysForm_wf, answer_wf, dregSet_mem]

theorem execLwclose_wf {d a : Field} {s : State} (hs : MemWf s) : ResWf (execLwclose d a s) := by
  grind [execLwclose, setDie_mem, sysForm_wf, answer_wf, startForm_wf]

@[simp] theorem digestLarder_mem (s : State) (d : Nat) : (digestLarder s d).mem = s.mem := by
  have h (l : List Nat) (s : State) (f : Nat → Nat) : (l.foldl (fun s k => dregSet s d (0x100 + 8 * k) (f k)) s).mem = s.mem :=
    foldl_mem (fun s k => dregSet_mem ..) l s
  unfold digestLarder
  dsimp only
  rw [dregSet_mem, h]
  split <;> rfl

theorem execLarderDigestDone_wf {d : Nat} {s : State} (hs : MemWf s) : ResWf (execLarderDigestDone d s) := by
  grind [execLarderDigestDone, resWf_off, digestLarder_mem, resWf_next]

theorem execChbind_wf {d a b : Field} {s : State} (hs : MemWf s) : ResWf (execChbind d a b s) := by
  grind [execChbind, updWg_mem, setChan_mem, sysForm_wf, answer_wf]

theorem execPbset_wf {d a b : Field} {s : State} (hs : MemWf s) : ResWf (execPbset d a b s) := by
  grind [execPbset, sysForm_wf, answer_wf]

theorem execDierd_wf {d a : Field} {s : State} (hs : MemWf s) : ResWf (execDierd d a s) := by
  grind [execDierd, useFree_mem, sysForm_wf, answer_wf]

theorem execDiewr_wf {d a b : Field} {s : State} (hs : MemWf s) : ResWf (execDiewr d a b s) := by
  grind [execDiewr, sysForm_wf, answer_wf, dieWrite_wf]

@[simp] theorem trained_mem (s : State) (n : Nat) : (trained s n).mem = s.mem := by
  simp [trained]

theorem execLinktrn_wf {d a : Field} {s : State} (hs : MemWf s) : ResWf (execLinktrn d a s) := by
  grind [execLinktrn, useFree_mem, sysForm_wf, answer_wf, trained_mem]

end Sys2Proof.Laws
end

section
/-! SUPPORT. Memory's form under the operations of Machine/Boot.lean, in their order. -/

namespace Sys2Proof.Laws

open Sys2Proof Sys2Proof.Machine

theorem execPackageReset_wf {s : State} (hs : MemWf s) : ResWf (execPackageReset s) := by
  exact resWf_next.2 (wf_filter 0 s.mem _ hs)

@[simp] theorem setBootStat_mem (s : State) (stage err : Nat) : (setBootStat s stage err).mem = s.mem := by
  simp [setBootStat]

@[simp] theorem bootFail_mem (s : State) (stage err : Nat) : (bootFail s stage err).mem = s.mem := by
  simp [bootFail]

@[simp] theorem trainPorts_mem (s : State) : (trainPorts s).mem = s.mem := by
  unfold trainPorts
  exact foldl_mem (fun s x => by grind [dregSet_mem]) _ _

theorem buildPool_wf {s : State} (hs : MemWf s) : MemWf (buildPool s) := by
  unfold buildPool
  refine foldl_wf (f := fun s d => { s with tbl := Memory.write s.tbl (replicaAddr d Config.devicePool.2.2 0 0) _ }) (fun _ _ h => h) _ ?_
  exact memory_write_wf _ s.mem _ hs

theorem bootOn_wf {s : State} {l : List Byte} (hs : MemWf s) : MemWf (bootOn s l) := by
  unfold bootOn
  dsimp only
  split
  · exact hs.of_mem (by simp)
  · have h := buildPool_wf (hs.of_mem (trainPorts_mem s))
    refine MemWf.of_mem (s := (shadingDies (buildPool (trainPorts s))).foldl digestLarder (buildPool (trainPorts s))) ?_ (by simp)
    exact foldl_wf (fun s d hs => hs.of_mem (digestLarder_mem s d)) _ h

theorem execBootImageFetch_wf {image : List Byte} {s : State} (hs : MemWf s) : ResWf (execBootImageFetch image s) := by
  grind [execBootImageFetch, resWf_off, bootFail_mem, bootOn_wf, resWf_next]

theorem execAttestationReport_wf {nonce : List Byte} {dest : Nat} {s : State} (hs : MemWf s) :
    ResWf (execAttestationReport nonce dest s) := by
  grind [execAttestationReport, → writeParts_wf, resWf_off, resWf_next]

end Sys2Proof.Laws
end

section
/-! SUPPORT. Memory's form under the operations of Machine/Coherence.lean, in their order. -/

namespace Sys2Proof.Laws

open Sys2Proof Sys2Proof.Machine

@[simp] theorem startTrans_mem (s : State) (m : Trans) : (startTrans s m).mem = s.mem := by
  simp [startTrans]

theorem execHomeReadRequest_wf {cid line : Nat} {words : Word32} {s : State} (hs : MemWf s) :
    ResWf (execHomeReadRequest cid line words s) := by
  grind [execHomeReadRequest, hostPermit_mem, combine_wf, hostShare_mem, recallL2_mem, resWf_off, startTrans_mem, resWf_next]

theorem execHomeOwnershipRequest_wf {cid line : Nat} {words : Word32} {s : State} (hs : MemWf s) :
    ResWf (execHomeOwnershipRequest cid line words s) := by
  grind [execHomeOwnershipRequest, hostPermit_mem, hostOwn_mem, combine_wf, clearL2_mem, resWf_off, startTrans_mem, resWf_next]

@[simp] theorem loseWords_mem (s : State) (cid line : Nat) (w : Word32) (keep : Bool) : (loseWords s cid line w keep).mem = s.mem := by
  simp [loseWords]

@[simp] theorem gotMessage_mem (s : State) (cid : Nat) (m : Trans) (dw : Word32) (owned : Bool) :
    (gotMessage s cid m dw owned).mem = s.mem := by
  simp [gotMessage]

theorem execL1Invalidation_wf {cid line : Nat} {s : State} (hs : MemWf s) : ResWf (execL1Invalidation cid line s) := by
  grind [execL1Invalidation, resWf_off, gotMessage_mem, loseWords_mem, resWf_next]

theorem execL1Recall_wf {cid line : Nat} {s : State} (hs : MemWf s) : ResWf (execL1Recall cid line s) := by
  grind [execL1Recall, resWf_off, gotMessage_mem, loseWords_mem, resWf_next]

theorem execHomeAckReceived_wf {line cid : Nat} {s : State} (hs : MemWf s) : ResWf (execHomeAckReceived line cid s) := by
  grind [execHomeAckReceived, resWf_off, resWf_next]

theorem execDataReplyArrival_wf {cid line : Nat} {s : State} (hs : MemWf s) : ResWf (execDataReplyArrival cid line s) := by
  grind [execDataReplyArrival, setLine_mem, makeRoom_wf, sliceLine_mem, resWf_off, resWf_next]

theorem execHomeWriteback_wf {cid line : Nat} {words : Word32} {s : State} (hs : MemWf s) : ResWf (execHomeWriteback cid line words s) := by
  grind [execHomeWriteback, touchLlc_mem, setLine_mem, resWf_off, resWf_next]

theorem execHomeUReduction_wf {cid line word kind : Nat} {v : Word32} {s : State} (hs : MemWf s) :
    ResWf (execHomeUReduction cid line word kind v s) := by
  grind [execHomeUReduction, applyDeltas_wf, setLine_mem, resWf_off, resWf_next]

theorem execL1Eviction_wf {cid line : Nat} {s : State} (hs : MemWf s) : ResWf (execL1Eviction cid line s) := by
  grind [execL1Eviction, writeBackLine_wf, resWf_off, resWf_next]

theorem execLarderRefreshStart_wf {d g : Nat} {s : State} (hs : MemWf s) : ResWf (execLarderRefreshStart d g s) := by
  grind [execLarderRefreshStart, setDie_mem, resWf_off, resWf_next]

theorem execLarderRefreshEnd_wf {d g : Nat} {s : State} (hs : MemWf s) : ResWf (execLarderRefreshEnd d g s) := by
  grind [execLarderRefreshEnd, setDie_mem, resWf_off, resWf_next]

end Sys2Proof.Laws
end

section
/-! SUPPORT. Memory's form under the operations of Machine/Displays.lean, in their order. -/

namespace Sys2Proof.Laws

open Sys2Proof Sys2Proof.Machine

@[simp] theorem streamFault_mem (s : State) (p v : Nat) (c : Cause) (faddr : Nat) : (streamFault s p v c faddr).mem = s.mem := by
  simp [streamFault]

@[simp] theorem skipFrame_mem (s : State) (p v : Nat) : (skipFrame s p v).mem = s.mem := by
  simp [skipFrame]

@[simp] theorem halfReal_mem (s : State) (x : Nat) : (halfReal s x).2.mem = s.mem := by
  unfold halfReal
  split <;> simp

@[simp] theorem pixelReals_mem (s : State) (wide : Bool) (l : List Byte) : (pixelReals s wide l).2.mem = s.mem := by
  unfold pixelReals
  split
  · exact List.foldlRecOn (motive := fun r : List Frac × State => r.2.mem = s.mem) _ _ rfl fun r h k _ => (halfReal_mem ..).trans h
  · rfl

theorem overSource_wf {s : State} {i : Issuer} {q : Plane} {x y : Int} {c : List Frac} {r : List Frac × State} (hs : MemWf s)
    (e : overSource s i q x y c = .ok r) : MemWf r.2 := by
  grind [overSource, → bind_ok, → readMem_wf, pixelReals_mem]

theorem pixelColour_wf {s : State} {i : Issuer} {x y : Int} {l : List Plane} {acc : List Frac} {r : List Frac × State} (hs : MemWf s)
    (e : pixelColour s i x y l acc = .ok r) : MemWf r.2 := by
  induction l generalizing s acc with
  | nil => cases e; exact hs
  | cons q l ih =>
    obtain ⟨u, hu, e⟩ := bind_ok e
    exact ih (overSource_wf hs hu) e

theorem frameColours_wf {s : State} {i : Issuer} {qs : List Plane} {w total n : Nat} {r : List (List Frac) × State} (hs : MemWf s)
    (e : frameColours s i qs w total n = .ok r) : MemWf r.2 := by
  induction n generalizing s r with
  | zero => cases e; exact hs
  | succ n ih =>
    obtain ⟨u, hu, e⟩ := bind_ok e
    obtain ⟨z, hz, e⟩ := bind_ok e
    cases e
    exact ih (r := z) (pixelColour_wf hs hu) hz

theorem framePages_wf {s : State} {i : Issuer} {qs : List Plane} {w n : Nat} (hs : MemWf s) : MemWf (framePages s i qs w n) := by
  refine List.foldlRecOn (motive := fun r : State × Bool => MemWf r.1) _ _ hs fun r h x _ => ?_
  split
  · exact h
  · split
    · next hr => exact readMem_wf h hr
    · exact h

@[simp] theorem dueGone_mem (s : State) (p v : Nat) : (dueGone s p v).mem = s.mem := by
  simp [dueGone]

theorem execFrameCapture_wf {p v : Nat} {s : State} (hs : MemWf s) : ResWf (execFrameCapture p v s) := by
  grind [execFrameCapture, setDisp_mem, resWf_off, dueGone_mem, skipFrame_mem, → frameColours_wf, streamFault_mem, framePages_wf,
    resWf_next]

theorem engineWrite_wf {s : State} {i : Issuer} {n va : Nat} {l : List Byte} (hs : MemWf s) : MemWf (engineWrite s i n va l).1 := by
  induction n generalizing s va l with
  | zero => exact hs
  | succ n ih =>
    unfold engineWrite
    dsimp only
    split
    · exact hs
    · split
      · exact ih (writeTgt_wf hs)
      · exact hs
      · exact hs

theorem frameGone_wf {s : State} {p v : Nat} (hs : MemWf s) : MemWf (frameGone s p v) := by
  grind [frameGone, blocksAdopt_wf, setDisp_mem]

theorem postFrame_wf {s : State} {p v : Nat} (hs : MemWf s) : MemWf (postFrame s p v) := by
  grind [postFrame, blocksAdopt_wf, setDisp_mem, → postAdd_wf, streamFault_mem]

theorem execFrameEncodeDone_wf {p v : Nat} {s : State} (hs : MemWf s) : ResWf (execFrameEncodeDone p v s) := by
  grind [execFrameEncodeDone, useFree_mem, pregSet_mem, setDisp_mem, resWf_off, skipFrame_mem, streamFault_mem, postFrame_wf,
    frameGone_wf, engineWrite_wf, resWf_next]

end Sys2Proof.Laws
end

section
/-! SUPPORT. Memory's form under the operations of Machine/Geometry.lean, in their order. -/

namespace Sys2Proof.Laws

open Sys2Proof Sys2Proof.Machine

theorem execEmitvp_wf {a : Field} {s : State} (hs : MemWf s) : ResWf (execEmitvp a s) := by
  refine guarded_wf hs ?_
  grind [readTgt_wf, resWf_raise, resWf_done, run_wf, resWf_next]

theorem readRst_wf {s : State} {i : Issuer} {n : Nat} {r : Option (BitVec 512) × State} (hs : MemWf s)
    (e : readRst s i n = .ok r) : MemWf r.2 := by
  grind [readRst, → readMem_wf]

theorem addTriangle_mem {s : State} {m : Meshlet} {r : BitVec 512} {rx ry : Nat} {tri : List Word32} {t : State}
    (e : addTriangle s m r rx ry tri = .some t) : t.mem = s.mem := by
  grind [addTriangle, closePacket_mem]

@[simp] theorem addRegions_mem (m : Meshlet) (r : BitVec 512) (v : Vtx × Vtx × Vtx × Bool) (t : Nat) (l : List (Nat × Nat)) (s : State)
    (k : Nat) : (addRegions m r v t l s k).1.mem = s.mem := by
  induction l generalizing s k with
  | nil => rfl
  | cons a l ih =>
    unfold addRegions
    split
    · next h => rw [ih, addTriangle_mem h]
    · rfl

@[simp] theorem binTriangles_mem (m : Meshlet) (r : Option (BitVec 512)) (n : Nat) (s : State) (t k : Nat) :
    (binTriangles m r n s t k).1.mem = s.mem := by
  induction n generalizing s t k with
  | zero => rfl
  | succ n ih =>
    unfold binTriangles
    split
    · rw [ih, countUp_mem]
    · next q v _ =>
      have h := addRegions_mem m q v t ((triangleRegions q v.1 v.2.1 v.2.2.1).drop k) s k
      split
      · next h' =>
        rw [h'] at h
        rw [ih, h]
      · next h' =>
        rw [h'] at h
        exact h

theorem execBinningMeshlet_wf {d g : Nat} {s : State} (hs : MemWf s) : ResWf (execBinningMeshlet d g s) := by
  grind [execBinningMeshlet, adoptIdle_wf, closeBatch_mem, resWf_off, → readRst_wf, binTriangles_mem, resWf_next]

theorem execVisPacketArrival_wf {pkt : Nat} {s : State} (hs : MemWf s) : ResWf (execVisPacketArrival pkt s) := by
  grind [execVisPacketArrival, resWf_off, setPacket_mem, acceptPacket_mem, resWf_next]

theorem execPacketResend_wf {pkt : Nat} {s : State} (hs : MemWf s) : ResWf (execPacketResend pkt s) := by
  grind [execPacketResend, resWf_off, acceptPacket_mem, resWf_next]

@[simp] theorem sendSeals_mem (s : State) (cast : Nat) (b : MeshBatch) (d g : Nat) : (sendSeals s cast b d g).mem = s.mem := by
  unfold sendSeals
  exact foldl_mem (fun s x => by grind) _ _

theorem execBatchRetire_wf {part bseq : Nat} {s : State} (hs : MemWf s) : ResWf (execBatchRetire part bseq s) := by
  unfold execBatchRetire
  split
  · split
    · exact resWf_next.2 (hs.of_mem ((foldl_mem (fun _ _ => sendSeals_mem ..) _ _).trans (updBatch_mem ..)))
    · exact resWf_off.2 hs
  · exact resWf_off.2 hs

theorem execSealArrival_wf {sl : Nat} {s : State} (hs : MemWf s) : ResWf (execSealArrival sl s) := by
  unfold execSealArrival
  split
  · split
    · exact resWf_off.2 hs
    · exact resWf_next.2 (hs.of_mem ((stepUnit_mem ..).trans (foldl_mem (fun _ _ => countUp_mem ..) _ s)))
  · exact resWf_off.2 hs

theorem execRasterInputFree_wf {die cg : Nat} {s : State} (hs : MemWf s) : ResWf (execRasterInputFree die cg s) := by
  grind [execRasterInputFree, resWf_off, stepUnit_mem, resWf_next]

end Sys2Proof.Laws
end

section
/-! SUPPORT. Memory's form under the operations of Machine/Fragments.lean, in their order. -/

namespace Sys2Proof.Laws

open Sys2Proof Sys2Proof.Machine

@[simp] theorem rasterTriangle_mem (k : Packet) (s : State) (tri : List Word32) : (rasterTriangle k s tri).mem = s.mem := by
  simp [rasterTriangle]

theorem execRasterPacket_wf {die cg : Nat} {s : State} (hs : MemWf s) : ResWf (execRasterPacket die cg s) := by
  unfold execRasterPacket
  split
  · exact resWf_next.2 (adoptIdle_wf (hs.of_mem ((foldl_mem (fun _ _ => rasterTriangle_mem ..) _ _).trans (dropPacket_mem ..))))
  · exact resWf_off.2 hs

theorem dropFrag_wf {s : State} {id : Nat} (hs : MemWf s) : MemWf (dropFrag s id) := by
  grind [dropFrag, adoptIdle_wf]

@[simp] theorem discardUnspawned_mem (s : State) (f : Frag) : (discardUnspawned s f).mem = s.mem := by
  simp [discardUnspawned]

@[simp] theorem resetFrags_mem (s : State) (d : Nat) : (resetFrags s d).mem = s.mem := by
  unfold resetFrags
  exact foldl_mem (fun s x => by grind [discardUnspawned_mem]) _ _

theorem execFragmentSpawn_wf {die cg : Nat} {s : State} (hs : MemWf s) : ResWf (execFragmentSpawn die cg s) := by
  unfold execFragmentSpawn
  split
  · exact resWf_off.2 hs
  · split
    · exact resWf_next.2 (hs.of_mem (discardUnspawned_mem ..))
    · split
      · exact resWf_off.2 hs
      · split
        · exact resWf_next.2 (hs.of_mem (discardUnspawned_mem ..))
        · exact resWf_off.2 hs
        · next hu =>
          have h := checkEntryAs_wf hs hu
          dsimp only
          split
          · next ht => exact resWf_next.2 (.of_mem (placeThread_wf (h.of_mem (by simp)) ht) (updFrag_mem ..))
          · exact resWf_off.2 hs

theorem fragForm_wf {f : Frag → Frag} {s : State} (hs : MemWf s) : ResWf (fragForm f s) := by
  grind [fragForm, resWf_raise, resWf_done, resWf_next]

theorem execBlnd_wf {a : Field} {s : State} (hs : MemWf s) : ResWf (execBlnd a s) := by
  refine guarded_wf hs ?_
  grind [fragForm_wf]

theorem execDiscard_wf {s : State} (hs : MemWf s) : ResWf (execDiscard s) := by
  refine guarded_wf hs ?_
  grind [fragForm_wf]

theorem execDepthw_wf {a : Field} {s : State} (hs : MemWf s) : ResWf (execDepthw a s) := by
  refine guarded_wf hs ?_
  grind [fragForm_wf]

theorem blendRead_wf {s : State} {f : Frag} {va n : Nat} {r : Nat × State} (hs : MemWf s) (e : blendRead s f va n = .ok r) : MemWf r.2 := by
  grind [blendRead, → bind_ok, useTgt_mem, heldBytes_wf]

theorem blendWrite_wf {s : State} {f : Frag} {va n x : Nat} {t : State} (hs : MemWf s) (e : blendWrite s f va n x = .ok t) : MemWf t := by
  grind [blendWrite, → bind_ok, writeTgt_wf, setRegion_mem]

theorem blendRun_wf {c : List Word32} {n : Nat} {s : State} {f : Frag} (hs : MemWf s) : MemWf (blendRun c n s f).1 := by
  induction n generalizing s f with
  | zero => exact hs
  | succ n ih =>
    unfold blendRun
    dsimp only
    split
    · split
      · next h =>
        split
        · exact ih (blendRead_wf hs h)
        · exact blendRead_wf hs h
      · exact hs
      · exact hs
    · split
      · next h => exact ih (blendWrite_wf hs h)
      · exact hs
      · exact hs
    · split
      · next h => exact ih (blendRead_wf hs h)
      · exact hs
      · exact hs
    · split
      · next h => exact blendWrite_wf hs h
      · exact hs
      · exact hs

theorem execBlendFragment_wf {frag : Nat} {s : State} (hs : MemWf s) : ResWf (execBlendFragment frag s) := by
  grind [execBlendFragment, raiseEngine_mem, setRegion_mem, dropFrag_wf, resWf_off, blendRun_wf, updFrag_mem, resWf_next]

end Sys2Proof.Laws
end

section
/-! SUPPORT. Memory's form under the operations of Machine/Hosts.lean, in their order. -/

namespace Sys2Proof.Laws

open Sys2Proof Sys2Proof.Machine

@[simp] theorem answerOut_mem (s : State) (good : Bool) (l : List Byte) : (answerOut s good l).mem = s.mem := by
  simp [answerOut]

@[simp] theorem hostRej_mem (s : State) : (hostRej s).mem = s.mem := by
  simp [hostRej]

theorem execHostMemRead_wf {pa : Nat} {own : Bool} {s : State} (hs : MemWf s) : ResWf (execHostMemRead pa own s) := by
  grind [execHostMemRead, lineOwn_wf, readTgt_wf, resWf_off, answerOut_mem, hostRej_mem, resWf_next]

theorem execHostMemWrite_wf {pa : Nat} {l : List Byte} {s : State} (hs : MemWf s) : ResWf (execHostMemWrite pa l s) := by
  grind [execHostMemWrite, writeTgt_wf, resWf_off, hostRej_mem, resWf_next]

theorem hostRecall_wf {s : State} {line : Nat} (hs : MemWf s) : MemWf (hostRecall s line) := by
  grind [hostRecall, lineOwn_wf, clearL2_mem]

theorem execHostSnoop_wf {pa : Nat} {s : State} (hs : MemWf s) : ResWf (execHostSnoop pa s) := by
  grind [execHostSnoop, resWf_off, hostRecall_wf, resWf_next]

theorem outsideStore_wf {s : State} {pa : Nat} {l : List Byte} (hs : MemWf s) : MemWf (outsideStore s pa l) := by
  grind [outsideStore, recode_mem, putBytes_wf, hostRecall_wf]

@[simp] theorem hostLoad_mem (s : State) (o : Nat) : (hostLoad s o).mem = s.mem := by
  unfold hostLoad
  split <;> simp

theorem peerAccess_wf {base last c o kind n : Nat} {data : List Byte} {s : State} (hs : MemWf s) :
    ResWf (peerAccess base last c o kind n data s) := by
  have hout (b : Bool) (l : List Byte) {t : State} (ht : MemWf t) : ResWf (.next (answerOut t b l)) := resWf_next.2 (ht.of_mem
    (answerOut_mem ..))
  unfold peerAccess
  dsimp only
  generalize (if kind = 0 then n else if kind = 1 then data.length else peerWidth (kind - 2) data.length) = len
  generalize (if bitAt c 31 && decide ((base * 65536 + o + len - 1) / 65536 ≤ last) then leavesTo s (c % 64) (base * 65536 + o) else []) =
    leaves
  refine .ite (resWf_off.2 hs) ?_
  split
  · exact hout _ _ (hs.of_mem (hostRej_mem ..))
  · refine .ite (hout _ _ (hs.of_mem (hostRej_mem ..))) (.ite (hout _ _ hs) ?_)
    split
    · exact resWf_off.2 hs
    · exact hout _ _ hs
    · next t _ =>
      refine .ite (hout _ _ (writeTgt_wf hs)) (hout _ _ ?_)
      have h : MemWf (readTgt s (outside (c % 64)) t len).2 := readTgt_wf hs
      generalize (if kind = 0 then none else peerAtomic (kind - 2) len _ _ : Option Nat) = v
      cases v with
      | none => rwa [Option.elim_none]
      | some v =>
        rw [Option.elim_some]
        exact writeTgt_wf h

theorem execPeerInboundAccess_wf {port o kind n : Nat} {data : List Byte} {s : State} (hs : MemWf s) :
    ResWf (execPeerInboundAccess port o kind n data s) := by
  grind [execPeerInboundAccess, resWf_off, peerAccess_wf]

theorem execPeerCompletion_wf {op : Nat} {s : State} (hs : MemWf s) : ResWf (execPeerCompletion op s) := by
  grind [execPeerCompletion, resWf_off, resWf_next]

end Sys2Proof.Laws
end

section
/-! SUPPORT. Memory's form under the operations of Machine/Integer.lean, in their order. -/

namespace Sys2Proof.Laws

open Sys2Proof Sys2Proof.Machine

theorem intWRR_wf {f : (n : Nat) → BitVec n → BitVec n → BitVec n} {d a b : Field} {s : State} (hs : MemWf s) :
    ResWf (intWRR f d a b s) := by
  refine guarded_wf hs ?_
  simp [MemWf, hs]

theorem intMRR_wf {f : (n : Nat) → BitVec n → BitVec n → BitVec n → BitVec n} {d a b : Field} {s : State} (hs : MemWf s) :
    ResWf (intMRR f d a b s) := by
  refine guarded_wf hs ?_
  simp [MemWf, hs]

theorem intWR_wf {f : (n : Nat) → BitVec n → BitVec n} {d a : Field} {s : State} (hs : MemWf s) : ResWf (intWR f d a s) := by
  refine guarded_wf hs ?_
  simp [MemWf, hs]

theorem intWRI_wf {f : (n : Nat) → BitVec n → BitVec n → BitVec n} {d a : Field} {i : BitVec 11} {s : State} (hs : MemWf s) :
    ResWf (intWRI f d a i s) := by
  refine guarded_wf hs ?_
  simp [MemWf, hs]

theorem execBlock_wf (p : BitVec 12) (l : BitVec 8) (f : BitVec 2) (c : BitVec 1) {s : State} (hs : MemWf s) :
    ResWf (execBlock p l f c s) := by
  unfold execBlock
  split
  · split
    · exact resWf_raise.2 hs
    · exact resWf_done.2 hs
  · exact resWf_fault

theorem execMovi_wf {d : Field} {i : BitVec 18} {s : State} (hs : MemWf s) : ResWf (execMovi d i s) := by
  refine guarded_wf hs ?_
  simp [MemWf, hs]

theorem execMovhi_wf {d : Field} {i : BitVec 18} {s : State} (hs : MemWf s) : ResWf (execMovhi d i s) := by
  refine guarded_wf hs ?_
  simp [MemWf, hs]

theorem execPcadr_wf {d : Field} {i : BitVec 18} {s : State} (hs : MemWf s) : ResWf (execPcadr d i s) := by
  refine guarded_wf hs ?_
  simp [MemWf, hs]

end Sys2Proof.Laws
end

section
/-! SUPPORT. Memory's form under the operations of Machine/Matrix.lean, in their order. -/

namespace Sys2Proof.Laws

open Sys2Proof Sys2Proof.Machine

@[simp] theorem holdSpans_mem (i : Issuer) (wr : Bool) (l : List (Nat × Nat)) (s : State) : (holdSpans i wr l s).mem = s.mem := by
  refine foldl_mem (fun s x => ?_) l s
  split
  · cases findLeaf s (walkDie i.die) i.part x.1 with
    | none => rfl
    | some t => exact useLeaf_mem ..
  · rfl

theorem storeSet_wf {s : State} {cid w : Nat} (hs : MemWf s) : MemWf (storeSet s cid w) := by
  grind [storeSet, putBytes_wf, updCtx_mem, recodeRange_mem]

@[simp] theorem loadSet_mem (s : State) (cid w : Nat) : (loadSet s cid w).mem = s.mem := by
  grind [loadSet, physRead_mem, updCtx_mem]

theorem takeEngine_wf {s : State} {cid w : Nat} (hs : MemWf s) : MemWf (takeEngine s cid w) := by
  unfold takeEngine
  dsimp only
  split
  · exact hs
  · refine .of_mem ?_ ((updCore_mem ..).trans (loadSet_mem ..))
    cases (coreAt s cid).resident with
    | none => rwa [Option.elim_none]
    | some v =>
      rw [Option.elim_some]
      exact storeSet_wf hs

theorem placeSet_wf {s : State} {cid w : Nat} (hs : MemWf s) : MemWf (placeSet s cid w) := by
  grind [placeSet, storeSet_wf, takeEngine_wf]

theorem acceptOp_wf {s : State} {o : MatOp} (hs : MemWf s) : MemWf (acceptOp s o) := by
  grind [acceptOp, updCtx_mem, holdSpans_mem, takeEngine_wf, setMatQueue_mem]

theorem issueMat_wf {s : State} {o : MatOp} (hs : MemWf s) : ResWf (issueMat s o) := by
  grind [issueMat, resWf_raise, resWf_done, acceptOp_wf, resWf_next]

theorem matForm_wf {fm : Form} {s : State} {k : Nat → State → Result} (hs : MemWf s) (hk : ∀ w, ResWf (k w s)) :
    ResWf (matForm fm s k) := by
  refine guarded_wf hs ?_
  split
  · split
    · exact hk _
    · exact resWf_next.2 hs
  · exact resWf_next.2 hs

theorem execMzero_wf {d : Field} {s : State} (hs : MemWf s) : ResWf (execMzero d s) := by
  grind [execMzero, matForm_wf, issueMat_wf]

theorem mulForm_wf {fn : Nat} {d a b : Field} {s : State} (hs : MemWf s) : ResWf (mulForm fn d a b s) := by
  grind [mulForm, resWf_raise, matForm_wf, issueMat_wf]

theorem execMstore_wf {d a b : Field} {s : State} (hs : MemWf s) : ResWf (execMstore d a b s) := by
  grind [execMstore, resWf_raise, matForm_wf, issueMat_wf]

theorem imageForm_wf {fn : Nat} {d a : Field} {s : State} (hs : MemWf s) : ResWf (imageForm fn d a s) := by
  refine matForm_wf hs fun w => ?_
  split
  · exact resWf_raise.2 hs
  · split
    · exact resWf_raise.2 hs
    · split
      · exact resWf_raise.2 hs
      · exact issueMat_wf hs

theorem execMflag_wf {d a : Field} {s : State} (hs : MemWf s) : ResWf (execMflag d a s) := by
  grind [execMflag, updCtx_mem, resWf_raise, resWf_done, writeR_mem, matForm_wf, takeEngine_wf, resWf_next]

theorem execMcomp_wf {a b : Field} {s : State} (hs : MemWf s) : ResWf (execMcomp a b s) := by
  grind [execMcomp, resWf_raise, matForm_wf, issueMat_wf]

theorem countForm_wf {f : Ctx → Nat → Ctx} {a : Field} {s : State} (hs : MemWf s) : ResWf (countForm f a s) := by
  grind [countForm, updCtx_mem, resWf_raise, resWf_done, matForm_wf]

theorem gather_wf {s : State} {i : Issuer} {m : SMap Byte} {l : List (Nat × Nat)} {r : SMap Byte × State} (hs : MemWf s)
    (e : gather s i m l = .ok r) : MemWf r.2 := by
  induction l generalizing s m r with
  | nil => cases e; exact hs
  | cons a l ih =>
    obtain ⟨u, hu, e⟩ := bind_ok e
    exact ih (readAs_wf hs hu) e

theorem weightBytes_load_wf {s : State} {cid : Nat} {i : Issuer} {o : MatOp} {l : List (Nat × Nat)} {r : SMap Byte × State}
    (hs : MemWf s) (e : weightBytes.load s cid i o l = .ok r) : MemWf r.2 := by
  grind [weightBytes.load, → bind_ok, updCore_mem, → gather_wf]

@[simp] theorem updActive_mem (s : State) (o : MatOp) (f : Nat → Nat → Wrs → Wrs) : (updActive s o f).mem = s.mem := by
  simp [updActive]

theorem weightBytes_wf {s : State} {cid : Nat} {i : Issuer} {o : MatOp} {l : List (Nat × Nat)} {r : SMap Byte × State} (hs : MemWf s)
    (e : weightBytes s cid i o l = .ok r) : MemWf r.2 := by
  grind [weightBytes, → weightBytes_load_wf]

theorem storeAll_wf {s : State} {i : Issuer} {o : MatOp} {l : List (Nat × Nat)} {t : State} (hs : MemWf s)
    (e : storeAll s i o l = .ok t) : MemWf t := by
  induction l generalizing s t with
  | nil => cases e; exact hs
  | cons a l ih =>
    obtain ⟨u, hu, e⟩ := bind_ok e
    exact ih (writeElem_wf (hs.of_mem (updCtx_mem ..)) hu) e

theorem imageAll_wf {s : State} {i : Issuer} {o : MatOp} {l : List (Nat × Nat)} {t : State} (hs : MemWf s)
    (e : imageAll s i o l = .ok t) : MemWf t := by
  induction l generalizing s t with
  | nil => cases e; exact hs
  | cons a l ih =>
    obtain ⟨u, hu, e⟩ := bind_ok e
    exact ih (writeElem_wf hs hu) e

theorem postMcomp_wf {o : MatOp} {s : State} {cid : Nat} {t : State} (hs : MemWf s) (e : postMcomp o s cid = .ok t) : MemWf t := by
  grind [postMcomp, → postAdd_wf]

theorem matOp_run_wf {o : MatOp} {s : State} {cid : Nat} {r : State × Nat} (hs : MemWf s) (e : MatOp.run o s cid = .ok r) : MemWf r.1 := by
  grind [MatOp.run, → bind_ok, updCtx_mem, → gather_wf, updActive_mem, → weightBytes_wf, → storeAll_wf, → imageAll_wf, → postMcomp_wf]

@[simp] theorem matFault_mem (s : State) (cid : Nat) (o : MatOp) (c : Cause) (v : Nat) : (matFault s cid o c v).mem = s.mem := by
  grind [matFault, updCtx_mem, raiseEngine_mem, setMatQueue_mem]

theorem reaccept_wf {cid w : Nat} {l : List MatOp} {s : State} (hs : MemWf s) : MemWf (reaccept cid w l s) := by
  induction l generalizing s with
  | nil => exact hs.of_mem (updCtx_mem ..)
  | cons o l ih =>
    unfold reaccept
    split
    · exact hs.of_mem (updCtx_mem ..)
    · split
      · exact ih (acceptOp_wf hs)
      · dsimp only
        split
        · exact hs.of_mem ((raiseEngine_mem ..).trans (updCtx_mem ..))
        · exact hs.of_mem (updCtx_mem ..)

theorem refillContext_wf {cid : Nat} {s : State} {w : Nat} (hs : MemWf s) : MemWf (refillContext cid s w) := by
  grind [refillContext, updCtx_mem, setMatQueue_mem, reaccept_wf]

theorem refillQueue_wf {s : State} {cid : Nat} (hs : MemWf s) : MemWf (refillQueue s cid) := by
  unfold refillQueue
  exact foldl_wf (fun s x hs => by grind [refillContext_wf]) _ hs

theorem matStep_wf {s : State} {cid : Nat} {o : MatOp} {r : State × Nat} (hs : MemWf s) (e : matStep s cid o = .ok r) : MemWf r.1 := by
  grind [matStep, → bind_ok, updCore_mem, takeEngine_wf, refillQueue_wf, → matOp_run_wf]

theorem execMatrixOpPerform_wf {cid : Nat} {s : State} (hs : MemWf s) : ResWf (execMatrixOpPerform cid s) := by
  grind [execMatrixOpPerform, refillQueue_wf, resWf_off, → matStep_wf, matFault_mem, resWf_next]

end Sys2Proof.Laws
end

section
/-! SUPPORT. Memory's form under the operations of Machine/Nib.lean, in their order. -/

namespace Sys2Proof.Laws

open Sys2Proof Sys2Proof.Machine

@[simp] theorem chooseEntry_mem (n : Nat) (s : State) (cid : Nat) : (chooseEntry n s cid).1.mem = s.mem := by
  induction n generalizing s with
  | zero => rfl
  | succ n ih =>
    unfold chooseEntry
    dsimp only
    split
    · rw [ih, setCore_mem]
    · split <;> split <;> simp [ih]

@[simp] theorem bindLane_mem (s : State) (cid b w t : Nat) : (bindLane s cid b w t).mem = s.mem := by
  unfold bindLane
  split <;> simp

@[simp] theorem formBatch_mem (s : State) (cid b : Nat) (e : Entry) : (formBatch s cid b e).mem = s.mem := by
  unfold formBatch
  exact foldl_mem (fun s x => by grind [bindLane_mem]) _ _

theorem looseTable_wf {n : Nat} {old new : SMap (BitVec n)} {f : Nat} (h : SMap.wf 0 new = true) :
    SMap.wf 0 (looseTable old new f).1 = true :=
  List.foldlRecOn (motive := fun r : SMap (BitVec n) × Nat => SMap.wf 0 r.1 = true) _ _ h fun _ h _ _ => wf_putD 0 _ _ _ h

theorem looseMem_wf {s t : State} (ht : MemWf t) : MemWf (looseMem s t) := by
  refine MemWf.of_mem (s := { t with mem := (looseTable s.mem t.mem t.free).1 }) (looseTable_wf ht) (foldl_mem (fun t b => ?_) _ _)
  split <;> rfl

@[simp] theorem looseSubs_mem (s t : State) : (looseSubs s t).mem = t.mem := by
  unfold looseSubs
  dsimp only
  split <;> rfl

theorem tornResults_wf {s t : State} (ht : MemWf t) : MemWf (tornResults s t) :=
  .of_mem (looseMem_wf ht) (looseSubs_mem ..)

theorem execNibBatchFormation_wf {cid : Nat} {s : State} (hs : MemWf s) : ResWf (execNibBatchFormation cid s) := by
  grind [execNibBatchFormation, updCore_mem, resWf_off, formBatch_mem, chooseEntry_mem, resWf_next]

theorem execFillTimerExpiry_wf {cid baddr : Nat} {s : State} (hs : MemWf s) : ResWf (execFillTimerExpiry cid baddr s) := by
  grind [execFillTimerExpiry, resWf_next]

theorem execEntryAgeForce_wf {cid baddr : Nat} {s : State} (hs : MemWf s) : ResWf (execEntryAgeForce cid baddr s) := by
  grind [execEntryAgeForce, resWf_next]

theorem execFaultedThreadRecord_wf {cid : Nat} {s : State} (hs : MemWf s) : ResWf (execFaultedThreadRecord cid s) := by
  grind [execFaultedThreadRecord, updCore_mem, updThread_mem, takeRecord_mem, resWf_off, resWf_next]

theorem execPlacementRetry_wf {wg tid : Nat} {s : State} (hs : MemWf s) : ResWf (execPlacementRetry wg tid s) := by
  grind [execPlacementRetry, wake_wf, resWf_off, resWf_next]

@[simp] theorem recordBack_mem (s : State) (cid : Nat) (r : Spilled) : (recordBack s cid r).2.mem = s.mem := by
  grind [recordBack, unspoil_mem, useFree_mem]

theorem execSpillReload_wf {cid : Nat} {s : State} (hs : MemWf s) : ResWf (execSpillReload cid s) := by
  grind [execSpillReload, updCore_mem, → addEntry_wf, resWf_off, recordBack_mem, resWf_next]

theorem execSpillSwap_wf {cid : Nat} {s : State} (hs : MemWf s) : ResWf (execSpillSwap cid s) := by
  grind [execSpillSwap, updCore_mem, → spillEntry_wf, resWf_off, recordBack_mem, resWf_next]

end Sys2Proof.Laws
end

section
/-! SUPPORT. Memory's form under the operations of Machine/Rays.lean, in their order. -/

namespace Sys2Proof.Laws

open Sys2Proof Sys2Proof.Machine

theorem execRayq_wf {a b : Field} {s : State} (hs : MemWf s) : ResWf (execRayq a b s) := by
  refine guarded_wf hs ?_
  grind [useTgt_mem, readTgt_wf, resWf_raise, resWf_done, → run_next, ResWf, raiseState_mem]

theorem readBlock_wf {i : Issuer} {h count n : Nat} {x : RayWalk} {r : Option Nat × RayWalk} (hx : MemWf x.st)
    (e : readBlock i h count n x = .ok r) : MemWf r.2.st := by
  unfold readBlock at e
  split at e
  · cases e; exact hx
  · split at e
    · cases e; exact hx
    · split at e
      · next hr => cases e; exact readMem_wf hx hr
      · cases e; exact hx
      · cases e

/-- What a walk of a ray does from one point of it to another keeps memory's form. -/
def WalkWf (f : RayWalk → Out RayWalk) : Prop := ∀ x y, MemWf x.st → f x = .ok y → MemWf y.st

theorem leafBlocks_wf {i : Issuer} {h count n at' : Nat} {f : Nat → RayWalk → Out RayWalk} (hf : ∀ b, WalkWf (f b)) :
    WalkWf (leafBlocks i h count f n at') := by
  intro x y hx e
  induction n generalizing at' x with
  | zero => cases e; exact hx
  | succ n ih =>
    obtain ⟨r, hr, e⟩ := bind_ok e
    have hr := readBlock_wf hx hr
    split at e
    · obtain ⟨z, hz, e⟩ := bind_ok e
      exact ih _ (hf _ _ _ hr hz) e
    · exact ih _ hr e

/-- Steps of a walk made one after another until one fails. -/
theorem foldl_bind_wf {α : Type} {f : α → RayWalk → Out RayWalk} (hf : ∀ c, WalkWf (f c)) (l : List α) {a : Out RayWalk}
    (ha : ∀ x, a = .ok x → MemWf x.st) {y : RayWalk} (e : l.foldl (fun acc c => acc.bind (f c)) a = .ok y) : MemWf y.st := by
  induction l generalizing a with
  | nil => exact ha y e
  | cons c l ih =>
    refine ih (fun x hx => ?_) e
    obtain ⟨z, hz, hx⟩ := bind_ok hx
    exact hf c z x (ha z hz) hx

theorem walkNode_wf {i : Issuer} {h count n at' : Nat} {ray : Ray} {f : Nat → RayWalk → Out RayWalk} (hf : ∀ b, WalkWf (f b)) :
    WalkWf (walkNode i h count ray f n at') := by
  induction n generalizing at' with
  | zero => intro x y hx e; cases e; exact hx
  | succ n ih =>
    intro x y hx e
    obtain ⟨r, hr, e⟩ := bind_ok e
    have hr := readBlock_wf hx hr
    split at e
    · cases e; exact hr
    · split at e
      · refine foldl_bind_wf (fun c x y hx e => ?_) _ (fun z hz => ?_) e
        · dsimp only at e
          split at e
          · cases e; exact hx
          · split at e
            · exact ih x y hx e
            · exact leafBlocks_wf hf x y hx e
        · cases hz; exact hr
      · cases e; exact hr

theorem walkTree_wf {i : Issuer} {h : Nat} {ray : Ray} {want : Option Nat} {f : Nat → Nat → RayWalk → Out RayWalk}
    (hf : ∀ l b, WalkWf (f l b)) : WalkWf (walkTree i h ray want f) := by
  intro x y hx e
  obtain ⟨r, hr, e⟩ := bind_ok e
  have hr := readBlock_wf hx hr
  split at e
  · split at e
    · exact walkNode_wf (hf _) _ _ hr e
    · cases e; exact hr
  · cases e; exact hr

theorem triangleLeaf_wf {ray : Ray} {flags inst b : Nat} : WalkWf (triangleLeaf ray flags inst b) := by
  intro x y hx e
  unfold triangleLeaf at e
  split at e
  · cases e; exact hx
  · dsimp only at e
    split at e <;> cases e <;> exact hx

theorem instanceLeaf_wf {i : Issuer} {ray : Ray} {flags b : Nat} : WalkWf (instanceLeaf i ray flags b) := by
  intro x y hx e
  unfold instanceLeaf at e
  dsimp only at e
  split at e
  · cases e; exact hx
  · split at e
    · cases e; exact hx
    · split at e
      · cases e; exact hx
      · exact walkTree_wf (fun _ _ => triangleLeaf_wf) x y hx e

theorem walkQuery_wf {i : Issuer} {h flags : Nat} {ray : Ray} {s : State} {y : RayWalk} (hs : MemWf s)
    (e : walkQuery i h flags ray s = .ok y) : MemWf y.st := by
  refine walkTree_wf (fun l b => ?_) { st := s } y hs e
  split
  · exact triangleLeaf_wf
  · exact instanceLeaf_wf

theorem rayResult_wf {q : RayQ} {i : Issuer} {s : State} {r : Except (Cause × Nat) (List Byte) × State} (hs : MemWf s)
    (e : rayResult q i s = .ok r) : MemWf r.2 := by
  unfold rayResult at e
  dsimp only at e
  split at e
  · cases e; exact hs
  · obtain ⟨x, hx, e⟩ := bind_ok e
    have hx := walkQuery_wf hs hx
    have hu : MemWf (useFree x.st) := hx.of_mem (useFree_mem ..)
    split at e
    · cases e; exact hx
    · split at e <;> cases e <;> exact MemWf.ite hu hx

theorem dropRay_wf {s : State} {id : Nat} (hs : MemWf s) : MemWf (dropRay s id) := by
  grind [dropRay, blocksAdopt_wf]

theorem putHit_wf {s : State} {q : RayQ} {i : Issuer} {l : List Byte} (hs : MemWf s) : MemWf (putHit s q i l) := by
  grind [putHit, countItem_wf, spoilSlots_mem, spadWrite_mem, countStale_mem]

@[simp] theorem rayFault_mem (s : State) (q : RayQ) (c : Cause) (v : Nat) : (rayFault s q c v).mem = s.mem := by
  simp [rayFault]

theorem execRayQueryComplete_wf {q : Nat} {s : State} (hs : MemWf s) : ResWf (execRayQueryComplete q s) := by
  grind [execRayQueryComplete, → postAdd_wf, dropRay_wf, resWf_off, → rayResult_wf, rayFault_mem, putHit_wf, resWf_next]

end Sys2Proof.Laws
end

section
/-! SUPPORT. Memory's form under the operations of Machine/Saves.lean, in their order. -/

namespace Sys2Proof.Laws

open Sys2Proof Sys2Proof.Machine

@[simp] theorem usePages_mem (s : State) (p va n : Nat) (wr : Bool) : (usePages s p va n wr).mem = s.mem := by
  unfold usePages
  exact foldl_mem (fun s x => by grind [useLeaf_mem]) _ _

theorem claimFwd_mem {s : State} {w : Nat} {t : State} (e : claimFwd s w = .some t) : t.mem = s.mem := by
  grind [claimFwd, setWg_mem]

@[simp] theorem startSave_mem (s : State) (w va : Nat) (slot : Option Nat) (goal : SaveGoal) :
    (startSave s w va slot goal).1.mem = s.mem := by
  unfold startSave
  split
  · split
    · split
      · dsimp only
        split
        · exact (updLaunch_mem ..).trans (postKind3_mem ..)
        · exact postKind3_mem ..
      · dsimp only
        cases h : claimFwd _ w with
        | none => exact usePages_mem ..
        | some t => exact (claimFwd_mem h).trans (usePages_mem ..)
    · rfl
  · rfl

theorem completeSends_wf {s : State} {w : Nat} (hs : MemWf s) : MemWf (completeSends s w) := by
  unfold completeSends
  split
  · refine foldl_wf (fun s ch hs => ?_) _ hs
    split
    · refine foldl_wf (fun s x hs => ?_) _ (hs.of_mem (setChan_mem ..))
      split
      · exact .of_mem (deliver_wf hs) (advanceA_mem ..)
      · exact hs
    · exact hs
  · exact hs

@[simp] theorem pullSlots_mem (s : State) (cid : Nat) (rows : List Nat) : (pullSlots s cid rows).mem = s.mem := by
  simp [pullSlots]

@[simp] theorem coverPhys_mem (s : State) (pa n : Nat) : (coverPhys s pa n).mem = s.mem := by
  simp [coverPhys]

@[simp] theorem coverArea_mem (s : State) (p va n : Nat) : (coverArea s p va n).mem = s.mem := by
  unfold coverArea
  exact foldl_mem (fun s x => by grind [coverPhys_mem]) _ _

theorem writeImage_wf {s : State} {w : Nat} {g : Workgroup} {cid : Nat} {a : SaveArea} (hs : MemWf s) : MemWf (writeImage s w g cid a) := by
  grind [writeImage, adoptIdle_wf, updCore_mem, headerPut_wf, setWg_mem, markLaid_mem, unspoil_mem, releaseCore_wf, loadSet_mem,
    usePages_mem, freeContext_mem, pullSlots_mem, refillQueue_wf, coverArea_mem]

theorem placeResume_wf {s : State} {cid p l slot roff : Nat} {u : Succ} {t : State} (hs : MemWf s)
    (e : placeResume s cid p l slot roff u = .some t) : MemWf t := by
  unfold placeResume at e
  split at e
  · obtain ⟨u, hu, rfl⟩ := Option.map_eq_some_iff.1 e
    exact .of_mem (addEntry_wf hs hu) (noteFresh_mem ..)
  · cases e

theorem placePending_wf {s : State} {cid w t : Nat} {th : Thread} {g : Workgroup} {t' : State} (hs : MemWf s)
    (e : placePending s cid w t th g = .some t') : MemWf t' := by
  grind [placePending, → placeThread_wf, enterThread_wf, → placeResume_wf]

theorem placeAll_wf {cid w : Nat} {g : Workgroup} {l : List (Nat × Thread)} {s t : State} (hs : MemWf s)
    (e : placeAll cid w g l s = .some t) : MemWf t := by
  induction l generalizing s with
  | nil => cases e; exact hs
  | cons a l ih =>
    unfold placeAll at e
    split at e
    · obtain ⟨u, hu, e⟩ := Option.bind_eq_some_iff.1 e
      exact ih (placePending_wf hs hu) e
    · exact ih hs e

theorem rewait_wf {s : State} {a : Agent} (hs : MemWf s) : MemWf (rewait s a) := by
  unfold rewait
  split
  · next sp pa f b d _ =>
    cases h : reread s a (.watch sp pa f b d) with
    | none => exact hs
    | some t => exact reread_wf hs h
  · split
    · exact slotWake_wf hs
    · exact hs
  · exact wakeAgent_wf hs
  · exact hs

@[simp] theorem renameRecords_mem (s : State) (w : Nat) : (renameRecords s w).mem = s.mem := by
  simp [renameRecords]

theorem afterLoad_wf {s : State} {cid w : Nat} {g : Workgroup} {ops : List MatOp} {rel : List Nat} (hs : MemWf s) :
    MemWf (afterLoad s cid w g ops rel) := by
  have h : MemWf (g.late.foldl takeFault (renameRecords s w)) :=
    hs.of_mem ((foldl_mem (fun _ _ => takeFault_mem ..) _ _).trans (renameRecords_mem ..))
  have h := foldl_wf (f := fun s t => rewait s (.vthread w t)) (fun _ _ h => rewait_wf h) (SMap.keys g.threads) h
  have h := foldl_wf (f := fun s pb => pbDeliver s w pb) (fun _ _ h => pbDeliver_wf h) rel (rewait_wf (a := .scribe w) h)
  refine refillContext_wf (.of_mem (MemWf.ite ?_ h) (updCtx_mem ..))
  exact placeSet_wf h

@[simp] theorem imageBack_mem (s : State) (w : Nat) (g : Workgroup) : (imageBack s w g).2.mem = s.mem := by
  unfold imageBack
  split <;> simp

theorem loadImage_wf {s : State} {w : Nat} {g : Workgroup} {a : SaveArea} {cid : Nat} {t : State} (hs : MemWf s)
    (e : loadImage s w g a cid = .some t) : MemWf t := by
  unfold loadImage at e
  dsimp only at e
  obtain ⟨u, hu, rfl⟩ := Option.map_eq_some_iff.1 e
  refine headerPut_wf (afterLoad_wf (placeAll_wf ?_ hu))
  refine .of_mem ?_ ((setWg_mem ..).trans (foldl_mem (fun _ _ => bumpSlot_mem ..) _ _))
  have h : MemWf (adoptPending (imageBack s w g).2 cid) := adoptPending_wf (hs.of_mem (imageBack_mem s w g))
  exact headerPut_wf (h.of_mem (by simp))

theorem restoreWg_wf {s : State} {w : Nat} {tgt : Option Nat} (hs : MemWf s) : MemWf (restoreWg s w tgt).2 := by
  unfold restoreWg
  split
  · split
    · split
      · exact hs.of_mem (postKind3_mem ..)
      · split
        · split
          · exact hs.of_mem (postKind3_mem ..)
          · split
            · next h => exact loadImage_wf hs h
            · exact hs.of_mem (postKind3_mem ..)
        · exact hs
    · exact hs
  · exact hs

@[simp] theorem sliceNext_mem (n : Nat) (s : State) (p : Nat) : (sliceNext n s p).mem = s.mem := by
  induction n generalizing s with
  | zero => rfl
  | succ n ih =>
    unfold sliceNext
    split
    · rfl
    · split
      · next w _ l k _ =>
        have h := startSave_mem s w (slotVa l k) (some k) .slice
        split
        · next h' =>
          rw [h'] at h
          exact (setPart_mem ..).trans h
        · next h' =>
          rw [h'] at h
          exact (ih _).trans h
      · rfl

theorem slicePlace_wf {s : State} {l : Launch} {t : State} (hs : MemWf s) (e : slicePlace s l = .some t) : MemWf t := by
  obtain ⟨x, -, rfl⟩ := Option.map_eq_some_iff.1 e
  exact startWorkgroup_wf (hs.of_mem (by simp))

@[simp] theorem dropCand_mem (s : State) (p : Nat) (c : Cand) : (dropCand s p c).mem = s.mem := by
  unfold dropCand
  split <;> simp

theorem sliceSwap_wf {s : State} {p : Nat} (hs : MemWf s) : MemWf (sliceSwap s p) := by
  unfold sliceSwap
  dsimp only
  have h : MemWf (setPart s p { part s p with victim := none, half := false }) := hs.of_mem (setPart_mem ..)
  generalize setPart s p _ = s at h
  split
  · exact h
  · split
    · exact h.of_mem (setPart_mem ..)
    · next c _ _ =>
      have h : MemWf (dropCand s p c) := h.of_mem (dropCand_mem ..)
      split
      · next u hu =>
        refine .of_mem ?_ (sliceNext_mem ..)
        split at hu
        · split at hu
          · cases hu; exact restoreWg_wf h
          · cases hu
        · obtain ⟨l, -, hu⟩ := Option.bind_eq_some_iff.1 hu
          exact slicePlace_wf h hu
      · refine .of_mem ?_ (setPart_mem ..)
        split
        · exact restoreWg_wf h
        · exact h

theorem execQuantumBoundary_wf {p : Nat} {s : State} (hs : MemWf s) : ResWf (execQuantumBoundary p s) := by
  grind [execQuantumBoundary, setPart_mem, resWf_off, sliceNext_mem, sliceSwap_wf, resWf_next]

theorem afterSave_wf {s : State} {w : Nat} {g : Workgroup} {goal : SaveGoal} (hs : MemWf s) : MemWf (afterSave s w g goal) := by
  unfold afterSave
  split
  · exact foldl_wf (fun _ _ h => finishForm_wf h) _ hs
  · exact foldl_wf (fun _ _ h => finishForm_wf h) _ (restoreWg_wf hs)
  · exact sliceSwap_wf hs
  · exact restoreWg_wf hs

theorem execWorkgroupSave_wf {wg : Nat} {s : State} (hs : MemWf s) : ResWf (execWorkgroupSave wg s) := by
  grind [execWorkgroupSave, → claimFwd_mem, startSave_mem, resWf_off, completeSends_wf, writeImage_wf, afterSave_wf, resWf_next]

theorem execWorkgroupRestore_wf {wg cid : Nat} {s : State} (hs : MemWf s) : ResWf (execWorkgroupRestore wg cid s) := by
  grind [execWorkgroupRestore, restoreWg_wf, resWf_off, resWf_next]

theorem execWorkgroupPlace_wf {p lid wid : Nat} {s : State} (hs : MemWf s) : ResWf (execWorkgroupPlace p lid wid s) := by
  grind [execWorkgroupPlace, updLaunch_mem, resWf_off, startWorkgroup_wf, resWf_next]

theorem execForwardedItem_wf {cid : Nat} {s : State} (hs : MemWf s) : ResWf (execForwardedItem cid s) := by
  grind [execForwardedItem, pbDeliver_wf, resWf_off, applyPush_wf, resWf_next]

theorem execForwardingDrainAck_wf {cid : Nat} {s : State} (hs : MemWf s) : ResWf (execForwardingDrainAck cid s) := by
  grind [execForwardingDrainAck, resWf_off, resWf_next]

end Sys2Proof.Laws
end

section
/-! SUPPORT. Memory's form under the operations of Machine/Tables.lean, in their order. -/

namespace Sys2Proof.Laws

open Sys2Proof Sys2Proof.Machine

theorem execPtupd_wf {d a : Field} {s : State} (hs : MemWf s) : ResWf (execPtupd d a s) := by
  grind [execPtupd, → run_next, ResWf, raiseState_mem, → readMem_wf, sysForm_wf, answer_wf, resWf_next]

theorem writeTables_wf {s : State} {q : Pool} {addr : Nat} {l : List Byte} (hs : MemWf s) : MemWf (writeTables s q addr l) := by
  exact MemWf.of_mem (memory_write_wf l s.mem addr hs) (recodeRange_mem ..)

theorem writeEntry_wf {s : State} {q : Pool} {addr v : Nat} (hs : MemWf s) : MemWf (writeEntry s q addr v) := by
  grind [writeEntry, writeTables_wf]

@[simp] theorem bumpVer_mem (s : State) (addr : Nat) : (bumpVer s addr).mem = s.mem := by
  simp [bumpVer]

@[simp] theorem useEntries_mem (s : State) (q : Pool) : (useEntries s q).mem = s.mem := by
  unfold useEntries
  split <;> simp

@[simp] theorem latchReport_mem (s : State) (r : Report) (b : Word64) : (latchReport s r b).mem = s.mem := by
  simp [latchReport]

theorem setEntryBits_wf {s : State} {q : Pool} {addr : Nat} {b : Byte} (hs : MemWf s) : MemWf (setEntryBits s q addr b) := by
  unfold setEntryBits
  dsimp only
  split
  · exact hs
  · exact MemWf.of_mem (memory_set_wf s.mem addr _ hs) (recodeRange_mem ..)

theorem applyReport_wf {s : State} {r : Report} (hs : MemWf s) : MemWf (applyReport s r) := by
  grind [applyReport, setEntryBits_wf, latchReport_mem]

theorem applyReports_wf {s : State} {p : Nat} (hs : MemWf s) : MemWf (applyReports s p) := by
  unfold applyReports
  exact foldl_wf (fun s x hs => by grind [applyReport_wf]) _ hs

theorem execAdReport_wf {s : State} (hs : MemWf s) : ResWf (execAdReport s) := by
  grind [execAdReport, resWf_off, applyReport_wf, resWf_next]

theorem execPageWalk_wf {d p va : Nat} {s : State} (hs : MemWf s) : ResWf (execPageWalk d p va s) := by
  grind [execPageWalk, useLeaf_mem, resWf_off, resWf_next]

@[simp] theorem faultCmd_mem (s : State) (c : PtCmd) (x : Cause) (v : Nat) : (faultCmd s c x v).mem = s.mem := by
  simp [faultCmd]

theorem postCmd_wf {s : State} {c : PtCmd} (hs : MemWf s) : MemWf (postCmd s c) := by
  grind [postCmd, → postAdd_wf, faultCmd_mem]

theorem finishCmd_wf {s : State} {c : PtCmd} (hs : MemWf s) : MemWf (finishCmd s c) := by
  grind [finishCmd, → writeMem_wf, faultCmd_mem, postCmd_wf]

theorem doneCmd_wf {s : State} {c : PtCmd} {v st : Nat} (hs : MemWf s) : ResWf (doneCmd s c v st) := by
  grind [doneCmd, finishCmd_wf, resWf_next]

theorem execPtupdWrite_wf {p : Nat} {s : State} (hs : MemWf s) : ResWf (execPtupdWrite p s) := by
  grind [execPtupdWrite, resWf_off, applyReports_wf, doneCmd_wf, useEntries_mem, writeTables_wf, bumpVer_mem, writeEntry_wf]

theorem execPtupdFill_wf {p : Nat} {s : State} (hs : MemWf s) : ResWf (execPtupdFill p s) := by
  unfold execPtupdFill
  split
  · exact resWf_off.2 hs
  · have h : MemWf (applyReports s p) := applyReports_wf hs
    dsimp only
    split
    · exact doneCmd_wf (h.of_mem (useEntries_mem ..))
    · refine doneCmd_wf (foldl_wf (fun s k hs => ?_) _ (h.of_mem (useEntries_mem ..)))
      exact .of_mem (writeEntry_wf hs) (bumpVer_mem ..)

theorem execPtupdRead_wf {p : Nat} {s : State} (hs : MemWf s) : ResWf (execPtupdRead p s) := by
  grind [execPtupdRead, resWf_off, applyReports_wf, doneCmd_wf, useEntries_mem]

theorem execPtupdFlush_wf {p : Nat} {s : State} (hs : MemWf s) : ResWf (execPtupdFlush p s) := by
  grind [execPtupdFlush, resWf_off, doneCmd_wf]

theorem execPtupdSync_wf {p : Nat} {s : State} (hs : MemWf s) : ResWf (execPtupdSync p s) := by
  grind [execPtupdSync, resWf_off, doneCmd_wf]

theorem execPtupdPool_wf {p : Nat} {s : State} (hs : MemWf s) : ResWf (execPtupdPool p s) := by
  grind [execPtupdPool, resWf_off, doneCmd_wf, writeTables_wf]

theorem flushPage_wf {s : State} {t : TlbEnt} (hs : MemWf s) : MemWf (flushPage s t) := by
  unfold flushPage
  refine foldl_wf (fun s x hs => ?_) _ (hs.of_mem (drainL2Lines_mem ..))
  split
  · exact foldl_wf (fun _ _ hs => writeBackLine_wf hs) _ hs
  · exact hs

theorem execShootdownComplete_wf {p : Nat} {s : State} (hs : MemWf s) : ResWf (execShootdownComplete p s) := by
  unfold execShootdownComplete
  split
  · split
    · exact resWf_off.2 hs
    · split
      · exact resWf_next.2 (finishCmd_wf hs)
      · split
        · exact resWf_off.2 hs
        · next c _ _ _ _ =>
          have h : MemWf (applyReports s p) := applyReports_wf hs
          have h := foldl_wf (f := flushPage) (fun _ _ hs => flushPage_wf hs) ((applyReports s p).tlb.filter (shotBy c))
            (h.of_mem (t := { applyReports s p with tlb := (applyReports s p).tlb.filter fun t => !shotBy c t }) rfl)
          dsimp only
          split
          · exact resWf_next.2 (finishCmd_wf h)
          · exact resWf_next.2 h
  · exact resWf_off.2 hs

theorem resumeCmd_wf {s : State} {p : Nat} (hs : MemWf s) : MemWf (resumeCmd s p) := by
  grind [resumeCmd, finishCmd_wf]

@[simp] theorem killCmd_mem (s : State) (p : Nat) : (killCmd s p).mem = s.mem := by
  grind [killCmd]

end Sys2Proof.Laws
end

section
/-! SUPPORT. Memory's form under the operations of Machine/Recovery.lean, in their order. -/

namespace Sys2Proof.Laws

open Sys2Proof Sys2Proof.Machine

theorem execWgsave_wf {d a b : Field} {s : State} (hs : MemWf s) : ResWf (execWgsave d a b s) := by
  grind [execWgsave, sysForm_wf, answer_wf, startForm_wf, startSave_mem]

theorem execWgload_wf {d a b : Field} {s : State} (hs : MemWf s) : ResWf (execWgload d a b s) := by
  grind [execWgload, sysForm_wf, answer_wf, restoreWg_wf, resWf_next]

theorem execWgmigr_wf {d a b : Field} {s : State} (hs : MemWf s) : ResWf (execWgmigr d a b s) := by
  grind [execWgmigr, sysForm_wf, answer_wf, startForm_wf, startSave_mem]

theorem killWg_wf {s : State} {w : Nat} (hs : MemWf s) : MemWf (killWg s w) := by
  unfold killWg
  split
  · have h (l : List (Nat × Thread)) (f : Thread → Thread) : MemWf (l.foldl (fun s t => leaveBatch (updThread s w t.1 f) w t.1) s) :=
      hs.of_mem (foldl_mem (fun _ _ => (leaveBatch_mem ..).trans (updThread_mem ..)) l s)
    refine endWorkgroup_wf ?_
    split
    · exact .of_mem (h ..) (pullSlots_mem ..)
    · exact h ..
  · exact hs

theorem execWgkill_wf {d a : Field} {s : State} (hs : MemWf s) : ResWf (execWgkill d a s) := by
  grind [execWgkill, sysForm_wf, answer_wf, killWg_wf]

@[simp] theorem freeVrec_mem (s : State) (cid k : Nat) : (freeVrec s cid k).mem = s.mem := by
  simp [freeVrec]

@[simp] theorem freeSrec_mem (s : State) (cid k : Nat) : (freeSrec s cid k).mem = s.mem := by
  simp [freeSrec]

theorem resumeMatrix_wf {s : State} {w n : Nat} (hs : MemWf s) : MemWf (resumeMatrix s w n) := by
  grind [resumeMatrix, updCtx_mem, refillContext_wf]

theorem killCopy_wf {s : State} {id : Nat} (hs : MemWf s) : MemWf (killCopy s id) := by
  grind [killCopy, dropCopy_wf, finishCopyInst_wf, settleCloses_wf]

@[simp] theorem resumeBlend_mem (s : State) (id : Nat) : (resumeBlend s id).mem = s.mem := by
  unfold resumeBlend
  split <;> simp

theorem dropFrames_wf {s : State} {k : Nat} (hs : MemWf s) : MemWf (dropFrames s k) := by
  grind [dropFrames, blocksAdopt_wf, pregSet_mem]

theorem resumeStream_wf {s : State} {k : Nat} (hs : MemWf s) : MemWf (resumeStream s k) := by
  grind [resumeStream, dropFrames_wf]

theorem killStream_wf {s : State} {k : Nat} (hs : MemWf s) : MemWf (killStream s k) := by
  grind [killStream, pregSet_mem, dropFrames_wf]

theorem slotResume_wf {s : State} {x : Susp} (hs : MemWf s) : MemWf (slotResume s x) := by
  grind [slotResume, updCopy_mem, freeSusp_wf, resumeBlend_mem, resumeMatrix_wf, resumeStream_wf, resumeCmd_wf]

theorem slotKill_wf {s : State} {x : Susp} (hs : MemWf s) : MemWf (slotKill s x) := by
  grind [slotKill, freeSusp_wf, resumeBlend_mem, resumeMatrix_wf, dropRay_wf, dropFrag_wf, killStream_wf, killCmd_mem, killCopy_wf]

theorem resumeEntry_wf {s : State} {cid k : Nat} {h : Held} (hs : MemWf s) : MemWf (resumeEntry s cid k h) := by
  grind [resumeEntry, updThread_mem, enterThread_wf, freeVrec_mem]

theorem resumeThread_wf {s : State} {cid k : Nat} {h : Held} {off : Nat} {ts : List Word32} (hs : MemWf s) :
    MemWf (resumeThread s cid k h off ts).2 := by
  grind [resumeThread, updThread_mem, → placeResume_wf, freeVrec_mem]

theorem resumeVector_wf {s : State} {d : Field} {cid k : Nat} {h : Held} {flags va : Nat} (hs : MemWf s) :
    ResWf (resumeVector s d cid k h flags va) := by
  grind [resumeVector, → run_next, ResWf, raiseState_mem, → readMem_wf, answer_wf, resumeEntry_wf, resumeThread_wf]

theorem execResume_wf {d a b : Field} {s : State} (hs : MemWf s) : ResWf (execResume d a b s) := by
  grind [execResume, updCtx_mem, sysForm_wf, answer_wf, resumeVector_wf, freeSrec_mem, slotResume_wf]

theorem killContext_wf {s : State} {w : Nat} (hs : MemWf s) : MemWf (killContext s w) := by
  grind [killContext, updCtx_mem, setMatQueue_mem, freeMatrixSlots_mem, checkEnd_wf, refillQueue_wf]

theorem execThkill_wf {d a : Field} {s : State} (hs : MemWf s) : ResWf (execThkill d a s) := by
  grind [execThkill, sysForm_wf, answer_wf, freeVrec_mem, freeSrec_mem, endThread_wf, killContext_wf, slotKill_wf]

end Sys2Proof.Laws
end

section
/-! SUPPORT. Memory's form under the operations of Machine/Reliability.lean, in their order. -/

namespace Sys2Proof.Laws

open Sys2Proof Sys2Proof.Machine

@[simp] theorem dropCached_mem (s : State) (line : Nat) : (dropCached s line).mem = s.mem := by
  simp [dropCached]

@[simp] theorem dropLine_mem (s : State) (line : Nat) : (dropLine s line).mem = s.mem := by
  simp [dropLine]

theorem poisonHome_wf {s : State} {line : Nat} (hs : MemWf s) : MemWf (poisonHome s line) := by
  grind [poisonHome, loseSubs_wf, poisonLine_mem]

theorem freezeLine_wf {s : State} {line : Nat} (hs : MemWf s) : MemWf (freezeLine s line) := by
  grind [freezeLine, poisonHome_wf, dropLine_mem]

@[simp] theorem dropCopies_mem (s : State) (d : Nat) : (dropCopies s d).mem = s.mem := by
  unfold dropCopies
  exact foldl_mem (fun s x => by grind [setLine_mem]) _ _

@[simp] theorem stopQueues_mem (s : State) (p : Nat) : (stopQueues s p).mem = s.mem := by
  exact foldl_mem (fun s q => pregSet_mem ..) _ s

theorem losePart_wf {s : State} {info : Word64} {p : Nat} (hs : MemWf s) : MemWf (losePart s info p) := by
  unfold losePart
  exact .of_mem (foldl_wf (fun _ _ hs => killWg_wf hs) _ (hs.of_mem (postKind5_mem ..))) (stopQueues_mem ..)

theorem quarantine_wf {s : State} {d : Nat} (hs : MemWf s) : MemWf (quarantine s d) := by
  unfold quarantine
  extract_lets marked lines spoiled closed info posted counted lost dropped
  have hp : MemWf (lines.foldl poisonHome marked) := foldl_wf (fun _ _ h => poisonHome_wf h) lines (hs.of_mem (dregSet_mem ..))
  have hspoiled : MemWf spoiled := hp.of_mem ((dropCopies_mem ..).trans (resetFrags_mem ..))
  have hclosed : MemWf closed := foldl_wf (fun _ _ h => endSub_wf h) _ hspoiled
  have hcounted : MemWf counted := by
    dsimp only [MemWf, counted, posted]
    rwa [postKind5_mem]
  have hlost : MemWf lost := foldl_wf (fun _ _ h => losePart_wf h) _ hcounted
  have hdropped : MemWf dropped := by simpa only [MemWf, dropped] using hlost
  exact blocksAdopt_wf hdropped

theorem loseFlit_wf {s : State} {d kind addr : Nat} (hs : MemWf s) : MemWf (loseFlit s d kind addr) := by
  unfold loseFlit
  grind [poisonHome_wf, freezeLine_wf, quarantine_wf]

theorem execLinkReplay_wf {port attempts lost addr : Nat} {s : State} (hs : MemWf s) :
    ResWf (execLinkReplay port attempts lost addr s) := by
  grind [execLinkReplay, dregSet_mem, resWf_off, loseFlit_wf, resWf_next]

@[simp] theorem putLoc_mem (s : State) (x : RasLoc) : (putLoc s x).mem = s.mem := by
  simp [putLoc]

@[simp] theorem rasCount_mem (s : State) (d lo w : Nat) : (rasCount s d lo w).mem = s.mem := by
  simp [rasCount]

theorem retire_wf {s : State} {x : RasLoc} (hs : MemWf s) : MemWf (retire s x) := by
  grind [retire, putLoc_mem, rasCount_mem, disableWay_wf]

theorem execCorrectedError_wf {d loc : Nat} {s : State} (hs : MemWf s) : ResWf (execCorrectedError d loc s) := by
  grind [execCorrectedError, resWf_off, putLoc_mem, rasCount_mem, retire_wf, resWf_next]

theorem execSpareRowCopyEnd_wf {d loc : Nat} {s : State} (hs : MemWf s) : ResWf (execSpareRowCopyEnd d loc s) := by
  grind [execSpareRowCopyEnd, resWf_off, resWf_next]

theorem execUncorrectableError_wf {array addr : Nat} {s : State} (hs : MemWf s) : ResWf (execUncorrectableError array addr s) := by
  have h (l : List Nat) (b : Nat) : (l.foldl (fun s k => poisonLine s (b + k)) s).mem = s.mem := foldl_mem (fun _ _ => poisonLine_mem ..)
    l s
  unfold execUncorrectableError
  split
  · exact resWf_next.2 (poisonHome_wf hs)
  · exact resWf_next.2 (.of_mem (poisonHome_wf hs) (dropCached_mem ..))
  · exact resWf_next.2 (.of_mem (poisonHome_wf hs) (dropCached_mem ..))
  · split
    · split
      · exact resWf_next.2 (hs.of_mem (updWg_mem ..))
      · exact resWf_off.2 hs
    · exact resWf_off.2 hs
  · exact resWf_next.2 (hs.of_mem (h ..))
  · split
    · split
      · exact resWf_next.2 (hs.of_mem (updThread_mem ..))
      · exact resWf_off.2 hs
    · exact resWf_off.2 hs
  · exact resWf_off.2 hs

theorem resetDie_wf {s : State} {d : Nat} (hs : MemWf s) : MemWf (resetDie s d) := by
  have h (l : List Nat) : MemWf (l.foldl (fun s g => dropGroup s d g) (dropCopies s d)) :=
    hs.of_mem ((foldl_mem (fun _ _ => dropGroup_mem ..) l _).trans (dropCopies_mem ..))
  unfold resetDie
  rw [MemWf, dregSet_mem]
  exact wf_filter 0 _ _ (h _)

theorem drainDie_wf {s : State} {d : Nat} (hs : MemWf s) : MemWf (drainDie s d) := by
  exact MemWf.of_mem (foldl_wf (fun _ _ hs => writeBackCore_wf hs) _ hs) (drainL2_mem ..)

theorem execDieOrderlyReset_wf {d : Nat} {s : State} (hs : MemWf s) : ResWf (execDieOrderlyReset d s) := by
  grind [execDieOrderlyReset, dregSet_mem, resWf_off, resetDie_wf, drainDie_wf, resWf_next]

theorem execDieForcedReset_wf {d : Nat} {s : State} (hs : MemWf s) : ResWf (execDieForcedReset d s) := by
  grind [execDieForcedReset, resWf_off, quarantine_wf, resetDie_wf, resWf_next]

theorem engineActs_wf {cls op : Nat} {s : State} (hs : MemWf s) : ∀ r ∈ engineActs cls op s, ResWf r := by
  unfold engineActs
  split <;> simp [execCopySlicePerform_wf hs, execCopytPerform_wf hs, execRayQueryComplete_wf hs, execBlendFragment_wf hs,
    execMatrixOpPerform_wf hs, execFrameCapture_wf hs, execFrameEncodeDone_wf hs, execPtupdWrite_wf hs, execPtupdFill_wf hs,
    execPtupdRead_wf hs, execPtupdFlush_wf hs, execPtupdSync_wf hs, execPtupdPool_wf hs, execShootdownComplete_wf hs]

theorem execEngineFault_wf {cls op : Nat} {s : State} (hs : MemWf s) : ResWf (execEngineFault cls op s) := by
  unfold execEngineFault
  dsimp only
  split
  · next h => exact engineActs_wf hs _ (List.mem_of_find?_eq_some h)
  · exact resWf_off.2 hs

end Sys2Proof.Laws
end

section
/-! SUPPORT. Memory's form under the operations of Machine/Turns.lean, in their order. -/

namespace Sys2Proof.Laws

open Sys2Proof Sys2Proof.Machine

@[simp] theorem eventEntry_mem (s : State) (n b : Nat) : (eventEntry s n b).mem = s.mem := by
  unfold eventEntry
  split <;> simp

theorem betweenWords_mem {s : State} {n : Nat} {t : State} (e : betweenWords s n = .some t) : t.mem = s.mem := by
  grind [betweenWords, updCtl_mem, eventEntry_mem]

@[simp] theorem noteBatch_mem (s : State) (cid b : Nat) : (noteBatch s cid b).mem = s.mem := by
  simp [noteBatch]

@[simp] theorem noteScribe_mem (s : State) (cid k : Nat) (w : Word32) : (noteScribe s cid k w).mem = s.mem := by
  simp [noteScribe]

@[simp] theorem noteContext_mem (s : State) (a : Agent) : (noteContext s a).mem = s.mem := by
  unfold noteContext
  split <;> simp

end Sys2Proof.Laws
end

section
/-! SUPPORT. Memory's form under the operations of Machine/Settings.lean, in their order. -/

namespace Sys2Proof.Laws

open Sys2Proof Sys2Proof.Machine

theorem running_wf {s : State} {r : Result} (hs : MemWf s) (hr : ResWf r) : ResWf (running s r) := by
  unfold running
  split
  · exact resWf_off.2 hs
  · exact hr

theorem execCtxcfgWrite_wf {n : Nat} {v : Word64} {s : State} (hs : MemWf s) : ResWf (execCtxcfgWrite n v s) := by
  grind [execCtxcfgWrite, ctxcfgWrite_mem, resWf_off, running_wf, resWf_next]

theorem execControlEventTake_wf {n : Nat} {s : State} (hs : MemWf s) : ResWf (execControlEventTake n s) := by
  grind [execControlEventTake, resWf_off, → betweenWords_mem, resWf_next]

theorem execEtcmpExpiry_wf {n : Nat} {s : State} (hs : MemWf s) : ResWf (execEtcmpExpiry n s) := by
  grind [execEtcmpExpiry, resWf_next]

theorem post_release_wf {s : State} {x : Post} (hs : MemWf s) : MemWf (Post.release s x) := by
  grind [Post.release, releaseCore_wf]

theorem execFaultLogPost_wf {post : Nat} {s : State} (hs : MemWf s) : ResWf (execFaultLogPost post s) := by
  grind [execFaultLogPost, recode_mem, putBytes_wf, lineOwn_wf, csrSet_mem, resWf_off, post_release_wf, resWf_next]

theorem execFlogTailWrite_wf {log v : Nat} {s : State} (hs : MemWf s) : ResWf (execFlogTailWrite log v s) := by
  grind [execFlogTailWrite, logWrite_mem, resWf_off, running_wf, resWf_next]

theorem execFlogConfigWrite_wf {log : Nat} {size : Bool} {v : Word64} {s : State} (hs : MemWf s) :
    ResWf (execFlogConfigWrite log size v s) := by
  grind [execFlogConfigWrite, logWrite_mem, resWf_off, running_wf, resWf_next]

theorem execBworldWrite_wf {d g : Nat} {v : Word64} {s : State} (hs : MemWf s) : ResWf (execBworldWrite d g v s) := by
  grind [execBworldWrite, csrWrite_wf, resWf_off, running_wf, resWf_next]

theorem execBworldTakeEffect_wf {d blk : Nat} {s : State} (hs : MemWf s) : ResWf (execBworldTakeEffect d blk s) := by
  grind [execBworldTakeEffect, blockAdopt_wf, resWf_off, resWf_next]

theorem execLscfgWrite_wf {d g : Nat} {v : Word64} {s : State} (hs : MemWf s) : ResWf (execLscfgWrite d g v s) := by
  refine running_wf hs ?_
  split
  · exact resWf_next.2 (foldl_wf (fun _ _ h => adoptSplit_wf h) _ (hs.of_mem (csrSet_mem ..)))
  · exact resWf_off.2 hs

theorem takeUp_wf {s : State} (hs : MemWf s) : MemWf (takeUp s) := by
  unfold takeUp
  split
  · exact foldl_wf (fun s d h => blocksAdopt_wf (foldl_wf (fun s c h => adoptSplit_wf h) _ h)) _ hs
  · exact hs

theorem execLscfgAdopt_wf {cid : Nat} {s : State} (hs : MemWf s) : ResWf (execLscfgAdopt cid s) := by
  grind [execLscfgAdopt, adoptSplit_wf, resWf_off, resWf_next]

theorem dieAct_wf {ok : Bool} {s : State} {d o : Nat} {v : Word64} (hs : MemWf s) : ResWf (dieAct ok s d o v) := by
  grind [dieAct, dieWrite_wf, resWf_off, running_wf, resWf_next]

theorem execRegisterWrite_wf {block o : Nat} {v : Word64} {s : State} (hs : MemWf s) : ResWf (execRegisterWrite block o v s) := by
  grind [execRegisterWrite, pregWrite_wf, resWf_off, resWf_next]

theorem execQctlWrite_wf {p q : Nat} {v : Word32} {s : State} (hs : MemWf s) : ResWf (execQctlWrite p q v s) := by
  grind [execQctlWrite, pregWrite_wf, resWf_off, running_wf, resWf_next]

theorem execCgmaskMemberWrite_wf {p d : Nat} {v : Word64} {s : State} (hs : MemWf s) : ResWf (execCgmaskMemberWrite p d v s) := by
  grind [execCgmaskMemberWrite, cgmaskWrite_mem, resWf_off, running_wf, resWf_next]

theorem execCgmaskDepartWrite_wf {p d : Nat} {v : Word64} {s : State} (hs : MemWf s) : ResWf (execCgmaskDepartWrite p d v s) := by
  grind [execCgmaskDepartWrite, cgmaskWrite_mem, resWf_off, running_wf, resWf_next]

theorem execDepartureComplete_wf {d g : Nat} {s : State} (hs : MemWf s) : ResWf (execDepartureComplete d g s) := by
  grind [execDepartureComplete, shareBack_wf, pregSet_mem, resWf_off, resWf_next]

@[simp] theorem putMessage_mem (s : State) (p o : Nat) (m : BitVec 512) : (putMessage s p o m).mem = s.mem := by
  exact foldl_mem (fun s k => pregSet_mem ..) _ s

theorem execMbinPost_wf {p : Nat} {msg : BitVec 512} {s : State} (hs : MemWf s) : ResWf (execMbinPost p msg s) := by
  grind [execMbinPost, mbctlWrite_mem, resWf_off, putMessage_mem, resWf_next]

theorem execMbinRelease_wf {p : Nat} {s : State} (hs : MemWf s) : ResWf (execMbinRelease p s) := by
  grind [execMbinRelease, mbctlWrite_mem, resWf_off, resWf_next]

theorem execMboutPost_wf {p : Nat} {msg : BitVec 512} {s : State} (hs : MemWf s) : ResWf (execMboutPost p msg s) := by
  grind [execMboutPost, mbctlWrite_mem, resWf_off, putMessage_mem, resWf_next]

theorem execMboutRelease_wf {p : Nat} {s : State} (hs : MemWf s) : ResWf (execMboutRelease p s) := by
  grind [execMboutRelease, mbctlWrite_mem, resWf_off, resWf_next]

theorem execDisplayEnable_wf {p v : Nat} {x : Word64} {s : State} (hs : MemWf s) : ResWf (execDisplayEnable p v x s) := by
  grind [execDisplayEnable, dctlWrite_mem, resWf_off, running_wf, resWf_next]

theorem execDisplayHoldRelease_wf {p v : Nat} {x : Word64} {s : State} (hs : MemWf s) : ResWf (execDisplayHoldRelease p v x s) := by
  grind [execDisplayHoldRelease, dctlWrite_mem, resWf_off, running_wf, resWf_next]

theorem execStreamEnable_wf {p v : Nat} {x : Word64} {s : State} (hs : MemWf s) : ResWf (execStreamEnable p v x s) := by
  grind [execStreamEnable, sctlWrite_wf, resWf_off, running_wf, resWf_next]

theorem execStreamDisable_wf {p v : Nat} {x : Word64} {s : State} (hs : MemWf s) : ResWf (execStreamDisable p v x s) := by
  grind [execStreamDisable, sctlWrite_wf, resWf_off, running_wf, resWf_next]

theorem execFuseMinverRaise_wf {v : Nat} {s : State} (hs : MemWf s) : ResWf (execFuseMinverRaise v s) := by
  grind [execFuseMinverRaise, running_wf, resWf_next]

end Sys2Proof.Laws
end

section
/-! SUPPORT. Memory's form under the operations of Machine/Dispatch.lean, in their order. -/

namespace Sys2Proof.Laws

open Sys2Proof Sys2Proof.Machine

/-- Each form by its own lemma, or by that of the shape it has in common with others. -/
theorem exec_wf {i : Instr} {s : State} (hs : MemWf s) : ResWf (exec i s) := by
  cases i with dsimp only [exec]
  | block p l f c => exact execBlock_wf p l f c hs
  | add | sub | and | or | xor | andn | shl | shr | sar | rotl | min | max | minu | maxu | adds | subs | mul | mulh | mulhu | div
    | divu | rem | remu | seq | sne | slt | sge | sltu | sgeu | bfx | bfxu => exact intWRR_wf hs
  | mad | sel | bfi => exact intMRR_wf hs
  | mov | not | neg | abs | clz | ctz | popc | brev | sxb | sxh | zxb | zxh | bswap => exact intWR_wf hs
  | addi | andi | ori | xori | shli | shri | sari | slti | sltui | muli => exact intWRI_wf hs
  | movi => exact execMovi_wf hs
  | movhi => exact execMovhi_wf hs
  | pcadr => exact execPcadr_wf hs
  | fadd | fsub | fmul | fmin | fmax | fminm | fmaxm | fcpsgn | feq | flt | fle => exact fpWRR_wf hs
  | fma | fnma => exact fpMRR_wf hs
  | fclass | fabs | fneg | fsqrt | frcp | frsq | fex2 | flg2 | fsinp | fcosp | ftanh | fflr | fceil | ftrc | frnd => exact fpWR_wf hs
  | hadd2 | hsub2 | hmul2 | hmin2 | hmax2 | badd2 | bsub2 | bmul2 | bmin2 | bmax2 => exact half2_wf hs
  | hfma2 | hdot2 | bfma2 | bdot2 => exact half3_wf hs
  | cvt => exact execCvt_wf hs
  | dadd | dsub | dmul | dmin | dmax => exact dalu_wf hs
  | dfma => exact execDfma_wf hs
  | deq | dlt | dle => exact dcmp_wf hs
  | ladd | lsub | lmul => exact lalu_wf hs
  | lshl | lshr | lsar => exact lshift_wf hs
  | cmake => exact execCmake_wf hs
  | join => exact execJoin_wf hs
  | leave => exact execLeave_wf hs
  | csize => exact execCsize_wf hs
  | bara => exact execBara_wf hs
  | pbara => exact execPbara_wf hs
  | barw => exact execBarw_wf hs
  | pbarw => exact execPbarw_wf hs
  | cradd | crfadd | crmin | crmax | cscan | cfscan => exact coll1_wf hs
  | cbcast => exact execCbcast_wf hs
  | xperm => exact execXperm_wf hs
  | cshuf => exact execCshuf_wf hs
  | send => exact execSend_wf hs
  | recv => exact execRecv_wf hs
  | chpoll => exact execChpoll_wf hs
  | ldb | ldbu | ldh | ldhu | ldw => exact load1_wf hs
  | ldd => exact execLdd_wf hs
  | ldq => exact execLdq_wf hs
  | stb | sth | stw => exact store1_wf hs
  | std => exact execStd_wf hs
  | stq => exact execStq_wf hs
  | ldaq => exact execLdaq_wf hs
  | strl => exact execStrl_wf hs
  | fence => exact execFence_wf hs
  | atomAdd | atomMin | atomMax | atomAnd | atomOr | atomXor => exact reduce32_wf hs
  | atomMinu | atomMaxu | atomSwap | atomIncw | atomFadd | atomHadd2 => exact atom32_wf hs
  | atomCas => exact execAtomCas_wf hs
  | atomLadd => exact execAtomLadd_wf hs
  | atomLcas => exact execAtomLcas_wf hs
  | waitge => exact execWaitge_wf hs
  | waitne => exact execWaitne_wf hs
  | waiteq => exact execWaiteq_wf hs
  | ldsub => exact execLdsub_wf hs
  | ldsubD => exact execLdsubD_wf hs
  | unsub => exact execUnsub_wf hs
  | slotwait => exact execSlotwait_wf hs
  | slotrd => exact execSlotrd_wf hs
  | slotst => exact execSlotst_wf hs
  | copy => exact execCopy_wf hs
  | copyt => exact execCopyt_wf hs
  | pref => exact execPref_wf hs
  | ldel => exact execLdel_wf hs
  | ldeli => exact execLdeli_wf hs
  | stel => exact execStel_wf hs
  | ptload => exact execPtload_wf hs
  | ptread => exact execPtread_wf hs
  | br => exact execBr_wf hs
  | bnz => exact execBnz_wf hs
  | bz => exact execBz_wf hs
  | call => exact execCall_wf hs
  | jmpr => exact execJmpr_wf hs
  | callr => exact execCallr_wf hs
  | spawn => exact execSpawn_wf hs
  | launch => exact execLaunch_wf hs
  | setwb => exact execSetwb_wf hs
  | grow => exact execGrow_wf hs
  | shrink => exact execShrink_wf hs
  | rdtime => exact execRdtime_wf hs
  | rdcyc => exact execRdcyc_wf hs
  | rdncyc => exact execRdncyc_wf hs
  | rdlrw => exact execRdlrw_wf hs
  | emitvp => exact execEmitvp_wf hs
  | blnd => exact execBlnd_wf hs
  | depthw => exact execDepthw_wf hs
  | rayq => exact execRayq_wf hs
  | mzero => exact execMzero_wf hs
  | mmd | mmp => exact mulForm_wf hs
  | mstore => exact execMstore_wf hs
  | mldw | mstw => exact imageForm_wf hs
  | mflag => exact execMflag_wf hs
  | mcomp => exact execMcomp_wf hs
  | mrows | mcols => exact countForm_wf hs
  | tdset => exact execTdset_wf hs
  | tdget => exact execTdget_wf hs
  | tdclr => exact execTdclr_wf hs
  | trap => exact execTrap_wf hs
  | brk => exact execBrk_wf hs
  | csrr => exact execCsrr_wf hs
  | csrw => exact execCsrw_wf hs
  | ptupd => exact execPtupd_wf hs
  | rgnflush => exact execRgnflush_wf hs
  | ownxfer => exact execOwnxfer_wf hs
  | rgnq => exact execRgnq_wf hs
  | pstep => exact execPstep_wf hs
  | wgsave => exact execWgsave_wf hs
  | wgload => exact execWgload_wf hs
  | wgmigr => exact execWgmigr_wf hs
  | wgkill => exact execWgkill_wf hs
  | resume => exact execResume_wf hs
  | thkill => exact execThkill_wf hs
  | lwopen => exact execLwopen_wf hs
  | lwclose => exact execLwclose_wf hs
  | chbind => exact execChbind_wf hs
  | pbset => exact execPbset_wf hs
  | dierd => exact execDierd_wf hs
  | diewr => exact execDiewr_wf hs
  | linktrn => exact execLinktrn_wf hs
  | icinvCore | icinvDie | icinvDev => exact icinv_wf hs
  | icinvSys => exact execIcinvSys_wf hs
  | exit => exact execExit_wf hs
  | discard => exact execDiscard_wf hs
  | eret => exact execEret_wf hs
  | wfi => exact execWfi_wf hs
  | channelSendResume => exact execChannelSendResume_wf hs
  | waitReread => exact execWaitReread_wf hs
  | subscriptionPush => exact execSubscriptionPush_wf hs
  | unsubComplete => exact execUnsubComplete_wf hs
  | copySlicePerform => exact execCopySlicePerform_wf hs
  | copytPerform => exact execCopytPerform_wf hs
  | rayQueryComplete => exact execRayQueryComplete_wf hs
  | matrixOpPerform => exact execMatrixOpPerform_wf hs
  | ownxferComplete => exact execOwnxferComplete_wf hs
  | relockEnd => exact execRelockEnd_wf hs
  | larderDigestDone => exact execLarderDigestDone_wf hs
  | packageReset => exact execPackageReset_wf hs
  | bootImageFetch => exact execBootImageFetch_wf hs
  | fuseMinverRaise => exact execFuseMinverRaise_wf hs
  | attestationReport => exact execAttestationReport_wf hs
  | ctxcfgWrite => exact execCtxcfgWrite_wf hs
  | controlEventTake => exact execControlEventTake_wf hs
  | etcmpExpiry => exact execEtcmpExpiry_wf hs
  | faultLogPost => exact execFaultLogPost_wf hs
  | flogTailWrite => exact execFlogTailWrite_wf hs
  | flogConfigWrite => exact execFlogConfigWrite_wf hs
  | bworldWrite => exact execBworldWrite_wf hs
  | bworldTakeEffect => exact execBworldTakeEffect_wf hs
  | lscfgWrite => exact execLscfgWrite_wf hs
  | lscfgAdopt => exact execLscfgAdopt_wf hs
  | accxWrite | cpyownWrite | encownWrite | fabctlWrite | rotEntryWrite => exact dieAct_wf hs
  | registerWrite => exact execRegisterWrite_wf hs
  | qctlWrite => exact execQctlWrite_wf hs
  | queueRecordTake => exact execQueueRecordTake_wf hs
  | deviceLaunchTake => exact execDeviceLaunchTake_wf hs
  | launchDependenceMet => exact execLaunchDependenceMet_wf hs
  | dispatcherReport => exact execDispatcherReport_wf hs
  | workgroupRunHandoff => exact execWorkgroupRunHandoff_wf hs
  | workgroupPlace => exact execWorkgroupPlace_wf hs
  | launchComplete => exact execLaunchComplete_wf hs
  | nibBatchFormation => exact execNibBatchFormation_wf hs
  | fillTimerExpiry => exact execFillTimerExpiry_wf hs
  | entryAgeForce => exact execEntryAgeForce_wf hs
  | faultedThreadRecord => exact execFaultedThreadRecord_wf hs
  | placementRetry => exact execPlacementRetry_wf hs
  | spillReload => exact execSpillReload_wf hs
  | spillSwap => exact execSpillSwap_wf hs
  | quantumBoundary => exact execQuantumBoundary_wf hs
  | workgroupSave => exact execWorkgroupSave_wf hs
  | workgroupRestore => exact execWorkgroupRestore_wf hs
  | forwardedItem => exact execForwardedItem_wf hs
  | forwardingDrainAck => exact execForwardingDrainAck_wf hs
  | cgmaskMemberWrite => exact execCgmaskMemberWrite_wf hs
  | cgmaskDepartWrite => exact execCgmaskDepartWrite_wf hs
  | departureComplete => exact execDepartureComplete_wf hs
  | homeReadRequest => exact execHomeReadRequest_wf hs
  | homeOwnershipRequest => exact execHomeOwnershipRequest_wf hs
  | homeWriteback => exact execHomeWriteback_wf hs
  | homeUReduction => exact execHomeUReduction_wf hs
  | homeAckReceived => exact execHomeAckReceived_wf hs
  | l1Invalidation => exact execL1Invalidation_wf hs
  | l1Recall => exact execL1Recall_wf hs
  | l1Eviction => exact execL1Eviction_wf hs
  | larderRefreshStart => exact execLarderRefreshStart_wf hs
  | larderRefreshEnd => exact execLarderRefreshEnd_wf hs
  | pageWalk => exact execPageWalk_wf hs
  | adReport => exact execAdReport_wf hs
  | ptupdWrite => exact execPtupdWrite_wf hs
  | ptupdFill => exact execPtupdFill_wf hs
  | ptupdRead => exact execPtupdRead_wf hs
  | ptupdFlush => exact execPtupdFlush_wf hs
  | ptupdSync => exact execPtupdSync_wf hs
  | ptupdPool => exact execPtupdPool_wf hs
  | shootdownComplete => exact execShootdownComplete_wf hs
  | engineFault => exact execEngineFault_wf hs
  | binningMeshlet => exact execBinningMeshlet_wf hs
  | visPacketArrival => exact execVisPacketArrival_wf hs
  | packetResend => exact execPacketResend_wf hs
  | batchRetire => exact execBatchRetire_wf hs
  | sealArrival => exact execSealArrival_wf hs
  | rasterInputFree => exact execRasterInputFree_wf hs
  | rasterPacket => exact execRasterPacket_wf hs
  | fragmentSpawn => exact execFragmentSpawn_wf hs
  | blendFragment => exact execBlendFragment_wf hs
  | pbarrierRootArrival => exact execPbarrierRootArrival_wf hs
  | pbarrierRelease => exact execPbarrierRelease_wf hs
  | dltoRecovery => exact execDltoRecovery_wf hs
  | linkReplay => exact execLinkReplay_wf hs
  | hostMemRead => exact execHostMemRead_wf hs
  | hostMemWrite => exact execHostMemWrite_wf hs
  | hostSnoop => exact execHostSnoop_wf hs
  | peerInboundAccess => exact execPeerInboundAccess_wf hs
  | mbinPost => exact execMbinPost_wf hs
  | mbinRelease => exact execMbinRelease_wf hs
  | mboutPost => exact execMboutPost_wf hs
  | mboutRelease => exact execMboutRelease_wf hs
  | displayEnable => exact execDisplayEnable_wf hs
  | displayHoldRelease => exact execDisplayHoldRelease_wf hs
  | frameCapture => exact execFrameCapture_wf hs
  | frameEncodeDone => exact execFrameEncodeDone_wf hs
  | streamEnable => exact execStreamEnable_wf hs
  | streamDisable => exact execStreamDisable_wf hs
  | powerUpComplete => exact execPowerUpComplete_wf hs
  | thermalTrip => exact execThermalTrip_wf hs
  | correctedError => exact execCorrectedError_wf hs
  | uncorrectableError => exact execUncorrectableError_wf hs
  | dieOrderlyReset => exact execDieOrderlyReset_wf hs
  | dieForcedReset => exact execDieForcedReset_wf hs
  | dataReplyArrival => exact execDataReplyArrival_wf hs
  | peerCompletion => exact execPeerCompletion_wf hs
  | spareRowCopyEnd => exact execSpareRowCopyEnd_wf hs
  | _ => -- FUN, the name of whose constructor is a keyword of Lean
    exact fpWRR_wf hs

end Sys2Proof.Laws
end

section
/-! SUPPORT. Memory's form under the operations of Machine/Schedule.lean, in their order. -/

namespace Sys2Proof.Laws

open Sys2Proof Sys2Proof.Machine

/-- Every one of a list of acts keeps memory's form. -/
def ActsWf (l : List Doing) : Prop := ∀ f ∈ l, ∀ s, MemWf s → ResWf (f.run s)

theorem actsWf_nil : ActsWf [] := fun _ h => by cases h

theorem actsWf_cons {k a b : Nat} {f : State → Result} {l : List Doing} :
    ActsWf (act k a b f :: l) ↔ (∀ s, MemWf s → ResWf (f s)) ∧ ActsWf l := List.forall_mem_cons

theorem actsWf_append {l m : List Doing} : ActsWf (l ++ m) ↔ ActsWf l ∧ ActsWf m := List.forall_mem_append

theorem ActsWf.map {α : Type} {k : Nat} {l : List α} {a b : α → Nat} {f : α → State → Result} (h : ∀ x s, MemWf s → ResWf (f x s)) :
    ActsWf (l.map fun x => act k (a x) (b x) (f x)) := List.forall_mem_map.2 fun x _ => h x

theorem ActsWf.flatMap {α : Type} {l : List α} {f : α → List Doing} (h : ∀ x, ActsWf (f x)) : ActsWf (l.flatMap f) := fun d hd => by
  obtain ⟨x, -, hx⟩ := List.mem_flatMap.1 hd
  exact h x d hx

theorem ActsWf.filterMap {α : Type} {l : List α} {f : α → Option Doing} (h : ∀ x d, f x = some d → ∀ s, MemWf s → ResWf (d.run s)) :
    ActsWf (l.filterMap f) := fun d hd => by
  obtain ⟨x, -, hx⟩ := List.mem_filterMap.1 hd
  exact h x d hx

theorem ActsWf.singleton {k a b : Nat} {f : State → Result} (h : ∀ s, MemWf s → ResWf (f s)) : ActsWf [act k a b f] :=
  actsWf_cons.2 ⟨h, actsWf_nil⟩

theorem dueActs_wf {s : State} : ActsWf (dueActs s) := by
  simp only [dueActs, actsWf_append, and_assoc]
  refine ⟨.map fun _ _ => execQuantumBoundary_wf, .map fun _ _ => execPbarrierRelease_wf, .flatMap fun x => ?_,
    .map fun _ _ => execRelockEnd_wf, .map fun _ _ => execPowerUpComplete_wf, .flatMap fun p => .map fun _ _ => execDltoRecovery_wf,
    .flatMap fun d => ?_⟩
  · exact actsWf_cons.2 ⟨fun _ => execFrameCapture_wf, .singleton fun _ => execFrameEncodeDone_wf⟩
  · exact actsWf_cons.2 ⟨fun _ => execDieOrderlyReset_wf, .singleton fun _ => execDieForcedReset_wf⟩

theorem controlActs_wf {turn : Act → State → Result} (ht : ∀ t s, MemWf s → ResWf (turn t s)) : ActsWf (controlActs turn) :=
  .map fun _ _ => ht _ _

theorem coreActs_wf {turn : Act → State → Result} (ht : ∀ t s, MemWf s → ResWf (turn t s)) {s : State} {cid : Nat} :
    ActsWf (coreActs turn s cid) := by
  simp only [coreActs, actsWf_append, and_assoc, actsWf_cons]
  refine ⟨.map fun _ _ => ht _ _, .filterMap fun x d hd => ?_, fun _ => execNibBatchFormation_wf, fun _ => execFaultedThreadRecord_wf,
    fun _ => execSpillReload_wf, fun _ => execSpillSwap_wf, fun _ => execMatrixOpPerform_wf, fun _ => execLscfgAdopt_wf,
    fun _ => execForwardedItem_wf, fun _ => execForwardingDrainAck_wf, actsWf_nil⟩
  obtain ⟨_, -, rfl⟩ := Option.map_eq_some_iff.1 hd
  exact ht _

theorem workActs_wf {s : State} : ActsWf (workActs s) := by
  simp only [workActs, actsWf_append, and_assoc]
  refine ⟨.map fun _ _ => execWaitReread_wf, .flatMap fun x => ?_, .flatMap fun x => ?_, .flatMap fun x => ?_,
    .map fun _ _ => execRayQueryComplete_wf, .map fun _ _ => execOwnxferComplete_wf, .map fun _ _ => execPbarrierRootArrival_wf,
    .map fun _ _ => execFaultLogPost_wf, .flatMap fun x => ?_, ?_, .flatMap fun x => ?_, .map fun _ _ => execSpareRowCopyEnd_wf⟩
  case refine_1 =>
    simp only [actsWf_append, and_assoc]
    refine ⟨.map fun _ _ => execPlacementRetry_wf, .map fun _ _ => execChannelSendResume_wf, .singleton fun _ => execWorkgroupSave_wf, ?_⟩
    split
    · exact .map fun _ _ => execWorkgroupRestore_wf
    · exact actsWf_nil
  case refine_2 => exact actsWf_cons.2 ⟨fun _ => execSubscriptionPush_wf, .singleton fun _ => execUnsubComplete_wf⟩
  case refine_3 => exact actsWf_cons.2 ⟨fun _ => execCopySlicePerform_wf, .singleton fun _ => execCopytPerform_wf⟩
  case refine_4 =>
    simp only [actsWf_append, and_assoc]
    exact ⟨.flatMap fun c => actsWf_cons.2 ⟨fun _ => execL1Invalidation_wf, .singleton fun _ => execL1Recall_wf⟩,
      .map fun _ _ => execHomeAckReceived_wf, .singleton fun _ => execDataReplyArrival_wf⟩
  case refine_5 =>
    split
    · exact actsWf_nil
    · exact .singleton fun _ => execAdReport_wf
  case refine_6 =>
    simp only [actsWf_cons]
    exact ⟨fun _ => execPtupdWrite_wf, fun _ => execPtupdFill_wf, fun _ => execPtupdRead_wf, fun _ => execPtupdFlush_wf,
      fun _ => execPtupdSync_wf, fun _ => execPtupdPool_wf, fun _ => execShootdownComplete_wf, actsWf_nil⟩

theorem imageActs_wf {s : State} : ActsWf (imageActs s) := by
  simp only [imageActs, actsWf_append, and_assoc]
  refine ⟨.map fun _ _ => execBinningMeshlet_wf, .flatMap fun p => ?_, .map fun _ _ => execBatchRetire_wf, .map fun _ _ => execSealArrival_wf,
    .map fun _ _ => execFragmentSpawn_wf, .map fun _ _ => execBlendFragment_wf⟩
  split
  · exact .singleton fun _ => execVisPacketArrival_wf
  · exact .singleton fun _ => execVisPacketArrival_wf
  · exact .singleton fun _ => execPacketResend_wf
  · exact .singleton fun _ => execPacketResend_wf
  · exact .singleton fun _ => execRasterInputFree_wf
  · exact .singleton fun _ => execRasterPacket_wf
  · exact actsWf_nil

theorem launchActs_wf {s : State} : ActsWf (launchActs s) := by
  simp only [launchActs, actsWf_append, and_assoc]
  refine ⟨.flatMap fun l => ?_, .map fun _ _ => execDeviceLaunchTake_wf, .filterMap fun p d hd => ?_⟩
  · simp only [actsWf_append, actsWf_cons, and_assoc]
    exact ⟨fun _ => execLaunchDependenceMet_wf, fun _ => execWorkgroupRunHandoff_wf, fun _ => execLaunchComplete_wf, actsWf_nil,
      .map fun _ _ => execWorkgroupPlace_wf⟩
  · obtain ⟨_, -, rfl⟩ := Option.map_eq_some_iff.1 hd
    exact fun _ => execQueueRecordTake_wf

theorem idleSettings_wf : ActsWf idleSettings := by
  simp only [idleSettings, actsWf_append, and_assoc]
  refine ⟨.flatMap fun d => ?_, .flatMap fun d => ?_, .flatMap fun d => .flatMap fun g => ?_⟩
  · exact actsWf_append.2 ⟨.map fun _ _ => execBworldTakeEffect_wf, .map fun _ _ => execDepartureComplete_wf⟩
  · exact actsWf_cons.2 ⟨fun _ => execDispatcherReport_wf, .singleton fun _ => execLarderDigestDone_wf⟩
  · exact actsWf_cons.2 ⟨fun _ => execLarderRefreshStart_wf, .singleton fun _ => execLarderRefreshEnd_wf⟩

theorem idleActs_wf {turn : Act → State → Result} (ht : ∀ t s, MemWf s → ResWf (turn t s)) {s : State} : ActsWf (idleActs turn s) := by
  simp only [idleActs, actsWf_append, and_assoc]
  exact ⟨controlActs_wf ht, .flatMap fun _ => coreActs_wf ht, workActs_wf, imageActs_wf, launchActs_wf, idleSettings_wf⟩

theorem idleStep_wf {turn : Act → State → Result} (ht : ∀ t s, MemWf s → ResWf (turn t s)) {s : State} (hs : MemWf s) :
    MemWf (idleStep turn s) := by
  have hp : MemWf (passTime s 12) := passTime_wf hs
  obtain ⟨f, hf, hr⟩ | ⟨f, hf, t, r, n, hr, e⟩ | ⟨r, n, e⟩ := idleStep_cases turn s
  · exact dueActs_wf f hf s hs _ hr
  · rw [e]
    exact idleActs_wf ht f hf _ hp t hr
  · rwa [e]

end Sys2Proof.Laws
end

section
/-! SUPPORT. Memory's form under the operations of Machine/Run.lean, in their order. -/

namespace Sys2Proof.Laws

open Sys2Proof Sys2Proof.Machine

theorem runWord_wf {a : Agent} {s : State} (hs : MemWf s) : ResWf (runWord a s) := by
  have h : MemWf { s with cur := a } := hs
  unfold runWord
  dsimp only
  split
  · split
    · next hf =>
      have hf := fetchWord_wf h hf
      split
      · exact exec_wf hf
      · exact resWf_raise.2 hf
    · exact resWf_raise.2 (h.of_mem (useFree_mem ..))
    · exact resWf_next.2 h
  · exact resWf_next.2 h

theorem runLanes_wf {l : List Agent} {s : State} (hs : MemWf s) : MemWf (runLanes l s) :=
  runLanes_keeps (fun _ _ t hs e => runWord_wf hs t e) l s hs

theorem runBatch_wf {cid b : Nat} {s : State} (hs : MemWf s) : ResWf (runBatch cid b s) := by
  unfold runBatch
  split
  · have h : MemWf (runLanes (batchHeads s cid b) (noteBatch s cid b)) := runLanes_wf (hs.of_mem (noteBatch_mem ..))
    exact resWf_next.2 (.ite hs (.ite (tornResults_wf h) h))
  · exact resWf_next.2 hs

theorem runContext_wf {a : Agent} {s : State} (hs : MemWf s) : ResWf (runContext a s) := by
  unfold runContext
  split
  · exact runWord_wf (hs.of_mem (noteContext_mem ..))
  · exact resWf_next.2 hs

theorem runControl_wf {n : Nat} {s : State} (hs : MemWf s) : ResWf (runControl n s) := by
  grind [runControl, → betweenWords_mem, runContext_wf, resWf_next]

theorem runTurn_wf {t : Act} {s : State} (hs : MemWf s) : ResWf (runTurn t s) := by
  cases t with dsimp only [runTurn]
  | batch cid b => exact runBatch_wf hs
  | scribe w => exact runContext_wf hs
  | control n => exact runControl_wf hs
  | unit i => exact .ite (resWf_next.2 hs) (exec_wf hs)
  | outside pa l => exact resWf_next.2 (outsideStore_wf hs)
  | hostLoad o => exact resWf_next.2 (hs.of_mem (hostLoad_mem ..))

end Sys2Proof.Laws
end

section
/-! SUPPORT. Memory's form under the operations of Machine/Step.lean, in their order. -/

namespace Sys2Proof.Laws

open Sys2Proof Sys2Proof.Machine

theorem step_wf {s t : State} (hs : MemWf s) (e : step s = .next t) : MemWf t := by
  cases ha : s.agenda with
  | nil =>
    rw [step_idle ha] at e
    cases e
    exact takeUp_wf (idleStep_wf (fun _ _ => runTurn_wf) hs)
  | cons u l =>
    rw [step_turn ha] at e
    obtain ⟨v, hv, rfl⟩ := settled_next e
    have hp : MemWf (passTime { s with agenda := l } u.dt) := passTime_wf (s := { s with agenda := l }) hs
    exact takeUp_wf (runTurn_wf hp v hv)

/-- Settles O8: every operation of the model on the state is shown above to keep memory's canonical form, from the writes of single bytes up
to one step. -/
theorem stepKeepsMemoryCanonical : Obligations.StepKeepsMemoryCanonical := fun _ _ => step_wf

end Sys2Proof.Laws
end

section
/-! SUPPORT. What decodes is well formed and encodes to the word it was read from (R167-R173, R177). -/

namespace Sys2Proof.Laws

open Sys2Proof

/-- Two adjacent fields of a word, put together. -/
theorem append_fields (w : Word32) (k l m : Nat) :
    w.extractLsb' (k + l) m ++ w.extractLsb' k l = w.extractLsb' k (m + l) :=
  BitVec.extractLsb'_append_extractLsb'_eq_extractLsb' (by omega)

/-- A word is made of the fields of each of its formats (R167). -/
theorem rr_fields (w : Word32) : rr (opOf w) (fnOf w) (rrD w) (rrA w) (rrB w) = w := by
  simp only [rr, opOf, fnOf, rrD, rrA, rrB]
  rw [append_fields w 21 4 7, append_fields w 14 7 11, append_fields w 7 7 18, append_fields w 0 7 25, extract_all]

theorem ri_fields (w : Word32) : ri (opOf w) (riD w) (riA w) (riI w) = w := by
  simp only [ri, opOf, riD, riA, riI]
  rw [append_fields w 18 7 7, append_fields w 11 7 14, append_fields w 0 11 21, extract_all]

theorem rw_fields (w : Word32) : rw (opOf w) (riD w) (rwI w) = w := by
  simp only [rw, opOf, riD, rwI]
  rw [append_fields w 18 7 7, append_fields w 0 18 14, extract_all]

/-- Where a decoding rule gives an instruction for a word, it is a well-formed one whose encoding is the word. -/
def Exact (w : Word32) (r : Decoded) : Prop := ∀ i, r = .ok i → encode i = some w ∧ i.wellFormed = true

@[simp] theorem exact_error {w : Word32} {e : DecodeError} : Exact w (.error e) := fun _ h => nomatch h

@[simp] theorem exact_ok {w : Word32} {i : Instr} : Exact w (.ok i) ↔ encode i = some w ∧ i.wellFormed = true :=
  ⟨fun h => h i rfl, fun h _ e => by cases e; exact h⟩

@[simp] theorem exact_unused {w : Word32} {f : Field} {r : Decoded} : Exact w (unused f r) ↔ (f = 127 → Exact w r) := by
  rw [unused]
  split <;> simp_all

@[simp] theorem exact_literals {w : Word32} {i : Instr} : Exact w (literals i) ↔ (i.wellFormed = true → encode i = some w) := by
  rw [literals]
  split <;> simp_all

/-- A function value is one of 16. -/
theorem fn_cases : ∀ fn : BitVec 4, fn = 0 ∨ fn = 1 ∨ fn = 2 ∨ fn = 3 ∨ fn = 4 ∨ fn = 5 ∨ fn = 6 ∨ fn = 7
    ∨ fn = 8 ∨ fn = 9 ∨ fn = 10 ∨ fn = 11 ∨ fn = 12 ∨ fn = 13 ∨ fn = 14 ∨ fn = 15 := by decide

/-- What holds of each of the 16 function values holds of all. -/
theorem forall_fn {P : BitVec 4 → Prop} : (∀ fn, P fn) ↔
    P 0 ∧ P 1 ∧ P 2 ∧ P 3 ∧ P 4 ∧ P 5 ∧ P 6 ∧ P 7 ∧ P 8 ∧ P 9 ∧ P 10 ∧ P 11 ∧ P 12 ∧ P 13 ∧ P 14 ∧ P 15 := by
  refine ⟨fun h => by simp [h], fun ⟨h0, h1, h2, h3, h4, h5, h6, h7, h8, h9, h10, h11, h12, h13, h14, h15⟩ fn => ?_⟩
  rcases fn_cases fn with rfl | rfl | rfl | rfl | rfl | rfl | rfl | rfl | rfl | rfl | rfl | rfl | rfl | rfl | rfl | rfl <;> assumption

/-- A table of opcodes of format RR, each with the rule that decodes the rest of its words (R172). -/
abbrev Rules := List (BitVec 7 × (BitVec 4 → Field → Field → Field → Decoded))

/-- Each rule of a table reads off exactly the fields that its instructions encode. -/
def Rules.Exact (t : Rules) : Prop := ∀ p ∈ t, ∀ (fn : BitVec 4) (d a b : Field), Laws.Exact (rr p.1 fn d a b) (p.2 fn d a b)

/-- Integer, constant and selection opcodes of format RR (R172). -/
@[simp] def integerRules : Rules := [
  (0x01, decodeIalu), (0x02, decodeImul), (0x03, decodeIcmp), (0x04, decodeIun), (0x05, decodeSel), (0x06, decodeBitf)]

theorem integerRules_exact : integerRules.Exact := by
  simp only [Rules.Exact, integerRules, List.forall_mem_cons]
  and_intros
  all_goals
    simp +contextual [forall_fn, encode, Instr.wellFormed, decodeIalu, decodeImul, decodeIcmp, decodeIun, decodeSel, decodeBitf]

/-- Floating-point opcodes (R172). -/
@[simp] def floatRules : Rules := [
  (0x18, decodeFalu), (0x19, decodeFcmp), (0x1A, decodeFun1), (0x1B, decodeHalf2), (0x1C, decodeCvt), (0x1D, decodeDalu), (0x1E, decodeLalu)]

theorem floatRules_exact : floatRules.Exact := by
  simp only [Rules.Exact, floatRules, List.forall_mem_cons]
  and_intros
  all_goals
    simp +contextual [forall_fn, encode, Instr.wellFormed, rndOk, decodeFalu, decodeFcmp, decodeFun1, decodeHalf2, decodeCvt,
      decodeDalu, decodeLalu]

/-- Opcodes of cohorts, channels, ordering and atomics (R172). -/
@[simp] def syncRules : Rules := [
  (0x20, decodeCoh), (0x21, decodeCbar), (0x22, decodeCcol), (0x23, decodeChan), (0x35, decodeLdaq), (0x36, decodeStrl), (0x37, decodeFence),
  (0x38, decodeAtom 0), (0x39, decodeAtom 1), (0x3A, decodeAtom 2), (0x3B, decodeAtom 3), (0x3C, decodeWait), (0x3D, decodeSubs)]

theorem syncRules_exact : syncRules.Exact := by
  simp only [Rules.Exact, syncRules, List.forall_mem_cons]
  and_intros
  all_goals
    simp +contextual [forall_fn, encode, Instr.wellFormed, decodeCoh, decodeCbar, decodeCcol, decodeChan, decodeLdaq, decodeStrl,
      decodeFence, decodeAtom, decodeWait, decodeSubs]

/-- Opcodes of the copy, cache, thread and fixed-function units (R172). -/
@[simp] def unitRules : Rules := [
  (0x3E, decodeCopy), (0x3F, decodeCache), (0x40, decodeTld), (0x41, decodePtl), (0x4B, decodeBix), (0x4D, decodeSpawn), (0x4E, decodeRegs),
  (0x4F, decodeTime), (0x50, decodeGeo), (0x51, decodeFrag), (0x52, decodeRay), (0x58, decodeMat), (0x59, decodeTds)]

theorem unitRules_exact : unitRules.Exact := by
  simp only [Rules.Exact, unitRules, List.forall_mem_cons]
  and_intros
  all_goals
    simp +contextual [forall_fn, encode, Instr.wellFormed, decodeCopy, decodeCache, decodeTld, decodePtl, decodeBix, decodeSpawn,
      decodeRegs, decodeTime, decodeGeo, decodeFrag, decodeRay, decodeMat, decodeTds]

/-- Privileged opcodes (R172). -/
@[simp] def systemRules : Rules := [
  (0x64, decodeEret), (0x65, decodePtupd), (0x66, decodeOwn), (0x67, decodePstep), (0x68, decodeWg), (0x69, decodeLw), (0x6A, decodeChbind),
  (0x6B, decodePbset), (0x6C, decodeWfi), (0x6D, decodeDie)]

theorem systemRules_exact : systemRules.Exact := by
  simp only [Rules.Exact, systemRules, List.forall_mem_cons]
  and_intros
  all_goals
    simp +contextual [forall_fn, encode, Instr.wellFormed, decodeEret, decodePtupd, decodeOwn, decodePstep, decodeWg, decodeLw,
      decodeChbind, decodePbset, decodeWfi, decodeDie]

/-- All rules of format RR. -/
@[simp] def rrRules : Rules := integerRules ++ floatRules ++ syncRules ++ unitRules ++ systemRules

theorem rrRules_exact : rrRules.Exact := by
  simp only [Rules.Exact, rrRules, List.forall_mem_append]
  exact ⟨⟨⟨⟨integerRules_exact, floatRules_exact⟩, syncRules_exact⟩, unitRules_exact⟩, systemRules_exact⟩

theorem ofNat_opOf {w : Word32} {n : Nat} (h : (opOf w).toNat = n) : BitVec.ofNat 7 n = opOf w := by
  rw [← h, BitVec.ofNat_toNat, BitVec.setWidth_eq]

/-- A word of format RR is what the rule of its opcode decodes. -/
theorem exact_of_rr {w : Word32} {n : Nat} {f : BitVec 4 → Field → Field → Field → Decoded} (h : (opOf w).toNat = n)
    (hm : (BitVec.ofNat 7 n, f) ∈ rrRules) : Exact w (f (fnOf w) (rrD w) (rrA w) (rrB w)) := by
  have he := rrRules_exact _ hm (fnOf w) (rrD w) (rrA w) (rrB w)
  rwa [ofNat_opOf h, rr_fields] at he

/-- A word of format RI whose opcode has one instruction only. -/
theorem exact_of_ri {w : Word32} {n : Nat} {i : Instr} (h : (opOf w).toNat = n)
    (he : encode i = some (ri (BitVec.ofNat 7 n) (riD w) (riA w) (riI w))) (hi : i.wellFormed = true) : Exact w (.ok i) := by
  rw [ofNat_opOf h, ri_fields] at he
  exact exact_ok.2 ⟨he, hi⟩

/-- A word of format RW or BR whose opcode has one instruction only. -/
theorem exact_of_rw {w : Word32} {n : Nat} {i : Instr} (h : (opOf w).toNat = n)
    (he : encode i = some (rw (BitVec.ofNat 7 n) (riD w) (rwI w))) (hi : i.wellFormed = true) : Exact w (.ok i) := by
  rw [ofNat_opOf h, rw_fields] at he
  exact exact_ok.2 ⟨he, hi⟩

/-- A CSR number below 4096 fills the 18-bit field of its word with zeros. -/
theorem setWidth_csr {o : BitVec 18} (h : o.toNat < 4096) : (o.setWidth 12).setWidth 18 = o :=
  BitVec.eq_of_toNat_eq (by simp [BitVec.toNat_setWidth]; omega)

/-- A word that is no header word decodes to an instruction it encodes, or not at all: by the format of its opcode, the opcodes taken in
ascending order. -/
theorem decodeWord_exact {w : Word32} (hw : (opOf w).toNat ≠ 0) : Exact w (decodeWord w) := by
  unfold decodeWord
  dsimp only
  split
  next h => exact absurd h hw
  iterate 6 next h => exact exact_of_rr h (by simp)
  iterate 10 next h => exact exact_of_ri h rfl rfl
  iterate 3 next h => exact exact_of_rw h rfl rfl
  iterate 11 next h => exact exact_of_rr h (by simp)
  iterate 12 next h => exact exact_of_ri h rfl rfl
  iterate 13 next h => exact exact_of_rr h (by simp)
  next h => exact exact_unused.2 fun hx => exact_of_rw h (by rw [hx]; rfl) rfl
  iterate 2 next h => exact exact_of_rw h rfl rfl
  next h => exact exact_of_rr h (by simp)
  next h => exact exact_of_rw h rfl rfl
  iterate 8 next h => exact exact_of_rr h (by simp)
  iterate 2 next h => exact exact_unused.2 fun hx => exact_of_rw h (by rw [hx]; rfl) rfl
  iterate 2
    next h =>
      split
      next ho => exact exact_of_rw h (by simp [encode, setWidth_csr ho]) rfl
      next => exact exact_error
  iterate 10 next h => exact exact_of_rr h (by simp)
  exact exact_error
/-- A word with opcode 0 is a header word (R34, R176). -/
theorem decodeWord_header {w : Word32} (hw : (opOf w).toNat = 0) : decodeWord w = decodeBlock w := by
  simp [decodeWord, hw]

theorem wordBytes_append (b0 b1 b2 b3 : Byte) : wordBytes (b3 ++ b2 ++ b1 ++ b0) = [b0, b1, b2, b3] := by
  unfold wordBytes
  rw [extract_low _ _ 0 _ (by decide), extract_high _ _ 8 _ (by decide), extract_low _ _ _ _ (by decide), extract_high _ _ 16 _ (by decide),
    extract_high _ _ _ _ (by decide), extract_low _ _ _ _ (by decide), extract_high _ _ 24 _ (by decide), extract_high _ _ _ _ (by decide),
    extract_high _ _ _ _ (by decide)]
  simp only [Nat.sub_self, extract_all]

/-- Bytes that decode are those of a word that decodes, and what follows it. -/
theorem decode_ok {l rest : List Byte} {i : Instr} (h : decode l = .ok (i, rest)) : ∃ w, l = wordBytes w ++ rest ∧ decodeWord w = .ok i := by
  match l with
  | b0 :: b1 :: b2 :: b3 :: l =>
    refine ⟨b3 ++ b2 ++ b1 ++ b0, ?_⟩
    simp only [decode] at h
    split at h
    next hd => cases h; exact ⟨by simp [wordBytes_append], hd⟩
    next => cases h
  | [] | [_] | [_, _] | [_, _, _] => cases h

/-- What a word decodes to: its header block, or an instruction whose encoding it is. -/
theorem decodeWord_ok {w : Word32} {i : Instr} (h : decodeWord w = .ok i) :
    (∃ p n f c, i = .block p n f c) ∨ (encode i = some w ∧ i.wellFormed = true) := by
  by_cases hw : (opOf w).toNat = 0
  · rw [decodeWord_header hw] at h
    cases h
    exact .inl ⟨_, _, _, _, rfl⟩
  · exact .inr (decodeWord_exact hw i h)

theorem encodeOfDecode : Claims.EncodeOfDecode := by
  intro l rest i h hi
  obtain ⟨w, hl, hw⟩ := decode_ok h
  rcases decodeWord_ok hw with ⟨p, n, f, c, hb⟩ | ⟨he, -⟩
  · exact absurd hb (hi p n f c)
  · exact ⟨w, he, hl⟩

theorem decodedIsWellFormed : Claims.DecodedIsWellFormed := by
  intro l rest i h
  obtain ⟨w, -, hw⟩ := decode_ok h
  rcases decodeWord_ok hw with ⟨p, n, f, c, rfl⟩ | ⟨-, hf⟩
  · rfl
  · exact hf

/-- Settles O2: a word is made of the fields of its opcode's format, and each rule gives back the fields it read. -/
theorem decodeIsExact : Obligations.DecodeIsExact := ⟨encodeOfDecode, decodedIsWellFormed⟩

end Sys2Proof.Laws
end

section
/-! SUPPORT. Reading back what an update wrote: the core, the workgroup and the thread it names, and those it leaves. -/

namespace Sys2Proof.Laws

open Sys2Proof Sys2Proof.Machine Sys2Proof.Claims

@[simp] theorem coreAt_setCore (s : State) (cid : Nat) (c : Core) : coreAt (setCore s cid c) cid = c := get_put_same ..
@[simp] theorem coreAt_updCore (s : State) (cid : Nat) (f : Core → Core) : coreAt (updCore s cid f) cid = f (coreAt s cid) := get_put_same ..
@[simp] theorem wg?_updCore (s : State) (cid w : Nat) (f : Core → Core) : wg? (updCore s cid f) w = wg? s w := rfl
@[simp] theorem thread?_updCore (s : State) (cid w t : Nat) (f : Core → Core) : thread? (updCore s cid f) w t = thread? s w t := rfl

@[simp] theorem updWg_cores (s : State) (w : Nat) (f : Workgroup → Workgroup) : (updWg s w f).cores = s.cores := by rw [updWg_shape]
@[simp] theorem updWg_posts (s : State) (w : Nat) (f : Workgroup → Workgroup) : (updWg s w f).posts = s.posts := by rw [updWg_shape]
@[simp] theorem updWg_nextId (s : State) (w : Nat) (f : Workgroup → Workgroup) : (updWg s w f).nextId = s.nextId := by rw [updWg_shape]
@[simp] theorem updThread_cores (s : State) (w t : Nat) (f : Thread → Thread) : (updThread s w t f).cores = s.cores := updWg_cores ..
@[simp] theorem updThread_posts (s : State) (w t : Nat) (f : Thread → Thread) : (updThread s w t f).posts = s.posts := updWg_posts ..
@[simp] theorem updCtx_cores (s : State) (w : Nat) (f : Ctx → Ctx) : (updCtx s w f).cores = s.cores := updWg_cores ..
@[simp] theorem updCtx_posts (s : State) (w : Nat) (f : Ctx → Ctx) : (updCtx s w f).posts = s.posts := updWg_posts ..

@[simp] theorem coreAt_updWg (s : State) (w cid : Nat) (f : Workgroup → Workgroup) : coreAt (updWg s w f) cid = coreAt s cid := by simp [coreAt]
@[simp] theorem coreAt_updThread (s : State) (w t cid : Nat) (f : Thread → Thread) :
    coreAt (updThread s w t f) cid = coreAt s cid := coreAt_updWg ..
@[simp] theorem coreAt_updCtx (s : State) (w cid : Nat) (f : Ctx → Ctx) : coreAt (updCtx s w f) cid = coreAt s cid := coreAt_updWg ..
@[simp] theorem coreAt_addPostAt (s : State) (log src ord cid : Nat) (ws : List Word32) :
    coreAt (addPostAt s log src ord ws) cid = coreAt s cid := rfl
@[simp] theorem addPostAt_posts (s : State) (log src ord : Nat) (ws : List Word32) :
    (addPostAt s log src ord ws).posts = s.posts ++ [{ id := s.nextId, log := log, src := src, words := ws, ord := ord }] := rfl
@[simp] theorem addPost_posts (s : State) (log src : Nat) (ws : List Word32) :
    (addPost s log src ws).posts = s.posts ++ [{ id := s.nextId, log := log, src := src, words := ws, ord := s.nextId }] := rfl
@[simp] theorem coreAt_addPost (s : State) (log src cid : Nat) (ws : List Word32) : coreAt (addPost s log src ws) cid = coreAt s cid := rfl
@[simp] theorem wg?_addPost (s : State) (log src w : Nat) (ws : List Word32) : wg? (addPost s log src ws) w = wg? s w := rfl
@[simp] theorem wg?_addPostAt (s : State) (log src ord w : Nat) (ws : List Word32) : wg? (addPostAt s log src ord ws) w = wg? s w := rfl
@[simp] theorem thread?_addPostAt (s : State) (log src ord w t : Nat) (ws : List Word32) :
    thread? (addPostAt s log src ord ws) w t = thread? s w t := rfl

/-- A workgroup that is updated reads back updated. -/
@[simp] theorem wg?_updWg (s : State) (w : Nat) (f : Workgroup → Workgroup) : wg? (updWg s w f) w = (wg? s w).map f := by
  rw [updWg]
  split
  · next g hg => exact (find_put_same ..).trans (by rw [hg]; rfl)
  · next hg => simp [hg]

/-- A thread that is updated reads back updated. -/
@[simp] theorem thread?_updThread (s : State) (w t : Nat) (f : Thread → Thread) : thread? (updThread s w t f) w t = (thread? s w t).map f := by
  simp only [thread?, updThread, wg?_updWg]
  cases wg? s w with
  | none => rfl
  | some g => cases h : g.threads.find t <;> simp [h, find_put_same]

@[simp] theorem leaveBatch_posts (s : State) (w t : Nat) : (leaveBatch s w t).posts = s.posts := by rw [leaveBatch_shape]
@[simp] theorem wg?_leaveBatch (s : State) (w t x : Nat) : wg? (leaveBatch s w t) x = wg? s x := by rw [leaveBatch_shape]; rfl
@[simp] theorem thread?_leaveBatch (s : State) (w t x y : Nat) : thread? (leaveBatch s w t) x y = thread? s x y := by rw [leaveBatch_shape]; rfl

/-- A thread that runs on a core is a thread of a resident workgroup. -/
theorem thread_of_runPlace {s : State} {w t : Nat} {p : Nat × Nat} (h : runPlace s w t = some p) :
    ∃ g th, wg? s w = some g ∧ thread? s w t = some th := by
  unfold runPlace at h
  split at h
  · next g th hg ht => exact ⟨g, th, hg, ht⟩
  · cases h

@[simp] theorem coreAt_waitRecord (s : State) (cid : Nat) (h : Held) :
    coreAt (waitRecord s cid h) cid = { coreAt s cid with stalls := (coreAt s cid).stalls ++ [h] } := get_put_same ..

/-- What a record names of a thread does not depend on the cores. -/
theorem ofThread_leaveBatch (s : State) (w t : Nat) (h : Held) : h.ofThread (leaveBatch s w t) = h.ofThread s := by
  simp [Held.ofThread]

end Sys2Proof.Laws
end

section
/-! SUPPORT. A fault of a core's thread or context: its record, its log entry, or its place among those that wait (R44, R264, R329, R331). -/

namespace Sys2Proof.Laws

open Sys2Proof Sys2Proof.Machine Sys2Proof.Claims

/-- A thread that takes a record: the record holds its fault, the thread is faulted there, and an entry of the core is queued. -/
theorem takeRecord_spec {s : State} {cid k : Nat} {h : Held} {g : Workgroup} {th : Thread} (hg : wg? s h.wg = some g)
    (ht : thread? s h.wg h.tid = some th) :
    ((coreAt (takeRecord s cid k h) cid).vrec.get {} k).held = some (h.ofThread s)
      ∧ (thread? (takeRecord s cid k h) h.wg h.tid).map (·.st) = some (.faulted cid k)
      ∧ ∃ y, (takeRecord s cid k h).posts = s.posts ++ [y] ∧ y.src = cid := by
  simp only [takeRecord, hg, ht]
  refine ⟨?_, ?_, ?_⟩
  · simp [ofThread_leaveBatch]
  · simp [ht]
  · simp

/-- What TRAP and BRK hold of a thread's fault. -/
def trapHeld (s : State) (w t cid b : Nat) (x : Batch) (c : Cause) (info : Word64) : Held where
  wg := w
  tid := t
  hdr := { ((thread? s w t).map (·.succ)).getD default with baddr := x.blk }
  roff := x.word
  ts := (List.range 16).map fun i => ((coreAt s cid).lanes.get {} (laneKey b (t % 32))).t.get 0 i
  cause := c
  faddr := 0
  word := s.ir
  info := info
  tick := timer s
  ord := s.nextId

/-- A running thread that faults takes the next record of its core, or waits for one. -/
theorem raiseState_vthread {s : State} {w t cid b : Nat} {x : Batch} {c : Cause} {info : Word64} (hc : s.cur = .vthread w t)
    (hp : runPlace s w t = some (cid, b)) (hb : (coreAt s cid).batches.find b = some x) :
    raiseState c 0 info s = match nextRecord (coreAt s cid) with
      | some k => takeRecord s cid k (trapHeld s w t cid b x c info)
      | none => updThread (waitRecord s cid (trapHeld s w t cid b x c info)) w t fun th => { th with st := .stalled b } := by
  simp only [raiseState, hc, raiseThread, hp, hb]
  rfl

theorem exec_trap {p : (BitVec 18 → Instr) × Cause} (hp : p ∈ [(Instr.trap, Cause.trap), (Instr.brk, Cause.brk)]) {s : State} (h : Passes s {})
    (i : BitVec 18) : exec (p.1 i) s = .next (raiseState p.2 0 (i.signExtend 64) s) := by
  obtain ⟨hr, hf⟩ := h
  simp only [List.mem_cons, List.not_mem_nil, or_false] at hp
  rcases hp with rfl | rfl
  · change execTrap i s = _
    rw [execTrap, guarded_passed hr hf, raise_next]
  · change execBrk i s = _
    rw [execBrk, guarded_passed hr hf, raise_next]

theorem threadFaultRecorded : Claims.ThreadFaultRecorded := by
  constructor
  · intro p hp i s w t cid b k x h hc hpl hb hs hk
    obtain ⟨g, th, hg, ht⟩ := thread_of_runPlace hpl
    have hn : nextRecord (coreAt s cid) = some k := by simp [nextRecord, hs, hk]
    obtain ⟨hrec, hst, hpost⟩ := takeRecord_spec (cid := cid) (k := k) (h := trapHeld s w t cid b x p.2 (i.signExtend 64)) hg ht
    exact ⟨_, trapHeld s w t cid b x p.2 (i.signExtend 64), by rw [exec_trap hp h, raiseState_vthread hc hpl hb, hn], rfl, rfl, rfl, rfl, rfl,
      rfl, rfl, rfl, rfl, hrec, hst, hpost, takeRecord_mem ..⟩
  · intro p hp i s w t cid b x h hc hpl hb hs
    have hn : nextRecord (coreAt s cid) = none := by simp [nextRecord, hs]
    refine ⟨_, trapHeld s w t cid b x p.2 (i.signExtend 64), by rw [exec_trap hp h, raiseState_vthread hc hpl hb, hn], ?_, rfl, rfl, rfl, ?_, ?_⟩
    · simp
    · simp [waitRecord]
    · simp

/-- What TRAP and BRK hold of a Scribe context's fault. -/
def contextHeld (s : State) (w : Nat) (x : Ctx) (c : Cause) (info : Word64) : Held where
  wg := w
  tid := 0
  hdr := { (default : Succ) with baddr := x.pc }
  roff := 0
  ts := []
  cause := c
  faddr := 0
  word := s.ir
  info := info
  tick := timer s
  ord := s.nextId

/-- A Scribe context that faults stops, its record held under its own number, and its entry is queued. -/
theorem raiseState_scribe {s : State} {w cid : Nat} {g : Workgroup} {x : Ctx} {c : Cause} {info : Word64} (hc : s.cur = .scribe w)
    (hg : wg? s w = some g) (hx : g.ctx = some x) (hcid : g.cid? = some cid) :
    ∃ n ws, raiseState c 0 info s = addPost (updCtx (updCore s cid fun y =>
        { y with srec := y.srec.put x.scid { gen := n, held := some (contextHeld s w x c info) } }) w
      fun y => { y with mode := .faulted }) g.part cid ws := by
  simp only [raiseState, hc, raiseScribe, hg, hx, hcid]
  exact ⟨_, _, rfl⟩

theorem contextFaultRecorded : Claims.ContextFaultRecorded := by
  intro p hp i s w cid g c h hc hg hx hcid
  obtain ⟨n, ws, he⟩ := raiseState_scribe (c := p.2) (info := i.signExtend 64) hc hg hx hcid
  refine ⟨_, contextHeld s w c p.2 (i.signExtend 64), exec_trap hp h i, ?_, rfl, rfl, rfl, ?_, raiseState_mem .., ?_⟩
  · simp [he]
  · simp [he, updCtx, hg, hx]
  · simp [he]

/-- Settles O41: a thread's fault takes the lowest free record, or its place behind those that wait; a context's takes the record of its own
number. -/
theorem coreFaultRecorded : Obligations.CoreFaultRecorded := ⟨threadFaultRecorded, contextFaultRecorded⟩

end Sys2Proof.Laws
end

section
/-! SUPPORT. EXIT, SPAWN and LAUNCH: each form with its checks passed, by what its entry or its offer answers (R31, R203, R206-R208). -/

namespace Sys2Proof.Laws

open Sys2Proof Sys2Proof.Machine Sys2Proof.Claims

/-- EXIT by the agent that executes it. -/
theorem exit_passed {s : State} (h : Passes s (term [] .core)) : exec .exit s = match s.cur with
    | .vthread w t => .next (endThread s w t)
    | .scribe w => if matrixPending s w then .next s else .next (checkEnd (updCtx s w fun c => { c with mode := .ended }) w)
    | .control _ => .next s := by
  obtain ⟨hr, hf⟩ := h
  change execExit s = _
  rw [execExit]
  exact guarded_passed hr hf

theorem exitResults : Claims.ExitResults := by
  refine ⟨fun s w t h hc => ?_, fun s w h hc hm => ?_, fun s w h hc hm => ?_⟩
  · rw [exit_passed h, hc]
  · simp [exit_passed h, hc, hm]
  · simp [exit_passed h, hc, hm]

/-- The lowest free tid: below TMAX, with a thread at every tid below it (R206). -/
theorem freeTid_some {g : Workgroup} {t : Nat} (h : freeTid g = some t) : t < g.tmax ∧ ∀ k < t, (g.threads.find k).isSome = true := by
  rw [freeTid, List.find?_range_eq_some] at h
  obtain ⟨-, ht, hlow⟩ := h
  refine ⟨List.mem_range.mp ht, fun k hk => ?_⟩
  simpa using hlow k hk

/-- SPAWN whose entry passes, by the lowest free tid and the place of the child. -/
theorem spawn_passed {d a b : Field} {s s1 : State} {u : Succ} {w : Nat} {g : Workgroup}
    (h : Passes s { ops := [opW d, opRp a, opR b], need := .core }) (he : checkEntry s s.cur (readP s a).toNat = .ok (u, s1))
    (hg : curWg s1 = some (w, g)) : exec (.spawn d a b) s = match freeTid g with
      | none => writes s1 d 0xFFFFFFFF#64
      | some t => match spawnChild s1 w t u ((readR s b).setWidth 32) with
        | some s2 => if releaseReady s then writes s2 d (BitVec.ofNat 64 t) else .next s
        | none => .next (raiseState .spill 0 0 s) := by
  obtain ⟨hr, hf⟩ := h
  change execSpawn d a b s = _
  rw [execSpawn, guarded_passed hr hf, run_ok he]
  simp only [hg]
  rfl

/-- A form whose entry fails a check faults with it. -/
theorem spawn_refused {d a b : Field} {s : State} {c : Cause} {v : Nat} (h : Passes s { ops := [opW d, opRp a, opR b], need := .core })
    (he : checkEntry s s.cur (readP s a).toNat = .bad c v) : exec (.spawn d a b) s = .next (raiseState c v 0 s) := by
  obtain ⟨hr, hf⟩ := h
  change execSpawn d a b s = _
  rw [execSpawn, guarded_passed hr hf, he]
  rfl

/-- LAUNCH of a record whose offer is answered. -/
theorem launch_passed {d a : Field} {s s1 s2 : State} {l : List Byte} {n : Nat} (h : Passes s { ops := [opW d, opRp a] })
    (ha : (readP s a).toNat % 128 = 0) (hl : readParts s (me s) (readP s a).toNat 16 8 = .ok (l, s1))
    (ho : offerLaunch s1 (namedPart s) (me s).sec (BitVec.ofNat 1024 (ofBytes l)) = .ok (n, s2)) :
    exec (.launch d a) s = if releaseReady s then writes (release s2 2) d (BitVec.ofNat 64 n) else .next s := by
  obtain ⟨hr, hf⟩ := h
  have hb : ((readParts s (issuer s s.cur) (readP s a).toNat 16 8).bind fun r =>
      offerLaunch r.2 (namedPart s) (issuer s s.cur).sec (BitVec.ofNat 1024 (ofBytes r.1))) = .ok (n, s2) := by
    rw [show readParts s (issuer s s.cur) (readP s a).toNat 16 8 = .ok (l, s1) from hl]
    exact ho
  change execLaunch d a s = _
  rw [execLaunch, guarded_passed hr hf]
  simp only [ha, ne_eq, not_true_eq_false, if_false]
  rw [run_ok hb]
  rfl

theorem launch_misaligned {d a : Field} {s : State} (h : Passes s { ops := [opW d, opRp a] }) (ha : (readP s a).toNat % 128 ≠ 0) :
    exec (.launch d a) s = .next (raiseState .misalign (readP s a).toNat 0 s) := by
  obtain ⟨hr, hf⟩ := h
  change execLaunch d a s = _
  rw [execLaunch, guarded_passed hr hf]
  simp only [ha, ne_eq, not_false_eq_true, if_true, raise_next]

/-- A device queue that is full takes nothing. -/
theorem offerLaunch_full {s : State} {p : Nat} {sec : Bool} {r : BitVec 1024} (h : Config.deviceQueueDepth ≤ dlqCount s p) :
    offerLaunch s p sec r = .ok (0xFFFFFFFF, s) := by rw [offerLaunch, if_pos h]

/-- A queue with room answers by the entry checks of the record. -/
theorem offerLaunch_checked {s s' : State} {p : Nat} {sec : Bool} {r : BitVec 1024} {x : CheckFail} (h : dlqCount s p < Config.deviceQueueDepth)
    (hx : entryChecks s p 0 sec false r = .ok (x, s')) : offerLaunch s p sec r = match x with
      | some _ => .ok (0xFFFFFFFE, s')
      | none => .ok (nextLid s' p, { takeLid s' p with dlq := s'.dlq ++ [{ part := p, lid := nextLid s' p, record := r, sec := sec }] }) := by
  cases x <;> simp only [offerLaunch, if_neg (Nat.not_le.2 h), hx, Out.bind]

theorem spawnResults : Claims.SpawnResults := by
  refine ⟨fun d a b s s1 u w g h he hg => ⟨fun ht => ?_, fun t ht => ?_⟩, fun d a b s c v h he => spawn_refused h he,
    fun d a s s1 s2 l n h ha hl ho => ⟨fun hr => ?_, fun hr => ?_⟩, fun d a s h ha => launch_misaligned h ha,
    fun s s' p sec r => ⟨offerLaunch_full, fun hn => ⟨fun x hx => offerLaunch_checked hn hx, fun hx => ?_⟩⟩⟩
  · rw [spawn_passed h he hg, ht]
  · obtain ⟨hlt, hlow⟩ := freeTid_some ht
    refine ⟨hlt, hlow, fun s2 h2 => ⟨fun hr => ?_, fun hr => ?_⟩, fun h2 => ?_⟩
    · simp only [spawn_passed h he hg, ht, h2, hr, if_true]
    · simp only [spawn_passed h he hg, ht, h2, hr, Bool.false_eq_true, if_false]
    · simp only [spawn_passed h he hg, ht, h2]
  · rw [launch_passed h ha hl ho, if_pos hr]
  · rw [launch_passed h ha hl ho, hr, if_neg Bool.false_ne_true]
  · exact ⟨_, offerLaunch_checked hn hx, rfl, rfl, rfl⟩

/-- Settles O34: EXIT is the end of its thread or context, SPAWN answers the lowest free tid, LAUNCH what the offer of its record answers. -/
theorem threadResults : Obligations.ThreadResults := ⟨exitResults, spawnResults⟩

end Sys2Proof.Laws
end

section
/-! SUPPORT. Queues, launches, reports, runs, placement and completion: each act where its conditions hold (R31, R58, R365-R369). -/

namespace Sys2Proof.Laws

open Sys2Proof Sys2Proof.Machine Sys2Proof.Claims

/-! The record of a queue (R365) -/

/-- A queue of which no more records wait than it has room for: the record at its HEAD, by what a read of it answers. -/
theorem queueRecordTake_takes {p q : Nat} {s : State} (hp : p < 64) (hq : nextQueue s p = some q)
    (hw : qwaiting s p q ≤ 2 ^ bits (qctl s p q) 4 0) :
    exec (.queueRecordTake p q) s = match lineFault (turnTaken s p q) (lineOf (qaddr s p q)) with
      | some e => .next (refuseRecord (headGone s p q (turnTaken s p q)) p (nextLid (turnTaken s p q) p) (if q = 15 then 1 else 0)
          ((partWorld (turnTaken s p q) p).getD false) 0 e (qaddr s p q))
      | none => match homeRead (turnTaken s p q) 0 (qaddr s p q) 128 with
        | some r => match startLaunch (headGone s p q r.2) p (nextLid (turnTaken s p q) p) (if q = 15 then 1 else 0)
            ((partWorld (turnTaken s p q) p).getD false) (q == 15) (BitVec.ofNat 1024 (ofBytes r.1)) with
          | .ok t => .next t
          | _ => .next s
        | none => .next s := by
  have hlvl : b2n (q == 15) = if q = 15 then 1 else 0 := by simp [b2n]
  rw [← hlvl]
  change execQueueRecordTake p q s = _
  rw [execQueueRecordTake, if_pos ⟨hp, hq⟩]
  exact (if_neg (Nat.not_lt.2 hw)).trans rfl

/-- A control register whose enable bit is cleared and whose error bit is set. -/
theorem overrun_bits (c : Nat) : bits (BitVec.ofNat 64 (setBits (setBits c 31 31 0) 30 30 1)).toNat 31 30 = 1 := by
  simp only [bits, setBits, BitVec.toNat_ofNat, Nat.shiftRight_eq_div_pow]
  omega

theorem pregGet_pregSet (s : State) (p o v : Nat) : pregGet (pregSet s p o v) p o = (BitVec.ofNat 64 v).toNat := by
  simp [pregGet, pregSet]

/-- A queue of which more records wait than it has room for is switched off, its error bit set. -/
theorem queueRecordTake_overrun {p q : Nat} {s : State} (hp : p < 64) (hq : nextQueue s p = some q)
    (hw : 2 ^ bits (qctl s p q) 4 0 < qwaiting s p q) :
    ∃ t, exec (.queueRecordTake p q) s = .next t ∧ bits (qctl t p q) 31 30 = 1 ∧ t.launches = s.launches := by
  refine ⟨postKind3 (pregSet (turnTaken s p q) p (0x20 * q + 8) (setBits (setBits (qctl s p q) 31 31 0) 30 30 1)) p (b2n (q == 15))
    ((partWorld (turnTaken s p q) p).getD false) .illegal 0 0 0 0, ?_, ?_, rfl⟩
  · change execQueueRecordTake p q s = _
    rw [execQueueRecordTake, if_pos ⟨hp, hq⟩]
    exact (if_pos hw).trans rfl
  · exact (congrArg (bits · 31 30) (pregGet_pregSet ..)).trans (overrun_bits _)

/-- The device queue's first record that has no launch yet is the next to be one (R366). -/
theorem deviceLaunchTake_takes {p : Nat} {s t : State} {x : DlqRec} (hx : s.dlq.find? (fun x => x.part == p && (launch? s p x.lid).isNone) = some x)
    (ht : startLaunch s p x.lid 0 x.sec false x.record = .ok t) : exec (.deviceLaunchTake p) s = .next t := by
  change execDeviceLaunchTake p s = _
  rw [execDeviceLaunchTake, hx]
  simp only [ht]

/-- A pending launch, by the counter it depends on (R367). -/
theorem launchDependenceMet_pending {p n v : Nat} {s s' : State} {l : Launch} (hl : launch? s p n = some l) (hst : l.st = .pending)
    (hv : watchRead s l.depPa 8 = some (v, s')) :
    exec (.launchDependenceMet p n) s = if recField l.record 0x68 63 0 ≤ v then .next (makeReady s' l) else .next s := by
  change execLaunchDependenceMet p n s = _
  rw [execLaunchDependenceMet, hl]
  dsimp only
  rw [if_pos hst, hv]
  rfl

/-! Reports (R58) -/

/-- What a die reports of a partition: its permitted core groups. -/
def freshReports (s : State) (d p : Nat) : List DieRep := ((List.range (Config.coreGroups d)).filter (groupPermitted s p d)).map (groupReport s d)

/-- A die's report to one partition. -/
def reportTo (d : Nat) (s : State) (p : Nat) : State :=
  let rep := (part s p).rep.filter (fun r => r.die != d) ++ freshReports s d p
  if rep = (part s p).rep then s else setPart s p { part s p with rep := rep }

theorem part_setPart_same (s : State) (p : Nat) (x : Part) : part (setPart s p x) p = x := get_put_same ..

theorem part_setPart_other (s : State) {p q : Nat} (x : Part) (h : q ≠ p) : part (setPart s p x) q = part s q := get_put_other _ _ _ _ _ h

/-- A report to one partition changes what that partition knows and nothing else. -/
theorem reportTo_spec (d p : Nat) (s : State) : reportTo d s p = { s with parts := (reportTo d s p).parts }
    ∧ (part (reportTo d s p) p).rep = (part s p).rep.filter (fun r => r.die != d) ++ freshReports s d p
    ∧ ∀ q, q ≠ p → part (reportTo d s p) q = part s q := by
  unfold reportTo
  dsimp only
  split
  · next h => exact ⟨rfl, h.symm, fun _ _ => rfl⟩
  · exact ⟨rfl, by rw [part_setPart_same], fun q hq => part_setPart_other s _ hq⟩

/-- What a die reports does not depend on what partitions know. -/
theorem freshReports_parts (s : State) (x : SMap Part) (d p : Nat) : freshReports { s with parts := x } d p = freshReports s d p := rfl

/-- Reports to the first `n` partitions. -/
theorem reportTo_range (d n : Nat) (s : State) : (List.range n).foldl (reportTo d) s = { s with parts := ((List.range n).foldl (reportTo d) s).parts }
    ∧ (∀ p < n, (part ((List.range n).foldl (reportTo d) s) p).rep = (part s p).rep.filter (fun r => r.die != d) ++ freshReports s d p)
    ∧ ∀ p, n ≤ p → part ((List.range n).foldl (reportTo d) s) p = part s p := by
  induction n with
  | zero => exact ⟨rfl, fun p hp => absurd hp (Nat.not_lt_zero p), fun _ _ => rfl⟩
  | succ n ih =>
    obtain ⟨hshape, hdone, hrest⟩ := ih
    rw [List.range_succ, List.foldl_append, List.foldl_cons, List.foldl_nil]
    generalize (List.range n).foldl (reportTo d) s = t at hshape hdone hrest
    obtain ⟨hs, hnew, hold⟩ := reportTo_spec d n t
    have hfresh (p : Nat) : freshReports t d p = freshReports s d p := by rw [hshape, freshReports_parts]
    refine ⟨?_, fun p hp => ?_, fun p hp => ?_⟩
    · rw [hs, hshape]
    · by_cases hpn : p = n
      · rw [hpn, hnew, hfresh, hrest n (Nat.le_refl n)]
      · rw [hold p hpn, hdone p (by omega)]
    · rw [hold p (by omega), hrest p (by omega)]

/-- A die's report reaches every partition (R58). -/
theorem dispatcherReport_reports {d : Nat} {s : State} (hd : Config.isCompute d = true) (hc : crossHeld s d = false) :
    exec (.dispatcherReport d) s = .next ((List.range 64).foldl (reportTo d) s) := by
  change execDispatcherReport d s = _
  rw [execDispatcherReport, hd, hc]
  rfl

/-! Runs, placement and completion (R31, R58, R368) -/

/-- The launch that is offered placement first hands its run to the die it goes to. -/
theorem workgroupRunHandoff_hands {p n d k : Nat} {s : State} {l : Launch} (hl : launch? s p n = some l) (ho : offerable s l = true)
    (hh : l.handed = []) (hfirst : ∀ x ∈ s.launches, x.part = p → offeredBefore x l = true → offerable s x = false)
    (ht : runTarget s l = some (d, k)) (hc : crossHeld s d = false) : exec (.workgroupRunHandoff p n) s = .next (handOff s p n l d k) := by
  have hnone : (s.launches.any fun x => x.part == p && offeredBefore x l && offerable s x) = false := by
    rw [List.any_eq_false]
    intro x hx
    simp only [Bool.and_eq_true, beq_iff_eq, not_and, Bool.not_eq_true, and_imp]
    exact hfirst x hx
  change execWorkgroupRunHandoff p n s = _
  rw [execWorkgroupRunHandoff, hl]
  simp only [ho, hh, List.isEmpty_nil, hnone, Bool.not_false, Bool.and_self, if_true, ht, hc, Bool.false_eq_true, if_false, handOff]

/-- The first workgroup of a run, by the core that its die finds for it. -/
theorem workgroupPlace_first {p n w d : Nat} {s : State} {l : Launch} (hl : launch? s p n = some l) (hh : l.handed.head? = some (d, w))
    (hlar : larderHold s l = false) (hc : crossHeld s d = false) : exec (.workgroupPlace p n w) s = match placeTarget s l d w with
      | some c => if (slotWaiters s p).any (slotFits s c) || grewNow s c then .next s else .next (startWorkgroup s l w c)
      | none => .next (updLaunch s p n fun x =>
          { x with handed := x.handed.filter fun y => y.2 != w, back := insertAsc x.back w }) := by
  obtain ⟨rest, hrun⟩ : ∃ r, l.handed = (d, w) :: r := by simpa [List.head?_eq_some_iff] using hh
  change execWorkgroupPlace p n w s = _
  rw [execWorkgroupPlace, hl]
  simp only [hrun, List.find?_cons, beq_self_eq_true, hlar, hc, List.head?_cons, Option.any_some, Bool.not_true, Bool.or_self,
    Bool.false_eq_true, if_false]
  rfl

/-- A launch whose workgroups have all ended is complete, and its completion is posted where it asks for that (R31). -/
theorem launchComplete_ended {p n : Nat} {s : State} {l : Launch} (hl : launch? s p n = some l) (hst : l.st = .draining)
    (he : l.ended = recW l.record) (hpe : endedPeers s = false) :
    exec (.launchComplete p n) s = if recField l.record 0x70 63 0 = 0 then .next (completed s p n)
      else match postAdd (completed s p n) (launchIssuer p l.lvl l.sec l.record) none (recField l.record 0x70 63 0) (recField l.record 0x78 31 0) with
        | .ok t => .next t
        | .bad c _ => .next (postLaunch (completed s p n) l c 0 (recField l.record 0x70 63 0))
        | .wait => .next s := by
  change execLaunchComplete p n s = _
  rw [execLaunchComplete]
  simp only [hl]
  rw [if_pos ⟨hst, he, hpe⟩]
  rfl

/-- Settles O50: each act of the dispatchers is its one effect where its conditions hold; reports are an induction over the partitions. -/
theorem launchResults : Obligations.LaunchResults := by
  refine ⟨fun p q s hp hq hw => ⟨fun l r t hf hr ht => ?_, fun hf hr => ?_, fun e hf => ?_⟩,
    fun p q s hp hq hw => queueRecordTake_overrun hp hq hw, fun p s t x hx ht => deviceLaunchTake_takes hx ht,
    fun p n v s s' l hl hst hv => ⟨fun hle => ?_, fun hlt => ?_⟩, fun d s hd hc => ?_,
    fun p n d k s l hl ho hh hfirst ht hc => workgroupRunHandoff_hands hl ho hh hfirst ht hc,
    fun p n w d s l hl hh hlar hc => ⟨fun c hcore hfit hgrew => ?_, fun hcore => ?_⟩,
    fun p n s l hl hst he hpe => ⟨fun h0 => ?_, fun h0 => ⟨fun t ht => ?_, fun c v ht => ?_⟩⟩⟩
  · simp only [queueRecordTake_takes hp hq hw, hf, hr, ht]
  · simp only [queueRecordTake_takes hp hq hw, hf, hr]
  · simp only [queueRecordTake_takes hp hq hw, hf]
  · rw [launchDependenceMet_pending hl hst hv, if_pos hle]
  · rw [launchDependenceMet_pending hl hst hv, if_neg (Nat.not_le.2 hlt)]
  · obtain ⟨hshape, hrep, -⟩ := reportTo_range d 64 s
    refine ⟨_, dispatcherReport_reports hd hc, ?_, ?_, ?_, ?_, hrep⟩ <;> rw [hshape]
  · rw [workgroupPlace_first hl hh hlar hc]
    simp only [hcore, hfit, hgrew, Bool.or_self, Bool.false_eq_true, if_false]
  · simp only [workgroupPlace_first hl hh hlar hc, hcore]
  · rw [launchComplete_ended hl hst he hpe, if_pos h0]
  · rw [launchComplete_ended hl hst he hpe, if_neg h0, ht]
  · rw [launchComplete_ended hl hst he hpe, if_neg h0, ht]

end Sys2Proof.Laws
end

section
/-! SUPPORT. The Nib and the retries of a core: batches formed, records taken, spilled entries back (R40-R45, R52, R55, R56). -/

namespace Sys2Proof.Laws

open Sys2Proof Sys2Proof.Machine Sys2Proof.Claims

/-- The Nib in a core that may form a batch: from the forced entry, else from the one of the round robin. -/
theorem nibBatchFormation_free {s : State} {cid b : Nat} (h : NibFree s cid b) : exec (.nibBatchFormation cid) s = match forcedEntry s cid with
    | some e => .next (formBatch
        (updCore s cid fun c => { c with deficit := c.deficit.putD 0 e.ctx (c.deficit.get 0 e.ctx - entryCost e) }) cid b e)
    | none => match chooseEntry (visits (coreAt s cid)) s cid with
      | (t, some e) => .next (formBatch t cid b e)
      | (_, none) => .next s := by
  obtain ⟨hr, hn, hb⟩ := h
  change execNibBatchFormation cid s = _
  rw [execNibBatchFormation, if_pos ⟨hr, hn⟩, hb]
  rfl

/-- A record that is free is taken by the fault that has waited longest (R44). -/
theorem faultedThreadRecord_takes {s : State} {cid k : Nat} {h : Held} {l : List Held} (hs : (coreAt s cid).stalls = h :: l)
    (hk : freeRecord (coreAt s cid) = some k) : exec (.faultedThreadRecord cid) s = .next (takeRecord (unstalled s cid h l) cid k h) := by
  change execFaultedThreadRecord cid s = _
  rw [execFaultedThreadRecord, hs, hk]
  rfl

/-- A resident thread that waits for its place tries again (R55). -/
theorem placementRetry_wakes {s : State} {w t cid : Nat} {th : Thread} {g : Workgroup} (ht : thread? s w t = some th) (hg : wg? s w = some g)
    (hc : g.cid? = some cid) (hst : th.st = .waiting .place) : exec (.placementRetry w t) s = .next (wake s w t) := by
  change execPlacementRetry w t s = _
  simp [execPlacementRetry, ht, hg, hc, hst]

/-- Taking a record back changes no core: it draws values at most, and the record is whole again. -/
theorem recordBack_cores (s : State) (cid : Nat) (r : Spilled) : (recordBack s cid r).2.cores = s.cores := by
  unfold recordBack
  dsimp only
  split <;> rfl

theorem coreAt_recordBack (s : State) (cid : Nat) (r : Spilled) : coreAt (recordBack s cid r).2 cid = coreAt s cid := by
  simp only [coreAt, recordBack_cores]

/-- A record gives its threads back, whatever software has written into it. -/
theorem recordBack_wset (s : State) (cid : Nat) (r : Spilled) : (recordBack s cid r).1.wset = r.ent.wset := by
  unfold recordBack
  dsimp only
  split <;> rfl

/-- A record that no software has written into comes back as it was. -/
theorem recordBack_whole {s : State} {cid : Nat} {r : Spilled} (h : s.spoiled.contains (r.holder (coreAt s cid)) = false) :
    recordBack s cid r = (r.back (coreRaw s cid), s) := by
  simp only [recordBack, h, Bool.false_eq_true, if_false]

/-- An entry is added behind those of a frontier with room (R39). -/
theorem addEntry_room {s : State} {cid : Nat} (e : Entry) (h : (coreAt s cid).fr.length < Config.frontierEntries) :
    ∃ t, addEntry s cid e = some t ∧ (coreAt t cid).fr = (coreAt s cid).fr ++ [e] ∧ (coreAt t cid).spilled = (coreAt s cid).spilled := by
  rw [addEntry, if_pos h]
  exact ⟨_, rfl, by simp, by simp⟩

/-- The spilled entry that comes first is back in a frontier with room (R56). -/
theorem spillReload_room {s : State} {cid : Nat} {r : Spilled} (hr : reloadFirst (coreAt s cid) = some r)
    (hl : (coreAt s cid).fr.length < Config.frontierEntries) (hc : coreRuns s cid = true) :
    ∃ t, exec (.spillReload cid) s = .next t ∧ (coreAt t cid).fr = (coreAt s cid).fr ++ [(recordBack s cid r).1]
      ∧ (coreAt t cid).spilled = (coreAt s cid).spilled.filter (· != r) := by
  obtain ⟨t, ht, hfr, hsp⟩ := addEntry_room (s := updCore (recordBack s cid r).2 cid fun c => { c with spilled := c.spilled.filter (· != r) })
    (cid := cid) (recordBack s cid r).1 (by simpa [coreAt_recordBack] using hl)
  refine ⟨t, ?_, by simpa [coreAt_recordBack] using hfr, by simpa [coreAt_recordBack] using hsp⟩
  change execSpillReload cid s = _
  simp only [execSpillReload, hr, hl, hc, and_self, if_true, ht]

/-- The oldest record and the victim of a full frontier change places (R56). -/
theorem spillSwap_swaps {s t : State} {cid : Nat} {r : Spilled} {l : List Spilled} {v : Entry} (hs : (coreAt s cid).spilled = r :: l)
    (hv : victim s cid (coreAt s cid).fr = some v) (hl : (coreAt s cid).fr.length = Config.frontierEntries)
    (hw : (coreAt s cid).swapRaw + 65536 ≤ coreRaw s cid)
    (ht : spillEntry (updCore (recordBack s cid r).2 cid fun c => { c with spilled := c.spilled.filter (· != r) }) cid v = some t) :
    exec (.spillSwap cid) s = .next (updCore t cid fun c =>
      { c with fr := (c.fr.filter fun x => !sameEntry x v) ++ [(recordBack s cid r).1], swapRaw := coreRaw s cid }) := by
  change execSpillSwap cid s = _
  simp only [execSpillSwap, hs, hv, hl, hw, and_self, if_true, ht]

/-- Settles O51: each act of the Nib and of the retries is its one effect where its condition holds. -/
theorem frontierResults : Obligations.FrontierResults := by
  refine ⟨fun cid b s h => ⟨fun e he => ?_, fun t e hf he => ?_⟩, fun cid a s e _ _ _ => ⟨fun _ => rfl, fun _ _ _ => rfl⟩,
    fun cid k s h l hs hk => faultedThreadRecord_takes hs hk, fun w t cid s th g ht hg hc hst => placementRetry_wakes ht hg hc hst,
    fun cid s r hr hl hc => spillReload_room hr hl hc, fun cid s t r l v hs hv hl hw ht => spillSwap_swaps hs hv hl hw ht,
    fun cid s r h => recordBack_whole h, fun cid s r => recordBack_wset s cid r⟩
  · rw [nibBatchFormation_free h, he]
  · rw [nibBatchFormation_free h, hf, he]

end Sys2Proof.Laws
end

section
/-! SUPPORT. Whose turn a step runs: the agenda's next, or the first of the part's own acts that does something (R43, R167, R177, log 1). -/

namespace Sys2Proof.Laws

open Sys2Proof Sys2Proof.Machine Sys2Proof.Claims

/-- An act that gives no other state than the one it finds. -/
def Doing.Idle (s : State) (f : Doing) : Prop := ∀ x, f.run s = .next x → x = s

theorem firstActing_cons_idle {s : State} {f : Doing} {l : List Doing} (h : Doing.Idle s f) : firstActing s (f :: l) = firstActing s l := by
  rw [firstActing]
  split
  · next hr => rw [if_pos (h _ hr)]
  · rfl

theorem firstActing_none {s : State} {l : List Doing} (h : ∀ f ∈ l, Doing.Idle s f) : firstActing s l = none := by
  induction l with
  | nil => rfl
  | cons f l ih =>
    rw [firstActing_cons_idle (h f (.head _))]
    exact ih fun g hg => h g (.tail _ hg)

/-- The first act that does something is the one to act, whatever comes after it. -/
theorem firstActing_first {s t : State} {f : Doing} {l m : List Doing} (h : ∀ g ∈ l, Doing.Idle s g) (hf : f.run s = .next t) (ht : t ≠ s) :
    firstActing s (l ++ f :: m) = some (f.name, t) := by
  induction l with
  | nil => simp [firstActing, hf, ht]
  | cons g l ih =>
    rw [List.cons_append, firstActing_cons_idle (h g (.head _))]
    exact ih fun k hk => h k (.tail _ hk)

/-- The control contexts come first of all that may act, in ascending order. -/
theorem idleActs_split (turn : Act → State → Result) (s : State) {n : Nat} (h : n < 32) :
    ∃ m, idleActs turn s = ((List.range n).map fun k => act 5 k 0 (turn (.control k))) ++ act 5 n 0 (turn (.control n)) :: m := by
  obtain ⟨k, hk⟩ := Nat.exists_eq_add_of_lt h
  have hr : List.range 32 = List.range n ++ n :: (List.range k).map fun i => n + (i + 1) := by
    rw [hk, Nat.add_assoc, List.range_add, List.range_succ_eq_map, List.map_cons, List.map_map]
    rfl
  simp only [idleActs, controlActs, hr, List.map_append, List.map_cons, List.append_assoc, List.cons_append]
  exact ⟨_, rfl⟩

/-- With no act due, a round goes on with the first act of those that have not acted in it and can. -/
theorem idleStep_fresh {turn : Act → State → Result} {s t : State} {n : Nat × Nat × Nat} (hd : firstActing s (dueActs s) = none)
    (h : firstActing (passTime s 12) ((idleActs turn (passTime s 12)).filter fun f => !(passTime s 12).round.contains f.name) = some (n, t)) :
    idleStep turn s = { t with round := n :: (passTime s 12).round, lull := 0 } := by
  simp only [idleStep, hd, h]

/-- When nothing that has not acted in the round can, the first of what has acts again. -/
theorem idleStep_again {turn : Act → State → Result} {s t : State} {n : Nat × Nat × Nat} (hd : firstActing s (dueActs s) = none)
    (h : firstActing (passTime s 12) ((idleActs turn (passTime s 12)).filter fun f => !(passTime s 12).round.contains f.name) = none)
    (ha : firstActing (passTime s 12) ((idleActs turn (passTime s 12)).filter fun f => (passTime s 12).round.contains f.name) = some (n, t)) :
    idleStep turn s = roundOn (passTime s 12) [n] t := by
  simp only [idleStep, hd, h, ha]

/-- A batch's turn in which its word issues. -/
theorem runBatch_issues {cid b : Nat} {s : State} (hm : batchMay s cid b = true)
    (hr : ∃ a ∈ batchHeads s cid b, canRun { s with cur := a } = true) :
    runBatch cid b s =
      let u := runLanes (batchHeads s cid b) (noteBatch s cid b)
      let t := if torn s cid b then tornResults s u else u
      .next (if createsChildren t.ir && laneLeft t cid b (wordAt s cid b) then s else t) := by
  rw [runBatch, if_pos]
  simpa only [hm, Bool.true_and, List.any_eq_true] using hr

/-- An agent that cannot run does nothing. -/
theorem runWord_off {a : Agent} {s : State} (h : canRun { s with cur := a } = false) : runWord a s = .next { s with cur := a } := by
  simp [runWord, h]

theorem stepRunsTurns : Claims.StepRunsTurns := by
  refine ⟨fun s s' t l hl hs => ?_, fun s => rfl, fun s => ⟨rfl, takeUp_of_everSet⟩, fun f r => ⟨rfl, rfl⟩,
    fun a l s => ⟨fun t ht => by rw [runLanes, ht], fun hc => by rw [runLanes, runWord_off hc]⟩⟩
  rw [step_turn hl, ← hs]
  refine ⟨fun i hi => ?_, fun cid b u r ht hm hr hu hrr => ?_, fun w ht hm => ?_, fun n ht hd hb hmode hm => ?_⟩
  · constructor
    · intro he
      simp [hi, runTurn, he]
    · intro w he
      simp [hi, runTurn, he]
  · rw [ht, runTurn, runBatch_issues hm hr]
    simp only [← hu, ← hrr]
    constructor
    · intro hc
      simp only [hc, Bool.false_eq_true, if_false]
    · intro hc
      simp only [hc, if_true]
  · rw [ht, runTurn, runContext, if_pos hm]
  · rw [ht, runTurn, runControl, hd, hb]
    simp only [Bool.false_eq_true, if_false, hmode, reduceCtorEq]
    rw [runContext, if_pos hm]

theorem stepRunsControl : Claims.StepRunsControl := by
  constructor
  · intro s p t n hl hdue hp hn hfresh hbefore hrun ht
    subst hp
    obtain ⟨m, hm⟩ := idleActs_split runTurn (passTime s 12) hn
    have hfirst : firstActing (passTime s 12)
        ((idleActs runTurn (passTime s 12)).filter fun f => !(passTime s 12).round.contains f.name) = some ((5, n, 0), t) := by
      rw [hm, List.filter_append, List.filter_cons_of_pos (by simpa [act] using hfresh)]
      refine firstActing_first (f := act 5 n 0 (runTurn (.control n))) (fun g hg => ?_) hrun ht
      obtain ⟨hg, hgr⟩ := List.mem_filter.mp hg
      obtain ⟨k, hk, rfl⟩ := List.mem_map.mp hg
      exact hbefore k (List.mem_range.mp hk) (by simpa [act] using hgr)
    rw [step_idle hl, idleStep_fresh (firstActing_none hdue) hfirst, settled]
  · intro s p t hl hdue hp hrest hround hrun ht
    subst hp
    obtain ⟨m, hm⟩ := idleActs_split runTurn (passTime s 12) (n := 0) (by decide)
    have hnone : firstActing (passTime s 12)
        ((idleActs runTurn (passTime s 12)).filter fun f => !(passTime s 12).round.contains f.name) = none := by
      refine firstActing_none fun f hf => ?_
      obtain ⟨hf, hfr⟩ := List.mem_filter.mp hf
      exact hrest f hf (by simpa using hfr)
    have hagain : firstActing (passTime s 12)
        ((idleActs runTurn (passTime s 12)).filter fun f => (passTime s 12).round.contains f.name) = some ((5, 0, 0), t) := by
      rw [hm, List.range_zero, List.map_nil, List.nil_append, List.filter_cons_of_pos (by simpa [act] using hround)]
      exact firstActing_first (f := act 5 0 0 (runTurn (.control 0))) (l := []) (by simp) hrun ht
    rw [step_idle hl, idleStep_again (firstActing_none hdue) hnone hagain, roundOn, lullCycles]
    constructor
    · intro hlull
      rw [if_pos (by omega), settled]
    · intro hlull
      rw [if_neg (by omega), settled]

/-- Settles O5: a step with an agenda is its next turn, and one without is the first act of the round that does something. -/
theorem stepRunsDecoded : Obligations.StepRunsDecoded := ⟨stepRunsTurns, stepRunsControl⟩

end Sys2Proof.Laws
end

section
/-! SUPPORT. Registers: what a write of one, two or four of them and the move to the next word leave of the state, and what they leave of the
other registers of their agent (R63-R66, R72, R73). -/

namespace Sys2Proof.Laws

open Sys2Proof Sys2Proof.Machine

/-! Reading past an update -/

theorem find_putD_other {α : Type} [DecidableEq α] (d : α) (m : SMap α) {k j : Nat} (v : α) (h : j ≠ k) : (m.putD d k v).find j = m.find j := by
  unfold SMap.putD
  split
  · exact find_erase_other m k j h
  · exact find_put_other m k j v h

theorem get_putD_other {α : Type} [DecidableEq α] (d : α) (m : SMap α) {k j : Nat} (v : α) (h : j ≠ k) : (m.putD d k v).get d j = m.get d j :=
  congrArg (·.getD d) (find_putD_other d m v h)

theorem wg?_updWg_other (s : State) {w y : Nat} (f : Workgroup → Workgroup) (h : y ≠ w) : wg? (updWg s w f) y = wg? s y := by
  rw [updWg]
  split
  · exact find_put_other _ _ _ _ h
  · rfl

theorem coreAt_updCore_other (s : State) {cid c : Nat} (f : Core → Core) (h : c ≠ cid) : coreAt (updCore s cid f) c = coreAt s c :=
  get_put_other _ _ _ _ _ h

@[simp] theorem ctl_updCtl (s : State) (n : Nat) (f : Ctl → Ctl) : ctl (updCtl s n f) n = f (ctl s n) := get_put_same ..

theorem ctl_updCtl_other (s : State) {n y : Nat} (f : Ctl → Ctl) (h : y ≠ n) : ctl (updCtl s n f) y = ctl s y := get_put_other _ _ _ _ _ h

@[simp] theorem launch?_updWg (s : State) (w p l : Nat) (f : Workgroup → Workgroup) : launch? (updWg s w f) p l = launch? s p l := by
  rw [updWg_shape]
  rfl

@[simp] theorem launch?_updThread (s : State) (w t p l : Nat) (f : Thread → Thread) : launch? (updThread s w t f) p l = launch? s p l :=
  launch?_updWg ..

@[simp] theorem launch?_updCtx (s : State) (w p l : Nat) (f : Ctx → Ctx) : launch? (updCtx s w f) p l = launch? s p l := launch?_updWg ..

/-- A workgroup one of whose threads is updated keeps all but its threads, and of these all but that one. -/
theorem wg?_updThread {s : State} {w : Nat} {g : Workgroup} (t : Nat) (f : Thread → Thread) (h : wg? s w = some g) :
    ∃ l, wg? (updThread s w t f) w = some { g with threads := l } ∧ (∀ j, j ≠ t → l.find j = g.threads.find j)
      ∧ l.find t = (g.threads.find t).map f := by
  rw [updThread, wg?_updWg, h, Option.map_some]
  split
  · next th ht => exact ⟨_, rfl, fun j hj => find_put_other _ _ _ _ hj, (find_put_same ..).trans (by rw [ht]; rfl)⟩
  · next ht => exact ⟨_, rfl, fun _ _ => rfl, by rw [ht]; rfl⟩

/-- A thread runs where it ran as long as its own state and the place of its workgroup are what they were. -/
theorem runPlace_updThread (s : State) (w t : Nat) {f : Thread → Thread} (hf : ∀ th, (f th).st = th.st) :
    runPlace (updThread s w t f) w t = runPlace s w t := by
  have hb (th : Thread) : (f th).bctx? = th.bctx? := by simp [Thread.bctx?, hf]
  cases hw : wg? s w with
  | none => simp [runPlace, updThread, wg?_updWg, hw]
  | some g =>
    obtain ⟨l, hl, -, -⟩ := wg?_updThread t f hw
    cases ht : thread? s w t <;> simp [runPlace, hw, hl, ht, hb, Workgroup.cid?]

@[simp] theorem runPlace_updCore (s : State) (cid w t : Nat) (f : Core → Core) : runPlace (updCore s cid f) w t = runPlace s w t := rfl

@[simp] theorem launch?_updCore (s : State) (cid p l : Nat) (f : Core → Core) : launch? (updCore s cid f) p l = launch? s p l := rfl

/-! What a thread's writes leave of the state -/

/-- From a state to another a thread has written registers of its own: carried slots, and transients of its lane. -/
structure ThreadWrites (w k : Nat) (s t : State) : Prop where
  parts : ∃ c g, t = { s with cores := c, wgs := g }
  place : runPlace t w k = runPlace s w k
  others : ∀ y, y ≠ w → wg? t y = wg? s y
  group : ∀ g, wg? s w = some g → ∃ l, wg? t w = some { g with threads := l } ∧ (∀ j, j ≠ k → l.find j = g.threads.find j)
    ∧ ∀ th, g.threads.find k = some th → ∃ c p, l.find k = some { th with v := c, bad := p }
  elsewhere : ∀ cid, (∀ b, runPlace s w k ≠ some (cid, b)) → coreAt t cid = coreAt s cid
  lane : ∀ cid b, runPlace s w k = some (cid, b) → ∃ l, coreAt t cid = { coreAt s cid with lanes := l }
    ∧ ∀ j, j ≠ laneKey b (k % 32) → l.find j = (coreAt s cid).lanes.find j

theorem ThreadWrites.refl (w k : Nat) (s : State) : ThreadWrites w k s s where
  parts := ⟨_, _, rfl⟩
  place := rfl
  others _ _ := rfl
  group _ hg := ⟨_, hg, fun _ _ => rfl, fun _ ht => ⟨_, _, ht⟩⟩
  elsewhere _ _ := rfl
  lane _ _ _ := ⟨_, rfl, fun _ _ => rfl⟩

theorem ThreadWrites.trans {w k : Nat} {s t u : State} (h : ThreadWrites w k s t) (h' : ThreadWrites w k t u) : ThreadWrites w k s u where
  parts := by
    obtain ⟨c, g, rfl⟩ := h.parts
    obtain ⟨c', g', rfl⟩ := h'.parts
    exact ⟨c', g', rfl⟩
  place := h'.place.trans h.place
  others y hy := (h'.others y hy).trans (h.others y hy)
  group g hg := by
    obtain ⟨l, hl, hother, hown⟩ := h.group g hg
    obtain ⟨m, hm, hother', hown'⟩ := h'.group _ hl
    refine ⟨m, hm, fun j hj => (hother' j hj).trans (hother j hj), fun th ht => ?_⟩
    obtain ⟨_, _, hk⟩ := hown th ht
    obtain ⟨c, p, hk'⟩ := hown' _ hk
    exact ⟨c, p, hk'⟩
  elsewhere cid hc := (h'.elsewhere cid (by rwa [h.place])).trans (h.elsewhere cid hc)
  lane cid b hb := by
    obtain ⟨l, hl, hother⟩ := h.lane cid b hb
    obtain ⟨m, hm, hother'⟩ := h'.lane cid b (h.place.trans hb)
    rw [hl] at hm hother'
    exact ⟨m, hm, fun j hj => (hother' j hj).trans (hother j hj)⟩

/-- The write of a carried slot. -/
theorem threadWrites_updThread (s : State) (w k : Nat) {f : Thread → Thread} (hf : ∀ th, ∃ c p, f th = { th with v := c, bad := p }) :
    ThreadWrites w k s (updThread s w k f) where
  parts := ⟨_, _, updThread_shape s w k f⟩
  place := runPlace_updThread s w k fun th => by
    obtain ⟨_, _, h⟩ := hf th
    rw [h]
  others _ hy := wg?_updWg_other s _ hy
  group g hg := by
    obtain ⟨l, hl, hother, hown⟩ := wg?_updThread k f hg
    refine ⟨l, hl, hother, fun th ht => ?_⟩
    obtain ⟨c, p, h⟩ := hf th
    exact ⟨c, p, by rw [hown, ht, Option.map_some, h]⟩
  elsewhere cid _ := coreAt_updThread s w k cid f
  lane cid _ _ := ⟨_, coreAt_updThread s w k cid f, fun _ _ => rfl⟩

/-- A core with a transient of a lane written (R45, R63). -/
def transientWritten (b lane f : Nat) (v : Word32) (c : Core) : Core :=
  let x := c.lanes.get {} (laneKey b lane)
  { c with lanes := c.lanes.put (laneKey b lane) { x with t := x.t.putD 0 f v } }

theorem threadWrites_transient {s : State} {w k cid b : Nat} (hr : runPlace s w k = some (cid, b)) (f : Nat) (v : Word32) :
    ThreadWrites w k s (updCore s cid (transientWritten b (k % 32) f v)) where
  parts := ⟨_, _, rfl⟩
  place := rfl
  others _ _ := rfl
  group _ hg := ⟨_, hg, fun _ _ => rfl, fun _ ht => ⟨_, _, ht⟩⟩
  elsewhere c hc := coreAt_updCore_other s _ fun e => hc b (e ▸ hr)
  lane c b' hb := by
    obtain ⟨rfl, rfl⟩ := Prod.mk.inj (Option.some.inj (hr.symm.trans hb))
    exact ⟨_, coreAt_updCore .., fun j hj => find_put_other _ _ _ _ hj⟩

/-- A thread with a slot of its window written, which is poisoned no more (R67, R421). -/
def writeSlot (n : Nat) (v : Word32) (th : Thread) : Thread :=
  { th with v := th.v.putD 0 (th.wbase + n) v, bad := th.bad.filter (· != th.wbase + n) }

theorem writeV_slot (s : State) (w k : Nat) {f : Nat} (v : Word32) (h : 16 ≤ f) (h' : f < 112) :
    writeV s w k f v = updThread s w k (writeSlot (f - 16) v) := by
  rw [writeV, if_neg (Nat.not_lt.2 h), if_pos h']
  rfl

theorem writeV_discards (s : State) (w k : Nat) {f : Nat} (v : Word32) (h : 112 ≤ f) : writeV s w k f v = s := by
  rw [writeV, if_neg (by omega), if_neg (by omega)]

theorem writeV_transient {s : State} {w k f cid b : Nat} (v : Word32) (h : f < 16) (hr : runPlace s w k = some (cid, b)) :
    writeV s w k f v = updCore s cid (transientWritten b (k % 32) f v) := by
  rw [writeV, if_pos h, hr]
  rfl

theorem threadWrites_writeV (s : State) (w k f : Nat) (v : Word32) : ThreadWrites w k s (writeV s w k f v) := by
  by_cases h : f < 16
  · cases hr : runPlace s w k with
    | none =>
      rw [writeV, if_pos h, hr]
      exact .refl ..
    | some p =>
      exact writeV_transient v h hr ▸ threadWrites_transient hr f v
  · by_cases h' : f < 112
    · exact writeV_slot s w k v (Nat.not_lt.1 h) h' ▸ threadWrites_updThread s w k fun _ => ⟨_, _, rfl⟩
    · rw [writeV_discards s w k v (Nat.not_lt.1 h')]
      exact .refl ..

/-! What a context's writes and its move leave of the state -/

/-- From a state to another a Scribe context has changed its registers and its pc. -/
structure ScribeWrites (w : Nat) (s t : State) : Prop where
  parts : ∃ g, t = { s with wgs := g }
  others : ∀ y, y ≠ w → wg? t y = wg? s y
  group : ∀ g, wg? s w = some g → ∃ r p, wg? t w = some { g with ctx := g.ctx.map fun c => { c with s := r, pc := p } }

theorem ScribeWrites.refl (w : Nat) (s : State) : ScribeWrites w s s where
  parts := ⟨_, rfl⟩
  others _ _ := rfl
  group g hg := by
    refine ⟨((g.ctx.map (·.s)).getD []), ((g.ctx.map (·.pc)).getD 0), hg.trans ?_⟩
    obtain ⟨ctx⟩ := g
    cases ‹Option Ctx› <;> rfl

theorem ScribeWrites.trans {w : Nat} {s t u : State} (h : ScribeWrites w s t) (h' : ScribeWrites w t u) : ScribeWrites w s u where
  parts := by
    obtain ⟨g, rfl⟩ := h.parts
    obtain ⟨g', rfl⟩ := h'.parts
    exact ⟨g', rfl⟩
  others y hy := (h'.others y hy).trans (h.others y hy)
  group g hg := by
    obtain ⟨_, _, hl⟩ := h.group g hg
    obtain ⟨r, p, hm⟩ := h'.group _ hl
    exact ⟨r, p, by rw [hm, Option.map_map]; rfl⟩

theorem scribeWrites_updCtx (s : State) (w : Nat) {f : Ctx → Ctx} (hf : ∀ c, ∃ r p, f c = { c with s := r, pc := p }) :
    ScribeWrites w s (updCtx s w f) where
  parts := ⟨_, updCtx_shape s w f⟩
  others _ hy := wg?_updWg_other s _ hy
  group g hg := by
    rw [updCtx, wg?_updWg, hg, Option.map_some]
    cases g.ctx with
    | none => exact ⟨[], 0, rfl⟩
    | some c =>
      obtain ⟨r, p, h⟩ := hf c
      exact ⟨r, p, by rw [Option.map_some, h]; rfl⟩

theorem scribeWrites_writeS (s : State) (w f : Nat) (v : Word64) : ScribeWrites w s (writeS s w f v) := by
  unfold writeS
  split
  · exact scribeWrites_updCtx s w fun _ => ⟨_, _, rfl⟩
  · exact .refl ..

/-- From a state to another a control context has changed its registers and its pc. -/
structure ControlWrites (n : Nat) (s t : State) : Prop where
  parts : ∃ c, t = { s with ctl := c }
  others : ∀ y, y ≠ n → ctl t y = ctl s y
  own : ∃ r p, ctl t n = { ctl s n with s := r, pc := p }

theorem ControlWrites.refl (n : Nat) (s : State) : ControlWrites n s s := ⟨⟨_, rfl⟩, fun _ _ => rfl, _, _, rfl⟩

theorem ControlWrites.trans {n : Nat} {s t u : State} (h : ControlWrites n s t) (h' : ControlWrites n t u) : ControlWrites n s u where
  parts := by
    obtain ⟨c, rfl⟩ := h.parts
    obtain ⟨c', rfl⟩ := h'.parts
    exact ⟨c', rfl⟩
  others y hy := (h'.others y hy).trans (h.others y hy)
  own := by
    obtain ⟨_, _, hl⟩ := h.own
    obtain ⟨r, p, hm⟩ := h'.own
    exact ⟨r, p, by rw [hm, hl]⟩

theorem controlWrites_updCtl (s : State) (n : Nat) {f : Ctl → Ctl} (hf : ∀ c, ∃ r p, f c = { c with s := r, pc := p }) :
    ControlWrites n s (updCtl s n f) where
  parts := ⟨_, rfl⟩
  others _ hy := ctl_updCtl_other s f hy
  own := by
    obtain ⟨r, p, h⟩ := hf (ctl s n)
    exact ⟨r, p, (ctl_updCtl s n f).trans h⟩

theorem controlWrites_writeC (s : State) (n f : Nat) (v : Word64) : ControlWrites n s (writeC s n f v) := by
  unfold writeC
  split
  · exact controlWrites_updCtl s n fun _ => ⟨_, _, rfl⟩
  · exact .refl ..

/-! Any agent -/

/-- From a state to another an agent has written registers of its own. -/
def OwnWrites (a : Agent) (s t : State) : Prop :=
  match a with
  | .vthread w k => ThreadWrites w k s t
  | .scribe w => ScribeWrites w s t
  | .control n => ControlWrites n s t

theorem OwnWrites.refl (a : Agent) (s : State) : OwnWrites a s s :=
  match a with
  | .vthread w k => ThreadWrites.refl w k s
  | .scribe w => ScribeWrites.refl w s
  | .control n => ControlWrites.refl n s

theorem OwnWrites.trans {a : Agent} {s t u : State} (h : OwnWrites a s t) (h' : OwnWrites a t u) : OwnWrites a s u :=
  match a, h, h' with
  | .vthread _ _, h, h' => ThreadWrites.trans h h'
  | .scribe _, h, h' => ScribeWrites.trans h h'
  | .control _, h, h' => ControlWrites.trans h h'

theorem OwnWrites.parts {a : Agent} {s t : State} (h : OwnWrites a s t) : ∃ c g k, t = { s with cores := c, wgs := g, ctl := k } := by
  match a, h with
  | .vthread _ _, h => obtain ⟨c, g, rfl⟩ := ThreadWrites.parts h; exact ⟨c, g, _, rfl⟩
  | .scribe _, h => obtain ⟨g, rfl⟩ := ScribeWrites.parts h; exact ⟨_, g, _, rfl⟩
  | .control _, h => obtain ⟨k, rfl⟩ := ControlWrites.parts h; exact ⟨_, _, k, rfl⟩

/-- Who executes does not change by it. -/
theorem OwnWrites.cur_eq {a : Agent} {s t : State} (h : OwnWrites a s t) : t.cur = s.cur := by
  obtain ⟨_, _, _, rfl⟩ := h.parts
  rfl

theorem ownWrites_writeRA (s : State) (a : Agent) (f : Nat) (v : Word64) : OwnWrites a s (writeRA s a f v) :=
  match a with
  | .vthread w k => threadWrites_writeV s w k f _
  | .scribe w => scribeWrites_writeS s w f v
  | .control n => controlWrites_writeC s n f v

theorem ownWrites_writePA (s : State) (a : Agent) (f : Nat) (v : Word64) : OwnWrites a s (writePA s a f v) := by
  cases a with
  | vthread w k =>
    unfold writePA
    dsimp only
    split
    · exact .refl ..
    · exact ThreadWrites.trans (threadWrites_writeV ..) (threadWrites_writeV ..)
  | scribe w => exact ownWrites_writeRA s _ f v
  | control n => exact ownWrites_writeRA s _ f v

theorem ownWrites_writeQA (s : State) (a : Agent) (f : Nat) (v : BitVec 128) : OwnWrites a s (writeQA s a f v) := by
  unfold writeQA
  split
  · exact .refl ..
  · cases a with
    | vthread w k =>
      exact ((threadWrites_writeV ..).trans (threadWrites_writeV ..)).trans ((threadWrites_writeV ..).trans (threadWrites_writeV ..))
    | scribe w => exact (ownWrites_writeRA ..).trans (ownWrites_writeRA ..)
    | control n => exact (ownWrites_writeRA ..).trans (ownWrites_writeRA ..)

/-! The other registers of the agent -/

/-- The register of an agent in a field, as `readR` reads it for the executing one. -/
def readRA (s : State) (a : Agent) (f : Nat) : Word64 :=
  match a with
  | .vthread w t => (readV s w t f).setWidth 64
  | .scribe w => readS s w f
  | .control n => readC s n f

theorem readR_eq_readRA (s : State) (f : Field) : readR s f = readRA s s.cur f.toNat := rfl

theorem readV_idle {s : State} {w k : Nat} (f : Nat) (h : runPlace s w k = none) : readV s w k f = 0 := by
  simp [readV, h]

theorem readV_writeV_other (s : State) (w k : Nat) {d f : Nat} (v : Word32) (h : f ≠ d) : readV (writeV s w k d v) w k f = readV s w k f := by
  cases hr : runPlace s w k with
  | none => rw [readV_idle f hr, readV_idle f ((threadWrites_writeV s w k d v).place.trans hr)]
  | some p =>
    obtain ⟨g, th, hg, ht⟩ := thread_of_runPlace hr
    by_cases hd : d < 16
    · simp [writeV_transient v hd hr, transientWritten, readV, hg, ht, hr, get_putD_other _ _ _ h]
    · by_cases hd' : d < 112
      · obtain ⟨l, hl, -, -⟩ := wg?_updThread k (writeSlot (d - 16) v) hg
        have hr' := (runPlace_updThread s w k (f := writeSlot (d - 16) v) fun _ => rfl).trans hr
        have slot (hf : ¬ f < 16) : (writeSlot (d - 16) v th).v.get 0 (th.wbase + (f - 16)) = th.v.get 0 (th.wbase + (f - 16)) :=
          get_putD_other _ _ _ (by omega)
        simp only [writeV_slot s w k v (Nat.not_lt.1 hd) hd', readV, hg, ht, hr, hl, hr', thread?_updThread, Option.map_some,
          coreAt_updThread, launch?_updThread]
        split
        · rfl
        · next hf => exact ite_congr rfl (fun _ => slot hf) fun _ => rfl
      · rw [writeV_discards s w k v (Nat.not_lt.1 hd')]

theorem readS_writeS_other (s : State) (w : Nat) {d f : Nat} (v : Word64) (h : f ≠ d) : readS (writeS s w d v) w f = readS s w f := by
  unfold writeS
  split
  · cases hw : wg? s w with
    | none => simp [readS, updCtx, hw]
    | some g => cases hc : g.ctx <;> simp [readS, updCtx, hw, hc, get_putD_other _ _ _ h, Workgroup.cid?]
  · rfl

theorem readC_writeC_other (s : State) (n : Nat) {d f : Nat} (v : Word64) (h : f ≠ d) : readC (writeC s n d v) n f = readC s n f := by
  unfold writeC
  split
  · simp [readC, get_putD_other _ _ _ h]
  · rfl

theorem readRA_writeRA_other (s : State) (a : Agent) {d f : Nat} (v : Word64) (h : f ≠ d) : readRA (writeRA s a d v) a f = readRA s a f :=
  match a with
  | .vthread w k => congrArg (BitVec.setWidth 64) (readV_writeV_other s w k _ h)
  | .scribe w => readS_writeS_other s w v h
  | .control n => readC_writeC_other s n v h

theorem readRA_writePA_other (s : State) (a : Agent) {d f : Nat} (v : Word64) (h : f ≠ d) (h' : (∃ w k, a = .vthread w k) → f ≠ d + 1) :
    readRA (writePA s a d v) a f = readRA s a f := by
  cases a with
  | vthread w k =>
    unfold writePA
    dsimp only
    split
    · rfl
    · exact congrArg (BitVec.setWidth 64)
        ((readV_writeV_other _ w k _ (h' ⟨w, k, rfl⟩)).trans (readV_writeV_other s w k _ h))
  | scribe w => exact readRA_writeRA_other s (.scribe w) v h
  | control n => exact readRA_writeRA_other s (.control n) v h

theorem readRA_writeQA_other (s : State) (a : Agent) {d f : Nat} (v : BitVec 128) (h : f ≠ d) (h1 : f ≠ d + 1)
    (h' : (∃ w k, a = .vthread w k) → f ≠ d + 2 ∧ f ≠ d + 3) : readRA (writeQA s a d v) a f = readRA s a f := by
  unfold writeQA
  split
  · rfl
  · cases a with
    | vthread w k =>
      obtain ⟨h2, h3⟩ := h' ⟨w, k, rfl⟩
      refine congrArg (BitVec.setWidth 64) ?_
      rw [readV_writeV_other _ w k _ h3, readV_writeV_other _ w k _ h2, readV_writeV_other _ w k _ h1, readV_writeV_other _ w k _ h]
    | scribe w => exact (readRA_writeRA_other _ _ _ h1).trans (readRA_writeRA_other s _ _ h)
    | control n => exact (readRA_writeRA_other _ _ _ h1).trans (readRA_writeRA_other s _ _ h)

/-- Fields from 112 on are read-only, and what is written to them is discarded (R65). -/
theorem writeRA_discards (s : State) (a : Agent) {f : Nat} (v : Word64) (h : 112 ≤ f) : writeRA s a f v = s :=
  match a with
  | .vthread w k => writeV_discards s w k _ h
  | .scribe _ => if_neg (Nat.not_lt.2 h)
  | .control _ => if_neg (Nat.not_lt.2 h)

theorem writePA_127 (s : State) (a : Agent) (v : Word64) : writePA s a 127 v = s := by
  cases a with
  | vthread w k => rfl
  | scribe w => exact writeRA_discards s (.scribe w) v (by decide)
  | control n => exact writeRA_discards s (.control n) v (by decide)

theorem writeQA_127 (s : State) (a : Agent) (v : BitVec 128) : writeQA s a 127 v = s := if_pos rfl

/-! Moving on -/

/-- A core one of whose batches has had its word executed by a lane (R43). -/
def laneDone (b lane : Nat) (c : Core) : Core :=
  match c.batches.find b with
  | some x => { c with batches := c.batches.put b (x.did lane) }
  | none => c

theorem laneDone_spec (b lane : Nat) (c : Core) : ∃ m, laneDone b lane c = { c with batches := m }
    ∧ (∀ j, j ≠ b → m.find j = c.batches.find j) ∧ m.find b = (c.batches.find b).map (·.did lane) := by
  unfold laneDone
  split
  · next x hx => exact ⟨_, rfl, fun j hj => find_put_other _ _ _ _ hj, (find_put_same ..).trans (by rw [hx]; rfl)⟩
  · next hx => exact ⟨_, rfl, fun _ _ => rfl, by rw [hx]; rfl⟩

theorem advanceA_running {s : State} {w k cid b : Nat} (h : runPlace s w k = some (cid, b)) :
    advanceA s (.vthread w k) = updCore s cid (laneDone b (k % 32)) := by
  unfold advanceA
  dsimp only
  rw [h]
  rfl

theorem advanceA_idle {s : State} {w k : Nat} (h : runPlace s w k = none) : advanceA s (.vthread w k) = s := by
  unfold advanceA
  dsimp only
  rw [h]

/-- Moving on changes no register. -/
theorem readRA_advanceA (s : State) (a : Agent) (f : Nat) : readRA (advanceA s a) a f = readRA s a f := by
  cases a with
  | vthread w k =>
    cases hr : runPlace s w k with
    | none => rw [advanceA_idle hr]
    | some p =>
      obtain ⟨cid, b⟩ := p
      obtain ⟨g, th, hg, ht⟩ := thread_of_runPlace hr
      obtain ⟨m, hm, -⟩ := laneDone_spec b (k % 32) (coreAt s cid)
      rw [advanceA_running hr]
      simp only [readRA, readV, wg?_updCore, thread?_updCore, runPlace_updCore, launch?_updCore, hg, ht, hr, coreAt_updCore, hm]
  | scribe w =>
    cases hw : wg? s w with
    | none => simp [readRA, advanceA, readS, updCtx, hw]
    | some g => cases hc : g.ctx <;> simp [readRA, advanceA, readS, updCtx, hw, hc, Workgroup.cid?]
  | control n => simp [readRA, advanceA, readC]

theorem scribeWrites_advanceA (s : State) (w : Nat) : ScribeWrites w s (advanceA s (.scribe w)) :=
  scribeWrites_updCtx s w fun _ => ⟨_, _, rfl⟩

theorem controlWrites_advanceA (s : State) (n : Nat) : ControlWrites n s (advanceA s (.control n)) :=
  controlWrites_updCtl s n fun _ => ⟨_, _, rfl⟩

/-- What a thread's writes and, it may be, its move to the next word change of the cores: its lane's transients and its place in its batch. -/
structure ThreadCores (w k : Nat) (s t : State) : Prop where
  elsewhere : ∀ cid, (∀ b, runPlace s w k ≠ some (cid, b)) → coreAt t cid = coreAt s cid
  batch : ∀ cid b, runPlace s w k = some (cid, b) → ∃ l m, coreAt t cid = { coreAt s cid with lanes := l, batches := m }
    ∧ (∀ j, j ≠ laneKey b (k % 32) → l.find j = (coreAt s cid).lanes.find j)
    ∧ (∀ j, j ≠ b → m.find j = (coreAt s cid).batches.find j)
    ∧ (m.find b = (coreAt s cid).batches.find b ∨ m.find b = ((coreAt s cid).batches.find b).map (·.did (k % 32)))

theorem ThreadWrites.cores {w k : Nat} {s x : State} (h : ThreadWrites w k s x) : ThreadCores w k s x where
  elsewhere := h.elsewhere
  batch cid b hb := by
    obtain ⟨l, hl, hother⟩ := h.lane cid b hb
    exact ⟨l, _, hl, hother, fun _ _ => rfl, .inl rfl⟩

theorem ThreadWrites.cores_advanceA {w k : Nat} {s x : State} (h : ThreadWrites w k s x) : ThreadCores w k s (advanceA x (.vthread w k)) := by
  cases hr : runPlace s w k with
  | none =>
    rw [advanceA_idle (h.place.trans hr)]
    exact h.cores
  | some p =>
    rw [advanceA_running (h.place.trans hr)]
    refine ⟨fun c hc => ?_, fun c b' hb => ?_⟩
    · have hne : c ≠ p.1 := by
        rintro rfl
        exact hc p.2 hr
      exact (coreAt_updCore_other x _ hne).trans (h.elsewhere c hc)
    · obtain rfl := Option.some.inj (hr.symm.trans hb)
      obtain ⟨l, hl, hother⟩ := h.lane c b' hb
      obtain ⟨m, hm, hbatch, hown⟩ := laneDone_spec b' (k % 32) (coreAt x c)
      rw [coreAt_updCore, hm, hl]
      rw [hl] at hbatch hown
      exact ⟨l, m, rfl, hother, hbatch, .inr hown⟩

/-- Moving on changes no workgroup under a vector thread. -/
theorem advanceA_vthread_cores (s : State) (w k : Nat) : ∃ c, advanceA s (.vthread w k) = { s with cores := c } := by
  cases hr : runPlace s w k with
  | none => exact ⟨_, advanceA_idle hr⟩
  | some p => exact ⟨_, advanceA_running hr⟩

/-! The frame of each agent -/

theorem threadFrame {w k : Nat} {s x t : State} (h : ThreadWrites w k s x) (ht : t = x ∨ t = advanceA x (.vthread w k)) :
    t.ctl = s.ctl ∧ (∀ y, wg? t y = wg? x y) ∧ ThreadCores w k s t := by
  obtain ⟨c, g, rfl⟩ := h.parts
  rcases ht with rfl | rfl
  · exact ⟨rfl, fun _ => rfl, h.cores⟩
  · obtain ⟨c', e⟩ := advanceA_vthread_cores { s with cores := c, wgs := g } w k
    exact ⟨by rw [e], fun y => by rw [e]; rfl, h.cores_advanceA⟩

theorem scribeFrame {w : Nat} {s x t : State} (h : ScribeWrites w s x) (ht : t = x ∨ t = advanceA x (.scribe w)) : ScribeWrites w s t := by
  rcases ht with rfl | rfl
  · exact h
  · exact h.trans (scribeWrites_advanceA x w)

theorem controlFrame {n : Nat} {s x t : State} (h : ControlWrites n s x) (ht : t = x ∨ t = advanceA x (.control n)) : ControlWrites n s t := by
  rcases ht with rfl | rfl
  · exact h
  · exact h.trans (controlWrites_advanceA x n)

/-- Writes and a move change the cores, the workgroups and the control contexts alone. -/
theorem OwnWrites.frame {a : Agent} {s x t : State} (h : OwnWrites a s x) (ht : t = x ∨ t = advance x) :
    t = { s with cores := t.cores, wgs := t.wgs, ctl := t.ctl } := by
  obtain ⟨_, _, _, rfl⟩ := h.parts
  rcases ht with rfl | rfl
  · rfl
  · rw [advance, advanceA_shape]

theorem OwnWrites.moved {a : Agent} {s x t : State} (h : OwnWrites a s x) (ht : t = x ∨ t = advance x) : t = x ∨ t = advanceA x s.cur := by
  rwa [advance, h.cur_eq] at ht

/-- Settles O15: the writes of any agent are steps of one relation, which composes; reads go through the same updates. -/
theorem registerWriteFrame : Obligations.RegisterWriteFrame := by
  intro s d v q
  have own (x : State) (hx : x = writeR s d v ∨ x = writeP s d v ∨ x = writeQ s d q) : OwnWrites s.cur s x := by
    rcases hx with rfl | rfl | rfl
    · exact ownWrites_writeRA ..
    · exact ownWrites_writePA ..
    · exact ownWrites_writeQA ..
  have toNat_ne {f : Field} (h : f ≠ d) : f.toNat ≠ d.toNat := fun e => h (BitVec.eq_of_toNat_eq e)
  have vector (h : ∃ w k, s.cur = .vthread w k) : isVector s = true := by
    obtain ⟨w, k, h⟩ := h
    simp [isVector, h]
  refine ⟨fun x t hx ht => ⟨(own x hx).frame ht, fun w k hc => ?_, fun w hc => ?_, fun n hc => ?_⟩, fun f hf => ?_, fun f hf hp => ?_,
    fun f hf h1 hq => ?_, fun f => ?_, ?_, ?_, ?_⟩
  · have h := own x hx
    replace ht := h.moved ht
    rw [hc] at h ht
    obtain ⟨hctl, hwg, hcores⟩ := threadFrame h ht
    refine ⟨hctl, fun y hy => (hwg y).trans (h.others y hy), fun g hg => ?_, hcores.elsewhere, hcores.batch⟩
    rw [hwg]
    exact h.group g hg
  · have h := own x hx
    replace ht := h.moved ht
    rw [hc] at h ht
    have hs := scribeFrame h ht
    obtain ⟨g, rfl⟩ := hs.parts
    exact ⟨rfl, rfl, hs.others, hs.group⟩
  · have h := own x hx
    replace ht := h.moved ht
    rw [hc] at h ht
    have hs := controlFrame h ht
    obtain ⟨c, rfl⟩ := hs.parts
    exact ⟨rfl, rfl, hs.others, hs.own⟩
  · rw [readR_eq_readRA, readR_eq_readRA, (own _ (.inl rfl)).cur_eq]
    exact readRA_writeRA_other s s.cur v (toNat_ne hf)
  · rw [readR_eq_readRA, readR_eq_readRA, (own _ (.inr (.inl rfl))).cur_eq]
    exact readRA_writePA_other s s.cur v (toNat_ne hf) fun h => hp (vector h)
  · rw [readR_eq_readRA, readR_eq_readRA, (own _ (.inr (.inr rfl))).cur_eq]
    exact readRA_writeQA_other s s.cur q (toNat_ne hf) h1 fun h => hq (vector h)
  · have hcur : (advance s).cur = s.cur := by rw [advance, advanceA_shape]
    rw [readR_eq_readRA, readR_eq_readRA, hcur]
    exact readRA_advanceA s s.cur f.toNat
  · exact writeRA_discards s s.cur v (by decide)
  · exact writePA_127 s s.cur v
  · exact writeQA_127 s s.cur q

end Sys2Proof.Laws
end

section
/-! SUPPORT. Operating points, power states, thermal trips and Larders (R83, R137, R340, R415-R417, R419): what each form answers once its
checks are passed, and what each act of the units leaves. -/

namespace Sys2Proof.Laws

open Sys2Proof Sys2Proof.Machine Sys2Proof.Claims

/-! Privileged forms (R333) -/

/-- A privileged form that passes its checks, with no release to wait for, has its own effect. -/
theorem sysForm_passed {ops : List Opnd} {n : Nat} {s : State} {k : State → Result} (h : Privileged s ops n) : sysForm ops n s k = k s := by
  obtain ⟨⟨hr, hc⟩, hw⟩ := h
  exact (guarded_passed hr hc).trans (if_pos hw)

theorem answer_eq_answers (s : State) (d : Field) (v : Nat) : answer s d v = answers s d v := rfl

theorem startForm_eq_stalls (s : State) (d : Field) (k : FormKind) : startForm s d k = .next (stalls s d k) := by
  unfold startForm stalls
  cases s.cur <;> rfl

/-! PSTEP -/

/-- The fields of PSTEP's second operand. -/
theorem pstep_fields {p st : Nat} (hp : p < 8) (hst : st < 4) :
    bits (p + 16 * st) 2 0 = p ∧ bits (p + 16 * st) 5 4 = st ∧ maskBits (p + 16 * st) [(5, 4), (2, 0)] = p + 16 * st := by
  simp only [maskBits, bits, Nat.shiftRight_eq_div_pow, List.map_cons, List.map_nil, List.foldl_cons, List.foldl_nil]
  omega

theorem coreGroups_le (d : Nat) : Config.coreGroups d ≤ 16 := by
  unfold Config.coreGroups
  split <;> decide

theorem pstepCheck_busy {s : State} {d : Nat} (gs : List Nat) (p st : Nat) (h : (die s d).relock ≠ none) : pstepCheck s d gs p st = 3 :=
  if_pos (Option.isSome_iff_ne_none.2 h)

theorem pstepCheck_refused {s : State} {d : Nat} {gs : List Nat} {p st : Nat} (h : (die s d).relock = none)
    (hr : p = 0 ∧ csrGet s 0x501 0 % 2 = 0 ∨ st = 2 ∧ ∃ g ∈ gs, gateRefused s d g = true) : pstepCheck s d gs p st = 4 := by
  rw [pstepCheck, if_neg (by simp [h])]
  rcases hr with hr | ⟨hst, hg⟩
  · rw [if_pos hr]
  · rw [if_pos (c := st = 2 ∧ gs.any (gateRefused s d)) ⟨hst, List.any_eq_true.2 hg⟩, ite_self]

theorem pstepCheck_passes {s : State} {d : Nat} {gs : List Nat} {p st : Nat} (h : (die s d).relock = none)
    (hp : p = 0 → csrGet s 0x501 0 % 2 = 1) (hg : st = 2 → ∀ g ∈ gs, gateRefused s d g = false) (ht : st = 0 → (die s d).tripped = false) :
    pstepCheck s d gs p st = 0 := by
  have hcsr : ¬ (p = 0 ∧ csrGet s 0x501 0 % 2 = 0) := fun ⟨h0, h1⟩ => by simp [hp h0] at h1
  have hgate : ¬ (st = 2 ∧ gs.any (gateRefused s d) = true) := fun ⟨h2, ha⟩ => by
    obtain ⟨g, hm, hr⟩ := List.any_eq_true.1 ha
    simp [hg h2 g hm] at hr
  have htrip : ¬ (st = 0 ∧ (die s d).tripped = true ∧ 95 < sensor s) := fun ⟨h0, h1, _⟩ => by simp [ht h0] at h1
  rw [pstepCheck, if_neg (by simp [h]), if_neg hcsr, if_neg hgate, if_neg htrip]

/-- What PSTEP does to the core groups gs of die x, for point p and power state st. -/
def pstepOn (d : Field) (x : Nat) (gs : List Nat) (p st : Nat) (s : State) : Result :=
  match pstepCheck s x gs p st with
  | 0 =>
    let s := if st = 0 ∧ (die s x).tripped then clearTrip (useFree s) x else s
    let s := if st = 3 then s else gs.foldl (fun s g => setPower s x g st) s
    if p = 7 then answer s d 0 else startForm (startRelock s x p) d (.pstep x)
  | e => answer (useFree s) d e

theorem pstepOn_checked {d : Field} {x : Nat} {gs : List Nat} {p st : Nat} {s : State} {e : Nat} (h : pstepCheck s x gs p st = e) (he : e ≠ 0) :
    pstepOn d x gs p st s = answers (useFree s) d e := by
  rw [pstepOn, h]
  split
  · exact absurd rfl he
  · rfl

theorem pstepOn_passes {d : Field} {x : Nat} {gs : List Nat} {p st : Nat} {s : State} (h : pstepCheck s x gs p st = 0)
    (ht : st = 0 → (die s x).tripped = false) {u : State} (hu : u = if st = 3 then s else gs.foldl (fun v g => setPower v x g st) s) :
    (p = 7 → pstepOn d x gs p st s = answers u d 0)
    ∧ (p ≠ 7 → pstepOn d x gs p st s = .next (stalls (startRelock u x p) d (.pstep x))) := by
  have hn : ¬ (st = 0 ∧ (die s x).tripped = true) := fun ⟨h0, h1⟩ => by simp [ht h0] at h1
  have e : pstepOn d x gs p st s = if p = 7 then answer u d 0 else startForm (startRelock u x p) d (.pstep x) := by
    simp only [pstepOn, h, if_neg hn, hu]
  rw [e]
  exact ⟨fun hp => if_pos hp, fun hp => (if_neg hp).trans (startForm_eq_stalls ..)⟩

/-- PSTEP with its operands in their fields acts on the core group that it names, or on all of the die. -/
theorem pstep_named {d a b : Field} {s : State} {x p st : Nat} {gs : List Nat} (h : Privileged s (ops3 d a b) 2) (hx : x = (readR s a).toNat)
    (hx' : x < 2 ^ 16) (hy : (readR s b).toNat = p + 16 * st) (hp : p < 8) (hp' : p ≠ 6) (hst : st < 4)
    (hd : Config.isCompute (x / 256) = true) (hpr : diePresent s (x / 256) = true)
    (hgs : (x % 256 < Config.coreGroups (x / 256) ∧ gs = [x % 256]) ∨ (x % 256 = 0xFF ∧ gs = List.range (Config.coreGroups (x / 256)))) :
    exec (.pstep d a b) s = pstepOn d (x / 256) gs p st s := by
  obtain ⟨hp2, hst2, hmask⟩ := pstep_fields hp hst
  have hdie : bits x 15 8 = x / 256 := by
    simp only [bits, Nat.shiftRight_eq_div_pow]
    omega
  have hcg : bits x 7 0 = x % 256 := rfl
  have hgs' : (if x % 256 = 0xFF then List.range (Config.coreGroups (x / 256)) else [x % 256]) = gs := by
    rcases hgs with ⟨hg, rfl⟩ | ⟨hg, rfl⟩
    · exact if_neg (by have := coreGroups_le (x / 256); omega)
    · exact if_pos hg
  have hbad : ¬ (x ≠ x % 2 ^ 16 ∨ p + 16 * st ≠ maskBits (p + 16 * st) [(5, 4), (2, 0)] ∨ p = 6) := by omega
  have hnot : ¬ (¬ (Config.isCompute (x / 256) ∧ diePresent s (x / 256)) ∨ (x % 256 ≠ 0xFF ∧ Config.coreGroups (x / 256) ≤ x % 256)) := by
    simp only [hd, hpr, and_self, not_true_eq_false, false_or]
    omega
  change execPstep d a b s = _
  unfold execPstep
  refine (sysForm_passed h).trans ?_
  simp only [← hx, hy, hdie, hcg, hp2, hst2]
  rw [if_neg hbad, if_neg hnot, hgs']
  rfl

theorem pstep_refused {d a b : Field} {s : State} (h : Privileged s (ops3 d a b) 2)
    (hxy : ¬ (readR s a).toNat < 2 ^ 16 ∨ bits (readR s b).toNat 2 0 = 6) : exec (.pstep d a b) s = answers s d 7 := by
  change execPstep d a b s = _
  unfold execPstep
  refine (sysForm_passed h).trans ?_
  exact if_pos (by omega)

/-! Relocks and power -/

theorem relockEnd_due {d : Nat} {s : State} {r : Relock} (h : (die s d).relock = some r) (hn : r.start + 420 ≤ s.now) :
    exec (.relockEnd d) s = .next ((s.forms.filter fun f => f.kind == .pstep d).foldl (fun s f => finishForm s f 0)
      (setDie s d { die s d with
        point := r.point, baseT := r.start + 419, nacc := (die s d).nacc + 420, relock := none, heldTo := s.nextId,
        holds := (die s d).holds ++ [(r.start / Config.tickUnits, timer s)] })) := by
  change execRelockEnd d s = _
  simp only [execRelockEnd, h]
  rw [if_pos (by omega), if_neg (by omega)]
  rfl

theorem relockEnd_early {d : Nat} {s : State} {r : Relock} (h : (die s d).relock = some r) (hn : s.now ≤ r.start + 378) :
    exec (.relockEnd d) s = .next s := by
  change execRelockEnd d s = _
  simp only [execRelockEnd, h]
  rw [if_neg (by omega)]
  rfl

theorem powerUpComplete_due {d g n : Nat} {s : State} (h : (cgroup s d g).upAt = some n) (hn : n ≤ timer s) :
    exec (.powerUpComplete d g) s = .next (startClock (setCg s d g { cgroup s d g with power := (cgroup s d g).upTo, upAt := none }) d g) := by
  change execPowerUpComplete d g s = _
  simp only [execPowerUpComplete, h]
  rw [if_pos hn]

@[simp] theorem cgroup_setCg (s : State) (d g : Nat) (x : CoreGroup) : cgroup (setCg s d g x) d g = x := get_put_same ..

@[simp] theorem die_setDie (s : State) (d : Nat) (x : Die) : die (setDie s d x) d = x := get_put_same ..

/-- A power-gated core group asked for power has it 2,000 ticks later. -/
theorem setPower_gated {s : State} {d g st : Nat} (hst : st < 2) (hp : (cgroup s d g).power = 2) (hu : (cgroup s d g).upAt = none) :
    setPower s d g st = setCg s d g { cgroup s d g with upAt := some (timer s + 2000), upTo := st } := by
  rw [setPower, if_neg (by omega), if_pos hp, hu]
  rfl

theorem stopClock_shape (s : State) (d g : Nat) : stopClock s d g = { s with cgs := (stopClock s d g).cgs } := by
  unfold stopClock
  dsimp only
  split <;> rfl

theorem stopClocks_shape (d : Nat) (l : List Nat) (s : State) :
    l.foldl (fun s g => stopClock s d g) s = { s with cgs := (l.foldl (fun s g => stopClock s d g) s).cgs } := by
  induction l generalizing s with
  | nil => rfl
  | cons g l ih => rw [List.foldl_cons, ih, stopClock_shape]

theorem thermalTrip_trips {d x : Nat} {s : State} (hd : diePresent s d = true) (hx : 105 ≤ x) :
    ∃ t, exec (.thermalTrip d x) s = .next t ∧ (die t d).tripped = true ∧ t.dieEvents = s.dieEvents + 1 ∧ t.mem = s.mem ∧ t.wgs = s.wgs := by
  have e := stopClocks_shape d (List.range (Config.coreGroups d)) s
  have hev := congrArg State.dieEvents e
  have hmem := congrArg State.mem e
  have hwgs := congrArg State.wgs e
  exact ⟨_, (if_pos (by simp [hd, hx])).trans rfl, congrArg Die.tripped (die_setDie ..), congrArg (· + 1) hev, hmem, hwgs⟩

theorem powerResults : Claims.PowerResults := by
  refine ⟨fun d a b s x y h hx hy => ?_, fun d s r h hn => ?_, fun d s r h hn => relockEnd_early h hn,
    fun d g n s h hn => powerUpComplete_due h hn, fun d g st s hst hp hu => ?_, fun d x s hd hx => thermalTrip_trips hd hx⟩
  · subst hx hy
    refine ⟨pstep_refused h, fun p st gs u hx hy hp hp6 hst hd hpr hgs => ?_⟩
    rw [pstep_named h rfl hx hy hp hp6 hst hd hpr hgs]
    exact ⟨fun hr => pstepOn_checked (pstepCheck_busy gs p st hr) (by decide),
      fun hr hc => pstepOn_checked (pstepCheck_refused hr hc) (by decide),
      fun hr hc hg ht hu => pstepOn_passes (pstepCheck_passes hr hc hg ht) ht hu⟩
  · rw [relockEnd_due h hn]
    exact ⟨⟨_, rfl⟩, fun hf => by rw [hf]; rfl⟩
  · rw [setPower_gated hst hp hu]
    simp [hp]

/-! Larders -/

theorem lwopen_passed {d a : Field} {s : State} (h : Privileged s (ops2 d a) 2) (hc : larderCheck s (readR s a).toNat = 0) :
    exec (.lwopen d a) s =
      if (die s (readR s a).toNat).larderOpen then answers s d 0
      else if larderInUse s (readR s a).toNat then answers s d 4
      else answers (dregSet (setDie s (readR s a).toNat { die s (readR s a).toNat with larderOpen := true }) (readR s a).toNat 0x140 0) d 0 := by
  change execLwopen d a s = _
  unfold execLwopen
  refine (sysForm_passed h).trans ?_
  dsimp only
  rw [hc]
  rfl

theorem lwopen_refused {d a : Field} {s : State} (h : Privileged s (ops2 d a) 2) {e : Nat} (hc : larderCheck s (readR s a).toNat = e)
    (he : e ≠ 0) : exec (.lwopen d a) s = answers s d e := by
  change execLwopen d a s = _
  unfold execLwopen
  refine (sysForm_passed h).trans ?_
  dsimp only
  rw [hc]
  split
  · exact absurd rfl he
  · rfl

theorem lwclose_refused {d a : Field} {s : State} (h : Privileged s (ops2 d a) 2) {e : Nat} (hc : larderCheck s (readR s a).toNat = e)
    (he : e ≠ 0) : exec (.lwclose d a) s = answers s d e := by
  change execLwclose d a s = _
  unfold execLwclose
  refine (sysForm_passed h).trans ?_
  dsimp only
  rw [hc]
  split
  · exact absurd rfl he
  · rfl

/-- LWCLOSE of a Larder that passes its checks, with the copy operations issued before it. -/
theorem lwclose_passed {d a : Field} {s : State} {x : Nat} {l : List Nat} (h : Privileged s (ops2 d a) 2) (hx : x = (readR s a).toNat)
    (hc : larderCheck s x = 0) (hl : l = (die s x).closing.getD (s.copies.map (·.id))) :
    exec (.lwclose d a) s =
      if (die s x).larderOpen = false then answers s d 0
      else if s.copies.any fun o => l.contains o.id && o.aimsLarder s x then
        .next (stalls (setDie s x { die s x with closing := some l }) d (.lwclose x l))
      else answers (setDie s x { die s x with larderOpen := false, closing := none }) d 0 := by
  change execLwclose d a s = _
  unfold execLwclose
  refine (sysForm_passed h).trans ?_
  dsimp only
  rw [← hx, hc, ← startForm_eq_stalls, hl]
  simp only [Bool.not_eq_eq_eq_not, Bool.not_true, answer_eq_answers]

/-- The copies issued so far that aim at a Larder are those of all copies that do. -/
theorem any_issued_aimsLarder (s : State) (x : Nat) :
    (s.copies.any fun o => (s.copies.map (·.id)).contains o.id && o.aimsLarder s x) = s.copies.any fun o => o.aimsLarder s x := by
  refine Bool.eq_iff_iff.2 ?_
  simp only [List.any_eq_true, Bool.and_eq_true, List.contains_iff_mem]
  exact ⟨fun ⟨o, hm, _, ha⟩ => ⟨o, hm, ha⟩, fun ⟨o, hm, ha⟩ => ⟨o, hm, List.mem_map_of_mem hm, ha⟩⟩

theorem settleClose_done {s : State} {f : PForm} {x : Nat} {l : List Nat} (hk : f.kind = .lwclose x l)
    (h : ∀ o ∈ s.copies, o.id ∈ l → o.aimsLarder s x = false) :
    settleClose s f = finishForm (setDie s x { die s x with larderOpen := false, closing := none }) f 0 := by
  have hn : ¬ (s.copies.any fun o => l.contains o.id && o.aimsLarder s x) = true := by
    simp only [List.any_eq_true, Bool.and_eq_true, List.contains_iff_mem]
    rintro ⟨o, hm, hi, ha⟩
    simp [h o hm hi] at ha
  simp only [settleClose, hk]
  rw [if_neg hn]

/-! The digest of a Larder (R419) -/

theorem dregGet_dregSet (s : State) (d o v : Nat) : dregGet (dregSet s d o v) d o = v % 2 ^ 64 := by
  simp [dregGet, dregSet]

theorem dregGet_dregSet_other (s : State) (d v : Nat) {o o' : Nat} (h : o ≠ o') : dregGet (dregSet s d o' v) d o = dregGet s d o :=
  congrArg BitVec.toNat (get_put_other _ _ _ _ _ (by simp only [dregKey]; omega))

theorem dregSets_shape (d b : Nat) (f : Nat → Nat) (n : Nat) (s : State) :
    ∃ r, (List.range n).foldl (fun s k => dregSet s d (b + 8 * k) (f k)) s = { s with dreg := r } := by
  induction n with
  | zero => exact ⟨_, rfl⟩
  | succ n ih =>
    obtain ⟨r, e⟩ := ih
    rw [List.range_succ, List.foldl_append, e]
    exact ⟨_, rfl⟩

/-- Doublewords written in a row read back as they were written. -/
theorem dregGet_dregSets (d b : Nat) (f : Nat → Nat) {n k : Nat} (s : State) (h : k < n) :
    dregGet ((List.range n).foldl (fun s k => dregSet s d (b + 8 * k) (f k)) s) d (b + 8 * k) = f k % 2 ^ 64 := by
  induction n with
  | zero => omega
  | succ n ih =>
    rw [List.range_succ, List.foldl_append, List.foldl_cons, List.foldl_nil]
    by_cases hk : k = n
    · rw [hk, dregGet_dregSet]
    · rw [dregGet_dregSet_other _ _ _ (by omega), ih (by omega)]

theorem larderBytesOf_clean {s : State} {d : Nat} (h : larderBad s d = false) :
    larderBytesOf s d = Memory.read s.mem (larderBase + d * 2 ^ 30) larderBytes :=
  if_neg (by simp [h])

theorem digestLarder_shape (s : State) (d : Nat) :
    ∃ r, digestLarder s d = { s with dreg := r, free := if larderBad s d then s.free + larderBytes else s.free } := by
  unfold digestLarder
  dsimp only
  obtain ⟨r, e⟩ := dregSets_shape d 0x100 (fun k => bits (Config.shake256 (larderBytesOf s d)).toNat (64 * k + 63) (64 * k)) 8
    (if larderBad s d then { s with free := s.free + larderBytes } else s)
  rw [e]
  split <;> exact ⟨_, rfl⟩

theorem digestLarder_valid (s : State) (d : Nat) : dregGet (digestLarder s d) d 0x140 = 1 := dregGet_dregSet ..

/-- The digest of a Larder without a poisoned row is that of its bytes. -/
theorem digestLarder_words {s : State} {d k : Nat} (hb : larderBad s d = false) (hk : k < 8) : dregGet (digestLarder s d) d (0x100 + 8 * k) =
    bits (Config.shake256 (Memory.read s.mem (larderBase + d * 2 ^ 30) larderBytes)).toNat (64 * k + 63) (64 * k) := by
  have hlt : bits (Config.shake256 (larderBytesOf s d)).toNat (64 * k + 63) (64 * k) < 2 ^ 64 := by
    rw [bits, show 64 * k + 63 + 1 - 64 * k = 64 by omega]
    exact Nat.mod_lt _ (by decide)
  refine (dregGet_dregSet_other _ d 1 (by omega)).trans ?_
  rw [dregGet_dregSets d 0x100 _ _ hk, Nat.mod_eq_of_lt hlt, larderBytesOf_clean hb]

theorem larderDigestDone_digests {d : Nat} {s : State} (hd : Config.isShading d = true) (ho : (die s d).larderOpen = false)
    (hv : dregGet s d 0x140 % 2 = 0) : exec (.larderDigestDone d) s = .next (digestLarder s d) :=
  if_pos (by simp [hd, ho, hv])

theorem larderResults : Claims.LarderResults := by
  refine ⟨fun d a s x h hx hc => ?_, fun s f x l hk h => settleClose_done hk h,
    fun d a s h e hc he => ⟨lwopen_refused h hc he, lwclose_refused h hc he⟩, fun d s hd ho hv => ?_⟩
  · have close := lwclose_passed h hx hc rfl
    subst hx
    have opened := lwopen_passed h hc
    refine ⟨fun ho => ?_, fun ho hu => ?_, fun ho hu => ?_, fun ho => ?_, fun ho hn => ?_⟩
    · rw [opened, if_pos ho]
    · rw [opened, if_neg (by simp [ho]), if_pos hu]
    · rw [opened, if_neg (by simp [ho]), if_neg (by simp [hu])]
    · rw [close, if_pos ho]
    · rw [hn, Option.getD_none, any_issued_aimsLarder, if_neg (by simp [ho])] at close
      constructor
      · intro hall
        rw [close, if_neg]
        simpa using hall
      · intro hex
        rw [close, if_pos (List.any_eq_true.2 hex)]
  · obtain ⟨r, e⟩ := digestLarder_shape s d
    exact ⟨_, larderDigestDone_digests hd ho hv, digestLarder_valid s d, by rw [e],
      fun hb => ⟨by rw [e, hb]; rfl, fun _ hk => digestLarder_words hb hk⟩⟩

/-- Settles O45: PSTEP by its checks, each relock and Larder form by what it answers once its checks are passed. -/
theorem powerAndLarderResults : Obligations.PowerAndLarderResults := ⟨powerResults, larderResults⟩

end Sys2Proof.Laws
end

section
/-! SUPPORT. Registers that others write: worlds and splits with their adoption, die and partition registers, departures of core groups, the
rollback counter's fuse (R76, R118, R327, R364, R381, R382, R389, R407, R411, R412, R425). -/

namespace Sys2Proof.Laws

open Sys2Proof Sys2Proof.Machine Sys2Proof.Claims

/-! What a failed boot leaves to be served (R411) -/

theorem running_alive {s : State} (h : s.bootDead = false) (r : Result) : running s r = r := if_neg (by simp [h])

theorem running_dead {s : State} (h : s.bootDead = true) (r : Result) : running s r = .next s := if_pos h

/-- After a failed boot no register of a partition's block is served. -/
theorem served_dead {s : State} (h : s.bootDead = true) {p : Nat} (hp : p ≠ 64) (o : Nat) : served s p o = false := by
  simp [served, h, hp, devicePart]

theorem pregWrite_unserved {s : State} {p o : Nat} (h : served s p o = false) (w : Who) (v m : Nat) : pregWrite s w p o v m = s := by
  simp [pregWrite, h]

theorem registerWrite_dead {s : State} (h : s.bootDead = true) {p : Nat} (hp : p ≠ 64) (o : Nat) (v : Word64) :
    exec (.registerWrite p o v) s = .next s := by
  change execRegisterWrite p o v s = _
  rw [execRegisterWrite, pregWrite_unserved (served_dead h hp o)]
  split <;> rfl

theorem mbinRelease_dead {s : State} (h : s.bootDead = true) {p : Nat} (hp : p ≠ 64) : exec (.mbinRelease p) s = .next s :=
  if_neg (by simp [mailbox, served_dead h hp])

/-! Splits (R118) -/

/-- A core without a resident workgroup that has another split than its core group's adopts that. -/
theorem coreAt_adoptSplit {s : State} {cid : Nat} (hr : residents s cid = [])
    (hz : csrGet s 0x101 (cgKey (cidDie cid) (cidCg cid)) % 4 ≠ (coreAt s cid).spsel) :
    (coreAt (adoptSplit s cid) cid).spsel = csrGet s 0x101 (cgKey (cidDie cid) (cidCg cid)) % 4 := by
  rw [adoptSplit, if_pos ⟨by simp [hr], hz.symm⟩, coreAt_updCore]

/-! Die registers (R76, R389, R407, R425) -/

/-- A write of a register that its die has, on a die that is there, is what a DIEWR of it is. -/
theorem dieAct_assigned {ok : Bool} {s : State} {d o : Nat} (v : Word64) (hb : s.bootDead = false) (hok : ok = true)
    (hd : diePresent s d = true) (ho : dregAssigned d o = true) : dieAct ok s d o v = .next (dieWrite s d o v.toNat).1 := by
  rw [dieAct, running_alive hb, if_pos (by simp [hok, hd, ho])]

theorem fabctlWrite_floor {s : State} (v : Word64) (hb : s.bootDead = false) (hd : diePresent s 0 = true) :
    exec (.fabctlWrite v) s = .next (dregSet s 0 0 (Max.max 100 (v.toNat % 2 ^ 16))) := by
  have written : exec (.fabctlWrite v) s = .next (dieWrite s 0 0 v.toNat).1 := dieAct_assigned v hb rfl hd (by decide)
  rw [written, dieWrite, if_pos rfl, if_pos rfl]

theorem dregAssigned_rot {n : Nat} (h : n < 16384) : dregAssigned 0 (0x100000 + 8 * n) = true := by
  have hn : ¬ (0x100000 + 8 * n) % 8 ≠ 0 := by omega
  simp only [dregAssigned, if_neg hn, if_true, Bool.or_eq_true, Bool.and_eq_true, decide_eq_true_eq]
  omega

theorem bitAt_eq_testBit (x n : Nat) : bitAt x n = x.testBit n := by
  rw [Nat.testBit_eq_decide_div_mod_eq, bitAt, Nat.shiftRight_eq_div_pow]
  rfl

theorem bitAt_toNat {w : Nat} (v : BitVec w) (n : Nat) : bitAt v.toNat n = v.getLsbD n := bitAt_eq_testBit ..

/-- A region entry's write by its register (R389). -/
theorem dieWrite_rot {n : Nat} (h : n < 16384) (s : State) (v : Word64) : (dieWrite s 0 (0x100000 + 8 * n) v.toNat).1 =
    if bitAt (dregGet s 0 (0x100000 + 8 * n)) 31 = true ∧ bits v.toNat 15 0 ≠ bits (dregGet s 0 (0x100000 + 8 * n)) 15 0 then s
    else if bitAt (dregGet s 0 (0x100000 + 8 * n)) 31 = v.getLsbD 31 then rotWritten s n v
    else buildEntry (rotWritten s n v) n (v.getLsbD 31) := by
  have hn : (0x100000 + 8 * n - 0x100000) / 8 = n := by omega
  have written : dregSet s 0 (0x100000 + 8 * n) (maskBits v.toNat [(31, 31), (15, 8), (7, 0)]
      + b2n (bitAt (dregGet s 0 (0x100000 + 8 * n)) 30) * 2 ^ 30) = rotWritten s n v := by
    rw [rotWritten]
    cases bitAt (dregGet s 0 (0x100000 + 8 * n)) 30 <;> rfl
  unfold dieWrite
  dsimp only
  rw [if_pos rfl, if_neg (by omega), if_neg (by omega), if_neg (by omega), if_neg (by omega), if_neg (by omega), if_pos (by omega)]
  split
  · rfl
  · simp only [written, bitAt_toNat, hn, beq_iff_eq]

/-! Departures (R382) -/

theorem bitAt_setBits_clear (x n : Nat) : bitAt (setBits x n n 0) n = false := by
  have h : (x - x / 2 ^ n % 2 * 2 ^ n) / 2 ^ n = x / 2 ^ n - x / 2 ^ n % 2 := by rw [Nat.mul_comm, Nat.sub_mul_div]
  simp only [bitAt, setBits, bits, Nat.shiftRight_eq_div_pow, Nat.zero_mod, Nat.zero_mul, Nat.add_zero, Nat.add_sub_cancel_left, Nat.pow_one, h]
  rw [beq_eq_false_iff_ne]
  omega

/-- Clearing a bit leaves the bits below it. -/
theorem bitAt_setBits_below (x : Nat) {m n : Nat} (h : m < n) : bitAt (setBits x n n 0) m = bitAt x m := by
  obtain ⟨k, rfl⟩ := Nat.exists_eq_add_of_lt h
  obtain ⟨c, hc⟩ : ∃ c, x / 2 ^ (m + k + 1) % 2 * 2 ^ (m + k + 1) = 2 ^ m * (2 * c) :=
    ⟨x / 2 ^ (m + k + 1) % 2 * 2 ^ k, by rw [Nat.pow_succ, Nat.pow_add]; ac_rfl⟩
  have hle : 2 * c ≤ x / 2 ^ m := by
    rw [Nat.le_div_iff_mul_le (Nat.two_pow_pos m), Nat.mul_comm, ← hc]
    exact Nat.le_trans (Nat.mul_le_mul_right _ (Nat.mod_le ..)) (Nat.div_mul_le_self ..)
  simp only [bitAt, setBits, bits, Nat.shiftRight_eq_div_pow, Nat.zero_mod, Nat.zero_mul, Nat.add_zero, Nat.add_sub_cancel_left, Nat.pow_one, hc,
    Nat.sub_mul_div]
  rw [show (x / 2 ^ m - 2 * c) % 2 = x / 2 ^ m % 2 by omega]

theorem bitAt_ofNat64 (x : Nat) {n : Nat} (h : n < 64) : bitAt (BitVec.ofNat 64 x).toNat n = bitAt x n := by
  rw [bitAt_eq_testBit, bitAt_eq_testBit, BitVec.toNat_ofNat, Nat.testBit_mod_two_pow, decide_eq_true h, Bool.true_and]

/-- A partition's mask of a die with MEMBER and DEPART of a core group cleared together. -/
def departed (s : State) (p d g : Nat) : State :=
  pregSet s p (0x400 + 8 * d) (setBits (setBits (cgmask s p d) g g 0) (16 + g) (16 + g) 0)

theorem departed_shape (s : State) (p d g : Nat) : departed s p d g = { s with preg := (departed s p d g).preg } := rfl

theorem cgmask_departed (s : State) (p d g : Nat) :
    cgmask (departed s p d g) p d = (BitVec.ofNat 64 (setBits (setBits (cgmask s p d) g g 0) (16 + g) (16 + g) 0)).toNat :=
  pregGet_pregSet ..

theorem departed_clears (s : State) (p d : Nat) {g : Nat} (h : g < 16) :
    bitAt (cgmask (departed s p d g) p d) g = false ∧ bitAt (cgmask (departed s p d g) p d) (16 + g) = false := by
  rw [cgmask_departed, bitAt_ofNat64 _ (by omega), bitAt_ofNat64 _ (by omega), bitAt_setBits_below _ (by omega)]
  exact ⟨bitAt_setBits_clear .., bitAt_setBits_clear ..⟩

/-- A departing core group that holds nothing more leaves its partition. -/
theorem departureComplete_empty {d g p : Nat} {s : State}
    (hp : (List.range 64).find? (fun p => isMember s p d g && isDeparting s p d g) = some p) (hg : g < Config.coreGroups d)
    (he : groupEmpty s d g = true) : exec (.departureComplete d g) s = .next (departed (shareBack s d (cgCores d g)) p d g) := by
  change execDepartureComplete d g s = _
  rw [execDepartureComplete, hp]
  exact if_pos ⟨hg, he⟩

/-! The rollback counter (R412) -/

theorem fuseMinverRaise_raises {s : State} (h : s.bootDead = false) (n : Nat) :
    exec (.fuseMinverRaise n) s = .next { s with minverNext := Max.max (Max.max s.minverNext s.minver) (n % 2 ^ 32) } :=
  running_alive h _

/-- Settles O54: each write is its register's own where boot has not failed, and nothing after a failed boot; departures clear both bits. -/
theorem registerResults : Obligations.RegisterResults := by
  refine ⟨fun d g v s hd hg hb => ?_, fun d b s hb hn hi => if_pos ⟨hb, hn, hi⟩, fun d g v s hd hg hb => ?_, fun cid s hr hz => ?_,
    fun d v s hd hb hp ho => dieAct_assigned v hb hd hp ho, fun d e v s hd hb hp ho => dieAct_assigned v hb (by simpa using hd) hp ho,
    fun d e v s hd he hb hp ho => dieAct_assigned v hb (by simp [hd, he]) hp ho,
    fun v s hb hp => fabctlWrite_floor v hb hp, fun n v s hn hb hp => ?_, fun p o v s hp ho ho' => if_pos ⟨hp, ho, ho'⟩,
    fun p q v s hp hq hb => (running_alive hb _).trans (if_pos ⟨hp, hq⟩),
    fun p d v s hp hd hb => ⟨(running_alive hb _).trans (if_pos ⟨hp, hd⟩), (running_alive hb _).trans (if_pos ⟨hp, hd⟩)⟩,
    fun d g p s hp hg he => ⟨_, departureComplete_empty hp hg he, departed_shape .., departed_clears _ p d (Nat.lt_of_lt_of_le hg (coreGroups_le d))⟩,
    fun n p o q v x s hb => ⟨running_dead hb _, running_dead hb _, running_dead hb _,
      fun hp => ⟨registerWrite_dead hb hp o v, mbinRelease_dead hb hp⟩⟩, fun n s hb => ?_⟩
  · exact (running_alive hb _).trans (if_pos ⟨hd, hg⟩)
  · exact (running_alive hb _).trans (if_pos ⟨hd, hg⟩)
  · exact ⟨_, if_pos ⟨by simp [hr], hz⟩, coreAt_adoptSplit hr hz⟩
  · have written : exec (.rotEntryWrite n v) s = .next (dieWrite s 0 (0x100000 + 8 * n) v.toNat).1 :=
      dieAct_assigned v hb (decide_eq_true hn) hp (dregAssigned_rot hn)
    rw [dieWrite_rot hn] at written
    refine ⟨fun h1 h2 => ?_, fun h1 h2 => ?_, fun h1 => ?_⟩
    · rw [written, if_pos ⟨h1, h2⟩]
    · rw [written, if_neg (by simp [h2]), h1]
      cases v.getLsbD 31 <;> simp
    · rw [written, if_neg (by simp [h1]), h1]
      cases v.getLsbD 31 <;> simp
  · refine ⟨_, fuseMinverRaise_raises hb n, ?_, ?_, ?_, ?_, rfl⟩ <;> dsimp only <;> omega

end Sys2Proof.Laws
end

section
/-! SUPPORT. The workgroups under what reads memory, lays out records and places threads: a fetch and the frontier leave every thread's carried
registers and every cohort as they are (R39, R51, R141, R200). -/

namespace Sys2Proof.Laws

open Sys2Proof Sys2Proof.Machine

theorem foldl_wgs {α : Type} {f : State → α → State} (h : ∀ s x, (f s x).wgs = s.wgs) (l : List α) (s : State) :
    (l.foldl f s).wgs = s.wgs :=
  List.foldlRecOn (motive := fun t => t.wgs = s.wgs) l f rfl fun t ht x _ => (h t x).trans ht

/-! Lines and slices -/

@[simp] theorem layPut_wgs (s : State) (pa : Nat) (l : List Byte) : (layPut s pa l).wgs = s.wgs := by rw [layPut_shape]

@[simp] theorem recode_wgs (s : State) (pa n : Nat) (c : Bool) : (recode s pa n c).wgs = s.wgs := by rw [recode_shape]

@[simp] theorem physRead_wgs (s : State) (pa n : Nat) : (physRead s pa n).2.wgs = s.wgs := by rw [physRead_shape]

@[simp] theorem applyDeltas_wgs (s : State) (line : Nat) (l : SMap UDelta) : (applyDeltas s line l).wgs = s.wgs := by
  obtain ⟨_, _, _, _, _, _, _, h⟩ := applyDeltas_shape line l s
  rw [h]

@[simp] theorem combine_wgs (s : State) (line : Nat) : (combine s line).wgs = s.wgs := by
  unfold combine
  dsimp only
  split
  · rfl
  · refine (setLine_wgs ..).trans (foldl_wgs (fun s x => ?_) _ _)
    exact applyDeltas_wgs ..

@[simp] theorem touchLlc_wgs (s : State) (h line : Nat) (d : Bool) : (touchLlc s h line d).wgs = s.wgs := rfl

@[simp] theorem touchL2_wgs (s : State) (k h line : Nat) (w d : Word32) : (touchL2 s k h line w d).wgs = s.wgs := by rw [touchL2_shape]

@[simp] theorem clearL2_wgs (s : State) (line : Nat) (m : Word32) (k : Option Nat) : (clearL2 s line m k).wgs = s.wgs := rfl

@[simp] theorem recallL2_wgs (s : State) (line : Nat) (m : Word32) (k : Option Nat) : (recallL2 s line m k).wgs = s.wgs := rfl

@[simp] theorem hostPermit_wgs (s : State) (line : Nat) : (hostPermit s line).wgs = s.wgs := by
  unfold hostPermit
  split <;> rfl

@[simp] theorem writeBackLine_wgs (s : State) (cid line : Nat) (drop : Bool) : (writeBackLine s cid line drop).wgs = s.wgs := by
  simp only [writeBackLine, setLine_wgs, apply_ite State.wgs, touchLlc_wgs, applyDeltas_wgs, ite_self]

@[simp] theorem makeRoom_wgs (s : State) (cid line : Nat) : (makeRoom s cid line).wgs = s.wgs := by
  unfold makeRoom
  dsimp only
  split
  · rfl
  · split
    · exact writeBackLine_wgs ..
    · rfl

/-- The room that a core's L1 makes for a line, if a core is to hold it. -/
@[simp] theorem elim_makeRoom_wgs (s : State) (cid : Option Nat) (line : Nat) : (cid.elim s fun c => makeRoom s c line).wgs = s.wgs := by
  cases cid <;> simp

@[simp] theorem lineRead_wgs (s : State) (line : Nat) (m : Word32) (cid : Option Nat) : (lineRead s line m cid).wgs = s.wgs := by
  cases cid <;> simp [lineRead, hostShare]

@[simp] theorem lineOwn_wgs (s : State) (line : Nat) (m : Word32) (cid : Option Nat) : (lineOwn s line m cid).wgs = s.wgs := by
  cases cid <;> simp [lineOwn, lineGrant, hostOwn]

/-! Accesses -/

@[simp] theorem useLeaf_wgs (s : State) (t : TlbEnt) (wr : Bool) : (useLeaf s t wr).wgs = s.wgs := by
  simp [useLeaf, apply_ite State.wgs]

@[simp] theorem useTgt_wgs (s : State) (t : Tgt) (wr : Bool) : (useTgt s t wr).wgs = s.wgs := by
  unfold useTgt
  split
  · exact useLeaf_wgs ..
  · rfl

@[simp] theorem notePeer_wgs (s : State) (i : Issuer) (pa : Nat) : (notePeer s i pa).wgs = s.wgs := by
  unfold notePeer
  split <;> rfl

@[simp] theorem cacheUse_wgs (s : State) (i : Issuer) (e pa n : Nat) (wr : Bool) : (cacheUse s i e pa n wr).wgs = s.wgs := by
  grind [cacheUse, touchLlc_wgs, setLine_wgs, clearL2_wgs, recallL2_wgs, touchL2_wgs]

@[simp] theorem endCopies_wgs (s : State) (pa n : Nat) : (endCopies s pa n).wgs = s.wgs := by
  unfold endCopies
  split <;> rfl

@[simp] theorem layPhys_wgs (s : State) (pa : Nat) (l : List Byte) (cmp : Bool) : (layPhys s pa l cmp).wgs = s.wgs :=
  (foldl_wgs (fun s x => by simp) _ _).trans (endCopies_wgs ..)

@[simp] theorem layBytes_wgs (s : State) (d p va : Nat) (l : List Byte) : (layBytes s d p va l).wgs = s.wgs := by
  refine foldl_wgs (fun s x => ?_) _ _
  split <;> simp

@[simp] theorem markLaid_wgs (s : State) (d p va n : Nat) (h : Holder) (dark : Bool) : (markLaid s d p va n h dark).wgs = s.wgs := by
  refine foldl_wgs (fun s x => ?_) _ _
  split <;> rfl

/-- A read of physical memory leaves the workgroups as they are. -/
theorem readTgt_phys_wgs {s : State} {t : Tgt} {pa : Nat} (h : t.loc = .phys pa) (i : Issuer) (n : Nat) : (readTgt s i t n).2.wgs = s.wgs := by
  unfold readTgt
  rw [h]
  dsimp only
  split <;> simp

theorem pageTarget_phys {s : State} {i : Issuer} {q : Acc} {l : TlbEnt} {pa : Nat} {t : Tgt} (h : pageTarget s i q l pa = .ok t) :
    t.loc = .phys pa := by
  obtain ⟨_, -, h⟩ := bind_ok h
  grind

theorem pageChecks_phys {s : State} {i : Issuer} {q : Acc} {l : TlbEnt} {t : Tgt} (h : pageChecks s i q l = .ok t) : ∃ pa, t.loc = .phys pa := by
  refine ⟨ptePa l.lvl l.pte.toNat (va49 q.va), pageTarget_phys (s := s) (i := i) (q := q) (l := l) ?_⟩
  grind [pageChecks]

/-- A fetch reads physical memory: a scratchpad holds no code (R112, R141). -/
theorem resolve_fetch_phys {s : State} {i : Issuer} {q : Acc} {t : Tgt} (hq : q.fetch = true) (h : resolve s i q = .ok t) :
    ∃ pa, t.loc = .phys pa := by
  unfold resolve at h
  grind [pageChecks_phys]

theorem fetchTgt_wgs {s : State} {i : Issuer} {cid pa : Nat} {t : Tgt} (h : t.loc = .phys pa) : (fetchTgt s i cid t).2.wgs = s.wgs := by
  unfold fetchTgt
  split
  · exact useTgt_wgs ..
  · dsimp only
    split <;> exact readTgt_phys_wgs h _ _

theorem fetchAs_wgs {s : State} {i : Issuer} {cid va : Nat} {r : Word32 × State} (h : fetchAs s i cid va = .ok r) : r.2.wgs = s.wgs := by
  obtain ⟨t, ht, h⟩ := bind_ok h
  obtain ⟨pa, hp⟩ := resolve_fetch_phys rfl ht
  split at h
  · cases h
    exact useTgt_wgs ..
  · obtain ⟨u, hu, h⟩ := bind_ok h
    obtain rfl : t = u := by grind [fetchHome]
    cases h
    exact fetchTgt_wgs hp

/-- Entering a block fetches its header and leaves the workgroups as they are (R200). -/
theorem checkEntryAs_wgs {s : State} {i : Issuer} {cid va : Nat} {r : Succ × State} (h : checkEntryAs s i cid va = .ok r) : r.2.wgs = s.wgs := by
  grind [checkEntryAs, → bind_ok, → fetchAs_wgs]

/-! The frontier -/

@[simp] theorem layRecord_wgs (s : State) (p l base cid : Nat) (r : Spilled) : (layRecord s p l base cid r).wgs = s.wgs := by
  simp [layRecord, unspoil]

theorem spillEntry_wgs {s t : State} {cid : Nat} {e : Entry} (h : spillEntry s cid e = some t) : t.wgs = s.wgs := by
  grind [spillEntry, updCore_wgs, layRecord_wgs]

theorem addEntry_wgs {s t : State} {cid : Nat} {e : Entry} (h : addEntry s cid e = some t) : t.wgs = s.wgs := by
  grind [addEntry, setCore_wgs, updCore_wgs, → spillEntry_wgs, Option.map_eq_some_iff]

theorem relayRecord_wgs (s : State) (cid p l ctx baddr : Nat) : (relayRecord s cid p l ctx baddr).wgs = s.wgs := by
  unfold relayRecord
  dsimp only
  split
  · exact layRecord_wgs ..
  · rfl

theorem placeSlot_wgs {s t : State} {cid p l slot : Nat} {u : Succ} (h : placeSlot s cid p l slot u = some t) : t.wgs = s.wgs := by
  grind [placeSlot, setCore_wgs, noteFresh, updCore_wgs, relayRecord_wgs, → addEntry_wgs, Option.map_eq_some_iff]

/-- A thread as it is placed at a block (R36). -/
def atBlock (u : Succ) (th : Thread) : Thread := { th with st := .pending, succ := u }

theorem updThread_wgs_congr {s s' : State} (h : s.wgs = s'.wgs) (w t : Nat) (f : Thread → Thread) :
    (updThread s w t f).wgs = (updThread s' w t f).wgs := by
  simp only [updThread, updWg, wg?, h]
  split
  · simp only [setWg_find, h]
  · exact h

/-- Placing a thread changes no workgroup but for that thread's own state and successor (R39). -/
theorem placeThread_wgs {s z : State} {w t : Nat} {u : Succ} (h : placeThread s w t u = some z) :
    z.wgs = (updThread s w t (atBlock u)).wgs := by
  unfold placeThread at h
  split at h
  · split at h
    · obtain ⟨y, hy, rfl⟩ := Option.map_eq_some_iff.1 h
      exact updThread_wgs_congr (placeSlot_wgs hy) ..
    · cases h
      rfl
  · cases h

/-- What two states with the same workgroups say of one. -/
theorem wg?_of_wgs {s t : State} (h : t.wgs = s.wgs) (w : Nat) : wg? t w = wg? s w := congrArg (·.find w) h

theorem thread?_of_wgs {s t : State} (h : t.wgs = s.wgs) (w k : Nat) : thread? t w k = thread? s w k := by
  rw [thread?, thread?, wg?_of_wgs h]

/-! What a thread that goes on leaves of every thread's carried registers (R67, R200) -/

/-- From a state to another every thread keeps its carried registers. -/
structure KeepsCarried (s t : State) : Prop where
  carried : ∀ y z, (thread? t y z).map (·.v) = (thread? s y z).map (·.v)

theorem KeepsCarried.trans {s t u : State} (h : KeepsCarried s t) (h' : KeepsCarried t u) : KeepsCarried s u :=
  ⟨fun y z => (h'.carried y z).trans (h.carried y z)⟩

theorem keepsCarried_of_wgs {s t : State} (h : t.wgs = s.wgs) : KeepsCarried s t := ⟨fun y z => by rw [thread?_of_wgs h]⟩

/-- A thread that is updated leaves the others as they are. -/
theorem thread?_updThread_other (s : State) {w t y z : Nat} (f : Thread → Thread) (h : ¬(y = w ∧ z = t)) :
    thread? (updThread s w t f) y z = thread? s y z := by
  by_cases hy : y = w
  · subst hy
    cases hg : wg? s y with
    | none => simp [thread?, updThread, hg]
    | some g =>
      obtain ⟨l, hl, hother, -⟩ := wg?_updThread t f hg
      simpa [thread?, hg, hl] using hother z fun hz => h ⟨rfl, hz⟩
  · rw [thread?, updThread, wg?_updWg_other s _ hy, thread?]

theorem keepsCarried_updThread (s : State) (w t : Nat) {f : Thread → Thread} (hf : ∀ th, (f th).v = th.v) : KeepsCarried s (updThread s w t f) where
  carried y z := by
    by_cases h : y = w ∧ z = t
    · obtain ⟨rfl, rfl⟩ := h
      simp [Function.comp_def, hf]
    · rw [thread?_updThread_other s f h]

theorem keepsCarried_placeThread {s z : State} {w t : Nat} {u : Succ} (h : placeThread s w t u = some z) : KeepsCarried s z :=
  (keepsCarried_updThread s w t (f := atBlock u) fun _ => rfl).trans (keepsCarried_of_wgs (placeThread_wgs h))

theorem keepsCarried_takeRecord (s : State) (cid k : Nat) (h : Held) : KeepsCarried s (takeRecord s cid k h) := by
  unfold takeRecord
  dsimp only
  split
  · refine .trans (t := updCore (leaveBatch s h.wg h.tid) cid _) ?_ (.trans (keepsCarried_updThread _ h.wg h.tid ?_) (keepsCarried_of_wgs rfl))
    · exact ⟨fun y z => by rw [thread?_updCore, thread?_leaveBatch]⟩
    · exact fun _ => rfl
  · exact keepsCarried_of_wgs rfl

theorem keepsCarried_faultEntry (s : State) (cid w t va : Nat) (c : Cause) (faddr : Nat) : KeepsCarried s (faultEntry s cid w t va c faddr) := by
  unfold faultEntry
  dsimp only
  split
  · exact keepsCarried_takeRecord ..
  · exact .trans (t := waitRecord s cid _) (keepsCarried_of_wgs rfl) (keepsCarried_updThread _ w t fun _ => rfl)

theorem keepsCarried_enterThread (s : State) (cid w t va : Nat) : KeepsCarried s (enterThread s cid w t va) := by
  unfold enterThread
  split
  · next he =>
    have hf := keepsCarried_of_wgs (checkEntryAs_wgs he)
    split
    · next hp => exact hf.trans (keepsCarried_placeThread hp)
    · exact hf.trans (keepsCarried_faultEntry ..)
  · exact keepsCarried_faultEntry ..
  · exact keepsCarried_updThread s w t fun _ => rfl

/-- That a thread goes on, or waits on for a place, changes no carried register (R55, R200). -/
theorem keepsCarried_wake (s : State) (w t : Nat) : KeepsCarried s (wake s w t) := by
  unfold wake
  split
  · next th _ =>
    split
    · split
      · exact keepsCarried_enterThread ..
      · split
        · next hp => exact keepsCarried_placeThread hp
        · exact keepsCarried_updThread s w t fun _ => rfl
    · cases hp : placeThread s w t th.succ with
      | none => exact keepsCarried_of_wgs rfl
      | some z => exact keepsCarried_placeThread hp
  · exact keepsCarried_of_wgs rfl

/-- A wait of the slot's occupant that is satisfied takes it to its captured successor. -/
theorem wake_placed {s z : State} {w t : Nat} {th : Thread} (hc : slotCurrent s w t = true) (ht : thread? s w t = some th)
    (hr : ((wg? s w).bind fun g => g.cid?).isSome = true) (hl : th.succ.len ≠ 0) (hp : placeThread s w t th.succ = some z) :
    wake s w t = z := by
  obtain ⟨cid, hcid⟩ := Option.isSome_iff_exists.1 hr
  simp [wake, hc, ht, hcid, hl, hp]

end Sys2Proof.Laws
end

section
/-! SUPPORT. The value that each collective gives a member: sums, the pairwise tree of FP32 sums, the least and the greatest input, and inputs
chosen by rank (R78, R110, R252). -/

namespace Sys2Proof.Laws

open Sys2Proof Sys2Proof.Machine Sys2Proof.Claims

/-! What rounding to FP32 gives fits 32 bits (R87, R90) -/

theorem pack_fp32_lt (neg : Bool) {m : Nat} (h : m < 2 ^ 31) : Fmt.fp32.pack neg m < 2 ^ 32 := by
  cases neg <;> simp [Fmt.pack, Fmt.fp32, b2n] <;> omega

theorem rne_fp32_lt (v : FVal) : Fmt.fp32.rne v < 2 ^ 32 := by
  have hmax : Fmt.fp32.maxMag < 2 ^ 31 := by decide
  cases v with
  | nan => decide
  | inf neg => exact pack_fp32_lt neg (by decide)
  | fin neg m e =>
    simp only [Fmt.rne, Fmt.encode]
    split
    · exact pack_fp32_lt neg (by decide)
    · exact pack_fp32_lt neg (by omega)

/-! The tree of pairwise sums (R110) -/

theorem pairUp_length : ∀ l : List Nat, (treeSum.pairUp l).length = (l.length + 1) / 2
  | [] => rfl
  | [_] => by simp [treeSum.pairUp]
  | x :: y :: l => by
    simp only [treeSum.pairUp, List.length_cons, pairUp_length l]
    omega

/-- Any fuel that reaches the root of the tree gives the same sum. -/
theorem treeSum_fuel {n m : Nat} {l : List Nat} (hn : l.length < n) (hm : l.length < m) : treeSum n l = treeSum m l := by
  induction n generalizing m l with
  | zero => omega
  | succ n ih =>
    obtain ⟨m, rfl⟩ := Nat.exists_eq_add_one_of_ne_zero (Nat.ne_zero_of_lt hm)
    match l with
    | [] => rfl
    | [x] => rfl
    | x :: y :: l =>
      have hp := pairUp_length (x :: y :: l)
      simp only [List.length_cons] at hn hm hp
      exact ih (by omega) (by omega)

/-- The sum of two values or more is that of the sums of the pairs. -/
theorem fSum_pairUp {l : List Nat} (h : 2 ≤ l.length) : fSum l = fSum (treeSum.pairUp l) := by
  match l with
  | x :: y :: l =>
    have hp := pairUp_length (x :: y :: l)
    change treeSum (l.length + 2) (treeSum.pairUp (x :: y :: l)) = _
    simp only [List.length_cons] at hp
    exact treeSum_fuel (by omega) (Nat.lt_succ_self _)

/-- The pairwise sums as registers hold them are those as numbers. -/
theorem pairSums_toNat : ∀ l : List Word32, (pairSums l).map (·.toNat) = treeSum.pairUp (l.map (·.toNat))
  | [] => rfl
  | [_] => rfl
  | x :: y :: l => by
    have hsum : near .fp32 ((val32 x.toNat).add (val32 y.toNat)) % 2 ^ 32 = fAddW .fp32 x.toNat y.toNat := Nat.mod_eq_of_lt (rne_fp32_lt _)
    simp only [pairSums, List.map_cons, treeSum.pairUp, pairSums_toNat l, BitVec.toNat_ofNat, hsum]

/-! The value of each function (R252) -/

theorem foldl_add_start (l : List Word32) (m : Word32) : l.foldl (· + ·) m = m + l.foldr (· + ·) 0 := by
  induction l generalizing m with
  | nil => exact (BitVec.add_zero m).symm
  | cons x l ih => exact (ih (m + x)).trans (BitVec.add_assoc m x _)

/-- The sum of the inputs in rank order is their sum in any (R252). -/
theorem foldl_add_eq_foldr (l : List Word32) : l.foldl (· + ·) 0 = l.foldr (· + ·) 0 := (foldl_add_start l 0).trans (BitVec.zero_add _)

/-- Folding with a choice of one of two words gives the start or one of the list. -/
theorem foldl_choice_mem {f : Word32 → Word32 → Word32} (hf : ∀ m x, f m x = m ∨ f m x = x) (l : List Word32) (m : Word32) :
    l.foldl f m ∈ m :: l := by
  induction l generalizing m with
  | nil => exact .head _
  | cons x l ih =>
    rcases hf m x with h | h <;> grind

/-- Folding with a choice that is never above either word gives one that is above neither the start nor any of the list; the order is
by a measure. -/
theorem foldl_choice_le {f : Word32 → Word32 → Word32} {key : Word32 → Int} (hm : ∀ m x, key (f m x) ≤ key m)
    (hx : ∀ m x, key (f m x) ≤ key x) (l : List Word32) (m : Word32) : ∀ x ∈ m :: l, key (l.foldl f m) ≤ key x := by
  induction l generalizing m with
  | nil => simp
  | cons y l ih =>
    intro x h
    have hstart := ih (f m y) (f m y) (.head _)
    rcases List.mem_cons.1 h with rfl | h
    · exact Int.le_trans hstart (hm ..)
    · rcases List.mem_cons.1 h with rfl | h
      · exact Int.le_trans hstart (hx ..)
      · exact ih (f m y) x (.tail _ h)

theorem getD_zero_cons_subset {xs : List Word32} (h : xs ≠ []) : ∀ x ∈ xs.getD 0 0 :: xs, x ∈ xs := by
  cases xs with
  | nil => exact absurd rfl h
  | cons y l => simp

theorem collResult_min {pt : BitVec 512} {xs bs : List Word32} {k : Nat} (h : xs ≠ []) :
    collResult 2 pt xs bs k ∈ xs ∧ ∀ x ∈ xs, (collResult 2 pt xs bs k).toInt ≤ x.toInt := by
  refine ⟨getD_zero_cons_subset h _ (foldl_choice_mem (fun m x => ?_) _ _), fun x hx =>
    foldl_choice_le (key := BitVec.toInt) (fun m x => ?_) (fun m x => ?_) xs _ x (.tail _ hx)⟩
  all_goals split <;> grind

theorem collResult_max {pt : BitVec 512} {xs bs : List Word32} {k : Nat} (h : xs ≠ []) :
    collResult 3 pt xs bs k ∈ xs ∧ ∀ x ∈ xs, x.toInt ≤ (collResult 3 pt xs bs k).toInt := by
  refine ⟨getD_zero_cons_subset h _ (foldl_choice_mem (fun m x => ?_) _ _), fun x hx =>
    Int.neg_le_neg_iff.1 (foldl_choice_le (key := fun x => -x.toInt) (fun m x => ?_) (fun m x => ?_) xs _ x (.tail _ hx))⟩
  all_goals split <;> grind

theorem collResult_fadd_single (pt : BitVec 512) (x : Word32) (bs : List Word32) (k : Nat) : collResult 1 pt [x] bs k = x :=
  BitVec.ofNat_toNat 32 x |>.trans (BitVec.setWidth_eq x)

theorem collResult_fadd_pairs {pt : BitVec 512} {xs bs : List Word32} {k : Nat} (h : 2 ≤ xs.length) :
    collResult 1 pt xs bs k = collResult 1 pt (pairSums xs) bs k := by
  simp only [collResult, pairSums_toNat]
  rw [fSum_pairUp (by simpa using h)]

/-- XPERM reads its pattern table at the member's rank within its group of 64 (R78, R252). -/
theorem collResult_perm (pt : BitVec 512) (xs bs : List Word32) (k : Nat) :
    collResult 7 pt xs bs k = if pt.toNat / 2 ^ (384 + k % 64) % 2 = 1 then 0
      else xs.getD (64 * (k / 64) + pt.toNat / 2 ^ (6 * (k % 64)) % 64) 0 := by
  have hidx : ptIdx pt (k % 64) = pt.toNat / 2 ^ (6 * (k % 64)) % 64 := by
    rw [ptIdx, bits, show 6 * (k % 64) + 5 + 1 - 6 * (k % 64) = 6 by omega, Nat.shiftRight_eq_div_pow] <;> rfl
  simp only [collResult, hidx, ptZero, bitAt, Nat.shiftRight_eq_div_pow, beq_iff_eq]
  split
  · rfl
  · split
    · rfl
    · next h => simp only [List.getD_eq_getElem?_getD, List.getElem?_eq_none (Nat.not_lt.1 h), Option.getD_none]

theorem collectiveValues : Claims.CollectiveValues := by
  intro pt xs bs k hk
  have hne : xs ≠ [] := List.ne_nil_of_length_pos (Nat.zero_lt_of_lt hk)
  refine ⟨foldl_add_eq_foldr xs, foldl_add_eq_foldr (xs.take (k + 1)), collResult_min hne, collResult_max hne, ?_, collResult_fadd_pairs, rfl, ?_,
    rfl, collResult_perm pt xs bs k⟩
  · rintro x rfl
    exact collResult_fadd_single ..
  · rintro b l rfl
    rfl

end Sys2Proof.Laws
end

section
/-! SUPPORT. Collectives of a cohort: a member's arrival, which stays open while a participant has still to arrive, and which delivers every
participant its value once none has (R157, R250, R252). -/

namespace Sys2Proof.Laws

open Sys2Proof Sys2Proof.Machine Sys2Proof.Claims

/-! What is open of a cohort (R250) -/

/-- What is open of a cohort, or is opened for its members, with one more arrival. -/
def joined (c : Cohort) (a : CArr) : CInst :=
  let k := c.inst.getD { parts := c.members, arr := [] }
  { k with arr := k.arr ++ [a] }

/-- A cohort that has completed what was open: the arrivals of later members open the next (R250). -/
def completed (c : Cohort) (k : CInst) : Cohort :=
  { c with inst := (if (k.arr.filter fun x => !k.parts.contains x.tid) = [] then none
                    else some { parts := c.members, arr := k.arr.filter fun x => !k.parts.contains x.tid })
           done := c.done + 1 }

theorem arrive_eq {s : State} {w h : Nat} {g : Workgroup} {c : Cohort} (hg : wg? s w = some g) (hc : g.cohorts.find h = some c) (a : CArr) :
    arrive s w h a = settle 3 (setCohort s w h { c with inst := some (joined c a) }) w h := by
  simp only [arrive, hg, hc, joined]

theorem wg?_setCohort {s : State} {w : Nat} {g : Workgroup} (h : Nat) (c : Cohort) (hg : wg? s w = some g) :
    wg? (setCohort s w h c) w = some { g with cohorts := g.cohorts.put h c } := by
  rw [setCohort, wg?_updWg, hg, Option.map_some]

/-- With nothing open there is nothing to complete. -/
theorem settle_closed {s : State} {w h : Nat} {g : Workgroup} {c : Cohort} (n : Nat) (hg : wg? s w = some g) (hc : g.cohorts.find h = some c)
    (hi : c.inst = none) : settle n s w h = s := by
  cases n <;> simp [settle, hg, hc, hi]

/-- What is open stays so while a participant has still to arrive. -/
theorem settle_open {s : State} {w h m : Nat} {g : Workgroup} {c : Cohort} {k : CInst} (n : Nat) (hg : wg? s w = some g)
    (hc : g.cohorts.find h = some c) (hi : c.inst = some k) (hm : m ∈ k.parts) (ha : ∀ x ∈ k.arr, x.tid ≠ m) : settle n s w h = s := by
  have hall : (k.parts.all fun t => k.arr.any fun a => a.tid == t) = false := by
    simp only [List.all_eq_false, List.any_eq_true, beq_iff_eq, not_exists, not_and]
    exact ⟨m, hm, ha⟩
  cases n <;> simp [settle, hg, hc, hi, hall]

/-- Once every participant has given one and the same collective, the participants get that collective's results. -/
theorem settle_completes {s : State} {w h fn : Nat} {g : Workgroup} {c : Cohort} {k : CInst} {pt : BitVec 512} (n : Nat) (hg : wg? s w = some g)
    (hc : g.cohorts.find h = some c) (hi : c.inst = some k) (hall : ∀ t ∈ k.parts, ∃ x ∈ k.arr, x.tid = t) (hne : ranked c k ≠ [])
    (hfn : ∀ x ∈ ranked c k, x.fn = some fn)
    (hpt : (if fn = 7 then g.pts.find (((ranked c k).map fun x : CArr => x.b).headD 0).toNat else some 0) = some pt) :
    settle (n + 1) s w h = settle n (releaseAll (setCohort s w h (completed c k)) w h c.done false
      (collResult fn pt ((ranked c k).map (·.x)) ((ranked c k).map (·.b))) 0 (ranked c k)) w h := by
  have hall' : (k.parts.all fun t => k.arr.any fun a => a.tid == t) = true := by simpa using hall
  have hhead : ((ranked c k).map fun a : CArr => a.fn).headD none = some fn := by
    cases hr : ranked c k with
    | nil => exact absurd hr hne
    | cons x l => exact hfn x (hr ▸ .head _)
  have hmixed : (((ranked c k).map fun a : CArr => a.fn).any fun f => f != some fn) = false := by
    simpa [List.any_eq_false] using hfn
  simp only [settle, hg, hc, hi, hall', if_true, hhead, hmixed, Option.getD_some, Bool.not_false, and_true, hpt, List.isEmpty_iff]
  rfl

/-! Arrivals -/

theorem curThread_cur {s : State} {w t : Nat} {g : Workgroup} (h : curThread s = some (w, g, t)) : s.cur = .vthread w t ∧ wg? s w = some g := by
  unfold curThread at h
  split at h
  · next w' t' hc =>
    obtain ⟨g', hg, he⟩ := Option.map_eq_some_iff.1 h
    cases he
    exact ⟨hc, hg⟩
  · cases h

/-- The cohort of a member is one that its workgroup lists: an entry that is not listed has no members. -/
theorem memberOf_listed {g : Workgroup} {h : Word32} {t i : Nat} {c : Cohort} (hm : memberOf g h t = some (i, c)) :
    g.cohorts.find i = some c := by
  obtain ⟨⟨j, d⟩, hd, hmem⟩ := Option.bind_eq_some_iff.1 hm
  split at hmem
  · next hin =>
    cases hmem
    unfold cohortOf at hd
    dsimp only at hd
    split at hd
    · next c' hf =>
      split at hd
      · cases hd
        exact hf
      · cases hd
    · split at hd
      · cases hd
        cases hin
      · cases hd
  · cases hmem

/-! A member that waits at a collective (R36, R250) -/

/-- A thread that waits, its successor captured (R36). -/
def waitingFor (x : Wait) (u : Succ) (th : Thread) : Thread := { th with st := .waiting x, succ := u }

theorem suspend_vthread {s : State} {w t : Nat} (h : s.cur = .vthread w t) (x : Wait) (u : Succ) :
    suspend s x u = updThread (leaveBatch s w t) w t (waitingFor x u) := by
  rw [suspend, h]
  rfl

theorem wg?_suspend {s : State} {w t : Nat} {g : Workgroup} (h : s.cur = .vthread w t) (hg : wg? s w = some g) (x : Wait) (u : Succ) :
    ∃ l, wg? (suspend s x u) w = some { g with threads := l } := by
  obtain ⟨l, hl, -, -⟩ := wg?_updThread t (waitingFor x u) ((wg?_leaveBatch s w t w).trans hg)
  exact ⟨l, suspend_vthread h x u ▸ hl⟩

theorem thread?_suspend {s : State} {w t : Nat} (h : s.cur = .vthread w t) (x : Wait) (u : Succ) :
    thread? (suspend s x u) w t = (thread? s w t).map (waitingFor x u) := by
  rw [suspend_vthread h, thread?_updThread, thread?_leaveBatch]

@[simp] theorem thread?_setCohort (s : State) (w i : Nat) (c : Cohort) (y z : Nat) : thread? (setCohort s w i c) y z = thread? s y z := by
  by_cases hy : y = w
  · subst hy
    cases hg : wg? s y <;> simp [thread?, setCohort, hg]
  · rw [thread?, setCohort, wg?_updWg_other s _ hy, thread?]

/-- A thread that waits runs in no batch. -/
theorem runPlace_waiting {s : State} {w t : Nat} {th : Thread} {x : Wait} (ht : thread? s w t = some th) (hst : th.st = .waiting x) :
    runPlace s w t = none := by
  have hb : th.bctx? = none := by simp [Thread.bctx?, hst]
  cases hg : wg? s w <;> simp [runPlace, hg, ht, hb]

/-- A waiting thread's register write leaves it in its slot. -/
theorem slotCurrent_writeV {s : State} {w t : Nat} (h : runPlace s w t = none) (f : Nat) (v : Word32) (hc : slotCurrent s w t = true) :
    slotCurrent (writeV s w t f v) w t = true := by
  have hw := threadWrites_writeV s w t f v
  cases hg : wg? s w with
  | none => simp [slotCurrent, hg] at hc
  | some g =>
    obtain ⟨l, hl, -, hown⟩ := hw.group g hg
    cases ht : g.threads.find t with
    | none => simp [slotCurrent, thread?, hg, ht] at hc
    | some th =>
      obtain ⟨_, _, hk⟩ := hown th ht
      have hcore (cid : Nat) : coreAt (writeV s w t f v) cid = coreAt s cid := hw.elsewhere cid (by simp [h])
      simpa [slotCurrent, thread?, hg, hl, ht, hk, hcore, Workgroup.cid?, Workgroup.slot] using hc

/-! The forms (R250, R252) -/

/-- With its checks passed a form of the table is the collective of its function's number. -/
theorem exec_collective {d a b : Field} {p : Instr × Form × Nat × (State → Word32)} (hp : p ∈ collectives d a b) {s : State}
    (h : Passes s p.2.1) : exec p.1 s = collective p.2.2.1 d ((readR s a).setWidth 32) (p.2.2.2 s) s := by
  obtain ⟨hr, hf⟩ := h
  suffices he : exec p.1 s = guarded p.2.1 s fun s => collective p.2.2.1 d ((readR s a).setWidth 32) (p.2.2.2 s) s from
    he.trans (guarded_passed hr hf)
  simp only [collectives, List.mem_cons, List.not_mem_nil, or_false] at hp
  rcases hp with rfl | rfl | rfl | rfl | rfl | rfl | rfl | rfl | rfl <;> rfl

section
variable {fn : Nat} {d : Field} {h b : Word32} {s s' : State} {u : Succ} (hn : nextBlock s = .ok (u, s'))
include hn

theorem collective_noMember (hm : NoMember s' h) : collective fn d h b s = .next (raiseState .illegal 0 0 s) := by
  obtain ⟨w, g, t, hcur, hno⟩ := hm
  simp only [collective, waiting, run_ok hn, hcur, hno, raise_next]

variable {w t i : Nat} {c : Cohort} (hm : IsMember s' h w t i c)
include hm

theorem collective_bara (hb : ∃ x ∈ c.bara, x.1 = t) : collective fn d h b s = .next (raiseState .illegal 0 0 s) := by
  obtain ⟨g, hcur, hmem⟩ := hm
  have hany : (c.bara.any fun x => x.1 == t) = true := by simpa using hb
  simp only [collective, waiting, run_ok hn, hcur, hmem, hany, if_true, raise_next]

theorem collective_stalls (hb : ∀ x ∈ c.bara, x.1 ≠ t) (hr : releaseReady s = false) : collective fn d h b s = .next s := by
  obtain ⟨g, hcur, hmem⟩ := hm
  have hany : (c.bara.any fun x => x.1 == t) = false := by simpa using hb
  simp [collective, waiting, run_ok hn, hcur, hmem, hany, hr]

/-- A member's collective is its arrival. -/
theorem collective_arrives (hb : ∀ x ∈ c.bara, x.1 ≠ t) (hr : releaseReady s = true) :
    collective fn d h b s = arrived s (arrive (suspend s' (.coll i (instFor c t) d.toNat) u) w i
      (arrival s' s.ir w t fn ((readR s' d).setWidth 32) b)) w t := by
  obtain ⟨g, hcur, hmem⟩ := hm
  have hany : (c.bara.any fun x => x.1 == t) = false := by simpa using hb
  simp [collective, waiting, run_ok hn, hcur, hmem, hany, hr, arrival]

end

theorem arrived_stands {s s' : State} {w t : Nat} (h : ∀ th, thread? s' w t = some th → th.st ≠ .waiting .place) :
    arrived s s' w t = .next s' := by
  cases ht : thread? s' w t with
  | none => simp [arrived, ht]
  | some th => simp [arrived, ht, h th ht]

theorem arrives_arrived (s s' : State) (w t : Nat) : Arrives (arrived s s' w t) s s' w t :=
  ⟨arrived_stands, fun th ht hst => by simp [arrived, ht, hst, raise_next]⟩

theorem collectiveResults : Claims.CollectiveResults := by
  intro d a b p hp s s' u h hn
  rw [exec_collective hp h]
  refine ⟨fun w t i c hm => ⟨fun hb hr => ?_, collective_stalls hn hm, collective_bara hn hm⟩, collective_noMember hn⟩
  rw [collective_arrives hn hm hb hr]
  exact arrives_arrived ..

/-- What a member's arrival finds: its workgroup lists the cohort, and the thread waits with its successor captured. -/
theorem member_suspended {s : State} {h : Word32} {w t i : Nat} {c : Cohort} (hm : IsMember s h w t i c) (x : Wait) (u : Succ) :
    ∃ g l, wg? s w = some g ∧ wg? (suspend s x u) w = some { g with threads := l } ∧ g.cohorts.find i = some c
      ∧ thread? (suspend s x u) w t = (thread? s w t).map (waitingFor x u) := by
  obtain ⟨g, hcur, hmem⟩ := hm
  obtain ⟨hv, hg⟩ := curThread_cur hcur
  obtain ⟨l, hl⟩ := wg?_suspend hv hg x u
  exact ⟨g, l, hg, hl, memberOf_listed hmem, thread?_suspend hv x u⟩

theorem collectiveWaits : Claims.CollectiveWaits := by
  intro d a b p hp s s' u w t i m c k h hn hm hb hr hk hmem hmt harr
  obtain ⟨g, l, -, hg, hc, ht⟩ := member_suspended hm (.coll i (instFor c t) d.toNat) u
  have hopen : ∀ x ∈ k.arr ++ [arrival s' s.ir w t p.2.2.1 ((readR s' d).setWidth 32) (p.2.2.2 s)], x.tid ≠ m := by
    intro x hx
    rcases List.mem_append.1 hx with hx | hx
    · exact harr x hx
    · rw [List.mem_singleton.1 hx]
      exact Ne.symm hmt
  rw [exec_collective hp h, collective_arrives hn hm hb hr, arrive_eq hg hc,
    settle_open 3 (wg?_setCohort _ _ hg) (find_put_same ..) rfl (by rw [joined, ← hk]; exact hmem) (by rw [joined, ← hk]; exact hopen), joined, ← hk]
  refine arrived_stands fun th hth => ?_
  obtain ⟨_, -, rfl⟩ := Option.map_eq_some_iff.1 (ht ▸ (thread?_setCohort ..).symm.trans hth)
  exact fun he => by cases he

/-! Completion and delivery (R252) -/

/-- The last arrival, where every participant gave one and the same collective, delivers its results. -/
theorem arrive_completes {s : State} {w h fn : Nat} {a : CArr} {g : Workgroup} {c : Cohort} {k : CInst} {pt : BitVec 512} (hg : wg? s w = some g)
    (hc : g.cohorts.find h = some c) (hk : k = joined c a) (hall : ∀ t ∈ k.parts, ∃ x ∈ k.arr, x.tid = t) (hne : ranked c k ≠ [])
    (hfn : ∀ x ∈ ranked c k, x.fn = some fn)
    (hpt : (if fn = 7 then g.pts.find (((ranked c k).map fun x : CArr => x.b).headD 0).toNat else some 0) = some pt) :
    arrive s w h a = settle 2 (releaseAll (setCohort (setCohort s w h { c with inst := some k }) w h (completed c k)) w h c.done false
      (collResult fn pt ((ranked c k).map (·.x)) ((ranked c k).map (·.b))) 0 (ranked c k)) w h := by
  rw [arrive_eq hg hc, ← hk]
  exact settle_completes (c := { c with inst := some k }) 2 (wg?_setCohort _ _ hg) (find_put_same ..) rfl hall hne hfn hpt

/-- A participant that waits at the collective gets its result and goes on. -/
theorem releaseArrival_collective {s : State} {w h n d : Nat} {x : CArr} {th : Thread} (ht : thread? s w x.tid = some th)
    (hst : th.st = .waiting (.coll h n d)) (res : Word32) :
    releaseArrival s w h n false res x = wake (writeV s w x.tid d res) w x.tid := by
  simp [releaseArrival, ht, hst]

theorem collectiveDelivers : Claims.CollectiveDelivers := by
  refine ⟨fun s w h fn a g c k pt hg hc hk hall hne hfn hpt => arrive_completes hg hc hk hall hne hfn hpt,
    fun s w h n k res x l th d ht hst => ⟨?_, fun h16 h112 hwf th' hth' => ?_⟩, fun s w t y z => (keepsCarried_wake s w t).carried y z⟩
  · rw [releaseAll, releaseArrival_collective ht hst]
  · rw [writeV_slot s w x.tid _ h16 h112, thread?_updThread, ht] at hth'
    cases hth'
    exact ⟨(get_putD 0 th.v _ _ _ hwf).trans (if_pos rfl), wf_putD 0 th.v _ _ hwf⟩

/-- A waiting thread of a resident workgroup whose register is written and that has a place at its successor is Pending there; its workgroup
keeps all but its threads. -/
theorem wake_written {q z : State} {w t f : Nat} {v : Word32} {g : Workgroup} {th : Thread} {x : Wait} (hg : wg? q w = some g)
    (ht : thread? q w t = some th) (hst : th.st = .waiting x) (hlen : th.succ.len ≠ 0) (hcur : slotCurrent q w t = true)
    (hcid : g.cid?.isSome = true) (hz : placeThread (writeV q w t f v) w t th.succ = some z) :
    wake (writeV q w t f v) w t = z ∧ ∃ l th', wg? z w = some { g with threads := l } ∧ thread? z w t = some th' ∧ th'.st = .pending := by
  have hfind : g.threads.find t = some th := by simpa [thread?, hg] using ht
  obtain ⟨l, hl, -, hown⟩ := (threadWrites_writeV q w t f v).group g hg
  obtain ⟨_, _, hk⟩ := hown th hfind
  have ht' : thread? (writeV q w t f v) w t = _ := (congrArg (·.bind fun g => g.threads.find t) hl).trans hk
  obtain ⟨m, hm, -, -⟩ := wg?_updThread t (atBlock th.succ) hl
  have hwgs := placeThread_wgs hz
  refine ⟨wake_placed (slotCurrent_writeV (runPlace_waiting ht hst) f v hcur) ht' (by rw [hl]; exact hcid) hlen hz, m, _,
    (wg?_of_wgs hwgs w).trans hm, ((thread?_of_wgs hwgs w t).trans (thread?_updThread ..)).trans (by rw [ht']; rfl), rfl⟩

/-- The thread whose slot is current is one of the workgroup. -/
theorem thread_of_slotCurrent {s : State} {w t : Nat} (h : slotCurrent s w t = true) : ∃ th, thread? s w t = some th := by
  unfold slotCurrent at h
  split at h
  · next th _ ht => exact ⟨_, ht⟩
  · cases h

/-- The arrival of a cohort's only member completes at once: nothing stays open, and the member gets the value of its own input. -/
theorem arrive_sole {s : State} {w h fn : Nat} {a : CArr} {g : Workgroup} {c : Cohort} {pt : BitVec 512} (hg : wg? s w = some g)
    (hc : g.cohorts.find h = some c) (hm : c.members = [a.tid]) (hi : c.inst = none) (hfn : a.fn = some fn)
    (hpt : (if fn = 7 then g.pts.find a.b.toNat else some 0) = some pt) :
    arrive s w h a = settle 2 (releaseAll (setCohort (setCohort s w h { c with inst := some { parts := [a.tid], arr := [a] } }) w h
      { c with inst := none, done := c.done + 1 }) w h c.done false (collResult fn pt [a.x] [a.b]) 0 [a]) w h := by
  have hjoin : { parts := [a.tid], arr := [a] } = joined c a := by simp [joined, hi, hm]
  have hranked : ranked c { parts := [a.tid], arr := [a] } = [a] := by simp [ranked, hm]
  have hdone : completed c { parts := [a.tid], arr := [a] } = { c with inst := none, done := c.done + 1 } := by simp [completed]
  have he := arrive_completes (fn := fn) (pt := pt) hg hc hjoin (by simp) (by simp [hranked]) (by simp [hranked, hfn]) (by rw [hranked]; exact hpt)
  rwa [hranked, hdone] at he

theorem collectiveCompletes : Claims.CollectiveCompletes := by
  intro d a b p hp s s' q z u w t i c r pt h hn hm hmem hi hb hr hlen hpt hrr hq hcur hcid hz
  obtain ⟨g, l, hg', hg, hc, ht⟩ := member_suspended hm (.coll i c.done d.toNat) u
  have hinst : instFor c t = c.done := by simp [instFor, hi]
  obtain rfl : t = r.tid := by rw [hrr]; rfl
  have hpt' : (if p.2.2.1 = 7 then g.pts.find r.b.toNat else some 0) = some pt := by
    rw [hg'] at hpt
    rw [hrr]
    exact hpt
  have harrive := arrive_sole (fn := p.2.2.1) hg hc hmem hi (by rw [hrr]; rfl) hpt'
  rw [← hq] at harrive
  obtain ⟨gq, hgq, hcq⟩ : ∃ gq, wg? q w = some gq ∧ gq.cohorts.find i = some { c with inst := none, done := c.done + 1 } := by
    rw [hq]
    exact ⟨_, wg?_setCohort _ _ (wg?_setCohort _ _ hg), find_put_same ..⟩
  obtain ⟨th, hth⟩ := thread_of_slotCurrent hcur
  obtain ⟨th₀, rfl⟩ : ∃ th₀, th = waitingFor (.coll i c.done d.toNat) u th₀ := by
    rw [hq, thread?_setCohort, thread?_setCohort, ht] at hth
    obtain ⟨th₀, -, he⟩ := Option.map_eq_some_iff.1 hth
    exact ⟨th₀, he.symm⟩
  obtain ⟨hwake, l', th', hgz, htz, hst⟩ := wake_written hgq hth rfl hlen hcur (by simpa [hgq] using hcid) hz
  have hrelease : releaseAll q w i c.done false (collResult p.2.2.1 pt [r.x] [r.b]) 0 [r] = z := by
    rw [releaseAll, releaseArrival_collective hth rfl]
    rw [hrr] at hwake ⊢
    exact hwake
  rw [exec_collective hp h, collective_arrives hn hm hb hr, hinst, ← hrr, harrive, hrelease, settle_closed 2 hgz hcq rfl]
  refine arrived_stands fun y hy => ?_
  obtain rfl := Option.some.inj (htz.symm.trans hy)
  rw [hst]
  exact fun he => by cases he

/-- Settles O26: a form of the table is its member's arrival, which waits while a participant is missing and delivers the values once none is;
that a participant then goes on changes no carried register. -/
theorem cohortCollectiveResults : Obligations.CohortCollectiveResults :=
  ⟨collectiveResults, collectiveWaits, collectiveCompletes, collectiveDelivers, collectiveValues⟩

end Sys2Proof.Laws
end

section
/-! SUPPORT. Channels: sending, receiving and polling, and the stalled SEND that completes once its channel has room (R157, R254). -/

namespace Sys2Proof.Laws

open Sys2Proof Sys2Proof.Machine Sys2Proof.Claims

/-- A terminator whose effects stand goes on, or faults with SPILL where its successor has no place (R55, R200). -/
theorem goesOn_goOnWith (s s' : State) (u : Succ) : GoesOn (goOnWith s s' u) s s' u :=
  ⟨fun t h => by simp only [goOnWith, h], fun h => by simp only [goOnWith, h, raise_next]⟩

/-! SEND (R157, R254) -/

section
variable {a b : Field} {s : State} (h : Passes s { ops := [opR a], lits := [(b.toNat, 16)], need := .core })
include h

theorem exec_send_unbound (hc : myChan s b.toNat = none) : exec (.send a b) s = .next (raiseState .unit 0 0 s) := by
  change execSend a b s = _
  simp only [execSend, guarded_passed h.1 h.2, hc, raise_next]

/-- A SEND waits for its release; then it delivers where no message is before it, and joins the stalled ones, once, where one is. -/
theorem exec_send_bound {w : Nat} {c : Chan} (hc : myChan s b.toNat = some (w, c)) :
    exec (.send a b) s =
      if releaseReady s = false then .next s
      else if c.fifo.length < 64 ∧ c.sends = [] then .next (advance (deliver s w b.toNat c ((readR s a).setWidth 32)))
      else if ∃ y ∈ c.sends, y.1 = s.cur then .next s
      else .next (setChan s w b.toNat { c with sends := c.sends ++ [(s.cur, (readR s a).setWidth 32)] }) := by
  change execSend a b s = _
  simp only [execSend, guarded_passed h.1 h.2, hc, done, Config.channelDepth, Bool.not_eq_eq_eq_not, Bool.not_true, List.isEmpty_iff,
    List.any_eq_true, beq_iff_eq]

end

/-! RECV (R254) -/

section
variable {d b : Field} {s s' : State} {u : Succ} (hn : nextBlock s = .ok (u, s'))
  (h : Passes s { ops := [opWc d], lits := [(b.toNat, 16)], term := true, need := .core })
include hn h

theorem exec_recv_unbound (hc : myChan s' b.toNat = none) : exec (.recv d b) s = .next (raiseState .unit 0 0 s) := by
  change execRecv d b s = _
  simp only [execRecv, guarded_passed h.1 h.2, waiting, run_ok hn, hc, raise_next]

variable {w : Nat} {c : Chan} (hc : myChan s' b.toNat = some (w, c))
include hc

theorem exec_recv_message {x : Word32} {l : List Word32} (hf : c.fifo = x :: l) :
    exec (.recv d b) s = goOnWith s (writeR (setChan s' w b.toNat { c with fifo := l }) d (x.setWidth 64)) u := by
  change execRecv d b s = _
  simp only [execRecv, guarded_passed h.1 h.2, waiting, run_ok hn, hc, hf]

theorem exec_recv_empty (hf : c.fifo = []) :
    exec (.recv d b) s = .next (suspend (setChan s' w b.toNat { c with recvs := c.recvs ++ [s.cur] }) (.recv b.toNat d.toNat) u) := by
  change execRecv d b s = _
  simp only [execRecv, guarded_passed h.1 h.2, waiting, run_ok hn, hc, hf]

end

/-! CHPOLL (R254) -/

section
variable {d b : Field} {s : State} (h : Passes s { ops := [opW d], lits := [(b.toNat, 16)], need := .core })
include h

theorem exec_chpoll_unbound (hc : myChan s b.toNat = none) : exec (.chpoll d b) s = .next (raiseState .unit 0 0 s) := by
  change execChpoll d b s = _
  simp only [execChpoll, guarded_passed h.1 h.2, hc, raise_next]

theorem exec_chpoll_bound {w : Nat} {c : Chan} (hc : myChan s b.toNat = some (w, c)) :
    exec (.chpoll d b) s = writes s d (BitVec.ofNat 64 c.fifo.length) := by
  change execChpoll d b s = _
  simp only [execChpoll, guarded_passed h.1 h.2, hc, done, writes]

end

/-! The end of a stalled SEND (R254) -/

theorem exec_channelSendResume {s : State} {w ch : Nat} {g : Workgroup} {c : Chan} {a : Agent} {x : Word32} {l : List (Agent × Word32)}
    (hg : wg? s w = some g) (hcid : g.cid?.isSome = true) (hc : g.chans.find ch = some c) (hs : c.sends = (a, x) :: l)
    (hroom : c.fifo.length < 64) :
    exec (.channelSendResume w ch) s = .next (advanceA (deliver s w ch { c with sends := l } x) a) := by
  change execChannelSendResume w ch s = _
  simp [execChannelSendResume, hg, hcid, hc, hs, Config.channelDepth, hroom]

/-- Settles O28: each form by what its channel holds. -/
theorem channelResults : Obligations.ChannelResults := by
  refine ⟨fun a b s w c h hc => ?_, fun d b s s' u h hn => ⟨fun w c hc => ⟨fun x l hf => ?_, exec_recv_empty hn h hc⟩,
      exec_recv_unbound hn h⟩, fun d b s h => ⟨fun w c => exec_chpoll_bound h, exec_chpoll_unbound h⟩,
    fun a b s => exec_send_unbound, fun w ch s g c a x l => exec_channelSendResume⟩
  · rw [exec_send_bound h hc]
    refine ⟨fun hr => if_pos hr, fun hr hroom hs => ?_, fun hr hfull hnew => ?_⟩
    · rw [if_neg (by simp [hr]), if_pos ⟨hroom, hs⟩]
    · have hwaits : ¬ (c.fifo.length < 64 ∧ c.sends = []) := fun ⟨hroom, hs⟩ => hfull.elim (Nat.not_le.2 hroom) (absurd hs)
      have hfirst : ¬ ∃ y ∈ c.sends, y.1 = s.cur := fun ⟨y, hy, he⟩ => hnew y hy he
      rw [if_neg (by simp [hr]), if_neg hwaits, if_neg hfirst]
  · rw [exec_recv_message hn h hc hf]
    exact goesOn_goOnWith ..

end Sys2Proof.Laws
end

section
/-! SUPPORT. A word is decoded by the rule of its opcode, so each instruction is read back from its word (R167-R173, R176, R177). -/

namespace Sys2Proof.Laws

open Sys2Proof

/-! The rule of an opcode, by the format of its words (R167, R172) -/

/-- The opcodes of format RI. -/
def riRules : List (BitVec 7 × (Field → Field → BitVec 11 → Instr)) := [
  (0x08, .addi), (0x09, .andi), (0x0A, .ori), (0x0B, .xori), (0x0C, .shli), (0x0D, .shri), (0x0E, .sari), (0x0F, .slti), (0x10, .sltui),
  (0x11, .muli), (0x28, .ldb), (0x29, .ldbu), (0x2A, .ldh), (0x2B, .ldhu), (0x2C, .ldw), (0x2D, .ldd), (0x2E, .ldq), (0x30, .stb),
  (0x31, .sth), (0x32, .stw), (0x33, .std), (0x34, .stq)]

/-- The rule of an opcode whose word holds a CSR number: the bits above it are 0 (R177). -/
def csrRule (f : Field → BitVec 12 → Instr) (x : Field) (o : BitVec 18) : Decoded :=
  if o.toNat < 4096 then .ok (f x (o.setWidth 12)) else .error .function

/-- The opcodes of formats RW and BR. -/
def rwRules : List (BitVec 7 × (Field → BitVec 18 → Decoded)) := [
  (0x12, fun x o => .ok (.movi x o)), (0x13, fun x o => .ok (.movhi x o)), (0x14, fun x o => .ok (.pcadr x o)),
  (0x48, fun x o => unused x (.ok (.br o))), (0x49, fun x o => .ok (.bnz x o)), (0x4A, fun x o => .ok (.bz x o)),
  (0x4C, fun x o => .ok (.call x o)), (0x60, fun x o => unused x (.ok (.trap o))), (0x61, fun x o => unused x (.ok (.brk o))),
  (0x62, csrRule .csrr), (0x63, csrRule .csrw)]

/-- Every word of an opcode is decoded by a rule. -/
def DecodedBy (op : BitVec 7) (r : Word32 → Decoded) : Prop := ∀ w, opOf w = op → decodeWord w = r w

/-- The rules of the three tables decode the words of their opcodes: what the opcode selects. -/
theorem rules_decode :
    (∀ p ∈ rrRules, DecodedBy p.1 fun w => p.2 (fnOf w) (rrD w) (rrA w) (rrB w))
    ∧ (∀ p ∈ riRules, DecodedBy p.1 fun w => .ok (p.2 (riD w) (riA w) (riI w)))
    ∧ (∀ p ∈ rwRules, DecodedBy p.1 fun w => p.2 (riD w) (rwI w)) := by
  simp only [rrRules, integerRules, floatRules, syncRules, unitRules, systemRules, riRules, rwRules, List.cons_append, List.nil_append,
    List.forall_mem_cons, List.not_mem_nil, false_implies, implies_true, and_true]
  and_intros
  all_goals
    intro w h
    unfold decodeWord
    rw [h]
    rfl

theorem mem_of_lookup {α β : Type} [BEq α] [LawfulBEq α] {l : List (α × β)} {k : α} {v : β} (h : l.lookup k = some v) : (k, v) ∈ l := by
  obtain ⟨l₁, l₂, rfl, -⟩ := List.lookup_eq_some_iff.1 h
  simp

section
variable {op : BitVec 7} {d a b : Field}

theorem decodeWord_rr {fn : BitVec 4} {f : BitVec 4 → Field → Field → Field → Decoded} (h : rrRules.lookup op = some f) :
    decodeWord (rr op fn d a b) = f fn d a b := by
  have := rules_decode.1 _ (mem_of_lookup h) (rr op fn d a b) (opOf_rr ..)
  simpa using this

theorem decodeWord_ri {i : BitVec 11} {f : Field → Field → BitVec 11 → Instr} (h : riRules.lookup op = some f) :
    decodeWord (ri op d a i) = .ok (f d a i) := by
  have := rules_decode.2.1 _ (mem_of_lookup h) (ri op d a i) (opOf_ri ..)
  simpa using this

theorem decodeWord_rw {o : BitVec 18} {f : Field → BitVec 18 → Decoded} (h : rwRules.lookup op = some f) :
    decodeWord (rw op d o) = f d o := by
  have := rules_decode.2.2 _ (mem_of_lookup h) (rw op d o) (opOf_rw ..)
  simpa using this

end

/-! The instruction of a word -/

theorem literals_ok {i : Instr} (h : i.wellFormed = true) : literals i = .ok i := if_pos h

theorem csrRule_setWidth (f : Field → BitVec 12 → Instr) (x : Field) (c : BitVec 12) : csrRule f x (c.setWidth 18) = .ok (f x c) := by
  have h : (c.setWidth 18).toNat < 4096 := by
    rw [BitVec.toNat_setWidth_of_le (by decide)]
    exact c.isLt
  rw [csrRule, if_pos h, BitVec.setWidth_setWidth_of_le _ (by decide), BitVec.setWidth_eq]

theorem decodeWord_atom (s : BitVec 2) {fn : BitVec 4} {d a b : Field} :
    decodeWord (rr (0b01110#5 ++ s) fn d a b) = decodeAtom s fn d a b := by
  have hs : ∀ s : BitVec 2, s = 0 ∨ s = 1 ∨ s = 2 ∨ s = 3 := by decide
  rcases hs s with rfl | rfl | rfl | rfl <;> exact decodeWord_rr rfl

/-- The two fields that a value is made of. -/
theorem extract_two {m n : Nat} (x : BitVec m) (y : BitVec n) : (x ++ y).extractLsb' n m = x ∧ (x ++ y).extractLsb' 0 n = y := by
  rw [extract_high _ _ _ _ (Nat.le_refl n), Nat.sub_self, extract_low _ _ _ _ (by omega), extract_all, extract_all]
  exact ⟨rfl, rfl⟩

theorem decodeCvt_append {s : BitVec 1} {r : BitVec 3} {d a k : Field} (h : (Instr.cvt s r d a k).wellFormed = true) :
    decodeCvt (s ++ r) d a k = .ok (.cvt s r d a k) := by
  obtain ⟨hr, -⟩ := Bool.and_eq_true_iff.1 h
  obtain ⟨hs', hr'⟩ := extract_two s r
  rw [decodeCvt, hs', hr', if_pos hr, literals_ok h]

theorem decodeLdaq_append (s z : BitVec 2) (d a : Field) : decodeLdaq (s ++ z) d a 127 = .ok (.ldaq s z d a) := by
  obtain ⟨hs, hz⟩ := extract_two s z
  rw [decodeLdaq, hs, hz]
  rfl

theorem decodeStrl_append (s z : BitVec 2) (d a : Field) : decodeStrl (s ++ z) d a 127 = .ok (.strl s z d a) := by
  obtain ⟨hs, hz⟩ := extract_two s z
  rw [decodeStrl, hs, hz]
  rfl

theorem decodeFence_append (k s : BitVec 2) : decodeFence (k ++ s) 127 127 127 = .ok (.fence k s) := by
  obtain ⟨hk, hs⟩ := extract_two k s
  rw [decodeFence, hk, hs]
  rfl

/-- A header word has opcode 0 and the fields it is made of (R34, R176). -/
theorem decodeWord_block (p : BitVec 12) (l : BitVec 8) (f : BitVec 2) (c : BitVec 1) :
    decodeWord (0#7 ++ p ++ l ++ f ++ c ++ 0#2) = .ok (.block p l f c) := by
  generalize hw : 0#7 ++ p ++ l ++ f ++ c ++ 0#2 = w
  have hop : w.extractLsb' 25 7 = 0#7 := by
    rw [← hw, extract_high _ _ _ _ (by decide), extract_high _ _ _ _ (by decide), extract_high _ _ _ _ (by decide),
      extract_high _ _ _ _ (by decide), (extract_two _ p).1]
  have hp : w.extractLsb' 13 12 = p := by
    rw [← hw, extract_high _ _ _ _ (by decide), extract_high _ _ _ _ (by decide), extract_high _ _ _ _ (by decide),
      extract_high _ _ _ _ (by decide), (extract_two _ p).2]
  have hl : w.extractLsb' 5 8 = l := by
    rw [← hw, extract_high _ _ _ _ (by decide), extract_high _ _ _ _ (by decide), extract_high _ _ _ _ (by decide), (extract_two _ l).2]
  have hf : w.extractLsb' 3 2 = f := by
    rw [← hw, extract_high _ _ _ _ (by decide), extract_high _ _ _ _ (by decide), (extract_two _ f).2]
  have hc : w.extractLsb' 2 1 = c := by
    rw [← hw, extract_high _ _ _ _ (by decide), (extract_two _ c).2]
  rw [decodeWord_header (congrArg BitVec.toNat hop), decodeBlock, hp, hl, hf, hc]

/-- A word is decoded by its opcode's rule, which reads the fields that the word was made of: by the instruction, those whose function value
has fields of its own first, then those that a rule checks, then the formats. -/
theorem decodeWord_encode {i : Instr} {w : Word32} (hi : i.wellFormed = true) (h : encode i = some w) : decodeWord w = .ok i := by
  cases i <;> cases h
  case block => exact decodeWord_block ..
  case cvt => exact (decodeWord_rr rfl).trans (decodeCvt_append hi)
  case ldaq => exact (decodeWord_rr rfl).trans (decodeLdaq_append ..)
  case strl => exact (decodeWord_rr rfl).trans (decodeStrl_append ..)
  case fence => exact (decodeWord_rr rfl).trans (decodeFence_append ..)
  case csrr | csrw => exact (decodeWord_rw rfl).trans (csrRule_setWidth ..)
  case atomAdd | atomMin | atomMax | atomMinu | atomMaxu | atomAnd | atomOr | atomXor | atomSwap | atomCas | atomIncw | atomFadd | atomHadd2
      | atomLadd | atomLcas =>
    exact (decodeWord_atom ..).trans rfl
  case pbara | pbarw | xperm | ptload | ptread | send | recv | chpoll | ldel | ldeli | stel | mzero | mldw | mstw | mstore | mmd | mmp | mflag
      | tdset | tdclr | tdget =>
    exact (decodeWord_rr rfl).trans (literals_ok hi)
  case movi | movhi | pcadr | br | bnz | bz | call | trap | brk => exact (decodeWord_rw rfl).trans rfl
  case addi | andi | ori | xori | shli | shri | sari | slti | sltui | muli | ldb | ldbu | ldh | ldhu | ldw | ldd | ldq | stb | sth | stw | std
      | stq =>
    exact decodeWord_ri rfl
  all_goals exact (decodeWord_rr rfl).trans rfl

/-- Settles O1: a word's bytes decode as the word, and the word as the instruction it was made of. -/
theorem decodeOfEncode : Obligations.DecodeOfEncode := by
  intro i w rest hi h
  rw [decode_wordBytes, decodeWord_encode hi h]

end Sys2Proof.Laws
end

section
/-! SUPPORT. Integer, FP32, packed, FP64 and 64-bit forms are their effect behind the checks of R177 (R188-R197, R214-R225). -/

namespace Sys2Proof.Laws

open Sys2Proof Sys2Proof.Machine Sys2Proof.Claims

/-- An instruction is some effect behind the checks of a form. -/
def ChecksAs (i : Instr) (fm : Form) : Prop := ∃ k, ∀ s, exec i s = guarded fm s k

/-- A check that fails faults such an instruction, with no other effect. -/
theorem ChecksAs.failed {i : Instr} {fm : Form} {s : State} {c : Cause} (h : ChecksAs i fm) (hr : canRun s = true)
    (hc : checkForm s fm = some c) : exec i s = .next (raiseState c 0 0 s) := by
  obtain ⟨k, hk⟩ := h
  rw [hk, guarded_failed hr hc, raise_next]

theorem integer_checks :
    (∀ p ∈ integerTwo.map (·.1), ∀ d a b, ChecksAs (p d a b) (dab d a b))
    ∧ (∀ p ∈ integerThree.map (·.1), ∀ d a b, ChecksAs (p d a b) (mab d a b))
    ∧ (∀ p ∈ integerOne.map (·.1), ∀ d a, ChecksAs (p d a) (da d a))
    ∧ (∀ p ∈ integerImm.map (·.1), ∀ d a m, ChecksAs (p d a m) (da d a)) := by
  simp only [integerTwo, integerThree, integerOne, integerImm, List.forall_mem_map, List.forall_mem_cons, List.not_mem_nil, false_implies,
    implies_true, and_true]
  and_intros
  all_goals
    intros
    exact ⟨_, fun _ => rfl⟩

theorem fp32_checks :
    (∀ p ∈ fp32Two.map (·.1), ∀ d a b, ChecksAs (p d a b) (dab d a b))
    ∧ (∀ p ∈ fp32Three.map (·.1), ∀ d a b, ChecksAs (p d a b) (mab d a b))
    ∧ (∀ p ∈ fp32One.map (·.1), ∀ d a, ChecksAs (p d a) (da d a)) := by
  simp only [fp32Two, fp32Three, fp32One, List.forall_mem_map, List.forall_mem_cons, List.not_mem_nil, false_implies, implies_true, and_true]
  and_intros
  all_goals
    intros
    exact ⟨_, fun _ => rfl⟩

theorem packed_checks :
    (∀ p ∈ packedTwo.map (·.1), ∀ d a b, ChecksAs (p d a b) { dab d a b with need := .vector })
    ∧ (∀ p ∈ packedThree.map (·.1), ∀ d a b, ChecksAs (p d a b) { mab d a b with need := .vector }) := by
  simp only [packedTwo, packedThree, List.forall_mem_map, List.forall_mem_cons, List.not_mem_nil, false_implies, implies_true, and_true]
  and_intros
  all_goals
    intros
    exact ⟨_, fun _ => rfl⟩

theorem pair_checks :
    (∀ p ∈ fp64Two.map (·.1), ∀ d a b, ChecksAs (p d a b) { ops := [opWp d, opRp a, opRp b], need := .vector })
    ∧ (∀ p ∈ longTwo.map (·.1), ∀ d a b, ChecksAs (p d a b) { ops := [opWp d, opRp a, opRp b], need := .vector })
    ∧ (∀ d a b, ChecksAs (.dfma d a b) { ops := [opMp d, opRp a, opRp b], need := .vector })
    ∧ (∀ p ∈ fp64Compare.map (·.1), ∀ d a b, ChecksAs (p d a b) { ops := [opW d, opRp a, opRp b], need := .vector })
    ∧ (∀ p ∈ longShift.map (·.1), ∀ d a b, ChecksAs (p d a b) { ops := [opWp d, opRp a, opR b], need := .vector }) := by
  simp only [fp64Two, longTwo, fp64Compare, longShift, List.forall_mem_map, List.forall_mem_cons, List.not_mem_nil, false_implies,
    implies_true, and_true]
  and_intros
  all_goals
    intros
    exact ⟨_, fun _ => rfl⟩

/-- Settles O14: each form of the tables is its effect behind its checks, and a check that fails leaves the fault alone. -/
theorem failedChecksFault : Obligations.FailedChecksFault := by
  obtain ⟨hi2, hi3, hi1, him⟩ := integer_checks
  obtain ⟨hf2, hf3, hf1⟩ := fp32_checks
  obtain ⟨hh2, hh3⟩ := packed_checks
  obtain ⟨hd2, hl2, hdf, hdc, hls⟩ := pair_checks
  intro i fm hform s c hr hc
  refine ChecksAs.failed ?_ hr hc
  rcases hform with ⟨p, d, a, b, hp | hp, rfl, rfl⟩ | ⟨p, d, a, b, hp | hp, rfl, rfl⟩ | ⟨p, d, a, hp | hp, rfl, rfl⟩ | ⟨p, d, a, m, hp, rfl, rfl⟩
    | ⟨p, d, a, b, hp, rfl, rfl⟩ | ⟨p, d, a, b, hp, rfl, rfl⟩ | ⟨p, d, a, b, hp | hp, rfl, rfl⟩ | ⟨d, a, b, rfl, rfl⟩
    | ⟨p, d, a, b, hp, rfl, rfl⟩ | ⟨p, d, a, b, hp, rfl, rfl⟩
  · exact hi2 p hp d a b
  · exact hf2 p hp d a b
  · exact hi3 p hp d a b
  · exact hf3 p hp d a b
  · exact hi1 p hp d a
  · exact hf1 p hp d a
  · exact him p hp d a m
  · exact hh2 p hp d a b
  · exact hh3 p hp d a b
  · exact hd2 p hp d a b
  · exact hl2 p hp d a b
  · exact hdf d a b
  · exact hdc p hp d a b
  · exact hls p hp d a b

end Sys2Proof.Laws
end

section
/-! SUPPORT. What the turn of an agent that runs does with the word it fetches (R177, log 1). -/

namespace Sys2Proof.Laws

open Sys2Proof Sys2Proof.Machine

section
variable {a : Agent} {s s' : State} {w : Word32} (hr : canRun { s with cur := a } = true)
  (hf : fetchWord { s with cur := a } a (curPc { s with cur := a }) = .ok (w, s'))
include hr hf

theorem runWord_decoded {i : Instr} {l : List Byte} (hd : decode (wordBytes w) = .ok (i, l)) : runWord a s = exec i { s' with ir := w } := by
  simp [runWord, hr, hf, hd]

theorem runWord_undecoded {e : DecodeError} (hd : decode (wordBytes w) = .error e) :
    runWord a s = .next (raiseState .illegal 0 0 { s' with ir := w }) := by
  simp [runWord, hr, hf, hd, raise_next]

end

/-- Settles O4: the word that is fetched either decodes or does not. -/
theorem runWordRunsDecoded : Obligations.RunWordRunsDecoded :=
  fun _ _ _ _ hr hf => ⟨fun _ => runWord_decoded hr hf, fun _ => runWord_undecoded hr hf⟩

end Sys2Proof.Laws
end

section
/-! SUPPORT. Integer, immediate and constant forms: each form with its checks passed writes its rule's value and nothing else (R188-R199). -/

namespace Sys2Proof.Laws

open Sys2Proof Sys2Proof.Machine Sys2Proof.Claims

/-! The model's functions, by the terms of the rules (R191, R193) -/

theorem flag_eq_iBool (n : Nat) (c : Bool) : flag n c = iBool n c := by cases c <;> rfl

/-- Saturation by cases is saturation by bounds, since the lower bound lies below the upper one at every width. -/
theorem clampTo_eq_iSat (n : Nat) (x : Int) : clampTo n x = iSat n x := by
  have hpos : (0 : Int) < 2 ^ (n - 1) := Int.pow_pos (by decide)
  unfold clampTo iSat
  split
  · rw [Int.max_eq_left (by omega)]
  · split
    · rw [Int.min_eq_right (by omega), Int.max_eq_right (by omega)]
    · rw [Int.min_eq_left (by omega), Int.max_eq_right (by omega)]

theorem ite_toInt_lt_eq_iMax (n : Nat) (x y : BitVec n) : (if x.toInt < y.toInt then y else x) = iMax n x y := by
  simp only [iMax, ge_iff_le, ← Int.not_lt, ite_not]

theorem ite_toNat_lt_eq_iMaxu (n : Nat) (x y : BitVec n) : (if x.toNat < y.toNat then y else x) = iMaxu n x y := by
  simp only [iMaxu, ge_iff_le, ← Nat.not_lt, ite_not]

/-! Each form of the tables is its rule's function behind its checks -/

theorem integerTwo_exec : ∀ p ∈ integerTwo, ∀ d a b s, exec (p.1 d a b) s = intWRR p.2 d a b s := by
  simp only [integerTwo, flag_eq_iBool, clampTo_eq_iSat, ite_toInt_lt_eq_iMax, ite_toNat_lt_eq_iMaxu, List.forall_mem_cons,
    List.not_mem_nil, false_implies, implies_true, and_true]
  and_intros
  all_goals
    intros
    rfl

theorem integerThree_exec : ∀ p ∈ integerThree, ∀ d a b s, exec (p.1 d a b) s = intMRR p.2 d a b s := by
  simp only [integerThree, List.forall_mem_cons, List.not_mem_nil, false_implies, implies_true, and_true]
  and_intros
  all_goals
    intros
    rfl

theorem integerOne_exec : ∀ p ∈ integerOne, ∀ d a s, exec (p.1 d a) s = intWR p.2 d a s := by
  simp only [integerOne, List.forall_mem_cons, List.not_mem_nil, false_implies, implies_true, and_true]
  and_intros
  all_goals
    intros
    rfl

theorem integerImm_exec : ∀ p ∈ integerImm, ∀ d a m s, exec (p.1 d a m) s = intWRI p.2 d a m s := by
  simp only [integerImm, flag_eq_iBool, List.forall_mem_cons, List.not_mem_nil, false_implies, implies_true, and_true]
  and_intros
  all_goals
    intros
    rfl

/-- Settles O9: a form of the tables is its rule's function behind its checks, and the checks pass. -/
theorem integerResults : Obligations.IntegerResults := by
  refine ⟨fun p hp d a b s ⟨hr, hc⟩ => ?_, fun p hp d a b s ⟨hr, hc⟩ => ?_, fun p hp d a s ⟨hr, hc⟩ => ?_,
    fun p hp d a m s ⟨hr, hc⟩ => ?_⟩
  · exact (integerTwo_exec p hp d a b s).trans (guarded_passed hr hc)
  · exact (integerThree_exec p hp d a b s).trans (guarded_passed hr hc)
  · exact (integerOne_exec p hp d a s).trans (guarded_passed hr hc)
  · exact (integerImm_exec p hp d a m s).trans (guarded_passed hr hc)

/-- A header word on a context is a no-op (R189). -/
theorem block_context {p : BitVec 12} {n : BitVec 8} {f : BitVec 2} {c : BitVec 1} {s : State} (hr : canRun s = true)
    (hv : isVector s = false) : exec (.block p n f c) s = .next (advance s) := by
  change execBlock p n f c s = _
  rw [execBlock, if_pos hr, hv, if_neg Bool.false_ne_true, done_next]

/-- Settles O10: each constant form is a write of its value behind its checks, a header word on a context a move to the next word. -/
theorem constantResults : Obligations.ConstantResults := by
  refine ⟨fun d i s ⟨hr, hc⟩ => ?_, fun d i s ⟨hr, hc⟩ => ?_, fun d i s ⟨hr, hc⟩ => ?_, fun p n f c s hr hv => block_context hr hv⟩
  · change execMovi d i s = _
    rw [execMovi, guarded_passed hr hc, done_next, writes]
  · change execMovhi d i s = _
    rw [execMovhi, guarded_passed hr hc, done_next, writes]
  · change execPcadr d i s = _
    rw [execPcadr, guarded_passed hr hc, done_next, writes2]

end Sys2Proof.Laws
end

section
/-! SUPPORT. Transfers of control: each form is its target's checks and its effect behind the checks of R177, and its agent lands at the target
or takes the fault (R200-R204). -/

namespace Sys2Proof.Laws

open Sys2Proof Sys2Proof.Machine Sys2Proof.Claims

/-- A write of a pair leaves who executes. -/
theorem writeP_cur (s : State) (f : Field) (v : Word64) : (writeP s f v).cur = s.cur := (ownWrites_writePA s s.cur f.toNat v).cur_eq

/-- BNZ goes on at the next word where its register is 0 (R201). -/
theorem bnz_exec (a : Field) (o : BitVec 18) (s : State) : exec (.bnz a o) s =
    guarded (term [opR a]) s fun s => transfer s (if readR s a = 0 then following s else target s o) fun t => t := by
  have h : exec (.bnz a o) s =
      guarded (term [opR a]) s fun s => transfer s (if ¬ readR s a = 0 then target s o else following s) fun t => t := rfl
  simpa only [ite_not] using h

/-- A transfer of control is its move to its target, with its link on the way, behind its checks. -/
theorem transfers_exec (d a : Field) (o : BitVec 18) :
    ∀ p ∈ transfers d a o, ∀ s, exec p.1 s = guarded p.2.1 s fun s => transfer s (p.2.2.1 s) (p.2.2.2 s) := by
  simp only [transfers, List.forall_mem_cons, List.not_mem_nil, false_implies, implies_true, and_true]
  exact ⟨fun _ => rfl, bnz_exec a o, fun _ => rfl, fun _ => rfl, fun _ => rfl, fun _ => rfl⟩

theorem transfers_keep_cur (d a : Field) (o : BitVec 18) : ∀ p ∈ transfers d a o, ∀ s t, (p.2.2.2 s t).cur = t.cur := by
  simp only [transfers, List.forall_mem_cons, List.not_mem_nil, false_implies, implies_true, and_true, writeP_cur]

theorem transfers_passed {d a : Field} {o : BitVec 18} {p : Instr × Form × (State → Nat) × (State → State → State)} {s : State}
    (hp : p ∈ transfers d a o) (h : Passes s p.2.1) : exec p.1 s = transfer s (p.2.2.1 s) (p.2.2.2 s) := by
  obtain ⟨hr, hc⟩ := h
  rw [transfers_exec d a o p hp, guarded_passed hr hc]

section
variable {s s' : State} {va : Nat} {u : Succ} {f : State → State}

/-- An agent with room at its target lands there. -/
theorem transfer_lands (h : Reaches s va u s') (hf : (f s').cur = s.cur) (hroom : Room (f s') u) :
    transfer s va f = .next (landed (f s') u va) := by
  obtain ⟨ht, -⟩ := h
  rw [transfer, run_ok ht]
  cases hc : s.cur with
  | vthread w t =>
    obtain ⟨x, hx⟩ := Option.isSome_iff_exists.1 (hroom w t (hf.trans hc))
    simp [isVector, hc, goOnWith, moveOn, landed, hf, hx]
  | scribe w => simp [isVector, hc, setPc, landed, hf]
  | control n => simp [isVector, hc, setPc, landed, hf]

/-- A thread without a place at its target faults with SPILL (R55). -/
theorem transfer_spills {w t : Nat} (h : Reaches s va u s') (hs : s.cur = .vthread w t) (hf : (f s').cur = s.cur)
    (hplace : placeThread (leaveBatch (f s') w t) w t u = none) : transfer s va f = .next (raiseState .spill 0 0 s) := by
  obtain ⟨ht, -⟩ := h
  rw [transfer, run_ok ht]
  simp [isVector, hs, goOnWith, moveOn, hf, hplace, raise_next]

/-- A target that fails a check is its fault. -/
theorem transfer_refused {c : Cause} {v : Nat} (h : transferTarget s va = .bad c v) : transfer s va f = .next (raiseState c v 0 s) := by
  rw [transfer, h]
  rfl

/-- A target must be a multiple of 4 on either side (R200, R204). -/
theorem transferTarget_misaligned (h : va % 4 ≠ 0) : transferTarget s va = .bad .misalign va := by
  rw [transferTarget, checkEntry, checkEntryAs, if_pos h, if_pos h, ite_self]

end

/-- Settles O32: a transfer of the table is its move to its target, which lands. -/
theorem branchResults : Obligations.BranchResults := by
  intro d a o p hp s s' u h hreach hroom
  have ⟨_, hcur⟩ := hreach
  rw [transfers_passed hp h]
  exact transfer_lands hreach ((transfers_keep_cur d a o p hp s s').trans hcur) hroom

theorem branchFaults : Claims.BranchFaults :=
  ⟨fun _ _ _ _ hp _ h => ⟨fun _ _ ht => (transfers_passed hp h).trans (transfer_refused ht),
    fun _ _ _ _ hreach hs hcur hplace => (transfers_passed hp h).trans (transfer_spills hreach hs hcur hplace)⟩,
    fun _ _ => transferTarget_misaligned⟩

end Sys2Proof.Laws
end

section
/-! SUPPORT. Accesses that fail: a load, a store or an atomic answers the fault or the wait of its address's checks, before any effect (R233). -/

namespace Sys2Proof.Laws

open Sys2Proof Sys2Proof.Machine Sys2Proof.Claims

/-- What an access to be checked answers in place of its effect: its fault, or nothing yet. -/
def FailsWith {α : Type} (x : Out α) (s : State) (r : Result) : Prop :=
  (∀ c v, x = .bad c v → r = .next (raiseState c v 0 s)) ∧ (x = .wait → r = .next s)

theorem failsWith_run {α : Type} (x : Out α) (s : State) (k : α → Result) : FailsWith x s (x.run s k) :=
  ⟨fun _ _ h => by rw [h]; rfl, fun h => by rw [h]; rfl⟩

/-- What follows a failed access is not performed. -/
theorem failsWith_bind_run {α β : Type} (x : Out α) (f : α → Out β) (s : State) (k : β → Result) : FailsWith x s ((x.bind f).run s k) :=
  ⟨fun _ _ h => by rw [h]; rfl, fun h => by rw [h]; rfl⟩

theorem toBytes_length (n x : Nat) : (toBytes n x).length = n := by
  induction n generalizing x with
  | zero => rfl
  | succ n ih => rw [toBytes, List.length_cons, ih]

/-! The access of a load, a store and an atomic -/

theorem loadAt_fails (s : State) (va n : Nat) (wr : State → Nat → State) :
    FailsWith (resolve s (me s) { va := va, size := n, rd := true }) s (loadAt s va n wr) := failsWith_bind_run ..

theorem storeAt_fails (s : State) (va n x : Nat) :
    FailsWith (resolve s (me s) { va := va, size := n, wr := true }) s (storeAt s va (toBytes n x)) := by
  rw [storeAt, writeMem, toBytes_length]
  exact failsWith_bind_run ..

theorem atomAt_fails (x : BitVec 2) (n : Nat) (red : Bool) (f : Nat → Option Nat) (wr : State → Nat → State) (va : Nat) (s : State) :
    FailsWith (resolve s (me s) { va := va, size := n, rd := true, wr := true }) s (atomAt x n red f wr va s) := failsWith_bind_run ..

/-! The forms -/

/-- With its checks passed an instruction fails as its access does. -/
def FailsAs (i : Instr) (fm : Form) (q : State → Acc) : Prop := ∀ s, Passes s fm → FailsWith (resolve s (me s) (q s)) s (exec i s)

theorem FailsAs.of_guarded {i : Instr} {fm : Form} {q : State → Acc} (k : State → Result) (hi : ∀ s, exec i s = guarded fm s k)
    (hk : ∀ s, FailsWith (resolve s (me s) (q s)) s (k s)) : FailsAs i fm q := by
  intro s ⟨hr, hc⟩
  rw [hi, guarded_passed hr hc]
  exact hk s

section
variable {i : Instr} {fm : Form}

theorem load_failsAs {va : State → Nat} {n : Nat} {wr : State → Nat → State} (h : ∀ s, exec i s = guarded fm s fun s => loadAt s (va s) n wr) :
    FailsAs i fm fun s => { va := va s, size := n, rd := true } :=
  .of_guarded _ h fun _ => loadAt_fails ..

theorem store_failsAs {va x : State → Nat} {n : Nat} (h : ∀ s, exec i s = guarded fm s fun s => storeAt s (va s) (toBytes n (x s))) :
    FailsAs i fm fun s => { va := va s, size := n, wr := true } :=
  .of_guarded _ h fun _ => storeAt_fails ..

theorem atom32_failsAs {x : BitVec 2} {f : Word32 → Word32 → Word32} {d a b : Field} (h : ∀ s, exec i s = atom32 x f d a b s) :
    FailsAs i { ops := [opW d, opRp a, opR b] } fun s => { va := (readP s a).toNat, size := 4, rd := true, wr := true } :=
  .of_guarded _ h fun _ => atomAt_fails ..

/-- A reduction checks the same access whether it returns the old value or may be held as a U delta (R122). -/
theorem reduce32_failsAs {fn : Nat} {x : BitVec 2} {d a b : Field} (h : ∀ s, exec i s = reduce32 fn x d a b s) :
    FailsAs i { ops := [opW d, opRp a, opR b] } fun s => { va := (readP s a).toNat, size := 4, rd := true, wr := true } := by
  by_cases hd : d ≠ 127
  · exact atom32_failsAs fun s => (h s).trans (if_pos hd)
  · exact .of_guarded _ (fun s => (h s).trans (if_neg hd)) fun _ => failsWith_run ..

end

/-- An atomic is a reduction by its function code (R122), or its function of the old value and the operand (R239). -/
theorem atomics_exec (x : BitVec 2) (d a b : Field) : ∀ p ∈ atomics,
    (∃ fn, ∀ s, exec (p.1 x d a b) s = reduce32 fn x d a b s) ∨ (∀ s, exec (p.1 x d a b) s = atom32 x p.2 d a b s) := by
  simp only [atomics, List.forall_mem_cons, List.not_mem_nil, false_implies, implies_true, and_true]
  refine ⟨?add, ?min, ?max, ?minu, ?maxu, ?and, ?or, ?xor, ?swap, ?incw, ?fadd, ?hadd2⟩
  case add | min | max | and | or | xor => exact .inl ⟨_, fun _ => rfl⟩
  case minu | maxu | swap | incw | fadd | hadd2 => exact .inr fun _ => rfl

theorem atomics_failAs (x : BitVec 2) (d a b : Field) : ∀ p ∈ atomics,
    FailsAs (p.1 x d a b) { ops := [opW d, opRp a, opR b] } fun s => { va := (readP s a).toNat, size := 4, rd := true, wr := true } := by
  intro p hp
  rcases atomics_exec x d a b p hp with ⟨fn, h⟩ | h
  · exact reduce32_failsAs h
  · exact atom32_failsAs h

theorem accesses_failAs (d a b : Field) (m : BitVec 11) (x z : BitVec 2) : ∀ p ∈ accesses d a b m x z, FailsAs p.1 p.2.1 p.2.2 := by
  simp only [accesses, List.forall_mem_append, List.forall_mem_map, List.forall_mem_cons, List.not_mem_nil, false_implies, implies_true, and_true]
  refine ⟨⟨⟨?ldb, ?ldbu, ?ldh, ?ldhu, ?ldw, ?ldd, ?ldq, ?ldaq, ?stb, ?sth, ?stw, ?std, ?stq, ?strl⟩, atomics_failAs x d a b⟩, ?cas, ?ladd, ?lcas⟩
  case ldb | ldbu | ldh | ldhu | ldw | ldd | ldq | ldaq => exact load_failsAs fun _ => rfl
  case stb | sth | stw | std | stq => exact store_failsAs fun _ => rfl
  case strl => exact .of_guarded _ (fun _ => rfl) fun _ => failsWith_run ..
  case cas | ladd | lcas => exact .of_guarded _ (fun _ => rfl) fun _ => atomAt_fails ..

theorem failedAccessFaults : Claims.FailedAccessFaults := accesses_failAs

/-- Settles O33: an access of the table fails as its address's checks do, and so does a transfer to its target. -/
theorem transfersFault : Obligations.TransfersFault := ⟨failedAccessFaults, branchFaults⟩

end Sys2Proof.Laws
end

section
/-! SUPPORT. Words that the spec's encodings give, and words that R177 turns away (R167-R173, R177). -/

namespace Sys2Proof.Laws

open Sys2Proof Sys2Proof.Machine

/-- A word written out decodes to the instruction whose encoding it is. -/
theorem decode_of_encode {i : Instr} {w : Word32} (hw : i.wellFormed = true) (he : encode i = some w) : decode (wordBytes w) = .ok (i, []) := by
  simpa using decodeOfEncode i w [] hw he

/-- Settles O3: each word is the encoding of what it stands for, and the refused ones fail at their opcode, their function code, an unused
field and their length. -/
theorem decodeSamples : Obligations.DecodeSamples := by
  refine ⟨?add, ?movi, ?ldw, ?exit, ?trap, ?block, ?opcode, ?function, ?unusedField, ?truncated⟩
  case add => exact decode_of_encode (w := 0x02040083) rfl rfl
  case movi => exact decode_of_encode (w := 0x2403FFFF) rfl rfl
  case ldw => exact decode_of_encode (w := 0x58408804) rfl rfl
  case exit => exact decode_of_encode (w := 0x967FFFFF) rfl rfl
  case trap => exact decode_of_encode (w := 0xC1FC0001) rfl rfl
  case block => exact decode_of_encode (w := 0x20) rfl rfl
  case opcode | function | unusedField | truncated => rfl

end Sys2Proof.Laws
end

section
/-! SUPPORT. FP32, packed, FP64 and 64-bit pair forms and CVT: each form with its checks passed writes its rule's value and nothing else
(R214-R231). -/

namespace Sys2Proof.Laws

open Sys2Proof Sys2Proof.Machine Sys2Proof.Claims

/-! Each form of the tables is its rule's function behind its checks (R214-R225) -/

theorem fp32_exec :
    (∀ p ∈ fp32Two, ∀ d a b s, exec (p.1 d a b) s = fpWRR p.2 d a b s)
    ∧ (∀ p ∈ fp32Three, ∀ d a b s, exec (p.1 d a b) s = fpMRR p.2 d a b s)
    ∧ (∀ p ∈ fp32One, ∀ d a s, exec (p.1 d a) s = fpWR p.2 d a s) := by
  simp only [fp32Two, fp32Three, fp32One, List.forall_mem_cons, List.not_mem_nil, false_implies, implies_true, and_true]
  and_intros
  all_goals
    intros
    rfl

theorem packed_exec :
    (∀ p ∈ packedTwo, ∀ d a b s, exec (p.1 d a b) s = half2 p.2 d a b s)
    ∧ (∀ p ∈ packedThree, ∀ d a b s, exec (p.1 d a b) s = half3 p.2 d a b s) := by
  simp only [packedTwo, packedThree, List.forall_mem_cons, List.not_mem_nil, false_implies, implies_true, and_true]
  and_intros
  all_goals
    intros
    rfl

theorem pair_exec :
    (∀ p ∈ fp64Two, ∀ d a b s, exec (p.1 d a b) s = dalu p.2 d a b s)
    ∧ (∀ p ∈ fp64Compare, ∀ d a b s, exec (p.1 d a b) s = dcmp p.2 d a b s)
    ∧ (∀ p ∈ longTwo, ∀ d a b s, exec (p.1 d a b) s = lalu p.2 d a b s)
    ∧ (∀ p ∈ longShift, ∀ d a b s, exec (p.1 d a b) s = lshift p.2 d a b s) := by
  simp only [fp64Two, fp64Compare, longTwo, longShift, List.forall_mem_cons, List.not_mem_nil, false_implies, implies_true, and_true]
  and_intros
  all_goals
    intros
    rfl

/-! FP32 forms (R214-R221) -/

/-- Settles O11: a form of the tables is its rule's function of the operands' low words behind its checks, and the checks pass. -/
theorem fp32Results : Obligations.Fp32Results := by
  obtain ⟨htwo, hthree, hone⟩ := fp32_exec
  refine ⟨fun p hp d a b s ⟨hr, hc⟩ => ?_, fun p hp d a b s ⟨hr, hc⟩ => ?_, fun p hp d a s ⟨hr, hc⟩ => ?_⟩
  · exact (htwo p hp d a b s).trans (guarded_passed hr hc)
  · exact (hthree p hp d a b s).trans (guarded_passed hr hc)
  · exact (hone p hp d a s).trans (guarded_passed hr hc)

/-! Forms on halves and on pairs (R222-R225) -/

theorem packedResults : PackedResults := by
  obtain ⟨htwo, hthree⟩ := packed_exec
  refine ⟨fun p hp d a b s ⟨hr, hc⟩ => ?_, fun p hp d a b s ⟨hr, hc⟩ => ?_⟩
  · exact (htwo p hp d a b s).trans (guarded_passed hr hc)
  · exact (hthree p hp d a b s).trans (guarded_passed hr hc)

/-- The register value of a truth value (R193, R224). -/
theorem ofNat_b2n (c : Bool) : BitVec.ofNat 64 (b2n c) = if c then 1 else 0 := by cases c <;> rfl

theorem pairResults : PairResults := by
  obtain ⟨hfp64, hcompare, hlong, hshift⟩ := pair_exec
  refine ⟨fun p hp d a b s ⟨hr, hc⟩ => ?_, fun d a b s ⟨hr, hc⟩ => ?_, fun p hp d a b s ⟨hr, hc⟩ => ?_,
    fun p hp d a b s ⟨hr, hc⟩ => ?_, fun p hp d a b s ⟨hr, hc⟩ => ?_⟩
  · exact (hfp64 p hp d a b s).trans (guarded_passed hr hc)
  · change execDfma d a b s = _
    exact guarded_passed hr hc
  · rw [hcompare p hp, dcmp, guarded_passed hr hc, done_next, ofNat_b2n, writes]
  · exact (hlong p hp d a b s).trans (guarded_passed hr hc)
  · exact (hshift p hp d a b s).trans (guarded_passed hr hc)

/-- Settles O12: the packed forms on halves, and the FP64 and 64-bit forms on pairs. -/
theorem packedAndPairResults : Obligations.PackedAndPairResults := ⟨packedResults, pairResults⟩

/-! CVT (R226, R227, R231) -/

/-- A form whose literal fields are in range has the checks of the form without them (R170, R177). -/
theorem checkForm_lits {s : State} {fm : Form} (h : ∀ x ∈ fm.lits, x.1 < x.2) : checkForm s fm = checkForm s { fm with lits := [] } := by
  have hall : fm.lits.all (fun x => x.1 < x.2) = true := by simpa using h
  simp only [checkForm, hall, List.all_nil]

/-- Settles O13: with an assigned kind and a rounding mode in range the checks of CVT are those of its operands, and it writes its elements
beside the generator that their draws leave, to a pair or to one register. -/
theorem convertResults : Obligations.ConvertResults := by
  intro sat r d a k c s hkind hmode ⟨hr, hc⟩
  have hchecks : checkForm s { ops := [if c.dPair then opWp d else opW d, if c.aPair then opRp a else opR a], lits := [(r.toNat, 6)] } = none :=
    (checkForm_lits (by simpa using hmode)).trans hc
  refine ⟨_, _, rfl, ?_⟩
  change execCvt sat r d a k s = _
  rw [execCvt, hkind]
  refine (guarded_passed hr hchecks).trans ?_
  cases c.dPair <;> rfl

end Sys2Proof.Laws
end

section
/-! SUPPORT. Loads and stores whose access resolves: the bytes read or written at the base plus the scaled immediate (R232, R234, R235). -/

namespace Sys2Proof.Laws

open Sys2Proof Sys2Proof.Machine Sys2Proof.Claims

/-- An instruction that is an effect behind the checks of a form has that effect once they pass. -/
theorem exec_passed {i : Instr} {fm : Form} {s : State} {k : State → Result} (h : Passes s fm) (hi : exec i s = guarded fm s k) :
    exec i s = k s := by
  obtain ⟨hr, hc⟩ := h
  exact hi.trans (guarded_passed hr hc)

theorem loadAt_ok {s : State} {va n : Nat} {t : Tgt} (h : Reads s va n t) (wr : State → Nat → State) :
    loadAt s va n wr = .next (advance (wr (after s t n) (got s t n))) := by
  rw [loadAt, readMem_ok h, run_ok rfl, done_next]
  rfl

theorem storeAt_ok {s : State} {va n : Nat} {t : Tgt} (h : Stores s va n t) (x : Nat) :
    storeAt s va (toBytes n x) = .next (advance (writeTgt s (me s) t (toBytes n x))) := by
  rw [storeAt, writeMem_ok (by rw [toBytes_length]; exact h), run_ok rfl, done_next]

theorem loads_exec : ∀ p ∈ loads, ∀ d a m s, exec (p.1 d a m) s = load1 p.2.1 p.2.2 d a m s := by
  simp only [loads, List.forall_mem_cons, List.not_mem_nil, false_implies, implies_true, and_true]
  exact ⟨fun _ _ _ _ => rfl, fun _ _ _ _ => rfl, fun _ _ _ _ => rfl, fun _ _ _ _ => rfl, fun _ _ _ _ => rfl⟩

theorem stores_exec : ∀ p ∈ stores, ∀ d a m s, exec (p.1 d a m) s = store1 p.2 d a m s := by
  simp only [stores, List.forall_mem_cons, List.not_mem_nil, false_implies, implies_true, and_true]
  exact ⟨fun _ _ _ _ => rfl, fun _ _ _ _ => rfl, fun _ _ _ _ => rfl⟩

/-- Settles O16: a load of the table, and one of a pair or a quad, is its read behind its checks. -/
theorem loadResults : Obligations.LoadResults := by
  refine ⟨fun p hp d a m s t h ht => ?_, fun d a m s t h ht => ?_, fun d a m s t h ht => ?_⟩
  · exact (exec_passed h (loads_exec p hp d a m s)).trans (loadAt_ok ht _)
  · change execLdd d a m s = _
    rw [execLdd, guarded_passed h.1 h.2]
    exact loadAt_ok ht _
  · change execLdq d a m s = _
    rw [execLdq, guarded_passed h.1 h.2]
    exact loadAt_ok ht _

/-- Settles O19: a store of the table, and one of a pair or a quad, is its write behind its checks. -/
theorem storeResults : Obligations.StoreResults := by
  refine ⟨fun p hp d a m s t h ht => ?_, fun d a m s t h ht => ?_, fun d a m s t h ht => ?_⟩
  · exact (exec_passed h (stores_exec p hp d a m s)).trans (storeAt_ok ht _)
  · change execStd d a m s = _
    rw [execStd, guarded_passed h.1 h.2]
    exact storeAt_ok ht _
  · change execStq d a m s = _
    rw [execStq, guarded_passed h.1 h.2]
    exact storeAt_ok ht _

end Sys2Proof.Laws
end

section
/-! SUPPORT. WAIT forms: the read of the location, then the move to the successor or the wait, and re-reads of what is watched (R241, R242). -/

namespace Sys2Proof.Laws

open Sys2Proof Sys2Proof.Machine Sys2Proof.Claims

/-- A WAIT reads its location; it goes on with the value where its condition holds and watches the location where it does not. -/
theorem waitForm_reads {form va b n : Nat} {sz : OpSize} {d : Field} {s s' : State} {u : Succ} {t : Tgt} (hn : nextBlock s = .ok (u, s'))
    (hsz : waitSize form = (sz, n)) (ht : Reads s' va n t) :
    waitForm form d va b s =
      if waitHolds form (got s' t n) b then
        goOnWith s (writeSized (after s' t n) (after s' t n).cur sz d.toNat (BitVec.ofNat 128 (got s' t n))) u
      else .next (suspend (after s' t n) (.watch (watchPlace t).1 (watchPlace t).2 form b d.toNat) u) := by
  simp only [waitForm, waiting, run_ok hn, hsz, run_ok ht]
  rfl

/-- A WAIT on 8 bytes writes the pair, one on 4 bytes the register. -/
theorem writeSized_two (s : State) (d : Field) (v : Nat) : writeSized s s.cur .two d.toNat (BitVec.ofNat 128 v) = writeP s d (BitVec.ofNat 64 v) := by
  rw [writeSized, BitVec.setWidth_ofNat_of_le (by decide), writeP]

theorem writeSized_one (s : State) (d : Field) (v : Nat) : writeSized s s.cur .one d.toNat (BitVec.ofNat 128 v) = writeR s d (BitVec.ofNat 64 v) := by
  rw [writeSized, BitVec.setWidth_ofNat_of_le (by decide), writeR]

/-- A WAIT form of the table is the wait of its number on 4 bytes. -/
theorem waits_exec : ∀ p ∈ waits, waitSize p.2.1 = (.one, 4) ∧ waitHolds p.2.1 = p.2.2
    ∧ ∀ d a b s, exec (p.1 d a b) s = guarded (term [opWc d, opRp a, opR b]) s fun s =>
        waitForm p.2.1 d (readP s a).toNat ((readR s b).toNat % 2 ^ 32) s := by
  simp only [waits, List.forall_mem_cons, List.not_mem_nil, false_implies, implies_true, and_true]
  exact ⟨⟨rfl, rfl, fun _ _ _ _ => rfl⟩, rfl, rfl, fun _ _ _ _ => rfl⟩

theorem waitHolds_ge (v b : Nat) : waitHolds 0 v b = decide (b ≤ v) := rfl

theorem waitResults : Claims.WaitResults := by
  refine ⟨fun d a b s s' u t h hn ht => ?_, fun p hp d a b s s' u t h hn ht => ?_⟩
  · have he : execWaitge d a b s = _ := (guarded_passed h.1 h.2).trans (waitForm_reads (form := 0) hn rfl ht)
    change exec (.waitge d a b) s = _ at he
    rw [waitHolds_ge] at he
    refine ⟨fun hle => ?_, fun hlt => ?_⟩
    · rw [he, if_pos (decide_eq_true hle), writeSized_two]
      exact goesOn_goOnWith ..
    · rw [he, if_neg fun hle => Nat.not_le.2 hlt (of_decide_eq_true hle)]
  · obtain ⟨hsz, hholds, hexec⟩ := waits_exec p hp
    have he := (exec_passed h (hexec d a b s)).trans (waitForm_reads hn hsz ht)
    rw [hholds] at he
    refine ⟨fun hc => ?_, fun hc => ?_⟩
    · rw [he, if_pos hc, writeSized_one]
      exact goesOn_goOnWith ..
    · rw [he, hc, if_neg Bool.false_ne_true]

/-- What a WAIT form's number says of its width and its condition (R241). -/
theorem waitSize_eq (form : Nat) : waitSize form = (if form = 0 then .two else .one, if form = 0 then 8 else 4) := by
  unfold waitSize
  split <;> rfl

theorem waitHolds_eq (form v b : Nat) : waitHolds form v b = decide (if form = 0 then b ≤ v else if form = 1 then v ≠ b else v = b) := by
  match form with
  | 0 => rfl
  | 1 => simp [waitHolds, bne, BEq.beq]
  | n + 2 => simp [waitHolds, BEq.beq]

/-- A re-read that can be made wakes its agent where the condition holds (R242). -/
theorem waitRereadResults : Claims.WaitRereadResults := by
  intro g s s' spad pa b d v form hw hhere hread
  change execWaitReread g s = _
  simp only [execWaitReread, hw, hhere, if_true, reread, waitSize_eq, hread, waitHolds_eq, decide_eq_true_eq]
  by_cases hf : form = 0
  · simp only [hf, if_true, writeSized]
  · simp only [hf, if_false, writeSized]

/-- Settles O23: a WAIT by whether its condition holds of what it reads, a re-read likewise. -/
theorem waitingResults : Obligations.WaitingResults := ⟨waitResults, waitRereadResults⟩

end Sys2Proof.Laws
end

section
/-! SUPPORT. A push that is applied to a saved workgroup: the count of the image's header is a write of its own, which takes a number before the
push that follows on takes its order (R245, R373, R376, R377). -/

namespace Sys2Proof.Laws

open Sys2Proof Sys2Proof.Machine Sys2Proof.Claims

/-- A workgroup saved at 0x10000, in a page that its partition maps to HBM. -/
def savedGroup : Workgroup :=
  { part := 1, lid := 0, wid := 0, place := .saved { va := 0x10000, slot := none }, lvl := 0, sec := false, rows := [], tmax := 64, a := 96,
    spadLen := 4096, spad := [], spadBad := [], threads := [], ctx := none, cRes := 0, cohorts := [], chans := [], tds := [], pts := [],
    pbSent := [], pbRel := [], since := 0, lastCid := 768, frag := false }

def areaLeaf : TlbEnt := { die := walkDie 0, part := 1, lvl := 3, page := 1, pte := 0x40000000000101DF#64, addr := 0, ver := 0 }

/-- Its subscription to a word of another page, with a push on its way. -/
def savedSub : Sub :=
  { id := 0, wg := 0, off := 64, pa := 0x20100, dw := false, push := some (5, 1), merged := none, closing := false, home := 0 }

def savedPush : State := { State.reset with wgs := [(0, savedGroup)], tlb := [areaLeaf], subs := [savedSub], nextId := 1 }

/-- The header's count takes the number 1 and the push 2, so that 3 is the next. -/
theorem applyPush_savedPush_nextId : (applyPush savedPush 0).nextId = 3 := by decide +kernel

/-- Refutes O24: by its account of a push the next number is one more than before, and so 2, as though the count of a saved workgroup's header
took none. -/
theorem not_subscriptionResults : ¬ Obligations.SubscriptionResults := by
  rintro ⟨-, -, -, hpush, -⟩
  have h := congrArg State.nextId (hpush 0 savedPush savedSub 5 1 rfl rfl)
  rw [applyPush_savedPush_nextId] at h
  exact absurd h (by decide +kernel)

end Sys2Proof.Laws
end

section
/-! SUPPORT. CMAKE, JOIN, LEAVE and CSIZE by what the workgroup's table and the handle's cohort hold (R248, R249). -/

namespace Sys2Proof.Laws

open Sys2Proof Sys2Proof.Machine Sys2Proof.Claims

section
variable {d a : Field} {s : State} {w t : Nat} {g : Workgroup} (h : Passes s { ops := [opW d, opR a], need := .vector })
  (hcur : curThread s = some (w, g, t))
include h hcur

/-! CMAKE (R248) -/

omit h hcur in
/-- The member limit is the number asked for, at most the most threads; 0 asks for that. -/
theorem memberLimit_eq (n : Nat) : (if n = 0 ∨ g.tmax < n then g.tmax else n) = if n = 0 then g.tmax else Min.min g.tmax n := by
  by_cases h0 : n = 0
  · simp only [h0, true_or, if_true]
  · rcases Nat.lt_or_ge g.tmax n with hn | hn
    · simp only [h0, hn, false_or, if_true, if_false, Nat.min_eq_left (Nat.le_of_lt hn)]
    · simp only [h0, Nat.not_lt.2 hn, false_or, if_false, Nat.min_eq_right hn]

theorem exec_cmake_free {i : Nat} (hi : (List.range g.cRes).find? (fun i => !(g.cohorts.get {} i).alloc) = some i) :
    exec (.cmake d a) s = writes (setCohort s w i (newCohort g (g.cohorts.get {} i).gen (readR s a).toNat)) d
      (BitVec.ofNat 64 ((g.cohorts.get {} i).gen * 512 + i)) := by
  change execCmake d a s = _
  rw [execCmake, guarded_passed h.1 h.2]
  simp only [hcur, hi, memberLimit_eq, done_next]
  rfl

theorem exec_cmake_full (hfull : ∀ i < g.cRes, (g.cohorts.get {} i).alloc = true) : exec (.cmake d a) s = writes s d 0xFFFFFFFF#64 := by
  have hnone : (List.range g.cRes).find? (fun i => !(g.cohorts.get {} i).alloc) = none := by simpa using hfull
  change execCmake d a s = _
  rw [execCmake, guarded_passed h.1 h.2]
  simp only [hcur, hnone, done_next, writes]

/-! JOIN and CSIZE (R249) -/

theorem exec_join_unnamed (hc : cohortOf g ((readR s a).setWidth 32) = none) : exec (.join d a) s = writes s d 0xFFFFFFFF#64 := by
  change execJoin d a s = _
  rw [execJoin, guarded_passed h.1 h.2]
  simp only [hcur, hc, done_next, writes]

theorem exec_csize_unnamed (hc : cohortOf g ((readR s a).setWidth 32) = none) : exec (.csize d a) s = writes s d 0 := by
  change execCsize d a s = _
  rw [execCsize, guarded_passed h.1 h.2]
  simp only [hcur, hc, done_next, writes]
  rfl

variable {i : Nat} {c : Cohort} (hc : cohortOf g ((readR s a).setWidth 32) = some (i, c))
include hc

theorem exec_csize_named : exec (.csize d a) s = writes s d (BitVec.ofNat 64 c.members.length) := by
  change execCsize d a s = _
  rw [execCsize, guarded_passed h.1 h.2]
  simp only [hcur, hc, done_next, writes]

theorem exec_join_named : exec (.join d a) s = (rankOf c t).elim
    (if c.members.length < c.lim then writes (setCohort s w i { c with members := c.members ++ [t] }) d (BitVec.ofNat 64 c.members.length)
      else writes s d 0xFFFFFFFE#64)
    fun r => writes s d (BitVec.ofNat 64 r) := by
  change execJoin d a s = _
  rw [execJoin, guarded_passed h.1 h.2]
  simp only [hcur, hc, done_next, ← Nat.not_lt, ite_not]
  cases rankOf c t <;> rfl

end

/-! LEAVE (R249) -/

section
variable {a : Field} {s : State} {w t : Nat} {g : Workgroup} (h : Passes s { ops := [opR a], need := .vector })
  (hcur : curThread s = some (w, g, t))
include h hcur

theorem exec_leave_unnamed (hc : cohortOf g ((readR s a).setWidth 32) = none) : exec (.leave a) s = .next (advance s) := by
  change execLeave a s = _
  rw [execLeave, guarded_passed h.1 h.2]
  simp only [hcur, hc, done_next]

theorem exec_leave_named {i : Nat} {c : Cohort} (hc : cohortOf g ((readR s a).setWidth 32) = some (i, c)) :
    exec (.leave a) s = .next (advance (leaveCohort s w i t)) := by
  change execLeave a s = _
  rw [execLeave, guarded_passed h.1 h.2]
  simp only [hcur, hc, done_next]

end

/-- Settles O25: CMAKE by whether an entry is free, the others by the cohort that the handle names. -/
theorem cohortResults : Obligations.CohortResults :=
  ⟨fun _ _ _ _ _ _ h hcur => ⟨fun _ => exec_cmake_free h hcur, exec_cmake_full h hcur⟩,
    fun _ _ _ _ _ _ h hcur => ⟨fun hc => ⟨exec_join_unnamed h hcur hc, exec_csize_unnamed h hcur hc⟩,
      fun _ _ hc => ⟨exec_csize_named h hcur hc, fun r hr => (exec_join_named h hcur hc).trans (by rw [hr, Option.elim]),
        fun hr => (exec_join_named h hcur hc).trans (by rw [hr, Option.elim])⟩⟩,
    fun _ _ _ _ _ h hcur => ⟨exec_leave_unnamed h hcur, fun _ _ => exec_leave_named h hcur⟩⟩

end Sys2Proof.Laws
end

section
/-! SUPPORT. Cohort barriers: BARA by whether its member has arrived, BARW by what BARA left (R157, R251). -/

namespace Sys2Proof.Laws

open Sys2Proof Sys2Proof.Machine Sys2Proof.Claims

/-! BARA (R251) -/

section
variable {a : Field} {s : State} (h : Passes s { ops := [opR a], need := .vector })
include h

theorem exec_bara_noMember (hm : NoMember s ((readR s a).setWidth 32)) : exec (.bara a) s = .next (raiseState .illegal 0 0 s) := by
  obtain ⟨w, g, t, hcur, hno⟩ := hm
  change execBara a s = _
  rw [execBara, guarded_passed h.1 h.2]
  simp only [hcur, hno, raise_next]

theorem exec_bara_member {w t i : Nat} {g : Workgroup} {c : Cohort} (hcur : curThread s = some (w, g, t))
    (hm : memberOf g ((readR s a).setWidth 32) t = some (i, c)) :
    exec (.bara a) s = .next (advance (if ∃ x ∈ c.bara, x.1 = t then s
      else arrive (setCohort s w i { c with bara := c.bara ++ [(t, instFor c t)] }) w i (barArr t))) := by
  change execBara a s = _
  rw [execBara, guarded_passed h.1 h.2]
  simp only [hcur, hm, List.any_eq_true, beq_iff_eq, done_next]
  split <;> rfl

end

/-! BARW (R157, R251) -/

section
variable {a : Field} {s s' : State} {u : Succ} (h : Passes s { ops := [opR a], term := true, need := .vector })
  (hn : nextBlock s = .ok (u, s'))
include h hn

theorem exec_barw_noMember (hm : NoMember s' ((readR s a).setWidth 32)) : exec (.barw a) s = .next (raiseState .illegal 0 0 s) := by
  obtain ⟨w, g, t, hcur, hno⟩ := hm
  change execBarw a s = _
  rw [execBarw, guarded_passed h.1 h.2]
  simp only [waiting, run_ok hn, hcur, hno, raise_next]

variable {w t i : Nat} {c : Cohort} (hm : IsMember s' ((readR s a).setWidth 32) w t i c)
include hm

/-- A member's BARW waits for its release; then a member that a BARA has counted goes on where what it arrived at has completed, and waits where
it has not, and one that no BARA has counted arrives now. -/
theorem exec_barw_member : exec (.barw a) s =
    if releaseReady s = false then .next s
    else (c.bara.find? fun x => x.1 == t).elim (arrived s (arrive (suspend s' (.bar i (instFor c t)) u) w i (barArr t)) w t) fun x =>
      if x.2 < c.done then goOnWith s (setCohort s' w i { c with bara := c.bara.filter fun x => x.1 != t }) u
      else .next (suspend (setCohort s' w i { c with bara := c.bara.filter fun x => x.1 != t }) (.bar i x.2) u) := by
  obtain ⟨g, hcur, hmem⟩ := hm
  change execBarw a s = _
  rw [execBarw, guarded_passed h.1 h.2]
  simp only [waiting, run_ok hn, hcur, hmem, Bool.not_eq_eq_eq_not, Bool.not_true]
  cases c.bara.find? fun x => x.1 == t <;> rfl

end

theorem barrierResults : Claims.BarrierResults := by
  refine ⟨fun a s h => ⟨fun w t i g c => exec_bara_member h, exec_bara_noMember h⟩,
    fun a s s' u h hn => ⟨fun w t i c hm => ?_, exec_barw_noMember h hn⟩⟩
  rw [exec_barw_member h hn hm]
  refine ⟨fun hr => if_pos hr, fun hr k hb => ?_, fun hr hb => ?_⟩
  · rw [if_neg (by simp [hr]), hb, Option.elim]
    refine ⟨fun hk => ?_, fun hk => if_neg (Nat.not_lt.2 hk)⟩
    rw [if_pos hk]
    exact goesOn_goOnWith ..
  · have hnone : c.bara.find? (fun x => x.1 == t) = none := by simpa using hb
    rw [if_neg (by simp [hr]), hnone, Option.elim]
    exact arrives_arrived ..

end Sys2Proof.Laws
end

section
/-! SUPPORT. Sideband barriers: a thread's arrival and wait, the arrival at the root, and the release of a phase (R157, R253, R402). -/

namespace Sys2Proof.Laws

open Sys2Proof Sys2Proof.Machine Sys2Proof.Claims

/-! PBARA (R157, R253) -/

section
variable {b : Field} {s : State} {w t : Nat} (h : Passes s { lits := [(b.toNat, 64)], need := .vector }) (hf : pbFault s b.toNat = none)
  (hcur : s.cur = .vthread w t)
include h hf hcur

theorem exec_pbara_passed : exec (.pbara b) s =
    if ((thread? s w t).bind fun th => th.pbs.find b.toNat).isSome then .next (advance s)
    else if releaseReady s then .next (advance (pbArrive s w t b.toNat)) else .next s := by
  change execPbara b s = _
  rw [execPbara, guarded_passed h.1 h.2]
  simp only [hf, hcur, done_next]

end

/-! PBARW (R157, R253) -/

section
variable {b : Field} {s s' : State} {u : Succ} {w t : Nat} (h : Passes s { lits := [(b.toNat, 64)], term := true, need := .vector })
  (hn : nextBlock s = .ok (u, s')) (hf : pbFault s b.toNat = none) (hcur : s.cur = .vthread w t)
include h hn hf hcur

/-- A PBARW goes on where the release has come and waits where it has not; one that has not arrived arrives, after its release. -/
theorem exec_pbarw_passed : exec (.pbarw b) s = ((thread? s' w t).bind fun th => th.pbs.find b.toNat).elim
    (.next (if releaseReady s then pbArrive (suspend s' (.pbar b.toNat) u) w t b.toNat else s)) fun come =>
      if come then goOnWith s (updThread s' w t fun th => { th with pbs := th.pbs.erase b.toNat }) u
      else .next (suspend s' (.pbar b.toNat) u) := by
  change execPbarw b s = _
  rw [execPbarw, guarded_passed h.1 h.2]
  simp only [waiting, run_ok hn, hf, hcur]
  rcases (thread? s' w t).bind fun th => th.pbs.find b.toNat with _ | _ | _ <;> rfl

end

/-! The root (R402) -/

/-- A barrier with an arrival of a workgroup counted: in the phase that is open, or, where that has ended, in the next. -/
def withArrival (b : PBar) (w tick : Nat) : PBar :=
  if b.endT.isSome then { b with nxt := b.nxt ++ [w] } else PBar.tally { b with arr := b.arr ++ [w] } tick

theorem rootArrive_shape (s : State) (x : Nat × Nat × Nat) :
    rootArrive s x = { s with pbFlight := (rootArrive s x).pbFlight, pbs := (rootArrive s x).pbs } := rfl

theorem rootArrive_barrier (s : State) (x : Nat × Nat × Nat) :
    (rootArrive s x).pbs.get {} x.1 = withArrival (s.pbs.get {} x.1) x.2.1 (timer s) := get_put_same ..

/-- An arrival that is on its way gets to the root. -/
theorem exec_pbarrierRootArrival {pb w k : Nat} {s : State} (h : (pb, w, k) ∈ s.pbFlight) :
    ∃ k, exec (.pbarrierRootArrival pb w) s = .next (rootArrive s (pb, w, k)) := by
  cases hx : s.pbFlight.find? fun x => x.1 == pb && x.2.1 == w with
  | none => exact absurd (List.find?_eq_none.1 hx _ h) (by simp)
  | some x =>
    obtain ⟨rfl, rfl⟩ : x.1 = pb ∧ x.2.1 = w := by simpa using List.find?_some hx
    refine ⟨x.2.2, ?_⟩
    change execPbarrierRootArrival x.1 x.2.1 s = _
    rw [execPbarrierRootArrival, hx]

theorem withArrival_next {b : PBar} (h : b.endT ≠ none) (w tick : Nat) : withArrival b w tick = { b with nxt := b.nxt ++ [w] } :=
  if_pos (Option.isSome_iff_ne_none.2 h)

/-- An arrival that does not make the count leaves the phase open. -/
theorem withArrival_open {b : PBar} {w : Nat} (h : b.endT = none) (hn : b.n = 0 ∨ b.arr.length + 1 < b.n) (tick : Nat) :
    withArrival b w tick = { b with arr := b.arr ++ [w] } := by
  have hopen : ¬ (b.n ≠ 0 ∧ b.n ≤ b.arr.length + 1) := by omega
  simp only [withArrival, PBar.tally, h, Option.isSome_none, Bool.false_eq_true, if_false, Option.isNone_none, Bool.true_and, Bool.and_eq_true,
    bne_iff_ne, decide_eq_true_eq, List.length_append, List.length_singleton, hopen]

/-- The arrival that makes the count ends the phase. -/
theorem withArrival_ends {b : PBar} {w : Nat} (h : b.endT = none) (hn : b.arr.length + 1 = b.n) (tick : Nat) :
    withArrival b w tick = { b with arr := b.arr ++ [w], endT := some tick } := by
  have hlen : (b.arr ++ [w]).length ≤ b.n := Nat.le_of_eq (by rw [List.length_append, List.length_singleton, hn])
  have hends : b.n ≠ 0 ∧ b.n ≤ (b.arr ++ [w]).length := by
    rw [List.length_append, List.length_singleton]
    omega
  have htake : (b.arr ++ [w]).take b.n = b.arr ++ [w] := List.take_of_length_le hlen
  have hdrop : (b.arr ++ [w]).drop b.n = [] := List.drop_of_length_le hlen
  simp only [withArrival, PBar.tally, h, Option.isSome_none, Bool.false_eq_true, if_false, Option.isNone_none, Bool.true_and, Bool.and_eq_true,
    bne_iff_ne, decide_eq_true_eq, hends, ne_eq, not_false_eq_true, and_self, if_true, htake, hdrop, List.nil_append]

/-! The release of a phase (R402) -/

/-- What lies beyond the count stays for the next phase: no arrival is lost, and the phase has at most the count. -/
theorem tally_arrivals (b : PBar) (tick : Nat) : (PBar.tally b tick).arr ++ (PBar.tally b tick).nxt = b.arr ++ b.nxt
    ∧ (PBar.tally b tick).n = b.n ∧ (PBar.tally b tick).phase = b.phase
    ∧ (b.endT = none → b.n ≠ 0 → (PBar.tally b tick).arr.length ≤ b.n) := by
  unfold PBar.tally
  split
  · refine ⟨?_, rfl, rfl, fun _ _ => List.length_take_le ..⟩
    rw [← List.append_assoc, List.take_append_drop]
  · next hn =>
    refine ⟨rfl, rfl, rfl, fun he h0 => ?_⟩
    have hlt : ¬ b.n ≤ b.arr.length := by simpa [he, h0] using hn
    omega

/-- A barrier whose next phase begins with the arrivals that are already there. -/
def reopened (b : PBar) : PBar := { b with phase := !b.phase, arr := b.nxt, nxt := [], endT := none }

/-- The release of a barrier's phase on its way to every workgroup that arrived. -/
def released (s : State) (pb : Nat) : State := (s.pbs.get {} pb).arr.foldl (sendRelease pb) s

theorem pbRelease_shape (s : State) (pb : Nat) : pbRelease s pb = { released s pb with pbs := (pbRelease s pb).pbs } := rfl

theorem pbRelease_barrier (s : State) (pb : Nat) :
    (pbRelease s pb).pbs.get {} pb = PBar.tally (reopened (s.pbs.get {} pb)) (timer (released s pb)) := get_put_same ..

theorem exec_pbarrierRelease_due {pb e : Nat} {s : State} (he : (s.pbs.get {} pb).endT = some e) (ht : e + 40 ≤ timer s) :
    exec (.pbarrierRelease pb) s = .next (pbRelease s pb) := by
  change execPbarrierRelease pb s = _
  simp only [execPbarrierRelease, he, ht, if_true]

theorem exec_pbarrierRelease_early {pb e : Nat} {s : State} (he : (s.pbs.get {} pb).endT = some e) (ht : timer s < e + 40) :
    exec (.pbarrierRelease pb) s = .next s := by
  change execPbarrierRelease pb s = _
  simp only [execPbarrierRelease, he, if_neg (Nat.not_le.2 ht), off]

theorem sidebandResults : Claims.SidebandResults := by
  refine ⟨fun b s w t h hf hcur => ?_, fun b s s' u w t h hn hf hcur => ?_, fun pb w k s h => ?_, fun pb e s he ht => ?_,
    fun pb e s => exec_pbarrierRelease_early⟩
  · rw [exec_pbara_passed h hf hcur]
    refine ⟨fun hx => ?_, fun x hx => if_pos (by rw [hx, Option.isSome_some])⟩
    rw [hx, Option.isSome_none, if_neg Bool.false_ne_true]
    exact ⟨fun hr => if_pos hr, fun hr => if_neg (by simp [hr])⟩
  · rw [exec_pbarw_passed h hn hf hcur]
    refine ⟨fun hx => ?_, fun hx => ?_, fun hx => ?_⟩
    · rw [hx, Option.elim, if_pos rfl]
      exact goesOn_goOnWith ..
    · rw [hx, Option.elim, if_neg Bool.false_ne_true]
    · rw [hx, Option.elim]
      exact ⟨fun hr => by rw [if_pos hr], fun hr => by rw [hr, if_neg Bool.false_ne_true]⟩
  · obtain ⟨x, hx⟩ := exec_pbarrierRootArrival h
    have hbarrier := rootArrive_barrier s (pb, w, x)
    exact ⟨_, hx, fun hend hn => hbarrier.trans (withArrival_open hend hn _), fun hend _ hn => hbarrier.trans (withArrival_ends hend hn _),
      fun hend => hbarrier.trans (withArrival_next hend ..), rootArrive_shape ..⟩
  · obtain ⟨harr, hn, hphase, hlen⟩ := tally_arrivals (reopened (s.pbs.get {} pb)) (timer (released s pb))
    rw [← pbRelease_barrier] at harr hn hphase hlen
    exact ⟨_, exec_pbarrierRelease_due he ht, hphase, harr.trans (List.append_nil _), hn, hlen rfl, pbRelease_shape ..⟩

/-- Settles O27: the cohort's barriers by what each arrival belongs to, the sideband's by the phase. -/
theorem barriersResults : Obligations.BarriersResults := ⟨barrierResults, sidebandResults⟩

end Sys2Proof.Laws
end

section
/-! SUPPORT. COPY and COPYT: the record that is read, the checks on it, and the engine that it is handed to (R255, R256, R326). -/

namespace Sys2Proof.Laws

open Sys2Proof Sys2Proof.Machine Sys2Proof.Claims

/-- An engine that accepts is one of the partition and world. -/
theorem copyEnginesOf_ne_nil {s : State} {p e : Nat} {sec : Bool} (h : pickCopyEngine s p sec = some e) : copyEnginesOf s p sec ≠ [] := by
  intro hn
  simp [pickCopyEngine, hn] at h

/-! COPY (R255) -/

section
variable {a b : Field} {s : State} {tg : Tgt} {w t : Nat} {g : Workgroup} (h : Passes s { ops := [opRp a, opR b], need := .vector })
  (ht : Reads s (readP s a).toNat 32 tg) (hcur : curThread s = some (w, g, t))
include h ht hcur

theorem exec_copy_noMember (hm : memberOf g ((readR s b).setWidth 32) t = none) : exec (.copy a b) s = .next (raiseState .illegal 0 0 s) := by
  change execCopy a b s = _
  rw [execCopy, guarded_passed h.1 h.2]
  simp only [run_ok ht, hcur, hm, raise_next]

/-- A member's COPY, by the alignment of its slice record and by what engine there is. -/
theorem exec_copy_member {i : Nat} {c : Cohort} (hm : memberOf g ((readR s b).setWidth 32) t = some (i, c)) :
    exec (.copy a b) s = (sliceMisaligned (got s tg 32)).elim
      (if copyEnginesOf s g.part g.sec = [] then .next (raiseState .world 0 0 s)
        else (pickCopyEngine s g.part g.sec).elim (.next s) fun e =>
          if mayIssue s c t then .next (advance (issueSlice (after s tg 32) w i t c e (got s tg 32))) else .next s)
      fun v => .next (raiseState .misalign v 0 s) := by
  change execCopy a b s = _
  rw [execCopy, guarded_passed h.1 h.2]
  simp only [run_ok ht, hcur, hm, raise_next, done_next, List.isEmpty_iff, got, after]
  cases sliceMisaligned (ofBytes (readTgt s (me s) tg 32).1) with
  | some v => rfl
  | none => cases pickCopyEngine s g.part g.sec <;> rfl

end

theorem copyResults : Claims.CopyResults := by
  refine fun a b s tg w t g h ht hcur => ⟨fun i c hm => ?_, exec_copy_noMember h ht hcur⟩
  rw [exec_copy_member h ht hcur hm]
  refine ⟨fun v hv => ?_, fun hv => ?_⟩
  · rw [hv, Option.elim]
  · rw [hv, Option.elim]
    refine ⟨fun hn => if_pos hn, fun e he hi => ?_, fun hne hw => ?_⟩
    · rw [if_neg (copyEnginesOf_ne_nil he), he, Option.elim, if_pos hi]
    · rw [if_neg hne]
      rcases hw with hp | hi
      · rw [hp, Option.elim]
      · cases pickCopyEngine s g.part g.sec <;> simp [hi]

/-! COPYT (R256) -/

section
variable {a : Field} {s : State} {tg : Tgt} {w : Nat} {g : Workgroup} (h : Passes s { ops := [opRp a], need := .coreScribe })
  (ht : Reads s (readP s a).toNat 32 tg) (hcur : curWg s = some (w, g))
include h ht

theorem exec_copyt_reserved (hb : bits (got s tg 32) 31 14 ≠ 0 ∨ bits (got s tg 32) 7 6 ≠ 0 ∨ bits (got s tg 32) 255 128 ≠ 0) :
    exec (.copyt a) s = .next (raiseState .tdesc 0 0 s) := by
  change execCopyt a s = _
  rw [execCopyt, guarded_passed h.1 h.2, run_ok ht]
  exact if_pos hb

theorem exec_copyt_unowned (hx : myHandle s (bits (got s tg 32) 5 0) = none ∨ myHandle s (bits (got s tg 32) 13 8) = none) :
    exec (.copyt a) s = .next (raiseState .tdesc 0 0 s) := by
  by_cases hb : bits (got s tg 32) 31 14 ≠ 0 ∨ bits (got s tg 32) 7 6 ≠ 0 ∨ bits (got s tg 32) 255 128 ≠ 0
  · exact exec_copyt_reserved h ht hb
  · change execCopyt a s = _
    rw [execCopyt, guarded_passed h.1 h.2]
    simp only [got] at hb hx
    simp only [run_ok ht, if_neg hb]
    rcases hx with hx | hx
    · simp only [hx, raise_next]
    · cases myHandle s (bits (ofBytes (readTgt s (me s) tg 32).1) 5 0) <;> simp only [hx, raise_next]

include hcur

/-- A COPYT of two handles that the workgroup owns, by what they agree in, by its counter's address and by what engine there is. -/
theorem exec_copyt_pair {x y : Desc} (h0 : bits (got s tg 32) 31 14 = 0) (h1 : bits (got s tg 32) 7 6 = 0)
    (h2 : bits (got s tg 32) 255 128 = 0) (hx : myHandle s (bits (got s tg 32) 5 0) = some x)
    (hy : myHandle s (bits (got s tg 32) 13 8) = some y) :
    exec (.copyt a) s =
      if ¬ SameShape x y then .next (raiseState .tdesc 0 0 s)
      else if bits (got s tg 32) 127 64 % 8 ≠ 0 then .next (raiseState .misalign (bits (got s tg 32) 127 64) 0 s)
      else if copyEnginesOf s g.part g.sec = [] then .next (raiseState .world 0 0 s)
      else (pickCopyEngine s g.part g.sec).elim (.next s) fun e =>
        .next (advance (addCopy (after s tg 32) (tensorCopy g w e x y (bits (got s tg 32) 127 64) (bits (got s tg 32) 63 32)))) := by
  have hb : ¬ (bits (got s tg 32) 31 14 ≠ 0 ∨ bits (got s tg 32) 7 6 ≠ 0 ∨ bits (got s tg 32) 255 128 ≠ 0) := by simp [h0, h1, h2]
  change execCopyt a s = _
  rw [execCopyt, guarded_passed h.1 h.2]
  simp only [got] at hb hx hy
  simp only [run_ok ht, if_neg hb, hx, hy, hcur, SameShape, Classical.not_and_iff_not_or_not, List.isEmpty_iff, raise_next, done_next, got, after, tensorCopy]
  cases pickCopyEngine s g.part g.sec <;> rfl

end

theorem tensorCopyResults : Claims.TensorCopyResults := by
  refine fun a s tg w g h ht hcur => ⟨exec_copyt_reserved h ht, exec_copyt_unowned h ht, fun x y h0 h1 h2 hx hy => ?_⟩
  rw [exec_copyt_pair h ht hcur h0 h1 h2 hx hy]
  refine ⟨fun hd => if_pos hd, fun hs hm => ?_, fun hs hm => ?_⟩
  · rw [if_neg (not_not_intro hs), if_pos hm]
  · rw [if_neg (not_not_intro hs), if_neg (not_not_intro hm)]
    refine ⟨fun hn => if_pos hn, fun hne hp => ?_, fun e he => ?_⟩
    · rw [if_neg hne, hp, Option.elim]
    · rw [if_neg (copyEnginesOf_ne_nil he), he, Option.elim]

end Sys2Proof.Laws
end

section
/-! SUPPORT. The work of a copy engine: how far a slice or a tensor copy that nothing stops gets, and what becomes of the operation (R255, R256,
R336). -/

namespace Sys2Proof.Laws

open Sys2Proof Sys2Proof.Machine Sys2Proof.Claims

/-! How far a copy gets (R255, R256) -/

theorem copyWords_end {i : Issuer} {src dst n : Nat} {s s' : State} {k k' : Nat} (h : copyWords i src dst n s k = (s', k', .ok ())) :
    k' = k + 4 * n := by
  induction n generalizing s k with
  | zero =>
    cases h
    rfl
  | succ n ih =>
    rw [copyWords] at h
    split at h
    · rw [ih h, Nat.mul_succ, Nat.add_assoc, Nat.add_comm 4]
    · cases h
    · cases h

/-- A block is written whole or word by word: 128 bytes either way. -/
theorem copyBlocks_end {i : Issuer} {src dst n : Nat} {s s' : State} {k k' : Nat} (h : copyBlocks i src dst n s k = (s', k', .ok ())) :
    k' = k + 128 * n := by
  induction n generalizing s k with
  | zero =>
    cases h
    rfl
  | succ n ih =>
    rw [copyBlocks] at h
    split at h
    · rw [ih h, Nat.mul_succ, Nat.add_assoc, Nat.add_comm 128]
    · split at h
      · next hw => rw [ih h, copyWords_end hw, Nat.mul_succ 128, Nat.add_assoc, Nat.add_comm (4 * 32)]
      · next hstop => exact absurd h (hstop _ _)

/-- A slice's words are those up to its first whole block, those of its blocks and the rest. -/
theorem slice_words {n m : Nat} (h : m ≤ n) : 4 * m + 128 * ((n - m) / 32) + 4 * ((n - m) % 32) = 4 * n := by omega

theorem copySlice_end {i : Issuer} {src dst n : Nat} {s s' : State} {k k' : Nat} (h : copySlice i src dst n s k = (s', k', .ok ())) :
    k' = k + 4 * n := by
  rw [copySlice] at h
  split at h
  · next hw =>
    split at h
    · next hb =>
      rw [copyWords_end h, copyBlocks_end hb, copyWords_end hw, ← slice_words (Nat.min_le_left n _), Nat.add_assoc, Nat.add_assoc, Nat.add_assoc]
    · next hstop => exact absurd h (hstop _ _)
  · next hstop => exact absurd h (hstop _ _)

theorem copyElems_end {i : Issuer} {x y : Desc} {n : Nat} {s s' : State} {k k' : Nat} (h : copyElems i x y n s k = (s', k', .ok ())) :
    k' = k + n := by
  induction n generalizing s k with
  | zero =>
    cases h
    rfl
  | succ n ih =>
    rw [copyElems] at h
    split at h
    · rw [ih h, Nat.add_assoc, Nat.add_comm 1]
    · cases h
    · cases h

/-! What becomes of the operation (R336) -/

theorem exec_copySlicePerform {op : Nat} {s : State} {o : CopyOp} (h : runnableCopy s op = some o) (ht : o.tensor = none) :
    exec (.copySlicePerform op) s =
      copyOutcome o (copySlice (o.issuer s) o.src o.dst ((o.len - o.at') / 4) s o.at') fun s => endSlice s o := by
  change execCopySlicePerform op s = _
  simp only [execCopySlicePerform, h, ht, Option.isNone_none, if_true]

theorem exec_copytPerform {op : Nat} {s : State} {o : CopyOp} {x y : Desc} (h : runnableCopy s op = some o) (ht : o.tensor = some (x, y)) :
    exec (.copytPerform op) s =
      copyOutcome o (copyElems (o.issuer s) x y (tdRows x * tdCols x - o.at') s o.at') fun s => postCopy s o := by
  change execCopytPerform op s = _
  simp only [execCopytPerform, h, ht]

theorem copyPerformResults : Claims.CopyPerformResults := by
  refine ⟨fun op s s' o k h ht => ?_, fun op s s' o x y k h ht => ?_⟩
  · rw [exec_copySlicePerform h ht]
    refine ⟨fun hx => ⟨?_, copySlice_end hx⟩, fun c v hx => ?_, fun hx => ?_⟩
    all_goals rw [hx, copyOutcome]
  · rw [exec_copytPerform h ht]
    refine ⟨fun hx => ⟨?_, copyElems_end hx⟩, fun c v hx => ?_, fun hx => ?_⟩
    all_goals rw [hx, copyOutcome]

/-- Settles O29: COPY and COPYT by their records and the engines, the engines' work by how far it gets. -/
theorem copiesResults : Obligations.CopiesResults := ⟨copyResults, tensorCopyResults, copyPerformResults⟩

end Sys2Proof.Laws
end

section
/-! SUPPORT. LDEL, LDELI and STEL by the descriptor of their handle and by where the element lies (R258). -/

namespace Sys2Proof.Laws

open Sys2Proof Sys2Proof.Machine Sys2Proof.Claims

/-- The row and the column that a pair names (R258). -/
theorem pair_fields {p r c : Nat} (hp : p = c * 2 ^ 32 + r) (hr : r < 2 ^ 32) : p % 2 ^ 32 = r ∧ p / 2 ^ 32 = c :=
  ⟨hp ▸ Nat.mul_add_mod_of_lt hr, by rw [hp, Nat.mul_comm, Nat.mul_add_div (by decide), Nat.div_eq_of_lt hr, Nat.add_zero]⟩

section
variable {d a b : Field} {s : State} (h : Passes s { ops := [opW d, opRp a], lits := [(b.toNat, 64)], need := .core })
include h

theorem exec_ldel_unowned (hx : tldDesc s b.toNat = none) : exec (.ldel d a b) s = .next (raiseState .tdesc 0 0 s) := by
  change execLdel d a b s = _
  rw [execLdel, guarded_passed h.1 h.2]
  simp only [hx, raise_next]

theorem exec_ldeli_unowned (hx : tldDesc s b.toNat = none) : exec (.ldeli d a b) s = .next (raiseState .tdesc 0 0 s) := by
  change execLdeli d a b s = _
  rw [execLdeli, guarded_passed h.1 h.2]
  simp only [hx, raise_next]

variable {x : Desc} {r c : Nat} (hx : tldDesc s b.toNat = some x) (hp : (readP s a).toNat = c * 2 ^ 32 + r) (hr : r < 2 ^ 32)
include hx hp hr

theorem exec_ldel_element : exec (.ldel d a b) s =
    if r < tdRows x ∧ c < tdCols x then
      ((readElem s (me s) false false x r c).bind fun q => (readScale q.2 (me s) x r c).bind fun z => .ok (q.1, z)).run s fun y =>
        writes y.2.2 d (ldelVal x y.1 y.2.1)
    else writes s d 0 := by
  obtain ⟨hrow, hcol⟩ := pair_fields hp hr
  change execLdel d a b s = _
  rw [execLdel, guarded_passed h.1 h.2]
  simp only [hx, hrow, hcol, done_next, writes]

theorem exec_ldeli_element : exec (.ldeli d a b) s =
    if r < tdRows x ∧ c < tdCols x then
      (readElem s (me s) false true x r c).run s fun q => writes q.2 d (BitVec.ofNat 64 q.1)
    else writes s d 0 := by
  obtain ⟨hrow, hcol⟩ := pair_fields hp hr
  change execLdeli d a b s = _
  rw [execLdeli, guarded_passed h.1 h.2]
  simp only [hx, hrow, hcol, done_next, writes]

end

section
variable {d a b : Field} {s : State} (h : Passes s { ops := [opR d, opRp a], lits := [(b.toNat, 64)], need := .core })
include h

theorem exec_stel_unowned (hx : tldDesc s b.toNat = none) : exec (.stel d a b) s = .next (raiseState .tdesc 0 0 s) := by
  change execStel d a b s = _
  rw [execStel, guarded_passed h.1 h.2]
  simp only [hx, raise_next]

theorem exec_stel_element {x : Desc} {r c : Nat} (hx : tldDesc s b.toNat = some x) (hp : (readP s a).toNat = c * 2 ^ 32 + r)
    (hr : r < 2 ^ 32) : exec (.stel d a b) s =
    if r < tdRows x ∧ c < tdCols x then
      (writeElem s (me s) { va := 0, size := 1 } x r c (stelBits x (width s) (readR s d).toNat)).run s done
    else .next (advance s) := by
  obtain ⟨hrow, hcol⟩ := pair_fields hp hr
  change execStel d a b s = _
  rw [execStel, guarded_passed h.1 h.2]
  simp only [hx, hrow, hcol, done_next]

end

/-- Beyond the rows or the columns is not within both. -/
theorem not_within {r c m n : Nat} (h : m ≤ r ∨ n ≤ c) : ¬ (r < m ∧ c < n) :=
  fun ⟨hr, hc⟩ => h.elim (Nat.not_le.2 hr) (Nat.not_le.2 hc)

/-- Settles O30: each form by whether its element lies within the tensor; a handle without a descriptor of elements is TDESC. -/
theorem elementResults : Obligations.ElementResults := by
  refine ⟨fun d a b s x r c h hx hp hr => ⟨fun hout => ⟨?_, ?_⟩, fun hrow hcol => ⟨fun v s1 z s2 he hz => ?_, fun v s1 he => ?_⟩⟩,
    fun d a b s x r c h hx hp hr => ⟨fun hout => ?_, fun hrow hcol s1 he => ?_⟩,
    fun d a b s hx => ⟨fun h => ⟨exec_ldel_unowned h hx, exec_ldeli_unowned h hx⟩, fun h => exec_stel_unowned h hx⟩⟩
  · rw [exec_ldel_element h hx hp hr, if_neg (not_within hout)]
  · rw [exec_ldeli_element h hx hp hr, if_neg (not_within hout)]
  · rw [exec_ldel_element h hx hp hr, if_pos ⟨hrow, hcol⟩, he, Out.bind, hz, Out.bind, run_ok rfl]
  · rw [exec_ldeli_element h hx hp hr, if_pos ⟨hrow, hcol⟩, run_ok he]
  · rw [exec_stel_element h hx hp hr, if_neg (not_within hout)]
  · rw [exec_stel_element h hx hp hr, if_pos ⟨hrow, hcol⟩, run_ok he, done_next]

end Sys2Proof.Laws
end

section
/-! SUPPORT. Tensor handles and pattern tables: set, read and cleared by what the workgroup and its core own (R78, R259, R269, R270, R285). -/

namespace Sys2Proof.Laws

open Sys2Proof Sys2Proof.Machine Sys2Proof.Claims

/-! The executing agent's workgroup -/

/-- The workgroup of a thread or a context that executes is one of the part's. -/
theorem curWg_cases {s : State} {w : Nat} {g : Workgroup} (h : curWg s = some (w, g)) :
    ((∃ t, s.cur = .vthread w t) ∨ s.cur = .scribe w) ∧ wg? s w = some g := by
  unfold curWg at h
  split at h
  · next v t hc =>
    obtain ⟨g', hg, he⟩ := Option.map_eq_some_iff.1 h
    cases he
    exact ⟨.inl ⟨t, hc⟩, hg⟩
  · next v hc =>
    obtain ⟨g', hg, he⟩ := Option.map_eq_some_iff.1 h
    cases he
    exact ⟨.inr hc, hg⟩
  · cases h

theorem curWg_setWg {s : State} {w : Nat} {g : Workgroup} (h : curWg s = some (w, g)) (g' : Workgroup) : curWg (setWg s w g') = some (w, g') := by
  have hset : wg? (setWg s w g') w = some g' := find_put_same ..
  obtain ⟨⟨t, hc⟩ | hc, -⟩ := curWg_cases h <;> simp [curWg, hc, hset]

/-- The weight buffer is the core's, so that dropping weights leaves the workgroups. -/
theorem curWg_dropWeights (s : State) (w h : Nat) : curWg (dropWeights s w h) = curWg s := by
  unfold dropWeights
  split <;> rfl

theorem myHandle_eq {s : State} {w : Nat} {g : Workgroup} (h : curWg s = some (w, g)) (n : Nat) :
    myHandle s n = (g.tds.find n).bind fun t => if t.live then some t.img else none := by rw [myHandle, h, Option.bind_some]

/-! TDSET (R269, R270) -/

/-- The check of TDSET fails exactly where the image is not settable. -/
theorem or_not_eq_true_iff (a b : Bool) : (a || !b) = true ↔ ¬ (a = false ∧ b = true) := by
  cases a <;> cases b <;> decide

section
variable {d a : Field} {s : State} (h : Passes s { ops := [opR a], lits := [(d.toNat, 64)], need := .coreScribe })
include h

theorem exec_tdset_misaligned (ha : (readR s a).toNat % 64 ≠ 0) : exec (.tdset d a) s = .next (raiseState .misalign (readR s a).toNat 0 s) := by
  change execTdset d a s = _
  rw [execTdset, guarded_passed h.1 h.2]
  exact if_pos ha

theorem exec_tdset_aligned {w : Nat} {g : Workgroup} {l : List Byte} {s' : State} (hcur : curWg s = some (w, g))
    (ha : (readR s a).toNat % 64 = 0) (hl : readParts s (me s) (readR s a).toNat 16 4 = .ok (l, s')) :
    exec (.tdset d a) s = if Settable s w d.toNat (BitVec.ofNat 512 (ofBytes l)) then
        .next (advance (withHandle s' w d.toNat (verOf s w d.toNat) (BitVec.ofNat 512 (ofBytes l))))
      else .next (raiseState .tdesc 0 0 s) := by
  change execTdset d a s = _
  rw [execTdset, guarded_passed h.1 h.2]
  simp only [if_neg (not_not_intro ha), run_ok hl, hcur, Option.elim, or_not_eq_true_iff, ite_not, raise_next, done_next]
  rfl

end

/-! TDGET (R270) -/

section
variable {a b : Field} {s : State} (h : Passes s { ops := [opR b], lits := [(a.toNat, 64)], need := .coreScribe })
include h

theorem exec_tdget_misaligned (ha : (readR s b).toNat % 64 ≠ 0) : exec (.tdget a b) s = .next (raiseState .misalign (readR s b).toNat 0 s) := by
  change execTdget a b s = _
  rw [execTdget, guarded_passed h.1 h.2]
  exact if_pos ha

variable (ha : (readR s b).toNat % 64 = 0)
include ha

theorem exec_tdget_unowned (hx : myHandle s a.toNat = none) : exec (.tdget a b) s = .next (raiseState .tdesc 0 0 s) := by
  change execTdget a b s = _
  rw [execTdget, guarded_passed h.1 h.2]
  simp only [if_neg (not_not_intro ha), hx, raise_next]

theorem exec_tdget_owned {img : Desc} {s' : State} (hx : myHandle s a.toNat = some img)
    (hw : writeParts s (me s) (readR s b).toNat 16 (toBytes 64 img.toNat) 4 = .ok s') : exec (.tdget a b) s = .next (advance s') := by
  change execTdget a b s = _
  rw [execTdget, guarded_passed h.1 h.2]
  simp only [if_neg (not_not_intro ha), hx, run_ok hw, done_next]

end

/-! TDCLR (R270) -/

/-- The workgroup's handle is free, and its weights have left the buffer (R285). -/
def withoutHandle (s : State) (w : Nat) (g : Workgroup) (n : Nat) (t : Tensor) : State :=
  dropWeights (setWg s w { g with tds := g.tds.put n { t with live := false } }) w n

theorem myHandle_withoutHandle {s : State} {w : Nat} {g : Workgroup} (h : curWg s = some (w, g)) (n : Nat) (t : Tensor) :
    myHandle (withoutHandle s w g n t) n = none := by
  rw [withoutHandle, myHandle_eq ((curWg_dropWeights ..).trans (curWg_setWg h _)), find_put_same]
  rfl

section
variable {d : Field} {s : State} (h : Passes s { lits := [(d.toNat, 64)], need := .coreScribe })
include h

theorem exec_tdclr_unowned (hx : myHandle s d.toNat = none) : exec (.tdclr d) s = .next (raiseState .tdesc 0 0 s) := by
  change execTdclr d s = _
  rw [execTdclr, guarded_passed h.1 h.2]
  simp only [hx, raise_next]

theorem exec_tdclr_owned {w : Nat} {g : Workgroup} {t : Tensor} (hcur : curWg s = some (w, g)) (ht : g.tds.find d.toNat = some t)
    (hlive : t.live = true) : exec (.tdclr d) s = .next (advance (withoutHandle s w g d.toNat t)) := by
  obtain ⟨-, hg⟩ := curWg_cases hcur
  have hx : myHandle s d.toNat = some t.img := by simp [myHandle_eq hcur, ht, hlive]
  change execTdclr d s = _
  rw [execTdclr, guarded_passed h.1 h.2]
  simp only [hx, hcur, updWg, hg, ht, done_next, withoutHandle]

end

theorem descriptorResults : Claims.DescriptorResults := by
  refine ⟨fun d a s l s' w g h hcur => ⟨fun ha hl => ?_, exec_tdset_misaligned h⟩,
    fun a b s s' img h ha hx hw => exec_tdget_owned h ha hx hw,
    fun a b s h => ⟨exec_tdget_misaligned h, exec_tdget_unowned h⟩,
    fun d s w g t v h hcur ht hlive hv => ?_, fun d s => exec_tdclr_unowned⟩
  · rw [exec_tdset_aligned h hcur ha hl]
    exact ⟨fun hs => if_pos hs, fun hs => if_neg hs⟩
  · subst hv
    exact ⟨exec_tdclr_owned h hcur ht hlive, myHandle_withoutHandle hcur ..⟩

/-! PTLOAD and PTREAD (R78, R259) -/

theorem exec_ptload_aligned {a b : Field} {s s' : State} {l : List Byte} {w : Nat} {g : Workgroup}
    (h : Passes s { ops := [opRp a], lits := [(b.toNat, 32)], need := .core }) (hcur : curWg s = some (w, g))
    (ha : (readP s a).toNat % 64 = 0) (hl : readParts s (me s) (readP s a).toNat 16 4 = .ok (l, s')) :
    exec (.ptload a b) s = if patternForeign s w b.toNat = true ∨ bits (BitVec.ofNat 512 (ofBytes l)).toNat 511 448 ≠ 0 then
        .next (raiseState .tdesc 0 0 s)
      else .next (advance (updWg s' w fun g => { g with pts := g.pts.put b.toNat (BitVec.ofNat 512 (ofBytes l)) })) := by
  change execPtload a b s = _
  rw [execPtload, guarded_passed h.1 h.2]
  simp only [if_neg (not_not_intro ha), run_ok hl, hcur, Option.elim, Bool.or_eq_true, bne_iff_ne, raise_next, done_next]

section
variable {d a b : Field} {s : State} {w : Nat} {g : Workgroup} (h : Passes s { ops := [opW d, opR a], lits := [(b.toNat, 32)], need := .core })
  (hcur : curWg s = some (w, g))
include h hcur

theorem exec_ptread_loaded {t : BitVec 512} (ht : g.pts.find b.toNat = some t) :
    exec (.ptread d a b) s = writes s d (BitVec.ofNat 64
      (bits t.toNat (6 * ((readR s a).toNat % 64) + 5) (6 * ((readR s a).toNat % 64))
        + 64 * (if bitAt t.toNat (384 + (readR s a).toNat % 64) then 1 else 0))) := by
  change execPtread d a b s = _
  rw [execPtread, guarded_passed h.1 h.2]
  simp only [hcur, Option.bind_some, ht, done_next, writes]
  rfl

theorem exec_ptread_unloaded (ht : g.pts.find b.toNat = none) : exec (.ptread d a b) s = .next (raiseState .tdesc 0 0 s) := by
  change execPtread d a b s = _
  rw [execPtread, guarded_passed h.1 h.2]
  simp only [hcur, Option.bind_some, ht, raise_next]

end

theorem patternResults : Claims.PatternResults := by
  refine ⟨fun a b s s' l w g h hcur ha hl => ?_, fun d a b s w g h hcur => ⟨fun t => exec_ptread_loaded h hcur, exec_ptread_unloaded h hcur⟩⟩
  rw [exec_ptload_aligned h hcur ha hl]
  exact ⟨fun hf hb => if_neg (not_or.2 ⟨by rw [hf]; exact Bool.false_ne_true, not_not_intro hb⟩), fun hbad => if_pos hbad⟩

/-- Settles O31: each form by the alignment of its address and by who owns the handle or the table. -/
theorem handleResults : Obligations.HandleResults := ⟨descriptorResults, patternResults⟩

end Sys2Proof.Laws
end

section
/-! SUPPORT. What the acceptance of a matrix operation leaves as it is, and the queue that it makes longer (R75, R272, R361). -/

namespace Sys2Proof.Laws

open Sys2Proof Sys2Proof.Machine Sys2Proof.Claims

@[simp] theorem useLeaf_cores (s : State) (t : TlbEnt) (wr : Bool) : (useLeaf s t wr).cores = s.cores :=
  (apply_ite State.cores ..).trans (ite_self _)

@[simp] theorem holdSpans_cores (i : Issuer) (wr : Bool) (l : List (Nat × Nat)) (s : State) : (holdSpans i wr l s).cores = s.cores := by
  refine List.foldlRecOn (motive := fun t : State => t.cores = s.cores) l _ rfl fun t ht x _ => ?_
  split
  · cases findLeaf t (walkDie i.die) i.part x.1 with
    | none => exact ht
    | some y => exact (useLeaf_cores ..).trans ht
  · exact ht

@[simp] theorem coreAt_holdSpans (i : Issuer) (wr : Bool) (l : List (Nat × Nat)) (s : State) (cid : Nat) :
    coreAt (holdSpans i wr l s) cid = coreAt s cid := by rw [coreAt, holdSpans_cores, coreAt]

@[simp] theorem coreAt_loadSet (s : State) (cid w c : Nat) : coreAt (loadSet s cid w) c = coreAt s c := by
  unfold loadSet
  dsimp only
  split
  · split
    · exact coreAt_updCtx ..
    · rw [coreAt_updCtx, physRead_shape]
      rfl
  · rfl

/-- An engine that holds no set takes one from its slot, and no set goes to memory. -/
theorem takeEngine_of_empty {s : State} {cid : Nat} (w : Nat) (h : (coreAt s cid).resident = none) :
    takeEngine s cid w = updCore (loadSet s cid w) cid fun c => { c with resident := some w } := by
  simp [takeEngine, h]

/-- The set that an operation needs is taken up at its acceptance where the engine holds none (R272). -/
def withEngine (s : State) (cid w : Nat) : State := if (coreAt s cid).resident.isNone then takeEngine s cid w else s

@[simp] theorem withEngine_mem (s : State) (cid w : Nat) : (withEngine s cid w).mem = s.mem := by
  unfold withEngine
  split
  · next h => rw [takeEngine_of_empty w (Option.isNone_iff_eq_none.1 h), updCore_mem, loadSet_mem]
  · rfl

@[simp] theorem withEngine_mq (s : State) (cid w : Nat) : (coreAt (withEngine s cid w) cid).mq = (coreAt s cid).mq := by
  unfold withEngine
  split
  · next h => rw [takeEngine_of_empty w (Option.isNone_iff_eq_none.1 h), coreAt_updCore, coreAt_loadSet]
  · rfl

@[simp] theorem setMatQueue_mq (s : State) (cid : Nat) (q : List MatOp) : (coreAt (setMatQueue s cid q) cid).mq = q := by
  rw [setMatQueue, coreAt_updCore, Core.setQueue]

/-- The state in which an accepted operation enters the queue: its translations held, its context's engine used (R272, R361). -/
def prepared (s : State) (o : MatOp) (cid : Nat) : State :=
  withEngine (updCtx (holdSpans (issuer s (.scribe o.wg)) true o.spans.2.2 (holdSpans (issuer s (.scribe o.wg)) false o.spans.2.1
    (holdSpans (issuer s (.scribe o.wg)) false o.spans.1 s))) o.wg fun c => { c with used := true }) cid o.wg

theorem acceptOp_eq {s : State} {o : MatOp} {g : Workgroup} {cid : Nat} (hg : wg? s o.wg = some g) (hcid : g.cid? = some cid) :
    acceptOp s o = setMatQueue (prepared s o cid) cid ((coreAt (prepared s o cid) cid).mq ++ [o]) := by
  simp only [acceptOp, hg, Option.bind_some, hcid]
  rfl

theorem acceptOp_mq {s : State} {o : MatOp} {g : Workgroup} {cid : Nat} (hg : wg? s o.wg = some g) (hcid : g.cid? = some cid) :
    (coreAt (acceptOp s o) cid).mq = (coreAt s cid).mq ++ [o] := by
  simp [acceptOp_eq hg hcid, prepared]

theorem acceptOp_mem {s : State} {o : MatOp} {g : Workgroup} {cid : Nat} (hg : wg? s o.wg = some g) (hcid : g.cid? = some cid) :
    (acceptOp s o).mem = s.mem := by
  simp [acceptOp_eq hg hcid, prepared]

end Sys2Proof.Laws
end

section
/-! SUPPORT. The forms that queue an operation (R262, R272, R274, R280, R288, R289) and the operand checks of a product (R280). -/

namespace Sys2Proof.Laws

open Sys2Proof Sys2Proof.Machine Sys2Proof.Claims

/-! The field checks, and a context with operations held (R172, R262, R277) -/

theorem matForm_passed {fm : Form} {s : State} {w : Nat} {k : Nat → State → Result} (h : MatPasses s fm w) : matForm fm s k = k w s := by
  obtain ⟨hp, ⟨g, hcur⟩, hheld⟩ := h
  rw [matForm, guarded_passed hp.1 hp.2]
  simp only [hcur, hheld, List.isEmpty_nil, if_true]

theorem matForm_held {fm : Form} {s : State} {w : Nat} {g : Workgroup} {k : Nat → State → Result} (h : Passes s { fm with need := .matrix })
    (hcur : curWg s = some (w, g)) (hheld : (ctxOf s w).held ≠ []) : matForm fm s k = .next s := by
  rw [matForm, guarded_passed h.1 h.2]
  simp only [hcur, List.isEmpty_iff, if_neg hheld]

theorem exec_mrows (a : Field) (s : State) : exec (.mrows a) s = countForm (fun c n => { c with ract := n }) a s := rfl

theorem exec_mcols (a : Field) (s : State) : exec (.mcols a) s = countForm (fun c n => { c with cact := n }) a s := rfl

/-- Every form of the engine is an effect behind the same checks, and so waits (R262). -/
theorem exec_matForms_held {d a b : Field} {p : Instr × Form} (hp : p ∈ matForms d a b) {s : State} {w : Nat} {g : Workgroup}
    (h : Passes s p.2) (hcur : curWg s = some (w, g)) (hheld : (ctxOf s w).held ≠ []) : exec p.1 s = .next s := by
  revert p
  simp only [matForms, List.forall_mem_cons, List.not_mem_nil, false_imp_iff, implies_true, and_true]
  exact ⟨fun h => (matForm_held h hcur hheld : execMzero d s = _), fun h => (matForm_held h hcur hheld : mulForm 1 d a b s = _),
    fun h => (matForm_held h hcur hheld : mulForm 2 d a b s = _), fun h => (matForm_held h hcur hheld : execMstore d a b s = _),
    fun h => (matForm_held h hcur hheld : imageForm 4 d a s = _), fun h => (matForm_held h hcur hheld : imageForm 5 d a s = _),
    fun h => (matForm_held h hcur hheld : execMflag d a s = _), fun h => (matForm_held h hcur hheld : execMcomp a b s = _),
    fun h => (exec_mrows a s).trans (matForm_held h hcur hheld), fun h => (exec_mcols a s).trans (matForm_held h hcur hheld)⟩

/-! The hand-over of an operation -/

theorem issues_of_eq {r : Result} {s : State} {o : MatOp} (h : r = issueMat s o) : Issues r s o := by
  subst h
  unfold issueMat
  refine ⟨fun ⟨hstall, hmem⟩ => ?_, fun hstall => if_pos hstall, fun c v hstall hmem => ?_⟩
  all_goals simp only [hstall, hmem, Bool.false_eq_true, if_false, done_next, raise_next]

theorem exec_mzero {d : Field} {s : State} {w : Nat} (h : MatPasses s { lits := [(d.toNat, 4)] } w) :
    exec (.mzero d) s = issueMat s (matOp s w 0 d.toNat 0 0) := by
  change execMzero d s = _
  rw [execMzero, matForm_passed h]
  rfl

section
variable {d a b : Field} {s : State} {w : Nat} {x y : Desc} (h : MatPasses s { lits := [(d.toNat, 4), (a.toNat, 64), (b.toNat, 64)] } w)
  (hx : myHandle s a.toNat = some x) (hy : myHandle s b.toNat = some y)
include h hx hy

theorem mulForm_checked {fn : Nat} (hc : mulCheck (fn == 2) d.toNat x y = none) :
    mulForm fn d a b s = issueMat s { matOp s w fn d.toNat x y with tag := (b.toNat, myVer s b.toNat) } := by
  rw [mulForm, matForm_passed h]
  simp only [hx, hy, hc]
  rfl

theorem mulForm_refused {fn : Nat} {c : Cause} (hc : mulCheck (fn == 2) d.toNat x y = some c) :
    mulForm fn d a b s = .next (raiseState c 0 0 s) := by
  rw [mulForm, matForm_passed h]
  simp only [hx, hy, hc, raise_next]

end

theorem exec_mstore {d a b : Field} {s : State} {w : Nat} {x : Desc} (h : MatPasses s { ops := [opR b], lits := [(d.toNat, 4), (a.toNat, 64)] } w)
    (hx : myHandle s a.toNat = some x) (hmode : (readR s b).toNat % 8 ≤ 5) (hok : storeOk x = true) (hacc : tdTr x = 64 → d = 0) :
    exec (.mstore d a b) s = issueMat s { matOp s w 3 d.toNat 0 x with mode := (readR s b).toNat % 8 } := by
  have hacc' : ¬ (tdTr x = 64 ∧ d ≠ 0) := fun ⟨h64, hd⟩ => hd (hacc h64)
  change execMstore d a b s = _
  rw [execMstore, matForm_passed h]
  simp only [if_neg (Nat.not_lt.2 hmode), hx, hok, Bool.not_true, Bool.false_eq_true, if_false, if_neg hacc']
  rfl

theorem imageForm_checked {fn : Nat} {d a : Field} {s : State} {w : Nat} {x : Desc} (h : MatPasses s { lits := [(d.toNat, 4), (a.toNat, 64)] } w)
    (hx : myHandle s a.toNat = some x) (htile : ImageTile x d) : imageForm fn d a s = issueMat s (matOp s w fn d.toNat 0 x) := by
  obtain ⟨hfmt, hsquare, hrows, hacc⟩ := htile
  have htile' : (!(tdFmt x == 0x0C && tdTr x == tdTc x && (tdTr x == 32 || tdTr x == 64))) = false := by
    simpa [hfmt, ← hsquare] using Decidable.or_iff_not_imp_left.1 hrows
  have hacc' : ¬ (tdTr x = 64 ∧ d ≠ 0) := fun ⟨h64, hd⟩ => hd (hacc h64)
  rw [imageForm, matForm_passed h]
  simp only [hx, htile', Bool.false_eq_true, if_false, if_neg hacc']
  rfl

theorem matrixIssueResults : Claims.MatrixIssueResults := by
  refine ⟨fun d a b p hp s w g h hcur hheld => ?_, fun d s w h => ?_, ?_, fun d a b s w x h hx hmode hok hacc => ?_, ?_,
    fun s o g cid hg hcid => ⟨acceptOp_mq hg hcid, acceptOp_mem hg hcid⟩⟩
  · exact exec_matForms_held hp h hcur hheld
  · exact issues_of_eq (exec_mzero h)
  · simp only [List.forall_mem_cons, List.not_mem_nil, false_imp_iff, implies_true, and_true]
    refine ⟨fun d a b s w x y h hx hy => ⟨fun hc => ?_, fun c => mulForm_refused (fn := 1) h hx hy⟩,
      fun d a b s w x y h hx hy => ⟨fun hc => ?_, fun c => mulForm_refused (fn := 2) h hx hy⟩⟩
    · exact issues_of_eq (mulForm_checked (fn := 1) h hx hy hc)
    · exact issues_of_eq (mulForm_checked (fn := 2) h hx hy hc)
  · exact issues_of_eq (exec_mstore h hx hmode hok hacc)
  · simp only [List.forall_mem_cons, List.not_mem_nil, false_imp_iff, implies_true, and_true]
    exact ⟨fun d a s w x h hx htile => issues_of_eq (imageForm_checked (fn := 4) h hx htile),
      fun d a s w x h hx htile => issues_of_eq (imageForm_checked (fn := 5) h hx htile)⟩

/-! The operand checks of a product (R280) -/

/-- Tiles that multiply: square outputs of 32 or 64, and one K length, a multiple of 32. -/
abbrev TilesPair (a b : Desc) : Prop :=
  tdTr a = tdTc b ∧ (tdTr a = 32 ∨ tdTr a = 64) ∧ tdTc a = tdTr b ∧ tdTc a % 32 = 0 ∧ tdTc a ≠ 0

/-- The first two checks. -/
abbrev ProductShape (a b : Desc) : Prop := TilesPair a b ∧ 1 ≤ tdFmt a ∧ tdFmt a ≤ 0x0A

/-- A product that fails one of them is turned away with TDESC, whatever else holds. -/
theorem mulCheck_of_not_shape {mmp : Bool} {acc : Nat} {a b : Desc} (h : ¬ ProductShape a b) : mulCheck mmp acc a b = some .tdesc := by
  rw [mulCheck]
  split
  · rfl
  · next hpair =>
    refine if_pos ?_
    have hpair' : TilesPair a b := by simpa [and_assoc, ← Decidable.or_iff_not_imp_left] using hpair
    have hfmt : ¬ (1 ≤ tdFmt a ∧ tdFmt a ≤ 0x0A) := fun hf => h ⟨hpair', hf⟩
    rw [Bool.not_eq_true', ← Bool.decide_and]
    exact decide_eq_false hfmt

/-- A check is passed where the list of checks answers no cause. -/
theorem ite_some_eq_none {α : Type} {p : Prop} [Decidable p] {x : α} {y : Option α} :
    (if p then some x else y) = none ↔ ¬ p ∧ y = none := by
  by_cases h : p
  · rw [if_pos h]
    exact ⟨nofun, fun hn => absurd h hn.1⟩
  · rw [if_neg h]
    exact ⟨fun hy => ⟨h, hy⟩, And.right⟩

/-- A product that passes its checks: an MMP's weights are a laminate in groups, and 64 rows take accumulator 0. -/
theorem mulCheck_none {mmp : Bool} {acc : Nat} {a b : Desc} (h : mulCheck mmp acc a b = none) :
    (mmp = true → tdFmt b = 0x10 ∧ tdG b ≠ 0) ∧ (tdTr a = 64 → acc = 0) := by
  simp only [mulCheck, ite_some_eq_none, and_true] at h
  obtain ⟨-, -, hlam, -, -, hacc⟩ := h
  refine ⟨?_, by simpa using hacc⟩
  rintro rfl
  obtain ⟨⟨hfmt, hg⟩, -⟩ : (tdFmt b = 0x10 ∧ tdG b ≠ 0) ∧ tdTc a % tdG b = 0 := by simpa using hlam
  exact ⟨hfmt, hg⟩

theorem matrixOperandChecks : Claims.MatrixOperandChecks := by
  refine fun mmp acc a b => ⟨fun h => mulCheck_of_not_shape ?_, fun h => mulCheck_of_not_shape ?_, fun h => (mulCheck_none h).2,
    fun h => (mulCheck_none h).1 rfl⟩
  · rintro ⟨⟨hcols, hrows, hk, h32, h0⟩, -⟩
    obtain hn | ⟨hn32, hn64⟩ | hn | hn | hn := h
    · exact hn hcols
    · exact hrows.elim hn32 hn64
    · exact hn hk
    · exact hn h32
    · exact h0 hn
  · rintro ⟨-, hlo, hhi⟩
    exact h.elim (Nat.one_le_iff_ne_zero.1 hlo) (Nat.not_lt.2 hhi)

end Sys2Proof.Laws
end

section
/-! SUPPORT. MFLAG, MCOMP, MROWS and MCOLS (R274, R290), and the engine's performance of the head of its queue (R24, R273, R282). -/

namespace Sys2Proof.Laws

open Sys2Proof Sys2Proof.Machine Sys2Proof.Claims

/-! MFLAG and MCOMP (R290) -/

section
variable {d a : Field} {s : State} {w : Nat} (h : MatPasses s { ops := [opW d], lits := [(a.toNat, 4)] } w)
include h

theorem exec_mflag_waits (hw : matStall s w false = true ∨ accPending s w a.toNat = true) : exec (.mflag d a) s = .next s := by
  change execMflag d a s = _
  rw [execMflag, matForm_passed h]
  exact if_pos ((Bool.or_eq_true ..).mpr hw)

/-- MFLAG with the engine's set at hand, by whether the set was lost. -/
theorem exec_mflag_ready (hs : matStall s w false = false) (hp : accPending s w a.toNat = false) :
    exec (.mflag d a) s = (ctxOf (withSet s w) w).bad.elim
      (writes (withSet s w) d (BitVec.ofNat 64 (accFlags (ctxOf (withSet s w) w) a.toNat))) fun c => .next (raiseState c 0 0 s) := by
  change execMflag d a s = _
  rw [execMflag, matForm_passed h]
  simp only [hs, hp, Bool.or_self, Bool.false_eq_true, if_false, withSet, myCid]
  split
  · next hbad => rw [hbad, Option.elim_some, raise_next]
  · next hbad => rw [hbad, Option.elim_none, done_next, writes]

end

section
variable {a b : Field} {s : State} {w : Nat} (h : MatPasses s { ops := [opR a, opR b] } w)
include h

theorem exec_mcomp_aligned (ha : (readR s a).toNat % 8 = 0) :
    exec (.mcomp a b) s = issueMat s { matOp s w 7 0 0 0 with addr := (readR s a).toNat, inc := (readR s b).toNat } := by
  change execMcomp a b s = _
  rw [execMcomp, matForm_passed h]
  exact if_neg (not_not_intro ha)

theorem exec_mcomp_misaligned (ha : (readR s a).toNat % 8 ≠ 0) : exec (.mcomp a b) s = .next (raiseState .misalign (readR s a).toNat 0 s) := by
  change execMcomp a b s = _
  rw [execMcomp, matForm_passed h]
  exact if_pos ha

end

/-! MROWS and MCOLS (R274) -/

section
variable {f : Ctx → Nat → Ctx} {a : Field} {s : State} {w : Nat} (h : MatPasses s { ops := [opR a] } w)
include h

theorem countForm_inRange (hlo : 1 ≤ (readR s a).toNat) (hhi : (readR s a).toNat ≤ 64) :
    countForm f a s = .next (advance (updCtx s w fun c => f c (readR s a).toNat)) := by
  rw [countForm, matForm_passed h]
  exact if_neg (not_or.2 ⟨Nat.one_le_iff_ne_zero.1 hlo, Nat.not_lt.2 hhi⟩)

theorem countForm_outOfRange (hn : (readR s a).toNat = 0 ∨ 64 < (readR s a).toNat) : countForm f a s = .next (raiseState .illegal 0 0 s) := by
  rw [countForm, matForm_passed h]
  exact if_pos hn

end

/-! The head of the queue (R273) -/

section
variable {cid : Nat} {s : State} {o : MatOp} {l : List MatOp}

/-- An MMD reads its operands and renews the active outputs (R281). -/
theorem run_mmd (hfn : o.fn = 1) (hbad : (ctxOf s o.wg).bad = none) : o.run s cid =
    (gather s (matIssuer s o.wg cid) [] o.spans.1).bind fun r => (gather r.2 (matIssuer s o.wg cid) r.1 o.spans.2.1).bind fun q =>
      .ok (updActive q.2 o fun i j w => mmdSum q.1 o.da o.db i j w, mmdCycles o.da o.db) := by
  simp only [MatOp.run, hfn, hbad]
  rfl

/-- An MMD takes the core-cycles of R282. -/
theorem run_mmd_cycles {t : State} {n : Nat} (hfn : o.fn = 1) (h : o.run s cid = .ok (t, n)) : n = mmdCycles o.da o.db := by
  cases hbad : (ctxOf s o.wg).bad with
  | some c => simp [MatOp.run, hfn, hbad] at h
  | none =>
    obtain ⟨r, -, h⟩ := bind_ok ((run_mmd hfn hbad).symm.trans h)
    obtain ⟨q, -, h⟩ := bind_ok h
    cases h
    rfl

/-- An operation that was performed leaves the queue, and the context's held ones follow. -/
def performed (t s : State) (cid : Nat) : State :=
  refillQueue (updCore t cid fun c => { c with mq := c.mq.drop 1, mqSince := coreRaw s cid }) cid

variable (hq : (coreAt s cid).mq = o :: l) (hfree : engineFree s cid o.wg = true) (hacc : accepts s (matEid cid) = true)
  (hruns : coreRuns s cid = true)
include hq hfree hacc hruns

theorem exec_matrixOpPerform_ok {t : State} {n : Nat} (hrun : o.run (takeEngine s cid o.wg) cid = .ok (t, n)) :
    exec (.matrixOpPerform cid) s = if (coreAt s cid).mqSince + n ≤ coreRaw s cid then .next (performed t s cid) else .next s := by
  change execMatrixOpPerform cid s = _
  simp only [execMatrixOpPerform, hq, hfree, hacc, hruns, Bool.and_self, if_true, matStep, hrun, Out.bind, off, performed]

theorem exec_matrixOpPerform_bad {c : Cause} {v : Nat} (hrun : o.run (takeEngine s cid o.wg) cid = .bad c v) :
    exec (.matrixOpPerform cid) s = .next (matFault s cid o c v) := by
  change execMatrixOpPerform cid s = _
  simp only [execMatrixOpPerform, hq, hfree, hacc, hruns, Bool.and_self, if_true, matStep, hrun, Out.bind]

theorem exec_matrixOpPerform_wait (hrun : o.run (takeEngine s cid o.wg) cid = .wait) : exec (.matrixOpPerform cid) s = .next s := by
  change execMatrixOpPerform cid s = _
  simp only [execMatrixOpPerform, hq, hfree, hacc, hruns, Bool.and_self, if_true, matStep, hrun, Out.bind]

end

/-- The core-cycles of an MMP (R24) as a sum over its groups and outputs' columns. -/
theorem mmpCycles_eq_sum (m : SMap Byte) (o : MatOp) : mmpCycles m o =
    ((((List.range (tdTc o.da / tdG o.db)).filter (groupIn o.db)).map fun g => ((List.range o.shape).map fun j =>
      o.rows * (if j < o.cols then Max.max (tdG o.db) (4 * (groupSteps m o.db j g + 1)) else tdG o.db) + (o.shape - o.rows) * tdG o.db).sum).sum
      + 32767) / 32768 := by
  simp only [mmpCycles, List.sum_eq_foldl]

theorem matrixControlResults : Claims.MatrixControlResults := by
  refine ⟨fun d a s w h => ⟨fun hs hp => ?_, exec_mflag_waits h⟩, fun a b s w h => ⟨fun ha => ?_, exec_mcomp_misaligned h⟩,
    fun a s w h hlo hhi => ⟨(exec_mrows a s).trans (countForm_inRange h hlo hhi), (exec_mcols a s).trans (countForm_inRange h hlo hhi)⟩,
    fun a s w h hn => ⟨(exec_mrows a s).trans (countForm_outOfRange h hn), (exec_mcols a s).trans (countForm_outOfRange h hn)⟩,
    fun cid s o l hq hfree hacc hruns => ?_, mmpCycles_eq_sum⟩
  · rw [exec_mflag_ready h hs hp]
    exact ⟨fun hbad => by rw [hbad, Option.elim_none], fun c hbad => by rw [hbad, Option.elim_some]⟩
  · exact issues_of_eq (exec_mcomp_aligned h ha)
  · refine ⟨fun t n hrun => ⟨fun htime => ?_, fun htime => ?_, fun hfn => run_mmd_cycles hfn hrun⟩,
      fun c v => exec_matrixOpPerform_bad hq hfree hacc hruns, exec_matrixOpPerform_wait hq hfree hacc hruns⟩
    · exact (exec_matrixOpPerform_ok hq hfree hacc hruns hrun).trans (if_pos htime)
    · exact (exec_matrixOpPerform_ok hq hfree hacc hruns hrun).trans (if_neg (Nat.not_le.2 htime))

/-- Settles O36: a form of the engine is its operation's hand-over behind its checks, which acceptance puts at the queue's end; the engine's
turn is what the head of its queue comes to once its core-cycles have passed. -/
theorem matrixResults : Obligations.MatrixResults := ⟨matrixIssueResults, matrixOperandChecks, matrixControlResults⟩

end Sys2Proof.Laws
end

section
/-! SUPPORT. A control context between its program and its vector: the entry of an event, a double fault, and the return (R334, R338, R339). -/

namespace Sys2Proof.Laws

open Sys2Proof Sys2Proof.Machine Sys2Proof.Claims

/-! The bits of ESTAT (R338) -/

/-- EIE of an entered vector is clear. -/
theorem estat_entered_eie (e : Word64) : ((e &&& ~~~3#64) ||| ((e &&& 1#64) <<< 1)).getLsbD 0 = false := by simp

/-- PIE of an entered vector is what EIE was. -/
theorem estat_entered_pie (e : Word64) : ((e &&& ~~~3#64) ||| ((e &&& 1#64) <<< 1)).getLsbD 1 = e.getLsbD 0 := by simp

theorem and_one_of_getLsbD {e : Word64} (h : e.getLsbD 0 = true) : e &&& 1#64 = 1#64 := by
  ext i hi
  rcases Nat.eq_zero_or_pos i with rfl | hp
  · simpa using h
  · simp [Nat.ne_of_gt hp]

/-- EIE of a return is what PIE was. -/
theorem estat_returned_eie (e : Word64) : ((e &&& ~~~1#64) ||| ((e >>> 1) &&& 1#64)).getLsbD 0 = e.getLsbD 1 := by simp

theorem estat_returned_above (e : Word64) {j : Nat} (h : 0 < j) : ((e &&& ~~~1#64) ||| ((e >>> 1) &&& 1#64)).getLsbD j = e.getLsbD j := by
  have h1 : (1#64).getLsbD j = false := by simp [BitVec.getLsbD_one, Nat.ne_of_gt h]
  have hw : decide (j < 64) = false → e.getLsbD j = false := fun hj => BitVec.getLsbD_of_ge _ _ (Nat.not_lt.1 (of_decide_eq_false hj))
  rw [BitVec.getLsbD_or, BitVec.getLsbD_and, BitVec.getLsbD_and, BitVec.getLsbD_not, h1]
  cases hj : decide (j < 64) with
  | false => rw [hw hj, Bool.false_and, Bool.and_false, Bool.or_false]
  | true => simp

/-! TRAP and BRK of a control context (R334, R339) -/

theorem raiseState_control {s : State} {n : Nat} {c : Cause} {faddr : Nat} {info : Word64} (h : s.cur = .control n) :
    raiseState c faddr info s = raiseControl s n c faddr info := by simp only [raiseState, h]

theorem raiseControl_enabled {s : State} {n : Nat} {c : Cause} {faddr : Nat} {info : Word64} (hc : c = .trap ∨ c = .brk)
    (h : (ctl s n).estat.getLsbD 0 = true) : raiseControl s n c faddr info = takeEvent s n (ctl s n).pc c.code info := by
  rcases hc with rfl | rfl
  · exact if_pos h
  · exact if_pos h

theorem raiseControl_disabled {s : State} {n : Nat} {c : Cause} {faddr : Nat} {info : Word64} (h : (ctl s n).estat.getLsbD 0 = false) :
    raiseControl s n c faddr info = doubleFault s n c faddr info := if_neg (Bool.eq_false_iff.1 h)

/-- An event's entry: what it writes of its context, and what it leaves of it (R338, R339). -/
theorem ctl_takeEvent (s : State) (n epc ecause : Nat) (einfo : Word64) :
    ctl (takeEvent s n epc ecause einfo) n = { ctl s n with
      epc := BitVec.ofNat 64 epc, ecause := BitVec.ofNat 64 ecause, einfo := einfo,
      estat := ((ctl s n).estat &&& ~~~3#64) ||| (((ctl s n).estat &&& 1#64) <<< 1), pc := (ctl s n).evec.toNat, mode := .ready } :=
  ctl_updCtl ..

theorem ctl_takeEvent_other (s : State) {n m : Nat} (epc ecause : Nat) (einfo : Word64) (h : m ≠ n) :
    ctl (takeEvent s n epc ecause einfo) m = ctl s m := ctl_updCtl_other _ _ h

theorem trapEntersEvent : Claims.TrapEntersEvent := by
  intro p hp k s n h hc he
  have event : ∀ c : Cause, c = .trap ∨ c = .brk → exec (p.1 k) s = .next (raiseState c 0 (k.signExtend 64) s) → BitVec.ofNat 64 c.code = p.2 →
      ∃ t, exec (p.1 k) s = .next t ∧ t = { s with ctl := t.ctl } ∧ (∀ m, m ≠ n → ctl t m = ctl s m)
      ∧ (ctl t n).epc = BitVec.ofNat 64 (ctl s n).pc ∧ (ctl t n).ecause = p.2 ∧ (ctl t n).einfo = k.signExtend 64
      ∧ (ctl t n).estat = ((ctl s n).estat &&& ~~~3#64) ||| 2#64 ∧ (ctl t n).pc = (ctl s n).evec.toNat
      ∧ (ctl t n).s = (ctl s n).s ∧ (ctl t n).lvl = (ctl s n).lvl ∧ (ctl t n).evec = (ctl s n).evec := by
    intro c hcause hx hcode
    rw [raiseState_control hc, raiseControl_enabled hcause he] at hx
    refine ⟨_, hx, rfl, fun m hm => ctl_takeEvent_other _ _ _ _ hm, ?_⟩
    rw [ctl_takeEvent]
    exact ⟨rfl, hcode, rfl, by simp only [and_one_of_getLsbD he]; rfl, rfl, rfl, rfl, rfl⟩
  have pairs : p = (Instr.trap, 0x30#64) ∨ p = (Instr.brk, 0x31#64) := by simpa using hp
  rcases pairs with rfl | rfl
  · exact event .trap (.inl rfl) (exec_trap (p := (Instr.trap, Cause.trap)) (by simp) h k) rfl
  · exact event .brk (.inr rfl) (exec_trap (p := (Instr.brk, Cause.brk)) (by simp) h k) rfl

/-- A double fault stops its context: CTXCFG.EN is clear, the device log has an entry more, no other context has changed (R339). -/
theorem doubleFault_spec (s : State) (n : Nat) (c : Cause) (faddr : Nat) (info : Word64) :
    ∀ t, t = doubleFault s n c faddr info → (ctl t n).run = false ∧ bitAt (csrGet t (0x400 + n) 0) 31 = false
      ∧ (∃ x, t.posts = s.posts ++ [x] ∧ x.log = 64) ∧ (∀ m, m ≠ n → ctl t m = ctl s m) ∧ t.mem = s.mem := by
  rintro t rfl
  refine ⟨congrArg Ctl.run (get_put_same ..), ?_, ⟨_, rfl, rfl⟩, fun m hm => get_put_other _ _ _ _ _ hm, doubleFault_mem ..⟩
  rw [show csrGet (doubleFault s n c faddr info) (0x400 + n) 0 = _ from congrArg BitVec.toNat (get_put_same ..), bitAt_ofNat64 _ (by decide)]
  exact bitAt_setBits_clear ..

theorem doubleFaultStops : Claims.DoubleFaultStops := by
  intro p hp k s n h hc he
  have stops : ∀ c : Cause, exec (p k) s = .next (raiseState c 0 (k.signExtend 64) s) →
      exec (p k) s = .next (doubleFault s n c 0 (k.signExtend 64)) := by
    intro c hx
    rwa [raiseState_control hc, raiseControl_disabled he] at hx
  have forms : p = Instr.trap ∨ p = Instr.brk := by simpa using hp
  rcases forms with rfl | rfl
  · exact ⟨_, stops .trap (exec_trap (p := (Instr.trap, Cause.trap)) (by simp) h k), doubleFault_spec _ _ _ _ _ _ rfl⟩
  · exact ⟨_, stops .brk (exec_trap (p := (Instr.brk, Cause.brk)) (by simp) h k), doubleFault_spec _ _ _ _ _ _ rfl⟩

/-- Settles O40: a control context's TRAP or BRK is its SYNC event where EIE is set, and a double fault where it is clear. -/
theorem controlTrapResults : Obligations.ControlTrapResults := ⟨trapEntersEvent, doubleFaultStops⟩

/-! ERET, WFI and the events between two words (R338, R339) -/

theorem exec_eret_passed {s : State} (h : Privileged s [] 1) : exec .eret s = match s.cur with
    | .control n => .next (eventReturn s n)
    | _ => .next (raiseState .illegal 0 0 s) := by
  change execEret s = _
  unfold execEret
  refine (sysForm_passed h).trans ?_
  cases s.cur <;> rfl

theorem exec_wfi_passed {s : State} (h : Privileged s [] 1) : exec .wfi s = match s.cur with
    | .control n => .next (updCtl s n fun c => { c with mode := .wfi })
    | _ => .next (raiseState .illegal 0 0 s) := by
  change execWfi s = _
  unfold execWfi
  refine (sysForm_passed h).trans ?_
  cases s.cur <;> rfl

theorem ctl_eventReturn (s : State) (n : Nat) : ctl (eventReturn s n) n = { ctl s n with
    pc := (ctl s n).epc.toNat, estat := ((ctl s n).estat &&& ~~~1#64) ||| (((ctl s n).estat >>> 1) &&& 1#64) } := ctl_updCtl ..

theorem eventReturnResults : Claims.EventReturnResults := by
  refine ⟨fun s n h hc => ?_, fun s n h hc => ?_, fun s w h hc => ?_⟩
  · refine ⟨eventReturn s n, by rw [exec_eret_passed h, hc], rfl, fun m hm => ctl_updCtl_other _ _ hm, ?_⟩
    rw [ctl_eventReturn]
    exact ⟨rfl, estat_returned_eie _, fun j hj => estat_returned_above _ hj, rfl, rfl⟩
  · rw [exec_wfi_passed h, hc]
  · rw [exec_eret_passed h, exec_wfi_passed h, hc]
    exact ⟨rfl, rfl⟩

/-- A pending event is pending and enabled. -/
theorem pendingEvent_some {s : State} {n b : Nat} (h : pendingEvent s n = some b) :
    bitAt (epend s n) b = true ∧ (ctl s n).een.getLsbD b = true := by
  have hb := List.find?_some h
  rwa [bitAt_eq_testBit, Nat.testBit_and, Bool.and_eq_true, BitVec.testBit_toNat, ← bitAt_eq_testBit] at hb

/-- The entry of an event takes DIE's count with it, and is otherwise an entry of the vector (R338). -/
theorem ctl_eventEntry (s : State) (n b m : Nat) : ctl (eventEntry s n b) m = ctl (takeEvent s n (ctl s n).pc (0x80 + b) 0) m := by
  unfold eventEntry
  dsimp only
  split <;> rfl

theorem eventsAreTaken : Claims.EventsAreTaken := by
  intro n b s ht hr hm he hp
  have hx : exec (.controlEventTake n) s = .next (eventEntry s n b) := by
    change execControlEventTake n s = _
    simp only [execControlEventTake, betweenWords, ht, hr, hm, he, hp]
    rfl
  obtain ⟨hpend, heen⟩ := pendingEvent_some hp
  refine ⟨_, hx, ?_⟩
  simp only [ctl_eventEntry]
  rw [ctl_takeEvent]
  exact ⟨rfl, rfl, rfl, estat_entered_eie _, (estat_entered_pie _).trans he, hpend, heen, fun m hm => ctl_takeEvent_other _ _ _ _ hm⟩

/-- Settles O42: ERET undoes what an event's entry did to EIE and the pc; the event that is taken is pending and enabled. -/
theorem eventResults : Obligations.EventResults := ⟨eventReturnResults, eventsAreTaken⟩

end Sys2Proof.Laws
end

section
/-! SUPPORT. Level and unit checks of the privileged forms, and CSRR and CSRW behind theirs (R174, R177, R325, R338, R340-R344). -/

namespace Sys2Proof.Laws

open Sys2Proof Sys2Proof.Machine Sys2Proof.Claims

/-! A form below its level, and one on the wrong side (R174, R177) -/

theorem positionOk_context {s : State} (h : isVector s = false) (b : Bool) : positionOk s b = true := by
  unfold positionOk
  split
  · next hc => simp [isVector, hc] at h
  · rfl

/-- The field checks and the level check answer the same cause, so a form below its level answers it whatever its operands. -/
theorem checkForm_below {s : State} {fm : Form} (hp : positionOk s fm.term = true) (hl : (me s).lvl < fm.lvl) :
    checkForm s fm = some .illegal := by
  have hl' : (issuer s s.cur).lvl < fm.lvl := hl
  simp only [checkForm, hp, hl', Bool.not_true, Bool.false_eq_true, if_false, if_true, ite_self]

/-- At its level a form of a Scribe answers UNIT to a vector thread. -/
theorem checkForm_vector {s : State} {l : List Opnd} {n : Nat} (hv : isVector s = true) (hp : positionOk s false = true) (hl : n ≤ (me s).lvl)
    (ho : l.all (opFieldOk true) = true) : checkForm s (priv l n) = some .unit := by
  have hu : unitOk s .scribe = false := by
    unfold isVector at hv
    split at hv
    · next hc => simp [unitOk, hc]
    · cases hv
  have hl' : ¬ (issuer s s.cur).lvl < n := Nat.not_lt.2 hl
  simp [checkForm, priv, hp, hv, hu, hl', ho]

theorem privileged_checks :
    (∀ p ∈ privileged3, ∀ d a b, ChecksAs (p.1 d a b) (priv (ops3 d a b) p.2))
    ∧ (∀ p ∈ privileged2, ∀ d a, ChecksAs (p.1 d a) (priv (ops2 d a) p.2))
    ∧ (∀ i ∈ [Instr.eret, Instr.wfi], ChecksAs i (priv [] 1)) := by
  simp only [privileged3, privileged2, List.forall_mem_cons, List.not_mem_nil, false_implies, implies_true, and_true]
  and_intros
  all_goals
    intros
    exact ⟨_, fun _ => rfl⟩

theorem ChecksAs.below {i : Instr} {l : List Opnd} {n : Nat} {s : State} (h : ChecksAs i (priv l n)) (hr : canRun s = true)
    (hp : positionOk s false = true) (hl : (me s).lvl < n) : exec i s = .next (raiseState .illegal 0 0 s) :=
  h.failed hr (checkForm_below hp hl)

theorem ChecksAs.vector {i : Instr} {l : List Opnd} {n : Nat} {s : State} (h : ChecksAs i (priv l n)) (hr : canRun s = true)
    (hv : isVector s = true) (hp : positionOk s false = true) (hl : n ≤ (me s).lvl) (ho : l.all (opFieldOk true) = true) :
    exec i s = .next (raiseState .unit 0 0 s) :=
  h.failed hr (checkForm_vector hv hp hl ho)

/-- Settles O44: each privileged form is its effect behind one form's checks, of which the level's answers ILLEGAL and the unit's, after it, UNIT. -/
theorem privilegeChecked : Obligations.PrivilegeChecked := by
  obtain ⟨h3, h2, h0⟩ := privileged_checks
  refine ⟨fun p hp d a b s hr hv hl => (h3 p hp d a b).below hr (positionOk_context hv _) hl,
    fun p hp d a s hr hv hl => (h2 p hp d a).below hr (positionOk_context hv _) hl,
    fun s hr hv hl => ⟨(h0 _ (by simp)).below hr (positionOk_context hv _) hl, (h0 _ (by simp)).below hr (positionOk_context hv _) hl⟩,
    fun s hr hv hpos => ⟨fun p hp d a b => ⟨(h3 p hp d a b).below hr hpos, (h3 p hp d a b).vector hr hv hpos⟩,
      fun p hp d a => ⟨(h2 p hp d a).below hr hpos, (h2 p hp d a).vector hr hv hpos⟩,
      fun i hi => ⟨(h0 i hi).below hr hpos, fun hl => (h0 i hi).vector hr hv hpos hl rfl⟩⟩⟩

/-! CSRs (R338, R342-R344) -/

theorem exec_csrr_passed {d : Field} {c : BitVec 12} {s : State} (h : Passes s { ops := [opW d], lvl := csrNeed s c.toNat false }) :
    exec (.csrr d c) s = writes s d (BitVec.ofNat 64 (csrRead s (csrEnv s s.cur) c.toNat)) := by
  change execCsrr d c s = _
  exact (guarded_passed h.1 h.2).trans rfl

theorem exec_csrw_passed {d : Field} {c : BitVec 12} {s : State} (h : Passes s { ops := [opR d], lvl := csrNeed s c.toNat true }) {t : State}
    (ht : t = csrEffect (csrWrite s (csrEnv s s.cur) c.toNat (readR s d).toNat) (csrEnv s s.cur) c.toNat) :
    exec (.csrw d c) s = if stillRuns t then .next (advance t) else .next t := by
  subst ht
  change execCsrw d c s = _
  exact (guarded_passed h.1 h.2).trans rfl

/-- A CSR that an agent does not have needs a level that none has. -/
theorem csrNeed_unlisted {c : Nat} {s : State} (h : csrLevels c (isControl s) = none) (wr : Bool) : csrNeed s c wr = 99 := by
  simp only [csrNeed, h]

/-- What an event register holds of a value written to it. -/
theorem eventRegister_reads {p : Nat × Nat} (hp : p ∈ eventRegisters) (s : State) (e : CsrEnv) {v : Nat} (hv : v < 2 ^ 64) :
    csrRead (csrWrite s e p.1 v) e p.1 = v % p.2 := by
  revert p
  simp only [eventRegisters, List.forall_mem_cons, List.not_mem_nil, false_implies, implies_true, and_true]
  have := Nat.mod_eq_of_lt hv
  simp [csrWrite, csrRead]
  omega

/-- Settles O43: CSRR and CSRW behind the check of their level, and each event register's write read back. -/
theorem csrResults : Obligations.CsrResults := by
  refine ⟨fun d c s h => exec_csrr_passed h, fun d c s t h ht => ?_, fun d c s hr hv => ⟨fun hl => ?_, fun hl => ?_⟩, fun c s h => ?_,
    fun p hp s e v hv => eventRegister_reads hp s e hv⟩
  · rw [exec_csrw_passed h ht]
    exact ⟨fun hs => if_pos hs, fun hs => if_neg (Bool.eq_false_iff.1 hs)⟩
  · change execCsrr d c s = _
    exact guarded_failed hr (checkForm_below (positionOk_context hv false) hl)
  · change execCsrw d c s = _
    exact guarded_failed hr (checkForm_below (positionOk_context hv false) hl)
  · rw [csrNeed_unlisted h, csrNeed_unlisted h]
    decide

end Sys2Proof.Laws
end

section
/-! SUPPORT. Regions, channels, barriers, die registers and links through the privileged forms, each by what it checks (R340, R389, R393, R402). -/

namespace Sys2Proof.Laws

open Sys2Proof Sys2Proof.Machine Sys2Proof.Claims

/-! Regions (R340, R389) -/

section
variable {d a : Field} {s : State} (h : Privileged s (ops2 d a) 1)
include h

theorem exec_rgnflush_reserved (hr : rref (readR s a).toNat = none) : exec (.rgnflush d a) s = answers s d 7 := by
  change execRgnflush d a s = _
  unfold execRgnflush
  refine (sysForm_passed h).trans ?_
  simp only [hr, answer_eq_answers]

theorem exec_rgnflush_region {rx ry : Nat} (hr : rref (readR s a).toNat = some (rx, ry)) :
    exec (.rgnflush d a) s = (rotEntry s (namedPart s) rx ry).elim (answers s d 1) fun _ =>
      answers (setRegion s { regionGet s (namedPart s) rx ry with wrote := [] }) d 0 := by
  change execRgnflush d a s = _
  unfold execRgnflush
  refine (sysForm_passed h).trans ?_
  simp only [hr, answer_eq_answers]
  split
  · next he => rw [he, Option.elim_none]
  · next he => rw [he, Option.elim_some]

theorem exec_rgnq_passed : exec (.rgnq d a) s = ((rref (readR s a).toNat).bind fun r => rotEntry s (namedPart s) r.1 r.2).elim
    (answers s d 0xFFFFFFFF) fun v => answers s d (v % 2 ^ 16 + if bitAt v 30 then 2 ^ 16 else 0) := by
  change execRgnq d a s = _
  unfold execRgnq
  refine (sysForm_passed h).trans ?_
  simp only [answer_eq_answers]
  split
  · next v he =>
    rw [he, Option.elim_some]
    cases bitAt v 30 <;> rfl
  · next he => rw [he, Option.elim_none]

end

/-- OWNXFER of a region that its operand names, by the status of its checks (R340). -/
theorem exec_ownxfer_region {d a b : Field} {s : State} {rx ry : Nat} (h : Privileged s (ops3 d a b) 1)
    (hr : rref (readR s a).toNat = some (rx, ry)) :
    exec (.ownxfer d a b) s = if ownxferCheck s (namedPart s) rx ry (readR s b).toNat = 0 then
        .next (stalls (setRot s (namedPart s) rx ry (setBits ((rotEntry s (namedPart s) rx ry).getD 0) 30 30 1)) d
          (.ownxfer (namedPart s) rx ry (bits (readR s b).toNat 15 8) (bits (readR s b).toNat 7 0)))
      else answers s d (ownxferCheck s (namedPart s) rx ry (readR s b).toNat) := by
  change execOwnxfer d a b s = _
  unfold execOwnxfer
  refine (sysForm_passed h).trans ?_
  simp only [hr, answer_eq_answers, startForm_eq_stalls]
  split
  · next hc => rw [if_pos hc]
  · next hc => rw [if_neg hc]

theorem exec_ownxferComplete_quiet {n : Nat} {s : State} {f : PForm} {p rx ry d g d0 g0 : Nat} (hf : s.forms.find? (fun f => f.id == n) = some f)
    (hk : f.kind = .ownxfer p rx ry d g) (ho : rotOwner s p rx ry = some (d0, g0, true)) (hq : regionQuiet s p rx ry = true)
    (h0 : cgRuns s d0 g0 = true) (h1 : cgRuns s d g = true) :
    exec (.ownxferComplete n) s = .next (finishForm (moveRegion s p rx ry d0 g0 d g) f 0) := by
  change execOwnxferComplete n s = _
  simp only [execOwnxferComplete, hf, hk, ho, hq, h0, h1, Bool.and_self, if_true]

theorem regionResults : Claims.RegionResults := by
  refine ⟨fun d a s h hr => ⟨exec_rgnflush_reserved h hr, ?_⟩, fun d a s rx ry h hr => ⟨fun he => ⟨?_, ?_⟩, fun v he => ⟨?_, ?_⟩⟩,
    fun d a b s rx ry v h hr he => ⟨fun hc => ?_, fun e hc h0 => ?_⟩,
    fun n s f p rx ry d g d0 g0 hf hk ho hq h0 h1 => exec_ownxferComplete_quiet hf hk ho hq h0 h1⟩
  · rw [exec_rgnq_passed h, hr, Option.bind_none, Option.elim_none]
  · rw [exec_rgnflush_region h hr, he, Option.elim_none]
  · rw [exec_rgnq_passed h, hr, Option.bind_some, he, Option.elim_none]
  · rw [exec_rgnflush_region h hr, he, Option.elim_some]
  · rw [exec_rgnq_passed h, hr, Option.bind_some, he, Option.elim_some]
  · rw [exec_ownxfer_region h hr, if_pos hc, he, Option.getD_some]
  · rw [exec_ownxfer_region h hr, if_neg (hc ▸ h0), hc]

/-! Channels (R340) -/

/-- The operand of CHBIND, a channel with or without the bit that unbinds it. -/
theorem chbind_fields {c u : Nat} (hc : c < 16) (hu : u < 2) :
    maskBits (c + 256 * u) [(8, 8), (3, 0)] = c + 256 * u ∧ (c + 256 * u) % 16 = c ∧ bitAt (c + 256 * u) 8 = (u == 1) := by
  simp only [maskBits, bits, bitAt, Nat.shiftRight_eq_div_pow, List.map_cons, List.map_nil, List.foldl_cons, List.foldl_nil]
  refine ⟨by omega, by omega, ?_⟩
  rw [show (c + 256 * u) / 2 ^ 8 % 2 = u by omega]

section
variable {d a b : Field} {s : State} {c w : Nat} {g : Workgroup} (h : Privileged s (ops3 d a b) 1) (hw : wrefWg s (readR s a).toNat = some (w, g))
  (hc : c < 16)
include h hw hc

theorem exec_chbind_binds (hb : (readR s b).toNat = c) : exec (.chbind d a b) s =
    if (g.chans.find c).isSome then answers s d 0
    else if channelTaken s w c g then answers s d 4
    else answers (setChan s w c {}) d 0 := by
  obtain ⟨hm, hch, hu⟩ := chbind_fields hc (u := 0) (by decide)
  change execChbind d a b s = _
  unfold execChbind
  refine (sysForm_passed h).trans ?_
  simp only [Nat.mul_zero, Nat.add_zero] at hm hch hu
  simp only [hb, hm, hch, hu, hw, ne_eq, not_true_eq_false, if_false]
  rfl

theorem exec_chbind_unbinds (hb : (readR s b).toNat = c + 256) : exec (.chbind d a b) s =
    if channelTaken s w c g || (g.chans.find c).any (fun x => !x.recvs.isEmpty || !x.sends.isEmpty) then answers s d 4
    else answers (updWg s w fun g => { g with chans := g.chans.erase c }) d 0 := by
  obtain ⟨hm, hch, hu⟩ := chbind_fields hc (u := 1) (by decide)
  change execChbind d a b s = _
  unfold execChbind
  refine (sysForm_passed h).trans ?_
  simp only [Nat.mul_one] at hm hch hu
  simp only [hb, hm, hch, hu, hw, ne_eq, not_true_eq_false, if_false]
  rfl

end

/-- A bound channel has waiters as its lists are not empty. -/
theorem chan_waits (c : Option Chan) : (c.any fun x => !x.recvs.isEmpty || !x.sends.isEmpty) = true ↔ ∃ x, c = some x ∧ (x.recvs ≠ [] ∨ x.sends ≠ []) := by
  simp [Option.any_eq_true]

/-! Barriers (R340, R402) -/

theorem exec_pbset_passed {d a b : Field} {s : State} {pb n : Nat} (h : Privileged s (ops3 d a b) 1) (hp : pb = (readR s a).toNat)
    (hn : n = (readR s b).toNat) : exec (.pbset d a b) s =
      if 64 ≤ pb ∨ 2 ^ 20 ≤ n then answers s d 7
      else if !pbAssigned s (namedPart s) pb then answers s d 2
      else if !(s.pbs.get {} pb).arr.isEmpty then answers s d 3
      else answers { s with pbs := s.pbs.put pb { s.pbs.get {} pb with n := n } } d 0 := by
  subst hp hn
  change execPbset d a b s = _
  unfold execPbset
  exact (sysForm_passed h).trans rfl

/-! Die registers (R340, R393) -/

theorem exec_dierd_named {d a : Field} {s : State} {n o : Nat} (h : Privileged s (ops2 d a) 2) (ho : dieOperand (readR s a).toNat = some (n, o)) :
    exec (.dierd d a) s = answers (useFree s) d (dieRead s n o) := by
  change execDierd d a s = _
  unfold execDierd
  refine (sysForm_passed h).trans ?_
  simp only [ho, answer_eq_answers]

theorem exec_dierd_reserved {d a : Field} {s : State} (h : Privileged s (ops2 d a) 2) (ho : dieOperand (readR s a).toNat = none) :
    exec (.dierd d a) s = answers s d 0 := by
  change execDierd d a s = _
  unfold execDierd
  refine (sysForm_passed h).trans ?_
  simp only [ho, answer_eq_answers]

theorem exec_diewr_reserved {d a b : Field} {s : State} (h : Privileged s (ops3 d a b) 2) (ho : dieOperand (readR s a).toNat = none) :
    exec (.diewr d a b) s = answers s d 7 := by
  change execDiewr d a b s = _
  unfold execDiewr
  refine (sysForm_passed h).trans ?_
  simp only [ho, answer_eq_answers]

theorem exec_diewr_named {d a b : Field} {s : State} {n o : Nat} (h : Privileged s (ops3 d a b) 2)
    (ho : dieOperand (readR s a).toNat = some (n, o)) : exec (.diewr d a b) s =
      if !diePresent s n then answers s d 1
      else if !dregAssigned n o then answers s d 7
      else answers (dieWrite s n o (readR s b).toNat).1 d (dieWrite s n o (readR s b).toNat).2 := by
  change execDiewr d a b s = _
  unfold execDiewr
  refine (sysForm_passed h).trans ?_
  simp only [ho, answer_eq_answers]

/-! Links (R340, R393) -/

/-- A port that has been trained has its die out of quarantine and among those that are there. -/
theorem trained_spec {s : State} {n : Nat} (hn : n < 64) (hf : dieFitted n = true) :
    bitAt (dregGet (trained s n) 0 0x18) n = false ∧ diePresent (trained s n) n = true ∧ (trained s n).wgs = s.wgs ∧ (trained s n).mem = s.mem := by
  refine ⟨?_, by simp [diePresent, trained, hf], rfl, rfl⟩
  rw [show dregGet (trained s n) 0 0x18 = _ from dregGet_dregSet s 0 0x18 _, ← BitVec.toNat_ofNat, bitAt_ofNat64 _ hn, bitAt_setBits_clear]

theorem exec_linktrn_passed {d a : Field} {s : State} {x : Nat} (h : Privileged s (ops2 d a) 2) (hx : x = (readR s a).toNat) :
    exec (.linktrn d a) s =
      if x ≠ x % 16 then answers s d 7
      else if !dieFitted (x + 1) then answers s d 1
      else if dieInUse s (x + 1) then answers s d 4
      else if dieInTransition s (x + 1) then answers s d 3
      else if (freeValue s).getLsbD 0 then answers (useFree (trained s (x + 1))) d 0
      else answers (useFree s) d 8 := by
  subst hx
  change execLinktrn d a s = _
  unfold execLinktrn
  refine (sysForm_passed h).trans ?_
  simp only [answer_eq_answers]
  cases (freeValue s).getLsbD 0 <;> rfl

theorem unitFormResults : Claims.UnitFormResults := by
  refine ⟨fun d a b s x w g h hx hw => ⟨fun hc hn ht => ?_, fun hc hn ht => ?_, fun hc hs => ?_, fun hlo hhi => ?_⟩,
    fun d a b s pb n h hp hn => ?_, fun d a s n o h ho => exec_dierd_named h ho,
    fun d a b s ho => ⟨fun h => exec_dierd_reserved h ho, fun h => exec_diewr_reserved h ho⟩, fun d a b s n o h ho => ?_, fun d a s x h hx => ?_⟩
  · rw [exec_chbind_binds h hw hc hx.symm, if_neg (by simp [hn]), if_neg (by simp [ht])]
  · rw [exec_chbind_binds h hw hc hx.symm, if_neg (by simp [hn]), if_pos ht]
  · rw [exec_chbind_binds h hw hc hx.symm, if_pos hs]
  · have e := exec_chbind_unbinds h hw (c := x - 256) (by omega) (by omega)
    have refused := (Bool.or_eq_true_iff (x := channelTaken s w (x - 256) g)).trans (or_congr_right (chan_waits (g.chans.find (x - 256))))
    refine ⟨fun hb => e.trans (if_pos (refused.2 hb)), fun ht hq => e.trans (if_neg fun hb => ?_)⟩
    rcases refused.1 hb with ht' | ⟨c, hc, hne⟩
    · simp [ht] at ht'
    · obtain ⟨hr, hs⟩ := hq c hc
      exact hne.elim (fun hne => hne hr) fun hne => hne hs
  · rw [exec_pbset_passed h hp hn]
    refine ⟨fun hb => if_pos hb, fun h1 h2 ha => ?_, fun h1 h2 ha he => ?_, fun h1 h2 ha he => ?_⟩
    · rw [if_neg (by omega), if_pos (by simp [ha])]
    · rw [if_neg (by omega), if_neg (by simp [ha]), if_neg (by simp [he])]
    · rw [if_neg (by omega), if_neg (by simp [ha]), if_pos (by simp [he])]
  · rw [exec_diewr_named h ho]
    refine ⟨fun hp => if_pos (by simp [hp]), fun hp ha => ?_, fun hp ha => ?_⟩
    · rw [if_neg (by simp [hp]), if_pos (by simp [ha])]
    · rw [if_neg (by simp [hp]), if_neg (by simp [ha])]
  · rw [exec_linktrn_passed h hx]
    refine ⟨fun hb => if_pos (by omega), fun hb hf => ?_, fun hb hf hu => ?_, fun hb hf hu ht => ?_, fun hb hf hu ht => ?_⟩
    · rw [if_neg (by omega), if_pos (by simp [hf])]
    · rw [if_neg (by omega), if_neg (by simp [hf]), if_pos hu]
    · rw [if_neg (by omega), if_neg (by simp [hf]), if_neg (by simp [hu]), if_pos ht]
    · rw [if_neg (by omega), if_neg (by simp [hf]), if_neg (by simp [hu]), if_neg (by simp [ht])]
      obtain ⟨hq, hp, hwgs, hmem⟩ := trained_spec (s := s) (n := x + 1) (by omega) hf
      by_cases hv : (freeValue s).getLsbD 0 = true
      · exact ⟨useFree (trained s (x + 1)), .inl ⟨if_pos hv, hq, hp⟩, hwgs, hmem⟩
      · exact ⟨useFree s, .inr (if_neg hv), rfl, rfl⟩

/-- Settles O46: each form by what its operands name and what its checks find of it. -/
theorem unitResults : Obligations.UnitResults := ⟨regionResults, unitFormResults⟩

end Sys2Proof.Laws
end

section
/-! SUPPORT. The privileged forms on workgroups, and RESUME and THKILL on what a fault reference names (R29, R335-R337, R341, R371-R375). -/

namespace Sys2Proof.Laws

open Sys2Proof Sys2Proof.Machine Sys2Proof.Claims

/-! WGSAVE (R341, R371) -/

section
variable {d a b : Field} {s : State} (h : Privileged s (ops3 d a b) 1)
include h

theorem exec_wgsave_misaligned (hb : (readR s b).toNat % 4096 ≠ 0) : exec (.wgsave d a b) s = answers s d 7 := by
  change execWgsave d a b s = _
  unfold execWgsave
  exact (sysForm_passed h).trans (if_pos hb)

theorem exec_wgsave_refused (hb : (readR s b).toNat % 4096 = 0) (hc : saveCheck s (wrefWg s (readR s a).toNat) ≠ 0) :
    exec (.wgsave d a b) s = answers s d (saveCheck s (wrefWg s (readR s a).toNat)) := by
  change execWgsave d a b s = _
  unfold execWgsave
  refine (sysForm_passed h).trans ((if_neg (not_not_intro hb)).trans ?_)
  split
  · next h0 _ => exact absurd h0 hc
  · exact answer_eq_answers ..

theorem exec_wgsave_starts {w : Nat} {g : Workgroup} (hb : (readR s b).toNat % 4096 = 0) (hw : wrefWg s (readR s a).toNat = some (w, g))
    (hc : saveCheck s (some (w, g)) = 0) {t : State} {ok : Bool} (hs : startSave s w (readR s b).toNat none .form = (t, ok)) :
    exec (.wgsave d a b) s = if ok then .next (stalls t d (.wgsave w (readR s b).toNat)) else answers t d 4 := by
  change execWgsave d a b s = _
  unfold execWgsave
  refine (sysForm_passed h).trans ((if_neg (not_not_intro hb)).trans ?_)
  simp only [hw, hc, hs]
  cases ok
  · exact answer_eq_answers ..
  · exact startForm_eq_stalls ..

/-! WGMIGR (R341, R374) -/

theorem exec_wgmigr_reserved (hb : 2 ^ 16 ≤ (readR s b).toNat) : exec (.wgmigr d a b) s = answers s d 7 := by
  change execWgmigr d a b s = _
  unfold execWgmigr
  exact (sysForm_passed h).trans (if_pos hb)

theorem exec_wgmigr_refused (hb : (readR s b).toNat < 2 ^ 16) (hc : saveCheck s (wrefWg s (readR s a).toNat) ≠ 0) :
    exec (.wgmigr d a b) s = answers s d (saveCheck s (wrefWg s (readR s a).toNat)) := by
  change execWgmigr d a b s = _
  unfold execWgmigr
  refine (sysForm_passed h).trans ((if_neg (Nat.not_le.2 hb)).trans ?_)
  split
  · next h0 _ => exact absurd h0 hc
  · exact answer_eq_answers ..

section
variable {w : Nat} {g : Workgroup} {l : Launch} (hb : (readR s b).toNat < 2 ^ 16) (hw : wrefWg s (readR s a).toNat = some (w, g))
  (hc : saveCheck s (some (w, g)) = 0) (hl : launch? s g.part g.lid = some l)
include hb hw hc hl

theorem exec_wgmigr_full (hk : freeSaveSlot s l false = none) : exec (.wgmigr d a b) s = answers s d 5 := by
  change execWgmigr d a b s = _
  unfold execWgmigr
  refine (sysForm_passed h).trans ((if_neg (Nat.not_le.2 hb)).trans ?_)
  simp only [hw, hc, hl, Option.bind_some, hk, Option.map_none, answer_eq_answers]

theorem exec_wgmigr_starts {k : Nat} (hk : freeSaveSlot s l false = some k) {t : State} {ok : Bool}
    (hs : startSave s w (slotVa l k) (some k) (.migrate (readR s b).toNat) = (t, ok)) :
    exec (.wgmigr d a b) s = if ok then .next (stalls t d (.wgmigr w (readR s b).toNat)) else answers t d 4 := by
  change execWgmigr d a b s = _
  unfold execWgmigr
  refine (sysForm_passed h).trans ((if_neg (Nat.not_le.2 hb)).trans ?_)
  simp only [hw, hc, hl, Option.bind_some, hk, Option.map_some, hs]
  cases ok
  · exact answer_eq_answers ..
  · exact startForm_eq_stalls ..

end

/-! WGLOAD (R210, R341, R375, R416) -/

theorem exec_wgload_reserved (hb : 2 ^ 16 ≤ (readR s b).toNat) : exec (.wgload d a b) s = answers s d 7 := by
  change execWgload d a b s = _
  unfold execWgload
  exact (sysForm_passed h).trans (if_pos hb)

theorem exec_wgload_unnamed (hb : (readR s b).toNat < 2 ^ 16) (hw : wrefWg s (readR s a).toNat = none) :
    exec (.wgload d a b) s = answers s d 1 := by
  change execWgload d a b s = _
  unfold execWgload
  refine (sysForm_passed h).trans ((if_neg (Nat.not_le.2 hb)).trans ?_)
  simp only [hw, answer_eq_answers]

theorem exec_wgload_named {w : Nat} {g : Workgroup} {c : Option Nat} (hb : (readR s b).toNat < 2 ^ 16)
    (hw : wrefWg s (readR s a).toNat = some (w, g)) (hc : c = if (readR s b).toNat = 0xFFFF then none else some (readR s b).toNat) :
    exec (.wgload d a b) s =
      if g.saving.isSome then answers s d 3
      else if g.cid?.isSome then answers s d 4
      else if growing s || restoreWaits s w c then .next s
      else answers (restoreWg s w c).2 d (restoreWg s w c).1 := by
  subst hc
  change execWgload d a b s = _
  unfold execWgload
  refine (sysForm_passed h).trans ((if_neg (Nat.not_le.2 hb)).trans ?_)
  simp only [hw, answer_eq_answers]

end

/-! WGKILL (R341) -/

theorem exec_wgkill_passed {d a : Field} {s : State} (h : Privileged s (ops2 d a) 1) :
    exec (.wgkill d a) s = (wrefWg s (readR s a).toNat).elim (answers s d 1) fun x => answers (killWg s x.1) d 0 := by
  change execWgkill d a s = _
  unfold execWgkill
  refine (sysForm_passed h).trans ?_
  simp only [answer_eq_answers]
  split
  · next hw => rw [hw, Option.elim_none]
  · next hw => rw [hw, Option.elim_some]

/-- Settles O47: each form by its operands' checks, then by what its reference names and what the save or the restore answers. -/
theorem workgroupFormResults : Obligations.WorkgroupFormResults := by
  refine ⟨fun d a b s h hw h4 hb => ⟨?_, ?_, ?_⟩, fun d a b s w g h hw => ⟨fun t hc h4 => ⟨fun hs => ?_, fun hs => ?_⟩, fun hc => ⟨fun h4 => ?_, fun hb => ?_⟩,
    exec_wgsave_misaligned h⟩, fun d a b s h hb => ⟨exec_wgload_reserved h hb, exec_wgmigr_reserved h hb⟩,
    fun d a b s w g h hw hb => ⟨fun hs => ?_, fun hs hg => ?_, fun c hs hg hc => ?_⟩,
    fun d a b s w g l h hw hc hb hl => ⟨exec_wgmigr_full h hb hw hc hl, fun k t hk hs => ?_, fun k t hk hs => ?_⟩,
    fun d a s h => ⟨fun hw => ?_, fun w g hw => ?_⟩⟩
  · exact (exec_wgsave_refused h h4 (by simp [hw, saveCheck])).trans (by rw [hw]; rfl)
  · exact exec_wgload_unnamed h hb hw
  · exact (exec_wgmigr_refused h hb (by simp [hw, saveCheck])).trans (by rw [hw]; rfl)
  · exact (exec_wgsave_starts h h4 hw hc hs).trans (if_pos rfl)
  · exact (exec_wgsave_starts h h4 hw hc hs).trans (if_neg (by decide))
  · exact (exec_wgsave_refused h h4 (by rwa [hw])).trans (by rw [hw])
  · exact (exec_wgmigr_refused h hb (by rwa [hw])).trans (by rw [hw])
  · rw [exec_wgload_named h hb hw rfl, if_pos hs]
  · rw [exec_wgload_named h hb hw rfl, if_neg (by simp [hs]), if_pos hg]
  · rw [exec_wgload_named h hb hw hc, if_neg (by simp [hs]), if_neg (by simp [hg])]
    refine ⟨fun hwait => if_pos ((Bool.or_eq_true ..).mpr hwait), fun hgr hr st t hres => ?_⟩
    rw [if_neg (by simp [hgr, hr]), hres]
  · exact (exec_wgmigr_starts h hb hw hc hl hk hs).trans (if_pos rfl)
  · exact (exec_wgmigr_starts h hb hw hc hl hk hs).trans (if_neg (by decide))
  · rw [exec_wgkill_passed h, hw, Option.elim_none]
  · rw [exec_wgkill_passed h, hw, Option.elim_some]

/-! What a fault reference names (R335) -/

theorem named_vector {s : State} {x cid k : Nat} {h : Held} (hn : named s x = some (.vector cid k h)) : x % 128 < 64 := by
  have hk : bits x 6 0 = x % 128 := rfl
  simp only [named, hk] at hn
  split at hn
  · cases hn
  split at hn
  · next hlt => exact hlt
  split at hn
  · split at hn <;> simp at hn
  split at hn
  · cases hn
  · split at hn <;> simp at hn

/-! RESUME (R29, R335, R336) -/

/-- What RESUME checks of its flags. -/
theorem resume_flags {x y : Nat} (hy : y % 64 < 4) (h1 : 2 ≤ y % 64 → x % 128 < 64) (h0 : y % 2 = 1 → x % 128 < 112) :
    ¬ (bits y 5 2 ≠ 0 ∨ (bitAt y 1 = true ∧ 63 < x % 128) ∨ (bitAt y 0 = true ∧ 112 ≤ x % 128)) := by
  simp only [bits, bitAt, Nat.shiftRight_eq_div_pow, beq_iff_eq]
  omega

/-- RESUME with its flags in place, by what its reference names. -/
theorem exec_resume_checked {d a b : Field} {s : State} (h : Privileged s (ops3 d a b) 1)
    (hf : ¬ (bits (readR s b).toNat 5 2 ≠ 0 ∨ (bitAt (readR s b).toNat 1 = true ∧ 63 < (readR s a).toNat % 128)
      ∨ (bitAt (readR s b).toNat 0 = true ∧ 112 ≤ (readR s a).toNat % 128))) :
    (named s (readR s a).toNat = none → exec (.resume d a b) s = answers s d 1)
    ∧ (∀ n, named s (readR s a).toNat = some n → n.part s ≠ some (namedPart s) → exec (.resume d a b) s = answers s d 2)
    ∧ (∀ cid k h, named s (readR s a).toNat = some (.vector cid k h) → (Named.vector cid k h).part s = some (namedPart s) →
        exec (.resume d a b) s = resumeVector s d cid k h ((readR s b).toNat % 64) ((readR s b).toNat / 64 * 64))
    ∧ (∀ cid k h, named s (readR s a).toNat = some (.context cid k h) → (Named.context cid k h).part s = some (namedPart s) →
        exec (.resume d a b) s =
          answers (updCtx (freeSrec s cid k) h.wg fun c => { c with mode := .ready, pc := (c.pc + 4 * ((readR s b).toNat % 2)) % 2 ^ 64 }) d 0)
    ∧ (∀ q, named s (readR s a).toNat = some (.slot q) → (Named.slot q).part s = some (namedPart s) →
        exec (.resume d a b) s = answers (slotResume s q) d 0) := by
  refine ⟨fun hn => ?_, fun n hn hp => ?_, fun cid k x hn hp => ?_, fun cid k x hn hp => ?_, fun q hn hp => ?_⟩
  all_goals
    change execResume d a b s = _
    unfold execResume
    refine (sysForm_passed h).trans ((if_neg hf).trans ?_)
    rw [hn]
  · rfl
  · exact if_pos hp
  all_goals exact if_neg (not_not_intro hp)

section
variable {s : State} {d : Field} {cid k : Nat} {h : Held} {n : Nat} (va : Nat)

/-- A thread goes on at its word, or the next, with the transients that its record holds. -/
theorem resumeVector_transients (ht : h.ts ≠ []) (hn : n < 2) (hw : n = 1 → isTerminator h.word = false) :
    resumeVector s d cid k h n va = answers (resumeThread s cid k h (h.roff + n) h.ts).2 d (resumeThread s cid k h (h.roff + n) h.ts).1 := by
  have he : h.ts.isEmpty = false := by simpa using ht
  unfold resumeVector
  rcases (by omega : n = 0 ∨ n = 1) with rfl | rfl
  · simp only [he, Bool.or_false]
    rfl
  · simp only [he, hw rfl]
    rfl

/-- With LOADT its transients are those of the image. -/
theorem resumeVector_image (ht : h.ts ≠ []) (h2 : 2 ≤ n) (h4 : n < 4) (hw : n = 3 → isTerminator h.word = false) :
    resumeVector s d cid k h n va = (readMem s (me s) va 64).run s fun r =>
      answers (resumeThread r.2 cid k h (h.roff + n % 2) (imageWords r.1)).2 d (resumeThread r.2 cid k h (h.roff + n % 2) (imageWords r.1)).1 := by
  have he : h.ts.isEmpty = false := by simpa using ht
  unfold resumeVector
  rcases (by omega : n = 2 ∨ n = 3) with rfl | rfl
  · simp only [he, Bool.or_false]
    rfl
  · simp only [he, hw rfl]
    rfl

/-- A thread whose entry failed enters its block anew, and has no word to skip. -/
theorem resumeVector_entry (ht : h.ts = []) :
    resumeVector s d cid k h 1 va = answers s d 7 ∧ resumeVector s d cid k h 0 va = answers (resumeEntry s cid k h) d 0 := by
  unfold resumeVector
  simp only [ht, List.isEmpty_nil, Bool.or_true]
  exact ⟨rfl, rfl⟩

end

/-! THKILL (R337) -/

theorem exec_thkill_passed {d a : Field} {s : State} (h : Privileged s (ops2 d a) 1) :
    (named s (readR s a).toNat = none → exec (.thkill d a) s = answers s d 1)
    ∧ (∀ n, named s (readR s a).toNat = some n → n.part s ≠ some (namedPart s) → exec (.thkill d a) s = answers s d 2)
    ∧ (∀ cid k h, named s (readR s a).toNat = some (.vector cid k h) → (Named.vector cid k h).part s = some (namedPart s) →
        exec (.thkill d a) s = answers (endThread (freeVrec s cid k) h.wg h.tid) d 0)
    ∧ (∀ cid k h, named s (readR s a).toNat = some (.context cid k h) → (Named.context cid k h).part s = some (namedPart s) →
        exec (.thkill d a) s = answers (killContext (freeSrec s cid k) h.wg) d 0)
    ∧ (∀ x, named s (readR s a).toNat = some (.slot x) → x.part = namedPart s → exec (.thkill d a) s = answers (slotKill s x) d 0) := by
  refine ⟨fun hn => ?_, fun n hn hp => ?_, fun cid k x hn hp => ?_, fun cid k x hn hp => ?_, fun q hn hp => ?_⟩
  all_goals
    change execThkill d a s = _
    unfold execThkill
    refine (sysForm_passed h).trans ?_
    rw [hn]
  · rfl
  · exact if_pos hp
  · exact if_neg (not_not_intro hp)
  · exact if_neg (not_not_intro hp)
  · exact if_neg (not_not_intro (congrArg some hp))

/-- Settles O48: RESUME by its flags and what its reference names, a thread's record by whether it holds transients; THKILL by what is named. -/
theorem recoveryResults : Obligations.RecoveryResults := by
  refine ⟨fun d a b s h hy hn => ?_, fun d a b s n h hy hn hp => ?_, fun d a b s s' cid k x st y h hy h2 hw hn hp ht hr => ?_,
    fun d a b s cid k x y h hy h2 h4 hn hp ht hw => ?_, fun d a b s cid k x h h2 hn hp ht => ?_,
    fun d a b s cid k x y h hy h2 hx hn hp => ?_, fun d a b s x h hy hn hp => ?_, fun d a s h => exec_thkill_passed h⟩
  · obtain ⟨none, -⟩ := exec_resume_checked h (resume_flags (by omega) (by omega) (by omega))
    exact none hn
  · obtain ⟨-, other, -⟩ := exec_resume_checked h (resume_flags (by omega) (by omega) (by omega))
    exact other n hn hp
  · have hv := named_vector hn
    obtain ⟨-, -, vector, -⟩ := exec_resume_checked h (resume_flags (by omega) (by omega) (by omega))
    rw [vector cid k x hn hp, ← hy, resumeVector_transients _ ht h2 hw, hr]
  · have hv := named_vector hn
    obtain ⟨-, -, vector, -⟩ := exec_resume_checked h (resume_flags (by omega) (by omega) (by omega))
    rw [vector cid k x hn hp, ← hy, resumeVector_image _ ht h2 h4 hw]
    refine ⟨fun l s1 st s' hm hr => ?_, fun c v hm => ?_⟩
    · rw [run_ok hm, imageWords, hr]
    · rw [hm]
      rfl
  · have hv := named_vector hn
    obtain ⟨-, -, vector, -⟩ := exec_resume_checked h (resume_flags (by omega) (by omega) (by omega))
    obtain ⟨skip, entry⟩ := resumeVector_entry (s := s) (d := d) (cid := cid) (k := k) ((readR s b).toNat / 64 * 64) ht
    rw [vector cid k x hn hp]
    exact ⟨fun h1 => by rw [h1, skip], fun h0 => by rw [h0, entry]⟩
  · obtain ⟨-, -, -, context, -⟩ := exec_resume_checked h (resume_flags (by omega) (by omega) (by omega))
    rw [context cid k x hn hp, show (readR s b).toNat % 2 = y by omega]
  · obtain ⟨-, -, -, -, slot⟩ := exec_resume_checked h (resume_flags (by omega) (by omega) (by omega))
    exact slot x hn (congrArg some hp)

end Sys2Proof.Laws
end

section
/-! SUPPORT. What a reset leaves, and the boot ROM, the links' training and the report after it (R324, R411-R414, R418-R420). -/

namespace Sys2Proof.Laws

open Sys2Proof Sys2Proof.Machine Sys2Proof.Claims

/-! Package reset (R324, R331, R343, R364, R370, R389, R403, R420) -/

theorem ctl_reset (n : Nat) : ctl State.reset n = if n = 0 then Ctl.boot else {} := by
  rcases Nat.eq_zero_or_pos n with rfl | hn
  · rfl
  · simp [ctl, State.reset, SMap.get, SMap.find, Nat.ne_of_gt hn, (Nat.ne_of_gt hn).symm]

/-- A register without a reset value of its own holds 0 (log 7). -/
theorem csrGet_reset (num n : Nat) : csrGet State.reset num n = (csrReset num).toNat := rfl

theorem quarantined_reset (d : Nat) : quarantined State.reset d = false := by
  have h : dregGet State.reset 0 0x18 = 0 := rfl
  simp [quarantined, h, bitAt]

/-- Settles O6: the reset state names no register but control context 0's, so each holds its reset value. -/
theorem resetState : Obligations.ResetState := by
  refine ⟨fun n => ?_, rfl, rfl, rfl, fun d => ⟨quarantined_reset d, rfl⟩, rfl, fun p => ⟨rfl, rfl, rfl, rfl⟩, rfl, rfl, rfl, rfl, rfl, rfl, rfl⟩
  rw [ctl_reset]
  split
  · next h => simp [h, Ctl.boot]
  · next h => simp [h]

/-! The boot ROM (R411, R412) -/

theorem pregGet_of_preg {s t : State} (h : s.preg = t.preg) (p o : Nat) : pregGet s p o = pregGet t p o := by rw [pregGet, h, pregGet]

/-- The ROM stops control context 0 and leaves the stage with the code of what failed. -/
theorem bootFail_spec (s : State) {stage err : Nat} (hs : stage < 256) (he : err < 256) :
    (ctl (bootFail s stage err) 0).run = false ∧ (bootFail s stage err).bootDead = true
    ∧ pregGet (bootFail s stage err) 64 0x900 = 256 * err + stage := by
  refine ⟨congrArg Ctl.run (get_put_same ..), rfl, ?_⟩
  have hp : (bootFail s stage err).preg = (pregSet s 64 0x900 (err * 256 + stage)).preg := rfl
  rw [pregGet_of_preg hp, pregGet_pregSet, BitVec.toNat_ofNat]
  omega

theorem imageCheck_lt (s : State) (l : List Byte) : imageCheck s l < 256 := by
  unfold imageCheck
  dsimp only
  split
  · decide
  split
  · decide
  split <;> decide

section
variable {l : List Byte} {s : State} (hr : (ctl s 0).run = true) (h0 : bootStat s = 0) (hb : s.bootDead = false)
include hr h0 hb

theorem exec_bootImageFetch_fits (hl : l.length ≤ 0x3FF000) (hw : 0x1000 + imageWord l 8 ≤ 0x3FF000) :
    exec (.bootImageFetch l) s = if imageCheck s l = 0 then .next (bootOn s l) else .next (bootFail s 2 (imageCheck s l)) := by
  change execBootImageFetch l s = _
  unfold execBootImageFetch
  rw [if_pos ⟨hr, h0, hb⟩, if_neg (by omega)]
  split
  · next he => rw [if_pos he]
  · next he => rw [if_neg he]

theorem exec_bootImageFetch_long (h : 0x3FF000 < Max.max l.length (0x1000 + imageWord l 8)) :
    exec (.bootImageFetch l) s = .next (bootFail s 1 1) :=
  (if_pos ⟨hr, h0, hb⟩).trans (if_pos h)

end

/-! The identity key and the report (R414, R418, R419) -/

/-- The registers of the identity key hold the public half of the pair. -/
theorem pregRead_identityKey {s : State} {k : Nat} (hb : s.bootDead = false) (hk : k < 224) :
    pregRead s 64 (0x1000 + 8 * k) = ofBytes ((List.range 8).map fun i => identityKey (8 * k + i)) := by
  have hserved : served s 64 (0x1000 + 8 * k) = true := by simp [served, hb]
  have hval : pregVal s 64 (0x1000 + 8 * k) = ofBytes ((List.range 8).map fun i =>
      if 0x1000 + 8 * k - 0x1000 + i < 1793 then identityKey (0x1000 + 8 * k - 0x1000 + i) else 0) :=
    if_pos ⟨rfl, by omega, by omega⟩
  rw [pregRead, if_pos hserved, hval]
  refine congrArg ofBytes (List.map_congr_left fun i hi => ?_)
  have := List.mem_range.1 hi
  rw [if_pos (by omega), Nat.add_sub_cancel_left]

theorem exec_attestationReport_valid {n : List Byte} {d : Nat} {s : State} (hn : n.length = 32) (hd : d % 4096 = 0)
    (h : ∀ x ∈ shadingDies s, dregGet s x 0x140 % 2 = 1) : exec (.attestationReport n d) s =
      match writeParts s { part := devicePart, lvl := 2, sec := true, die := 0, cid := none, wg := none, lid := 0 } d 8 (report s n) 192 with
      | .ok t => .next t
      | _ => .next s := by
  have hall : ¬ ((shadingDies s).any fun d => dregGet s d 0x140 % 2 == 0) = true := by
    rw [List.any_eq_true]
    rintro ⟨x, hx, h0⟩
    simp [h x hx] at h0
  change execAttestationReport n d s = _
  unfold execAttestationReport
  rw [if_neg (by omega), if_neg hall]
  rfl

theorem exec_attestationReport_waits {n : List Byte} {d : Nat} {s : State} (hn : n.length = 32) (hd : d % 4096 = 0)
    (h : ∃ x ∈ shadingDies s, dregGet s x 0x140 % 2 = 0) : exec (.attestationReport n d) s = .next s := by
  obtain ⟨x, hx, h0⟩ := h
  change execAttestationReport n d s = _
  unfold execAttestationReport
  have hany : ((shadingDies s).any fun d => dregGet s d 0x140 % 2 == 0) = true := List.any_eq_true.2 ⟨x, hx, by simp [h0]⟩
  rw [if_neg (by omega), if_pos hany]

/-- Settles O59: the reset is State.reset but for what it keeps; the ROM goes by the image's length, then by its checks. -/
theorem bootResults : Obligations.BootResults := by
  refine ⟨fun s => ⟨_, rfl, rfl, rfl, rfl, rfl, rfl, rfl, rfl, rfl, rfl, rfl, rfl, rfl, rfl⟩, fun l s hr h0 hb hl hw => ?_, fun l s hr h0 hb h => ?_,
    fun l s => ?_, fun s => ⟨rfl, fun n hn => by simp [diePresent, trainPorts, hn]⟩, fun s k hb hk => pregRead_identityKey hb hk,
    fun n d s t hn hd h ht => ?_, fun n d s hn hd h => exec_attestationReport_waits hn hd h⟩
  · rw [exec_bootImageFetch_fits hr h0 hb hl hw]
    by_cases he : imageCheck s l = 0
    · exact ⟨_, if_pos he, fun _ => rfl, fun hne => absurd he hne⟩
    · exact ⟨_, if_neg he, fun h => absurd h he, fun _ => bootFail_spec s (by decide) (imageCheck_lt s l)⟩
  · exact ⟨_, exec_bootImageFetch_long hr h0 hb h, bootFail_spec s (by decide) (by decide)⟩
  · simp only [imageCheck, Bool.not_eq_true']
  · rw [exec_attestationReport_valid hn hd h, ht]

end Sys2Proof.Laws
end

section
/-! SUPPORT. CTXCFG's starts and stops, the timer's event, and the posts and registers of a fault log (R324, R331, R338, R416, R417). -/

namespace Sys2Proof.Laws

open Sys2Proof Sys2Proof.Machine Sys2Proof.Claims

/-! CTXCFG (R324) -/

theorem ctxcfgKept_lt (v : Word64) : ctxcfgKept v < 2 ^ 64 := by
  simp only [ctxcfgKept, maskBits, bits, Nat.shiftRight_eq_div_pow, List.map_cons, List.map_nil, List.foldl_cons, List.foldl_nil]
  omega

/-- The register holds the fields that a write keeps. -/
theorem csrGet_csrSet_ctxcfg (s : State) (n : Nat) (v : Word64) : csrGet (csrSet s (0x400 + n) 0 (ctxcfgKept v)) (0x400 + n) 0 = ctxcfgKept v := by
  rw [show csrGet (csrSet s (0x400 + n) 0 (ctxcfgKept v)) (0x400 + n) 0 = _ from congrArg BitVec.toNat (get_put_same ..), BitVec.toNat_ofNat,
    Nat.mod_eq_of_lt (ctxcfgKept_lt v)]

theorem csrGet_of_csr {s t : State} (h : s.csr = t.csr) (num n : Nat) : csrGet s num n = csrGet t num n := by rw [csrGet, h, csrGet]

section
variable {n : Nat} {v : Word64} {s : State} (hn : n < 32) (hb : s.bootDead = false)
include hn hb

theorem exec_ctxcfgWrite_dropped (hl : bits v.toNat 1 0 = 0 ∨ bits v.toNat 1 0 = 3) : exec (.ctxcfgWrite n v) s = .next s := by
  change running s (if n < 32 then .next (ctxcfgWrite s n v.toNat) else off s) = _
  rw [running_alive hb, if_pos hn, ctxcfgWrite, if_pos hl]

/-- A write with a level that a context can have, by its EN bit and whether the context runs. -/
theorem exec_ctxcfgWrite_kept (hl : bits v.toNat 1 0 = 1 ∨ bits v.toNat 1 0 = 2) : exec (.ctxcfgWrite n v) s = .next
    (if v.getLsbD 31 then
      if (ctl s n).run then csrSet s (0x400 + n) 0 (ctxcfgKept v)
      else setCtl (csrSet s (0x400 + n) 0 (ctxcfgKept v)) n {
        run := true, pc := csrGet s (0x420 + n) 0, lvl := bits v.toNat 1 0, sec := v.getLsbD 2, part := bits v.toNat 13 8,
        g := rngSeed (csrGet s 0 (bits v.toNat 13 8)) 0 0 0x1000 }
    else stopCtl (csrSet s (0x400 + n) 0 (ctxcfgKept v)) n) := by
  change running s (if n < 32 then .next (ctxcfgWrite s n v.toNat) else off s) = _
  rw [running_alive hb, if_pos hn, ctxcfgWrite]
  dsimp only
  rw [if_neg (by omega), bitAt_toNat, bitAt_toNat]
  rfl

end

/-- A context that stops holds nothing, and no form has it for its agent (R324). -/
theorem stopCtl_spec (s : State) (n : Nat) : ctl (stopCtl s n) n = {} ∧ (∀ f ∈ (stopCtl s n).forms, f.ag ≠ some (.control n))
    ∧ (∀ m, m ≠ n → ctl (stopCtl s n) m = ctl s m) := by
  refine ⟨get_put_same .., ?_, fun m hm => get_put_other _ _ _ _ _ hm⟩
  simp only [stopCtl, setCtl, List.mem_map, forall_exists_index, and_imp, forall_apply_eq_imp_iff₂]
  intro f _
  split
  · simp
  · assumption

/-! The timer's event (R338) -/

theorem epend_timer {s : State} {n : Nat} (h : (ctl s n).etcmp.toNat ≤ timer s) : bitAt (epend s n) 2 = true := by
  have fields : ∀ a b d : Bool, bitAt (b2n a + 2 * b2n b + 4 * b2n true + 8 * b2n d) 2 = true := by decide
  have e : decide (timer s ≥ (ctl s n).etcmp.toNat) = true := decide_eq_true h
  simp only [epend, e]
  exact fields _ _ _

/-! Fault logs (R331, R416, R417) -/

theorem exec_faultLogPost_logs {n : Nat} {s : State} {x : Post} (hx : s.posts.find? (fun y => y.id == n) = some x) (hz : csrGet s 0x105 x.log ≠ 0)
    (hroom : (csrGet s 0x106 x.log + 2 ^ 32 - csrGet s 0x107 x.log) % 2 ^ 32 < 2 ^ csrGet s 0x105 x.log) (hf : firstOfSource s x = true)
    (hr : x.ready s = true) (hc : x.crossing s = false)
    (hh : homeHeld s 0 (csrGet s 0x104 x.log + 128 * (csrGet s 0x106 x.log % 2 ^ csrGet s 0x105 x.log)) = false) :
    exec (.faultLogPost n) s = .next (logged s x) := by
  have hid := List.find?_some hx
  have hid : x.id = n := beq_iff_eq.1 hid
  have hno : ¬ (csrGet s 0x105 x.log = 0 ∨ 2 ^ csrGet s 0x105 x.log ≤ (csrGet s 0x106 x.log + 2 ^ 32 - csrGet s 0x107 x.log) % 2 ^ 32
      ∨ firstOfSource s x = false ∨ x.ready s = false ∨ x.crossing s = true) := by
    simp only [hf, hr, hc, Bool.true_eq_false, Bool.false_eq_true, or_false, not_or]
    exact ⟨hz, Nat.not_le.2 hroom⟩
  change execFaultLogPost n s = _
  simp only [execFaultLogPost, hx]
  rw [if_neg hno, if_neg (by simp [hh]), logged, hid]

theorem exec_faultLogPost_waits {n : Nat} {s : State} {x : Post} (hx : s.posts.find? (fun y => y.id == n) = some x)
    (h : firstOfSource s x = false ∨ x.crossing s = true) : exec (.faultLogPost n) s = .next s := by
  change execFaultLogPost n s = _
  simp only [execFaultLogPost, hx]
  exact if_pos (.inr (.inr (h.imp_right .inr)))

/-- Settles O53: CTXCFG by its level, its EN bit and whether the context runs; a post by its place among those of its source. -/
theorem contextAndLogResults : Obligations.ContextAndLogResults := by
  refine ⟨fun n v s hn hb => ⟨exec_ctxcfgWrite_dropped hn hb, fun hl he hr => ?_, fun hl he hr => ?_, fun hl he => ?_⟩,
    fun n s hr ht => ⟨rfl, epend_timer ht⟩, fun n s x hx hz hroom hf hr hc hh => exec_faultLogPost_logs hx hz hroom hf hr hc hh,
    fun n s x hx h => exec_faultLogPost_waits hx h, fun log v s hl hb => ?_, fun log b v s hl hb => ?_⟩
  · have e := exec_ctxcfgWrite_kept hn hb hl
    rw [if_pos he, if_neg (Bool.eq_false_iff.1 hr)] at e
    refine ⟨_, e, ?_⟩
    rw [show ∀ c : Ctl, ctl (setCtl (csrSet s (0x400 + n) 0 (ctxcfgKept v)) n c) n = c from fun c => get_put_same ..]
    exact ⟨rfl, rfl, rfl, rfl, rfl, rfl, (csrGet_of_csr rfl _ _).trans (csrGet_csrSet_ctxcfg s n v), fun m hm => get_put_other _ _ _ _ _ hm⟩
  · rw [exec_ctxcfgWrite_kept hn hb hl, if_pos he, if_pos hr]
  · have e := exec_ctxcfgWrite_kept hn hb hl
    rw [if_neg (Bool.eq_false_iff.1 he)] at e
    obtain ⟨hn, hforms, hother⟩ := stopCtl_spec (csrSet s (0x400 + n) 0 (ctxcfgKept v)) n
    exact ⟨_, e, hn, (csrGet_of_csr rfl _ _).trans (csrGet_csrSet_ctxcfg s n v), hforms, hother⟩
  · exact (running_alive hb _).trans (if_pos hl)
  · exact (running_alive hb _).trans (if_pos hl)

end Sys2Proof.Laws
end

section
/-! SUPPORT. The geometry path: EMITVP, the binning of a meshlet, packets and seals at their region units, the end of a batch (R295-R303). -/

namespace Sys2Proof.Laws

open Sys2Proof Sys2Proof.Machine Sys2Proof.Claims

/-! EMITVP (R295, R296) -/

section
variable {a : Field} {s : State} {w o : Nat} {g : Workgroup} {b : MeshBatch} {t : Tgt} (h : Passes s { ops := [opRp a], need := .geometry })
  (ha : (readP s a).toNat % 16 = 0) (hc : canonical (readP s a).toNat = true) (hr : rangeOf (readP s a).toNat = .self o) (hw : curWg s = some (w, g))
  (hb : batchOf s g.part g.lid g.wid = some b) (ht : spadTarget s (me s) { va := (readP s a).toNat, size := 16, rd := true } w o = .ok t)
include h ha hc hr hw hb ht

theorem exec_emitvp_bad (hm : meshletBad s g.part (got s t 16) = true) : exec (.emitvp a) s = .next (raiseState .illegal 0 0 s) := by
  change execEmitvp a s = _
  refine (guarded_passed h.1 h.2).trans ((if_neg (not_not_intro ha)).trans ?_)
  simp only [hc, hr, hw, hb, ht, Out.run]
  exact if_pos hm

/-- EMITVP of a meshlet that is well formed queues it as far as the queue has a place. -/
theorem exec_emitvp_good {t' : Tgt} {n : Nat} (hm : meshletBad s g.part (got s t 16) = false) (hn : n = meshletBytes (got s t 16))
    (ht' : spadTarget s (me s) { va := (readP s a).toNat, size := n, rd := true } w o = .ok t') :
    exec (.emitvp a) s = if binRoom s g.part (cidDie (g.cid?.getD 0)) (cidCg (g.cid?.getD 0)) b.bseq then
        .next (advance { after s t' n with binq := s.binq ++ [meshletOf g b.bseq (g.cid?.getD 0) (readTgt s (me s) t' n).1] })
      else .next s := by
  subst hn
  change execEmitvp a s = _
  refine (guarded_passed h.1 h.2).trans ((if_neg (not_not_intro ha)).trans ?_)
  simp only [hc, hr, hw, hb, ht, Out.run]
  refine (if_neg (Bool.eq_false_iff.1 hm)).trans ?_
  rw [show ofBytes (readTgt s (me s) t 16).1 = got s t 16 from rfl, ht']
  rfl

end

/-! Binning (R296, R297) -/

section
variable {d g : Nat} {s s1 s2 : State} {m : Meshlet} {r : Option (BitVec 512)} (hg : cgRuns s d g = true) (hm : nextMeshlet s d g = some m)
  (hr : readRst s m.issuer (m.word 0 / 2 ^ 16) = .ok (r, s1))
include hg hm hr

theorem exec_binningMeshlet_whole (hb : binTriangles m r (m.nt - m.tri) s1 m.tri m.reg = (s2, none)) :
    exec (.binningMeshlet d g) s = .next (adoptIdle (closeBatch { s2 with binq := replaceMeshlet m none s2.binq } m.part m.bseq) d g) := by
  change execBinningMeshlet d g s = _
  simp only [execBinningMeshlet, hg, if_true, hm, hr, hb]

theorem exec_binningMeshlet_part {t k : Nat} (hb : binTriangles m r (m.nt - m.tri) s1 m.tri m.reg = (s2, some (t, k))) :
    exec (.binningMeshlet d g) s = .next { s2 with binq := replaceMeshlet m (some { m with tri := t, reg := k }) s2.binq } := by
  change execBinningMeshlet d g s = _
  simp only [execBinningMeshlet, hg, if_true, hm, hr, hb]

end

/-! Packets at their region unit (R299, R302, R390) -/

section
variable {n : Nat} {s : State} {k : Packet}
  (hk : s.packets.find? (fun k => k.id == n && (k.stage == .hold || k.stage == .full)) = some k)
include hk

theorem exec_visPacketArrival_arrives (ha : mayArrive s k = true) (ho : ownerRuns s k = true)
    (hf : k.stage = .full → holdRoom s k.part (k.src / 256) k.bseq = true) : exec (.visPacketArrival n) s = .next (acceptPacket s k true) := by
  have hroom : ¬ (k.stage == .full && !holdRoom s k.part (k.src / 256) k.bseq) = true := by
    rw [Bool.and_eq_true, beq_iff_eq, Bool.not_eq_true']
    rintro ⟨hs, hn⟩
    simp [hf hs] at hn
  change execVisPacketArrival n s = _
  simp only [execVisPacketArrival, hk]
  rw [if_neg hroom, if_pos (by rw [ha, ho]; rfl)]

theorem exec_visPacketArrival_holds (hs : k.stage = .full) (hroom : holdRoom s k.part (k.src / 256) k.bseq = true)
    (ha : (mayArrive s k && ownerRuns s k) = false) : exec (.visPacketArrival n) s = .next (setPacket s k.id fun x => { x with stage := .hold }) := by
  change execVisPacketArrival n s = _
  simp only [execVisPacketArrival, hk]
  rw [if_neg (by simp [hroom]), if_neg (Bool.eq_false_iff.1 ha), if_pos (by simp [hs])]

end

theorem exec_packetResend_again {n : Nat} {s : State} {k : Packet} (hk : s.packets.find? (fun k => k.id == n && k.stage == .refused) = some k)
    (ha : mayArrive s k = true) (ho : ownerRuns s k = true) : exec (.packetResend n) s = .next (acceptPacket s k true) := by
  change execPacketResend n s = _
  simp only [execPacketResend, hk]
  exact if_pos (by rw [ha, ho]; rfl)

theorem exec_packetResend_hearth {n : Nat} {s : State} {k : Packet} (hn : s.packets.find? (fun k => k.id == n && k.stage == .refused) = none)
    (hk : hearthNext s n = some k) (ho : ownerRuns s k = true) : exec (.packetResend n) s = .next (acceptPacket s k false) := by
  change execPacketResend n s = _
  simp only [execPacketResend, hn, hk]
  exact if_pos ho

/-! Batches and seals (R300, R301, R303) -/

theorem exec_batchRetire_over {p n : Nat} {s u : State} {b : MeshBatch}
    (hb : s.batches.find? (fun b => b.part == p && b.bseq == n && !b.retired) = some b) (he : b.count ≤ b.ended) (hq : batchQueued s p n = false)
    (ho : batchOut s p n = false) (hu : u = updBatch s p n fun b => { b with retired := true }) :
    exec (.batchRetire p n) s = .next ((shadingGroups u p).foldl (fun v x => sendSeals v u.nextId b x.1 x.2) u) := by
  subst hu
  change execBatchRetire p n s = _
  simp only [execBatchRetire, hb]
  exact if_pos ⟨he, hq, ho⟩

theorem updBatch_retired (s : State) (p n : Nat) :
    ∀ x ∈ (updBatch s p n fun b => { b with retired := true }).batches, x.part = p → x.bseq = n → x.retired = true := by
  simp only [updBatch, List.mem_map, forall_exists_index, and_imp, forall_apply_eq_imp_iff₂]
  intro b _
  split
  · exact fun _ _ => rfl
  · next hno =>
    intro hp hn
    simpa [hp, hn] using hno

theorem foldl_countUp_seals {α : Type} (k : α → Nat) (l : List α) (s : State) : (l.foldl (fun s x => countUp s (k x)) s).seals = s.seals :=
  List.foldlRecOn (motive := fun (t : State) => t.seals = s.seals) l _ rfl fun _ ht _ _ => ht

theorem exec_sealArrival_first {n : Nat} {s : State} {x : Seal}
    (hx : s.seals.find? (fun x => x.id == n && !x.held && cgRuns s x.die x.cg && !crossWait s x.src x.die) = some x)
    (hf : ∀ y ∈ s.seals, y.cast < x.cast → y.held = false → y.part = x.part → y.src = x.src → y.die = x.die → y.cg ≠ x.cg) :
    ∃ t, exec (.sealArrival n) s = .next (stepUnit t x.die x.cg)
      ∧ t.seals = s.seals.map fun y => if y.id == n then { y with held := true } else y := by
  have hno : ¬ (s.seals.any fun y => y.cast < x.cast && !y.held && y.part == x.part && y.src == x.src && y.die == x.die && y.cg == x.cg) = true := by
    simp only [List.any_eq_true, Bool.and_eq_true, decide_eq_true_eq, Bool.not_eq_true', beq_iff_eq]
    rintro ⟨y, hy, ⟨⟨⟨⟨hc, hh⟩, hp⟩, hs⟩, hd⟩, hg⟩
    exact hf y hy hc hh hp hs hd hg
  have e : exec (.sealArrival n) s = execSealArrival n s := rfl
  simp only [execSealArrival, hx] at e
  exact ⟨_, e.trans (if_neg hno), congrArg (List.map _) (foldl_countUp_seals ..)⟩

/-- Settles O37: EMITVP by the meshlet and the queue's room; a packet, a seal and a batch by what lets it go on. -/
theorem geometryResults : Obligations.GeometryResults := by
  refine ⟨fun a s w o g b t t' n h ha hc hr hw hb ht => ⟨exec_emitvp_bad h ha hc hr hw hb ht, fun hm hn ht' => ?_⟩,
    fun d g s s1 s2 m r hg hm hr => ⟨exec_binningMeshlet_whole hg hm hr, fun t k => exec_binningMeshlet_part hg hm hr⟩, fun n s k hk ha ho hf => exec_visPacketArrival_arrives hk ha ho hf,
    fun n s k hk hs hroom ha => exec_visPacketArrival_holds hk hs hroom ha, fun n s k hk ha ho => exec_packetResend_again hk ha ho,
    fun n s k hn hk ho => exec_packetResend_hearth hn hk ho,
    fun p n s b hb he hq ho u hu => ⟨exec_batchRetire_over hb he hq ho hu, hu ▸ updBatch_retired s p n, hu ▸ rfl⟩,
    fun n s x hx hf => exec_sealArrival_first hx hf, fun d g s hi hg => ?_⟩
  · have e := exec_emitvp_good h ha hc hr hw hb ht hm hn ht'
    exact ⟨fun hroom => e.trans (if_pos hroom), fun hroom => e.trans (if_neg (Bool.eq_false_iff.1 hroom))⟩
  · exact if_pos (by rw [hi, hg]; rfl)

end Sys2Proof.Laws
end

section
/-! SUPPORT. Fragments: from the raster unit to their threads, through resolve and blend to the target (R304-R307). -/

namespace Sys2Proof.Laws

open Sys2Proof Sys2Proof.Machine Sys2Proof.Claims

/-! The raster unit and the spawning of fragments (R304, R305) -/

theorem exec_rasterPacket_found {d g : Nat} {s : State} {k : Packet}
    (hk : s.packets.find? (fun k => k.stage == .raster && k.die == d && k.cg == g && cgRuns s d g) = some k) :
    exec (.rasterPacket d g) s = .next (adoptIdle (k.tris.foldl (rasterTriangle k) (dropPacket s k.id)) d g) := by
  change execRasterPacket d g s = _
  simp only [execRasterPacket, hk]

section
variable {d g : Nat} {s : State} {f : Frag}
  (hf : s.frags.find? (fun f => f.die == d && f.cg == g && f.thread.isNone && f.res == .no && cgRuns s d g) = some f)
include hf

theorem exec_fragmentSpawn_no_host (hh : fragHost (fragHosts s f.part d g) = none) : exec (.fragmentSpawn d g) s = .next (discardUnspawned s f) := by
  change execFragmentSpawn d g s = _
  simp only [execFragmentSpawn, hf, hh]

section
variable {cid w t : Nat} {x : Workgroup} (hh : fragHost (fragHosts s f.part d g) = some (cid, w, x)) (ht : freeTid x = some t)
include hh ht

theorem exec_fragmentSpawn_bad_entry {c : Cause} {v : Nat}
    (he : checkEntryAs s { issuer s (.vthread w t) with ag := none } cid (rstFentry f.rst) = .bad c v) :
    exec (.fragmentSpawn d g) s = .next (discardUnspawned s f) := by
  change execFragmentSpawn d g s = _
  simp only [execFragmentSpawn, hf, hh, ht, he]

theorem exec_fragmentSpawn_placed {u : Succ} {s1 s2 : State}
    (he : checkEntryAs s { issuer s (.vthread w t) with ag := none } cid (rstFentry f.rst) = .ok (u, s1))
    (hp : placeThread (spadWrite (addThread s1 w t { newThread s1 x t (BitVec.ofNat 32 (32 * t)) with frag := some f.id }) w (32 * t) (fragRecord f)) w t u
      = some s2) :
    exec (.fragmentSpawn d g) s =
      .next (updFrag s2 f.id fun f => { f with thread := some (w, t), lvl := x.lvl, sec := x.sec, lid := x.lid, wid := x.wid }) := by
  change execFragmentSpawn d g s = _
  simp only [execFragmentSpawn, hf, hh, ht, he, hp]

end
end

/-! The blend unit (R307) -/

section
variable {n : Nat} {s : State} {f : Frag} (hf : s.frags.find? (fun f => f.id == n && cgRuns s f.die f.cg) = some f)
include hf

theorem exec_blendFragment_not_first (hp : pixelFirst s f = false) : exec (.blendFragment n) s = .next s := by
  change execBlendFragment n s = _
  simp only [execBlendFragment, hf, hp]
  rfl

section
variable (hp : pixelFirst s f = true) (hh : (regionGet s f.part f.rx f.ry).held = false) (ha : accepts s (blendEid f) = true)
include hp hh ha

theorem exec_blendFragment_discard (hr : f.res = .discard) : exec (.blendFragment n) s = .next (dropFrag s f.id) := by
  change execBlendFragment n s = _
  simp only [execBlendFragment, hf, hp, hh, ha, hr]
  rfl

/-- A fragment to blend goes as far as its run does. -/
theorem exec_blendFragment_blend {r g b a : Word32} (hr : f.res = .blend r g b a) :
    exec (.blendFragment n) s = match blendRun [r, g, b, a] 4 s f with
      | (t, _, .ok ()) => .next (dropFrag t f.id)
      | (t, y, .wait) => .next (updFrag t f.id fun _ => y)
      | (t, y, .bad c v) => .next (raiseEngine (updFrag (setRegion t { regionGet t f.part f.rx f.ry with held := true }) f.id fun _ => y)
          (blendEid f) f.part f.lvl f.sec f.lid f.wid 3 f.id c v) := by
  change execBlendFragment n s = _
  simp only [execBlendFragment, hf, hp, hh, ha, hr]
  rfl

end
end

theorem fragmentResults : FragmentResults := by
  refine ⟨fun d g s k hk => exec_rasterPacket_found hk, fun d g s f hf => ⟨fun hh => exec_fragmentSpawn_no_host hf hh,
    fun cid w x t c v hh ht he => exec_fragmentSpawn_bad_entry hf hh ht he, fun cid w x t u s1 s2 hh ht he hp => exec_fragmentSpawn_placed hf hh ht he hp⟩,
    fun n s f hf hp hh ha => ⟨fun hr => exec_blendFragment_discard hf hp hh ha hr, fun r g b a t f' hr hb => ?_,
      fun r g b a t f' c v hr hb => ?_, fun r g b a t f' hr hb => ?_⟩,
    fun n s f hf hp => exec_blendFragment_not_first hf hp⟩
  all_goals rw [exec_blendFragment_blend hf hp hh ha hr, hb]

/-! BLND, DISCARD and DEPTHW (R306) -/

section
variable {s : State} {w t : Nat} {g : Workgroup} (hc : curThread s = some (w, g, t))
include hc

theorem fragForm_fragment (up : Frag → Frag) {n : Nat} (hn : ((thread? s w t).bind fun x => x.frag) = some n) :
    fragForm up s = .next (advance (onFragment s n up)) := by
  simp only [fragForm, hc, hn]
  rfl

theorem fragForm_none (up : Frag → Frag) (hn : ((thread? s w t).bind fun x => x.frag) = none) : fragForm up s = .next (raiseState .illegal 0 0 s) := by
  simp only [fragForm, hc, hn]
  rfl

end

/-- The forms that act on the thread's fragment, once their checks have passed. -/
theorem exec_fragForm {s : State} :
    (∀ a : Field, Passes s { ops := [opRq a], need := .shading } → exec (.blnd a) s = fragForm (fun f =>
      { f with res := .blend ((readQ s a).setWidth 32) ((readQ s a >>> 32).setWidth 32) ((readQ s a >>> 64).setWidth 32) ((readQ s a >>> 96).setWidth 32) }) s)
    ∧ (Passes s { need := .shading } → exec .discard s = fragForm (fun f => { f with res := .discard }) s)
    ∧ (∀ a : Field, Passes s { ops := [opR a], need := .shading } → exec (.depthw a) s = fragForm (fun f => { f with z := (readR s a).setWidth 32 }) s) := by
  refine ⟨fun a h => ?_, fun h => ?_, fun a h => ?_⟩
  · change execBlnd a s = _
    exact guarded_passed h.1 h.2
  · change execDiscard s = _
    exact guarded_passed h.1 h.2
  · change execDepthw a s = _
    exact guarded_passed h.1 h.2

theorem resolveResults : ResolveResults := by
  refine ⟨fun s w t n g hc hn => ?_, fun s w t g hc hn => ?_⟩ <;> obtain ⟨blnd, discard, depthw⟩ := exec_fragForm (s := s)
  · exact ⟨fun a h => (blnd a h).trans (fragForm_fragment hc _ hn), fun h => (discard h).trans (fragForm_fragment hc _ hn),
      fun a h => (depthw a h).trans (fragForm_fragment hc _ hn)⟩
  · exact ⟨fun h => (discard h).trans (fragForm_none hc _ hn), fun a h => (blnd a h).trans (fragForm_none hc _ hn),
      fun a h => (depthw a h).trans (fragForm_none hc _ hn)⟩

/-- Settles O38: the outcome of a fragment in the raster unit, at its thread, in resolve and in the blend unit, and the values the unit computes. -/
theorem fragmentPathResults : Obligations.FragmentPathResults :=
  ⟨fragmentResults, resolveResults, fun _ _ => ⟨rfl, rfl, rfl, rfl⟩, fun _ _ _ => ⟨rfl, rfl, rfl⟩⟩

end Sys2Proof.Laws
end

section
/-! SUPPORT. The engines' side of a state, and that write-backs and the adoption of blocks leave it as it is. -/

namespace Sys2Proof.Laws

open Sys2Proof Sys2Proof.Machine Sys2Proof.Claims

theorem foldl_keeps {σ α β : Type} {p : σ → β} {f : σ → α → σ} (h : ∀ s x, p (f s x) = p s) (l : List α) (s : σ) : p (l.foldl f s) = p s :=
  List.foldlRecOn (motive := fun t => p t = p s) l f rfl fun t ht x _ => (h t x).trans ht

/-- The engines' side of a state: what is left beside memory, its caches and translations, the cores with their workgroups, the contexts and the
posts, which accesses to memory, the adoption of a block and a thread that goes on may change. -/
def engineSide (s : State) : State :=
  { s with
    mem := [], free := 0, nextId := 0, subs := [], laid := [], spoiled := [], bdi := [], lines := [], l2 := [], llc := [], hostDir := [], hostPerm := []
    icache := [], tlb := [], reports := [], peerOut := [], spares := [], cgs := [], dies := [], cores := [], wgs := [], ctl := [], forms := [], posts := [] }

theorem engineSide_applyDeltas (s : State) (n : Nat) (l : SMap UDelta) : engineSide (applyDeltas s n l) = engineSide s := by
  obtain ⟨_, _, _, _, _, _, _, h⟩ := applyDeltas_shape n l s
  rw [h]
  rfl

theorem engineSide_touchLlc (s : State) (h n : Nat) (d : Bool) : engineSide (touchLlc s h n d) = engineSide s := rfl

theorem engineSide_writeBackLine (s : State) (c n : Nat) (drop : Bool) : engineSide (writeBackLine s c n drop) = engineSide s := by
  refine Eq.trans (?_ : _ = engineSide (applyDeltas s n ((lineState s n).get {} c).u)) (engineSide_applyDeltas ..)
  unfold writeBackLine
  dsimp only
  split <;> rfl

theorem engineSide_writeBackCore (s : State) (c : Nat) (drop : Bool) : engineSide (writeBackCore s c drop) = engineSide s := by
  refine foldl_keeps (fun t x => ?_) ..
  split
  · exact engineSide_writeBackLine ..
  · rfl

theorem engineSide_drainL2 (s : State) (d : Nat) : engineSide (drainL2 s d) = engineSide s :=
  foldl_keeps (p := engineSide) (fun t (y : L2Line) => engineSide_touchLlc t y.home y.line true) _ _

theorem engineSide_shareBack (s : State) (d : Nat) (l : List Nat) : engineSide (shareBack s d l) = engineSide s :=
  (engineSide_drainL2 _ d).trans (foldl_keeps (fun _ _ => engineSide_writeBackCore ..) ..)

theorem engineSide_blockAdopt (s : State) (d b : Nat) : engineSide (blockAdopt s d b) = engineSide s := by
  unfold blockAdopt
  dsimp only
  split
  · refine Eq.trans (b := engineSide (if ((cgroup s d b).sec != bworldBit s d b) = true then shareBack s d (cgCores d b) else s)) rfl ?_
    rw [apply_ite engineSide, engineSide_shareBack, ite_self]
  · repeat' split
    all_goals rfl

theorem engineSide_blocksAdopt (s : State) (d : Nat) : engineSide (blocksAdopt s d) = engineSide s := by
  refine foldl_keeps (fun t b => ?_) ..
  rw [adoptIdle, apply_ite engineSide, engineSide_blockAdopt, ite_self]

theorem blocksAdopt_rays (s : State) (d : Nat) : (blocksAdopt s d).rays = s.rays :=
  show (engineSide (blocksAdopt s d)).rays = _ by rw [engineSide_blocksAdopt]; rfl

end Sys2Proof.Laws
end

section
/-! SUPPORT. Ray queries: RAYQ, what its completion writes, and the hit that is chosen (R310, R311, R315, R317). -/

namespace Sys2Proof.Laws

open Sys2Proof Sys2Proof.Machine Sys2Proof.Claims

/-! RAYQ (R310, R311) -/

theorem slotWord_last (r : Nat) : bits (slotWord r 15) 31 11 = bits r 511 491 := by
  simp only [slotWord, bits, Nat.shiftRight_eq_div_pow]
  omega

section
variable {a b : Field} {s : State} (h : Passes s { ops := [opR a, opRp b], need := .shading })
include h

theorem exec_rayq_ray_misaligned (ha : (readR s a).toNat % 64 ≠ 0) : exec (.rayq a b) s = .next (raiseState .misalign (selfVa (readR s a).toNat) 0 s) := by
  change execRayq a b s = _
  exact (guarded_passed h.1 h.2).trans (if_pos ha)

variable (ha : (readR s a).toNat % 64 = 0)
include ha

theorem exec_rayq_header_misaligned (hb : (readP s b).toNat % 64 ≠ 0) : exec (.rayq a b) s = .next (raiseState .misalign (readP s b).toNat 0 s) := by
  change execRayq a b s = _
  exact (guarded_passed h.1 h.2).trans ((if_neg (not_not_intro ha)).trans (if_pos hb))

variable {t : Tgt} (hb : (readP s b).toNat % 64 = 0) (ht : Reads s (selfVa (readR s a).toNat) 64 t)
include hb ht

theorem exec_rayq_reserved (hr : bits (got s t 64) 511 491 ≠ 0) : exec (.rayq a b) s = .next (raiseState .illegal 0 0 (after s t 64)) := by
  change execRayq a b s = _
  refine (guarded_passed h.1 h.2).trans ((if_neg (not_not_intro ha)).trans ((if_neg (not_not_intro hb)).trans ?_))
  rw [ht]
  exact if_pos ((slotWord_last _).trans_ne hr)

variable (hr : bits (got s t 64) 511 491 = 0)
include hr

theorem exec_rayq_counter_misaligned (hc : bits (got s t 64) 447 384 % 8 ≠ 0) :
    exec (.rayq a b) s = .next (raiseState .misalign (bits (got s t 64) 447 384) 0 (after s t 64)) := by
  change execRayq a b s = _
  refine (guarded_passed h.1 h.2).trans ((if_neg (not_not_intro ha)).trans ((if_neg (not_not_intro hb)).trans ?_))
  rw [ht]
  exact (if_neg (not_not_intro ((slotWord_last _).trans hr))).trans (if_pos hc)

/-- A ray slot that is well formed goes to its unit as far as that takes it. -/
theorem exec_rayq_ready {q : Tgt} {w : Nat} {g : Workgroup} (hc : bits (got s t 64) 447 384 % 8 = 0)
    (hq : Reads (after s t 64) (readP s b).toNat 64 q) (hw : curWg (after s t 64) = some (w, g)) :
    exec (.rayq a b) s =
      if accepts (after s t 64) (rayEid (g.cid?.getD 0)) && decide (((after s t 64).rays.filter fun x => x.eid == rayEid (g.cid?.getD 0)).length < 512) then
        .next (advance { useTgt (after s t 64) q false with
          rays := (useTgt (after s t 64) q false).rays ++ [rayQuery (after s t 64) w g (readR s a).toNat (readP s b).toNat (got s t 64)],
          nextId := (useTgt (after s t 64) q false).nextId + 1 })
      else .next (after s t 64) := by
  change execRayq a b s = _
  refine (guarded_passed h.1 h.2).trans ((if_neg (not_not_intro ha)).trans ((if_neg (not_not_intro hb)).trans ?_))
  rw [ht]
  refine (if_neg (not_not_intro ((slotWord_last _).trans hr))).trans ((if_neg (not_not_intro hc)).trans ?_)
  change (resolve (after s t 64) (me (after s t 64)) { va := (readP s b).toNat, size := 64, rd := true }).run (after s t 64) _ = _
  rw [hq]
  simp only [Out.run, show (readTgt s (me s) t 64).2 = after s t 64 from rfl, hw]
  rfl

end

/-! RAY_QUERY_COMPLETE (R315, R317) -/

section
variable {n : Nat} {s : State} {x : RayQ} (hx : s.rays.find? (fun x => x.id == n && !x.held) = some x) (ha : accepts s x.eid = true)
  (hc : cgRuns s (cidDie x.eid) (x.eid % 16) = true) (hi : ∀ y ∈ s.items, y.wg ≠ x.wg)
include hx ha hc hi

theorem exec_rayQueryComplete_bad {c : Cause} {v : Nat} (hr : rayResult x (x.issuer s) s = .bad c v) :
    exec (.rayQueryComplete n) s = .next (rayFault s x c v) := by
  have hno : (s.items.any fun y => y.wg == x.wg) = false := by simpa using hi
  change execRayQueryComplete n s = _
  simp only [execRayQueryComplete, hx, ha, hc, hno, hr]
  rfl

theorem exec_rayQueryComplete_fault {c : Cause} {v : Nat} {s1 : State} (hr : rayResult x (x.issuer s) s = .ok (.error (c, v), s1)) :
    exec (.rayQueryComplete n) s = .next (rayFault s1 x c v) := by
  have hno : (s.items.any fun y => y.wg == x.wg) = false := by simpa using hi
  change execRayQueryComplete n s = _
  simp only [execRayQueryComplete, hx, ha, hc, hno, hr]
  rfl

section
variable {l : List Byte} {s1 : State} (hr : rayResult x (x.issuer s) s = .ok (.ok l, s1))
include hr

theorem exec_rayQueryComplete_no_counter (hz : rayCounter x = 0) :
    exec (.rayQueryComplete n) s = .next (dropRay (putHit s1 x (x.issuer s) l) x.id) := by
  have hno : (s.items.any fun y => y.wg == x.wg) = false := by simpa using hi
  change execRayQueryComplete n s = _
  simp only [execRayQueryComplete, hx, ha, hc, hno, hr]
  exact if_pos hz

theorem exec_rayQueryComplete_counter (hz : rayCounter x ≠ 0) :
    exec (.rayQueryComplete n) s =
      match postAdd (putHit s1 x (x.issuer s) l) (x.issuer s) (some x.cid) (rayCounter x) (x.slot.getD 14 0).toNat with
      | .ok u => .next (dropRay u x.id)
      | .bad c v => .next (rayFault (putHit s1 x (x.issuer s) l) x c v)
      | .wait => .next s := by
  have hno : (s.items.any fun y => y.wg == x.wg) = false := by simpa using hi
  change execRayQueryComplete n s = _
  simp only [execRayQueryComplete, hx, ha, hc, hno, hr]
  exact (if_neg hz).trans rfl

end
end

theorem spoilSlots_disjoint {s : State} {w o n : Nat} (h : ∀ y ∈ s.subs, y.wg = w → y.off + 32 ≤ o ∨ o + n ≤ y.off) : spoilSlots s w o n = s := by
  refine if_pos ?_
  rw [List.isEmpty_iff, List.map_eq_nil_iff, List.filter_eq_nil_iff]
  intro y hy hno
  simp only [Bool.and_eq_true, beq_iff_eq, decide_eq_true_eq] at hno
  have := h y hy hno.1.1
  omega

theorem countItem_resident {s : State} {w : Nat} {g : Workgroup} (hg : wg? s w = some g) (hr : g.cid?.isSome = true) : countItem s w = s := by
  have hp : ∃ c, g.place = .resident c := by
    simp only [Workgroup.cid?] at hr
    split at hr
    · exact ⟨_, ‹_›⟩
    · simp at hr
  obtain ⟨c, hp⟩ := hp
  simp only [countItem, hg, hp]

theorem putHit_resident {s : State} {x : RayQ} {i : Issuer} {l : List Byte} {g : Workgroup} (hi : i.wg = some x.wg) (hg : wg? s x.wg = some g)
    (hs : ∀ y ∈ s.subs, y.wg = x.wg → y.off + 32 ≤ x.off + 0x20 ∨ x.off + 0x20 + l.length ≤ y.off) (hr : g.cid?.isSome = true) :
    putHit s x i l = spadWrite s x.wg (x.off + 0x20) l := by
  have hsub : (spadWrite s x.wg (x.off + 0x20) l).subs = s.subs := by rw [spadWrite, updWg_shape]
  rw [putHit, if_pos (by rw [hi]; rfl), spoilSlots_disjoint (by rw [hsub]; exact hs)]
  exact countItem_resident ((wg?_updWg ..).trans (congrArg (Option.map _) hg)) hr

theorem dropRay_gone (s : State) (n : Nat) : ∀ y ∈ (dropRay s n).rays, y.id ≠ n := by
  have e : (dropRay s n).rays = s.rays.filter (·.id != n) := by
    unfold dropRay
    dsimp only
    split
    · exact blocksAdopt_rays ..
    · rfl
  rw [e]
  intro y hy
  simpa using (List.mem_filter.1 hy).2

theorem rayResult_no_ray {s : State} {x : RayQ} (i : Issuer)
    (h : rayOf (vec3 (x.slot.getD 0 0).toNat (x.slot.getD 1 0).toNat (x.slot.getD 2 0).toNat)
      (vec3 (x.slot.getD 4 0).toNat (x.slot.getD 5 0).toNat (x.slot.getD 6 0).toNat) (boundOf (x.slot.getD 3 0).toNat) (boundOf (x.slot.getD 7 0).toNat)
      = none) : rayResult x i s = .ok (.ok (hitRecord none), s) := by
  simp only [rayResult, h]

/-! The closest hit (R315) -/

/-- The place of a hit in the order of R315: distance, then the number of the geometry placed, then the primitive. -/
def hitKey (x : Hit) : ℚ ×ₗ ℕ ×ₗ ℕ := toLex ((x.t.n / x.t.d : ℚ), toLex (x.inst, x.prim))

theorem frac_lt_iff {x y : Frac} (hx : 0 < x.d) (hy : 0 < y.d) : x.lt y = true ↔ (x.n / x.d : ℚ) < y.n / y.d := by
  rw [Frac.lt, decide_eq_true_eq, div_lt_div_iff₀ (by exact_mod_cast hx) (by exact_mod_cast hy)]
  norm_cast

theorem frac_le_iff {x y : Frac} (hx : 0 < x.d) (hy : 0 < y.d) : x.le y = true ↔ (x.n / x.d : ℚ) ≤ y.n / y.d := by
  rw [Frac.le, decide_eq_true_eq, div_le_div_iff₀ (by exact_mod_cast hx) (by exact_mod_cast hy)]
  norm_cast

section
variable {x y : Hit} (hx : 0 < x.t.d) (hy : 0 < y.t.d)
include hx hy

theorem hitKey_lt_iff : hitKey x < hitKey y ↔
    (x.t.lt y.t || (x.t.le y.t && y.t.le x.t && (x.inst < y.inst || (x.inst == y.inst && x.prim < y.prim)))) = true := by
  simp only [hitKey, Prod.Lex.toLex_lt_toLex, Bool.or_eq_true, Bool.and_eq_true, decide_eq_true_eq, beq_iff_eq, frac_lt_iff hx hy, frac_le_iff hx hy,
    frac_le_iff hy hx, ← le_antisymm_iff]

theorem hitKey_le_iff : hitKey y ≤ hitKey x ↔ x.t.lt y.t = false ∧ (y.t.lt x.t = false → y.inst < x.inst ∨ (y.inst = x.inst ∧ y.prim ≤ x.prim)) := by
  simp only [hitKey, Prod.Lex.toLex_le_toLex, ← Bool.not_eq_true, frac_lt_iff hx hy, frac_lt_iff hy hx, not_lt]
  constructor
  · rintro (hlt | ⟨he, hle⟩)
    · exact ⟨hlt.le, fun h => absurd hlt (not_lt.2 h)⟩
    · exact ⟨he.le, fun _ => hle⟩
  · rintro ⟨hle, h⟩
    exact hle.lt_or_eq.imp_right fun he => ⟨he, h he.ge⟩

end

/-- From a hit in hand, the choice ends with the first in the order of it and those that follow. -/
theorem closest_from {l : List Hit} {y : Hit} (hd : ∀ x ∈ y :: l, 0 < x.t.d) :
    ∃ m ∈ y :: l, closest (y :: l) = some m ∧ ∀ x ∈ y :: l, hitKey m ≤ hitKey x := by
  induction l generalizing y with
  | nil => exact ⟨y, by simp, rfl, by simp⟩
  | cons z l ih =>
    have hy := hd y (by simp)
    have hz := hd z (by simp)
    have hl : ∀ x ∈ l, 0 < x.t.d := fun x hx => hd x (by simp [hx])
    by_cases hlt : hitKey z < hitKey y
    · obtain ⟨m, hm, he, hmin⟩ := ih (y := z) (by simpa [hz] using hl)
      have e : closest (y :: z :: l) = closest (z :: l) := congrArg (List.foldl _ · l) (if_pos ((hitKey_lt_iff hz hy).1 hlt))
      refine ⟨m, List.mem_cons_of_mem _ hm, e.trans he, fun x hx => ?_⟩
      obtain rfl | hx := List.mem_cons.1 hx
      · exact (hmin z (by simp)).trans hlt.le
      · exact hmin x hx
    · obtain ⟨m, hm, he, hmin⟩ := ih (y := y) (by simpa [hy] using hl)
      have e : closest (y :: z :: l) = closest (y :: l) := congrArg (List.foldl _ · l) (if_neg (mt (hitKey_lt_iff hz hy).2 hlt))
      refine ⟨m, ?_, e.trans he, fun x hx => ?_⟩
      · obtain rfl | hm := List.mem_cons.1 hm <;> simp [*]
      · have hmy := hmin y (by simp)
        obtain rfl | rfl | hx := by simpa using hx
        · exact hmy
        · exact hmy.trans (not_lt.1 hlt)
        · exact hmin x (by simp [hx])

theorem closest_first {l : List Hit} (hl : l ≠ []) (hd : ∀ x ∈ l, 0 < x.t.d) : ∃ y ∈ l, closest l = some y
    ∧ ∀ x ∈ l, x.t.lt y.t = false ∧ (y.t.lt x.t = false → y.inst < x.inst ∨ (y.inst = x.inst ∧ y.prim ≤ x.prim)) := by
  obtain ⟨z, l, rfl⟩ := List.exists_cons_of_ne_nil hl
  obtain ⟨y, hy, he, hmin⟩ := closest_from hd
  exact ⟨y, hy, he, fun x hx => (hitKey_le_iff (hd x hx) (hd y hy)).1 (hmin x hx)⟩

/-- Settles O39: RAYQ by what its slot holds and its unit takes, a completion by its result and its post, and the closest hit as the first in the
order of R315. -/
theorem rayResults : Obligations.RayResults := by
  refine ⟨fun a b s t r h ha hb ht hr => ?_, fun a b s h => ⟨exec_rayq_ray_misaligned h, exec_rayq_header_misaligned h⟩,
    fun n s x hx ha hc hi => ⟨fun l s1 hr => ⟨exec_rayQueryComplete_no_counter hx ha hc hi hr, fun hz => ⟨fun s2 hp => ?_, fun c v hp => ?_⟩⟩,
      fun c v s1 => exec_rayQueryComplete_fault hx ha hc hi, fun c v => exec_rayQueryComplete_bad hx ha hc hi⟩,
    fun s x i l g hi hg hs hr => putHit_resident hi hg hs hr, dropRay_gone, fun s x i h => rayResult_no_ray i h, fun l => closest_first⟩
  · subst hr
    refine ⟨exec_rayq_reserved h ha hb ht, exec_rayq_counter_misaligned h ha hb ht, ?_⟩
    rintro u q w g rfl h0 hc hq hw
    have e := exec_rayq_ready h ha hb ht h0 hc hq hw
    refine ⟨fun hacc hlen => e.trans (if_pos (by simp [hacc, hlen])), fun hno => e.trans (if_neg ?_)⟩
    rw [Bool.and_eq_true, decide_eq_true_eq]
    rintro ⟨hacc, hlen⟩
    exact hno.elim (fun hf => by simp [hf] at hacc) (fun hge => absurd hlen (Nat.not_lt.2 hge))
  · rw [exec_rayQueryComplete_counter hx ha hc hi hr hz, hp]
  · rw [exec_rayQueryComplete_counter hx ha hc hi hr hz, hp]

end Sys2Proof.Laws
end

section
/-! SUPPORT. Table commands: PTUPD, their operations on the tables, shootdowns, reports and walks (R340, R347, R351-R361). -/

namespace Sys2Proof.Laws

open Sys2Proof Sys2Proof.Machine Sys2Proof.Claims

/-! PTUPD (R340, R355, R357) -/

theorem tableCommandResults : TableCommandResults := by
  rintro d a s t x h ht rfl
  have e : exec (.ptupd d a) s = if !commandOk (after s t 64) (namedPart s) (me s).lvl (BitVec.ofNat 512 (got s t 64)) then answer (after s t 64) d 7
      else if 64 ≤ ((after s t 64).ptq.filter fun c => c.part == namedPart s).length then answer (after s t 64) d 3
      else answer { after s t 64 with ptq := (after s t 64).ptq ++
        [{ part := namedPart s, lvl := (me s).lvl, sec := (me s).sec, die := (me s).die, img := BitVec.ofNat 512 (got s t 64), done := none, held := false,
           wrote := false, wg := (me s).wg, cid := (me s).cid, lid := (me s).lid,
           wid := (((me s).wg.bind (wg? (after s t 64))).map (·.wid)).getD 0 }] } d 0 := by
    change execPtupd d a s = _
    refine (sysForm_passed h).trans ?_
    dsimp only
    rw [readMem_ok ht]
    rfl
  refine ⟨fun hno => e.trans (if_pos (by simp [hno])), fun hok => ⟨fun hlen => ?_, fun hlen => ?_⟩⟩
  · exact e.trans ((if_neg (by simp [hok])).trans (if_pos hlen))
  · exact e.trans ((if_neg (by simp [hok])).trans (if_neg (Nat.not_le.2 hlen)))

/-! Operations (R347, R356, R358) -/

section
variable {p : Nat} {s : State} {c : PtCmd}

/-- READ returns the entry it finds, or RSTAT 1. -/
theorem exec_ptupdRead_due (h : dueCmd s p 2 = some c) : exec (.ptupdRead p) s =
    match entryAddr (applyReports s p) p c.im.lvl c.im.va with
    | none => .next (commandDone (useEntries (applyReports s p) (pool (applyReports s p) p)) c 0 1)
    | some a => .next (commandDone (useEntries (applyReports s p) (pool (applyReports s p) p)) c (masterEntry (applyReports s p) a) 0) := by
  change execPtupdRead p s = _
  simp only [execPtupdRead, h]
  rfl

/-- FILL stores its entries from the one it finds on, or returns RSTAT 1. -/
theorem exec_ptupdFill_due (h : dueCmd s p 1 = some c) : exec (.ptupdFill p) s =
    match entryAddr (applyReports s p) p c.im.lvl c.im.va with
    | none => .next (commandDone (useEntries (applyReports s p) (pool (applyReports s p) p)) c 0 1)
    | some a => .next (commandDone
        ((List.range c.im.count).foldl (fun t i => storesEntry t (pool (applyReports s p) p) (a + 8 * i) (fillEntry c.im.lvl c.im.val i))
          (useEntries (applyReports s p) (pool (applyReports s p) p))) c (masterEntry (applyReports s p) a) 0) := by
  change execPtupdFill p s = _
  simp only [execPtupdFill, h]
  rfl

/-- WRITE stores its entry where its path is there and the table it links is linked nowhere else. -/
theorem exec_ptupdWrite_due (h : dueCmd s p 0 = some c) : exec (.ptupdWrite p) s =
    match entryAddr (applyReports s p) p c.im.lvl c.im.va with
    | none => .next (commandDone (useEntries (applyReports s p) (pool (applyReports s p) p)) c 0 1)
    | some a =>
      if bitAt c.im.val 0 && !pteLeaf c.im.val && linked (applyReports s p) (pool (applyReports s p) p) (pteTable (pool (applyReports s p) p) c.im.val) a then
        .next (commandDone (useEntries (applyReports s p) (pool (applyReports s p) p)) c (masterEntry (applyReports s p) a) 2)
      else .next (commandDone (tablesWritten (applyReports s p) (pool (applyReports s p) p) a c.im.val (masterEntry (applyReports s p) a)) c
        (masterEntry (applyReports s p) a) 0) := by
  change execPtupdWrite p s = _
  simp only [execPtupdWrite, h]
  rfl

theorem exec_ptupdPool_due (h : dueCmd s p 5 = some c) : exec (.ptupdPool p) s =
    if s.wgs.any fun x => x.2.part == c.im.pool && x.2.cid?.isSome then .next (commandDone s c 0 3)
    else .next (commandDone (writeTables
      { s with pools := s.pools.put c.im.pool { base := c.im.va, count := c.im.count, ridx := c.im.ridx } }
      { base := c.im.va, count := c.im.count, ridx := c.im.ridx } c.im.va (List.replicate 1024 0)) c 0 0) := by
  change execPtupdPool p s = _
  simp only [execPtupdPool, h]
  rfl

theorem exec_ptupdFlush_due (h : dueCmd s p 3 = some c) : exec (.ptupdFlush p) s = .next (commandDone s c 0 0) := by
  change execPtupdFlush p s = _
  simp only [execPtupdFlush, h]
  rfl

theorem exec_ptupdSync_due (h : dueCmd s p 4 = some c) : exec (.ptupdSync p) s = .next (commandDone s c 0 0) := by
  change execPtupdSync p s = _
  simp only [execPtupdSync, h]
  rfl

end

theorem tableOperationResults : TableOperationResults := by
  refine ⟨?_, fun s q a => ⟨fun h => if_neg (Bool.eq_false_iff.1 h), fun h => if_pos h, fun h => if_neg (Bool.eq_false_iff.1 h)⟩,
    ?_, ?_, ?_,
    fun p s c => ⟨exec_ptupdFlush_due, exec_ptupdSync_due⟩, fun p s c h => ⟨?_, ?_⟩⟩
  · rintro p a s _ c ⟨h, ha⟩ rfl
    rw [exec_ptupdRead_due h, ha]
  · rintro p a s _ c ⟨h, ha⟩ rfl
    rw [exec_ptupdWrite_due h, ha]
    refine ⟨?_, fun hno => if_neg (mt ?_ hno)⟩
    · rintro ⟨⟨hv, hl⟩, hk⟩
      exact if_pos (by rw [hv, hl, hk]; rfl)
    · simp only [Bool.and_eq_true, Bool.not_eq_true']
      exact id
  · rintro p a s _ c ⟨h, ha⟩ rfl
    rw [exec_ptupdFill_due h, ha]
  · rintro p s _ c rfl
    refine ⟨?_, ?_, ?_⟩ <;> rintro ⟨h, ha⟩
    · rw [exec_ptupdWrite_due h, ha]
    · rw [exec_ptupdFill_due h, ha]
    · rw [exec_ptupdRead_due h, ha]
  · rintro ⟨x, hx, hp, hr⟩
    exact (exec_ptupdPool_due h).trans (if_pos (List.any_eq_true.2 ⟨x, hx, by rw [hp, hr, beq_self_eq_true]; rfl⟩))
  · intro hno
    refine (exec_ptupdPool_due h).trans (if_neg ?_)
    simp only [List.any_eq_true, Bool.and_eq_true, beq_iff_eq]
    rintro ⟨x, hx, hp, hr⟩
    simp [hno x hx hp] at hr

/-! Shootdowns (R358, R360, R361) -/

section
variable {p : Nat} {s : State} {c : PtCmd} (h : Posting s p c)
include h

/-- A command that the engine works on ends at once, waits for what its shootdown waits for, or ends with its shootdown. -/
theorem exec_shootdownComplete_posting : exec (.shootdownComplete p) s =
    if !c.shoots then .next (finishCmd s c)
    else if matrixHolds s c || s.peerOut.any (fun x => x.part == c.part) then .next s
    else (headCmd (shotDown s p c) p).elim (.next (shotDown s p c)) fun c' => .next (finishCmd (shotDown s p c) c') := by
  obtain ⟨hc, hd, hh, ha, hs⟩ := h
  have hno : ¬ (c.done.isNone || c.held || !accepts s tableEid || someHeld s) = true := by
    rw [hh, ha, hs, ← Option.not_isSome, hd]
    decide
  change execShootdownComplete p s = _
  simp only [execShootdownComplete, hc]
  refine (if_neg hno).trans ?_
  congr 2
  change (match headCmd (shotDown s p c) p with | some c' => (.next (finishCmd (shotDown s p c) c') : Result) | none => .next (shotDown s p c)) = _
  cases headCmd (shotDown s p c) p <;> rfl

theorem exec_shootdownComplete_none (hs : c.shoots = false) : exec (.shootdownComplete p) s = .next (finishCmd s c) :=
  (exec_shootdownComplete_posting h).trans (if_pos (by rw [hs]; rfl))

theorem exec_shootdownComplete_waits (hs : c.shoots = true) (hw : matrixHolds s c = true ∨ ∃ x ∈ s.peerOut, x.part = c.part) :
    exec (.shootdownComplete p) s = .next s :=
  (exec_shootdownComplete_posting h).trans ((if_neg (by rw [hs]; decide)).trans (if_pos (by simpa using hw)))

theorem exec_shootdownComplete_shot (hs : c.shoots = true) (hm : matrixHolds s c = false) (hp : ∀ x ∈ s.peerOut, x.part ≠ c.part) :
    exec (.shootdownComplete p) s = (headCmd (shotDown s p c) p).elim (.next (shotDown s p c)) fun c' => .next (finishCmd (shotDown s p c) c') :=
  (exec_shootdownComplete_posting h).trans ((if_neg (by rw [hs]; decide)).trans (if_neg (by simpa [hm] using hp)))

end

/-! Reports (R354) -/

theorem exec_adReport_first {s : State} {r : Report} {l : List Report} (h : s.reports = r :: l) :
    exec .adReport s = if someHeld s || rowCopying s r.addr then .next s else .next (applyReport { s with reports := l } r) := by
  change execAdReport s = _
  simp only [execAdReport, h]
  rfl

/-- Some bits of an entry's byte set in the replica of a compute die. -/
def setReplicaBits (q : Pool) (addr : Nat) (b : Byte) (m : List Host.Cell) (d : Nat) : List Host.Cell :=
  if Config.isCompute d then Memory.set m (replicaOf q d addr) (Memory.get m (replicaOf q d addr) ||| b) else m

theorem setEntryBits_mem (s : State) (q : Pool) (addr : Nat) (b : Byte) :
    (setEntryBits s q addr b).mem = if linePoisoned s (lineOf addr) then s.mem else Memory.set s.mem addr (Memory.get s.mem addr ||| b) := by
  unfold setEntryBits
  dsimp only
  split
  · rfl
  · exact recodeRange_mem ..

theorem recodeRange_tbl (s : State) (pa n : Nat) : (recodeRange s pa n).tbl = s.tbl :=
  foldl_keeps (p := State.tbl) (fun t k => by rw [recode_shape]) _ _

theorem setEntryBits_tbl (s : State) (q : Pool) (addr : Nat) (b : Byte) :
    (setEntryBits s q addr b).tbl = (List.range 9).foldl (setReplicaBits q addr b) s.tbl := by
  unfold setEntryBits
  dsimp only
  split
  · rfl
  · exact recodeRange_tbl ..

theorem setReplicaBits_wf {q : Pool} {addr : Nat} {b : Byte} {m : List Host.Cell} {d : Nat} (h : Memory.wf m = true) :
    Memory.wf (setReplicaBits q addr b m d) = true := by
  unfold setReplicaBits
  split
  · exact memory_set_wf _ _ _ h
  · exact h

theorem get_setReplicaBits {q : Pool} {addr a : Nat} {b : Byte} {m : List Host.Cell} {d : Nat} (h : Memory.wf m = true) :
    Memory.get (setReplicaBits q addr b m d) a
      = if Config.isCompute d = true ∧ a = replicaOf q d addr then Memory.get m a ||| b else Memory.get m a := by
  unfold setReplicaBits
  by_cases hd : Config.isCompute d = true
  · rw [if_pos hd, memory_get_set _ _ _ _ h]
    by_cases ha : a = replicaOf q d addr
    · rw [if_pos ha, if_pos ⟨hd, ha⟩, ha]
    · rw [if_neg ha, if_neg fun h => ha h.2]
  · rw [if_neg hd, if_neg fun h => hd h.1]

/-- The replicas of the compute dies listed have the bits set; no other byte changes. -/
theorem get_foldl_setReplicaBits {q : Pool} {addr a : Nat} {b : Byte} {l : List Nat} {m : List Host.Cell} (h : Memory.wf m = true) :
    Memory.get (l.foldl (setReplicaBits q addr b) m) a
      = if ∃ d ∈ l, Config.isCompute d = true ∧ a = replicaOf q d addr then Memory.get m a ||| b else Memory.get m a := by
  induction l generalizing m with
  | nil => simp
  | cons d l ih =>
    rw [List.foldl_cons, ih (setReplicaBits_wf h), get_setReplicaBits h]
    by_cases hd : Config.isCompute d = true ∧ a = replicaOf q d addr
    · have hor : Memory.get m a ||| b ||| b = Memory.get m a ||| b := by rw [BitVec.or_assoc, BitVec.or_self]
      rw [if_pos hd, hor, ite_self, if_pos ⟨d, by simp, hd⟩]
    · simp only [List.mem_cons, exists_eq_or_imp, hd, false_or, if_false]

theorem lt_nine_of_isCompute {d : Nat} (h : Config.isCompute d = true) : d < 9 := by
  by_contra hd
  have hk : Config.dieKind d = .memory ∨ Config.dieKind d = .absent := by
    unfold Config.dieKind
    rw [if_neg (by omega), if_neg (by omega), if_neg (by omega)]
    split <;> simp
  rcases hk with hk | hk <;> simp [Config.isCompute, hk] at h

theorem applyReport_current {s : State} {r : Report} (hv : s.pteVer.get 0 r.addr = r.ver) :
    applyReport s r = if (pool s r.part).base ≤ r.addr ∧ r.addr < (pool s r.part).base + (pool s r.part).count * 65536
      then setEntryBits s (pool s r.part) r.addr (if r.dirty then 0x80 else 0x40) else s := by
  unfold applyReport
  dsimp only
  rw [if_pos hv]
  cases r.dirty <;> rfl

section
variable {s : State} {q : Pool} {addr : Nat} (b : Byte)

theorem get_setEntryBits_mem (hp : linePoisoned s (lineOf addr) = false) (hm : Memory.wf s.mem = true) (a : Nat) :
    Memory.get (setEntryBits s q addr b).mem a = if a = addr then Memory.get s.mem a ||| b else Memory.get s.mem a := by
  rw [setEntryBits_mem, if_neg (Bool.eq_false_iff.1 hp), memory_get_set _ _ _ _ hm]
  split
  · next h => rw [h]
  · rfl

variable (ht : Memory.wf s.tbl = true)
include ht

theorem get_setEntryBits_replica {d : Nat} (hd : Config.isCompute d = true) :
    Memory.get (setEntryBits s q addr b).tbl (replicaOf q d addr) = Memory.get s.tbl (replicaOf q d addr) ||| b := by
  rw [setEntryBits_tbl, get_foldl_setReplicaBits ht, if_pos ⟨d, List.mem_range.2 (lt_nine_of_isCompute hd), hd, rfl⟩]

theorem get_setEntryBits_other {a : Nat} (ha : ∀ d, Config.isCompute d = true → a ≠ replicaOf q d addr) :
    Memory.get (setEntryBits s q addr b).tbl a = Memory.get s.tbl a := by
  rw [setEntryBits_tbl, get_foldl_setReplicaBits ht, if_neg]
  rintro ⟨d, _, hd, h⟩
  exact ha d hd h

end

/-! Walks (R351-R353) -/

theorem exec_pageWalk_found {d p va : Nat} {s : State} {t : TlbEnt} (hd : Config.isCompute d = true ∨ Config.dieKind d = .memory) (hp : p ≤ 64)
    (hr : rangeOf va = .pages) (hc : canonical va = true) (ht : ∀ e ∈ s.tlb, tlbHit e d p va = false) (hh : crossHeld s d = false)
    (hw : walkWaits s d p va = false) (hf : findLeaf s d p va = some t) : exec (.pageWalk d p va) s = .next (useLeaf s t false) := by
  have hany : (s.tlb.any fun t => tlbHit t d p va) = false := by simpa using ht
  have hdp : p ≤ devicePart := hp
  change execPageWalk d p va s = _
  simp only [execPageWalk, hr, hc, hany, hh, hw, hf]
  exact if_pos (by simpa [hdp] using hd)

section
variable {va : Nat} (hs : va / 2 ^ 49 = if va / 2 ^ 48 % 2 = 1 then 2 ^ 15 - 1 else 0)
include hs

theorem canonical_of_sign : canonical va = true := by
  simp only [canonical, Bool.or_eq_true, Bool.and_eq_true, decide_eq_true_eq]
  split at hs <;> omega

end

theorem rangeOf_pages {va : Nat} (h : va % 2 ^ 49 < 0x1F00000000000) : rangeOf va = .pages := if_pos h

/-- An aligned access to a page comes to its walk. -/
theorem resolve_pages {s : State} {i : Issuer} {q : Acc} (ha : q.elem = true ∨ q.va % q.size = 0) (hc : canonical q.va = true) (hr : rangeOf q.va = .pages) :
    resolve s i q = if walkWaits s i.die i.part q.va then .wait else if walkBad s (walkDie i.die) i.part q.va then .bad .poison q.va
      else (findLeaf s (walkDie i.die) i.part q.va).elim (.bad .xlateNp q.va) (pageChecks s i q) := by
  have hal : ¬ (!q.elem && q.va % q.size != 0) = true := by
    rcases ha with h | h <;> simp [h]
  unfold resolve
  rw [if_neg hal, if_neg (by simp [hc]), hr]
  cases findLeaf s (walkDie i.die) i.part q.va <;> rfl

theorem translationResults : TranslationResults := by
  refine ⟨fun p s c h => ⟨exec_shootdownComplete_none h, exec_shootdownComplete_waits h, fun hs hm hp => ⟨fun c' hc => ?_, fun hn => ?_⟩⟩,
    fun s r l h => ⟨fun hh hr => ?_, fun hw => ?_⟩, fun d p va s t => exec_pageWalk_found, fun s i q ha hs hr => ?_, ?_⟩
  · rw [exec_shootdownComplete_shot h hs hm hp, hc]
    rfl
  · rw [exec_shootdownComplete_shot h hs hm hp, hn]
    rfl
  · exact (exec_adReport_first h).trans (if_neg (by simp [hh, hr]))
  · exact (exec_adReport_first h).trans (if_pos (by simpa using hw))
  · have e := resolve_pages (s := s) (i := i) ha (canonical_of_sign hs) (rangeOf_pages hr)
    exact ⟨fun hw => e.trans (if_pos hw), fun hw hb => e.trans ((if_neg (Bool.eq_false_iff.1 hw)).trans (if_pos hb))⟩
  · rintro s t r q b rfl hv rfl hm ht rfl
    rw [applyReport_current hv]
    refine ⟨fun hin => ?_, fun hno => if_neg hno⟩
    rw [if_pos hin]
    exact ⟨fun hp a => get_setEntryBits_mem _ hp hm a, fun hp => (setEntryBits_mem ..).trans (if_pos hp),
      fun d hd => get_setEntryBits_replica _ ht hd, fun a ha => get_setEntryBits_other _ ht ha⟩

/-- Settles O49: PTUPD by its checks, an operation by its entry's path and its old value, and a shootdown, a report and a walk by what they wait for. -/
theorem tableResults : Obligations.TableResults := ⟨tableCommandResults, tableOperationResults, translationResults⟩

end Sys2Proof.Laws
end

section
/-! SUPPORT. That reads of memory, and a thread or a context that goes on, leave the engines' side of a state as it is. -/

namespace Sys2Proof.Laws

open Sys2Proof Sys2Proof.Machine Sys2Proof.Claims

/-! Lines and slices -/

theorem engineSide_touchL2 (s : State) (k h line : Nat) (w d : Word32) : engineSide (touchL2 s k h line w d) = engineSide s := by
  rw [touchL2_shape]
  rfl

theorem engineSide_combine (s : State) (line : Nat) : engineSide (combine s line) = engineSide s := by
  unfold combine
  dsimp only
  split
  · rfl
  · exact (foldl_keeps (p := engineSide) (fun t (x : Nat × L1Line) => engineSide_applyDeltas t line x.2.u) _ (hostOwn s line)).trans rfl

theorem engineSide_hostPermit (s : State) (line : Nat) : engineSide (hostPermit s line) = engineSide s := by
  unfold hostPermit
  split <;> rfl

theorem engineSide_makeRoom (s : State) (cid line : Nat) : engineSide (makeRoom s cid line) = engineSide s := by
  unfold makeRoom
  dsimp only
  split
  · rfl
  · split
    · exact engineSide_writeBackLine ..
    · rfl

theorem engineSide_elim_makeRoom (s : State) (cid : Option Nat) (line : Nat) : engineSide (cid.elim s fun c => makeRoom s c line) = engineSide s := by
  cases cid
  · rfl
  · exact engineSide_makeRoom ..

theorem engineSide_lineRead (s : State) (line : Nat) (m : Word32) (cid : Option Nat) : engineSide (lineRead s line m cid) = engineSide s := by
  refine .trans (b := engineSide (hostPermit (hostShare (combine (cid.elim s fun c => makeRoom s c line) line) line) line)) (by cases cid <;> rfl) ?_
  exact (engineSide_hostPermit ..).trans ((engineSide_combine (cid.elim s fun c => makeRoom s c line) line).trans (engineSide_elim_makeRoom ..))

theorem engineSide_lineOwn (s : State) (line : Nat) (m : Word32) (cid : Option Nat) : engineSide (lineOwn s line m cid) = engineSide s := by
  refine .trans (b := engineSide (hostPermit (hostOwn (combine (cid.elim s fun c => makeRoom s c line) line) line) line)) (by cases cid <;> rfl) ?_
  exact (engineSide_hostPermit ..).trans ((engineSide_combine (cid.elim s fun c => makeRoom s c line) line).trans (engineSide_elim_makeRoom ..))

/-! Accesses -/

theorem engineSide_useLeaf (s : State) (t : TlbEnt) (wr : Bool) : engineSide (useLeaf s t wr) = engineSide s := by
  unfold useLeaf
  exact (apply_ite engineSide ..).trans (ite_self (engineSide s))

theorem engineSide_useTgt (s : State) (t : Tgt) (wr : Bool) : engineSide (useTgt s t wr) = engineSide s := by
  unfold useTgt
  split
  · exact engineSide_useLeaf ..
  · rfl

theorem engineSide_notePeer (s : State) (i : Issuer) (pa : Nat) : engineSide (notePeer s i pa) = engineSide s := by
  unfold notePeer
  split <;> rfl

theorem engineSide_physRead (s : State) (pa n : Nat) : engineSide (physRead s pa n).2 = engineSide s := by
  rw [physRead_shape]
  rfl

theorem engineSide_cacheUse (s : State) (i : Issuer) (e pa n : Nat) (wr : Bool) : engineSide (cacheUse s i e pa n wr) = engineSide s := by
  have hclear (t : State) (l : Nat) (m : Word32) (k : Option Nat) : engineSide (clearL2 t l m k) = engineSide t := rfl
  have hrecall (t : State) (l : Nat) (m : Word32) (k : Option Nat) : engineSide (recallL2 t l m k) = engineSide t := rfl
  have hline (t : State) (l : Nat) (m : SMap L1Line) : engineSide (setLine t l m) = engineSide t := rfl
  grind [cacheUse, engineSide_touchL2, engineSide_touchLlc]

theorem engineSide_layPut (s : State) (pa : Nat) (l : List Byte) : engineSide (layPut s pa l) = engineSide s := by
  rw [layPut_shape]
  rfl

theorem engineSide_recode (s : State) (pa n : Nat) (c : Bool) : engineSide (recode s pa n c) = engineSide s := by
  rw [recode_shape]
  rfl

theorem engineSide_layPhys (s : State) (pa : Nat) (l : List Byte) (c : Bool) : engineSide (layPhys s pa l c) = engineSide s := by
  refine (foldl_keeps (p := engineSide) (fun t (x : Nat × Nat) => ?_) _ _).trans ?_
  · exact (engineSide_recode ..).trans ((engineSide_layPut ..).trans (engineSide_lineOwn ..))
  · unfold endCopies
    split <;> rfl

theorem engineSide_layBytes (s : State) (d p va : Nat) (l : List Byte) : engineSide (layBytes s d p va l) = engineSide s := by
  refine foldl_keeps (fun t x => ?_) ..
  split
  · exact (engineSide_layPhys ..).trans (engineSide_useLeaf ..)
  · rfl

theorem engineSide_markLaid (s : State) (d p va n : Nat) (h : Holder) (dark : Bool) : engineSide (markLaid s d p va n h dark) = engineSide s := by
  refine foldl_keeps (fun t x => ?_) ..
  split <;> rfl

theorem engineSide_countItem (s : State) (w : Nat) : engineSide (countItem s w) = engineSide s := by
  unfold countItem
  split
  · split
    · exact engineSide_layBytes ..
    · rfl
  · rfl

theorem engineSide_readTgt (s : State) (i : Issuer) (t : Tgt) (n : Nat) : engineSide (readTgt s i t n).2 = engineSide s := by
  unfold readTgt
  dsimp only
  split
  · split
    · exact (engineSide_countItem ..).trans (engineSide_useTgt ..)
    · exact (engineSide_countItem ..).trans (engineSide_useTgt ..)
  · split
    · exact engineSide_useTgt ..
    · exact (engineSide_physRead ..).trans ((engineSide_cacheUse ..).trans ((engineSide_notePeer ..).trans ((engineSide_lineRead ..).trans
        (engineSide_useTgt ..))))

theorem engineSide_readMem {s : State} {i : Issuer} {va n : Nat} {r : List Byte × State} (h : readMem s i va n = .ok r) : engineSide r.2 = engineSide s := by
  obtain ⟨t, -, ht⟩ := bind_ok h
  cases ht
  exact engineSide_readTgt ..

theorem engineSide_releaseA (s : State) (a : Agent) : engineSide (releaseA s a 3) = engineSide s := by
  unfold releaseA
  split
  · exact (engineSide_drainL2 ..).trans (engineSide_writeBackCore ..)
  · rfl

/-! Fetches and the frontier -/

theorem engineSide_fetchTgt (s : State) (i : Issuer) (cid : Nat) (t : Tgt) : engineSide (fetchTgt s i cid t).2 = engineSide s := by
  unfold fetchTgt
  split
  · exact engineSide_useTgt ..
  · dsimp only
    split <;> exact engineSide_readTgt ..

theorem engineSide_fetchAs {s : State} {i : Issuer} {cid va : Nat} {r : Word32 × State} (h : fetchAs s i cid va = .ok r) :
    engineSide r.2 = engineSide s := by
  obtain ⟨t, -, h⟩ := bind_ok h
  split at h
  · cases h
    exact engineSide_useTgt ..
  · obtain ⟨u, -, h⟩ := bind_ok h
    cases h
    exact engineSide_fetchTgt ..

theorem engineSide_checkEntryAs {s : State} {i : Issuer} {cid va : Nat} {r : Succ × State} (h : checkEntryAs s i cid va = .ok r) :
    engineSide r.2 = engineSide s := by
  grind [checkEntryAs, → bind_ok, → engineSide_fetchAs]

theorem engineSide_updCore (s : State) (cid : Nat) (f : Core → Core) : engineSide (updCore s cid f) = engineSide s := rfl

theorem engineSide_updWg (s : State) (w : Nat) (f : Workgroup → Workgroup) : engineSide (updWg s w f) = engineSide s := by
  rw [updWg_shape]
  rfl

theorem engineSide_updThread (s : State) (w t : Nat) (f : Thread → Thread) : engineSide (updThread s w t f) = engineSide s := engineSide_updWg ..

theorem engineSide_layRecord (s : State) (p l base cid : Nat) (r : Spilled) : engineSide (layRecord s p l base cid r) = engineSide s :=
  (engineSide_layBytes ..).trans ((engineSide_markLaid ..).trans rfl)

theorem engineSide_spillEntry {s t : State} {cid : Nat} {e : Entry} (h : spillEntry s cid e = some t) : engineSide t = engineSide s := by
  grind [spillEntry, engineSide_updCore, engineSide_layRecord]

theorem engineSide_addEntry {s t : State} {cid : Nat} {e : Entry} (h : addEntry s cid e = some t) : engineSide t = engineSide s := by
  have hset (u : State) (c : Core) : engineSide (setCore u cid c) = engineSide u := rfl
  grind [addEntry, engineSide_updCore, → engineSide_spillEntry, Option.map_eq_some_iff]

theorem engineSide_relayRecord (s : State) (cid p l ctx baddr : Nat) : engineSide (relayRecord s cid p l ctx baddr) = engineSide s := by
  unfold relayRecord
  dsimp only
  split
  · exact engineSide_layRecord ..
  · rfl

theorem engineSide_placeSlot {s t : State} {cid p l slot : Nat} {u : Succ} (h : placeSlot s cid p l slot u = some t) : engineSide t = engineSide s := by
  have hset (u : State) (c : Core) : engineSide (setCore u cid c) = engineSide u := rfl
  grind [placeSlot, noteFresh, engineSide_updCore, engineSide_relayRecord, → engineSide_addEntry, Option.map_eq_some_iff]

theorem engineSide_placeThread {s t : State} {w n : Nat} {u : Succ} (h : placeThread s w n u = some t) : engineSide t = engineSide s := by
  grind [placeThread, engineSide_updThread, → engineSide_placeSlot, Option.map_eq_some_iff]

/-! Threads and contexts that go on -/

theorem engineSide_takeRecord (s : State) (cid k : Nat) (h : Held) : engineSide (takeRecord s cid k h) = engineSide s := by
  unfold takeRecord
  dsimp only
  split
  · refine .trans (b := engineSide (leaveBatch s h.wg h.tid)) ((engineSide_updThread ..).trans (engineSide_updCore ..)) ?_
    rw [leaveBatch_shape]
    rfl
  · rfl

theorem engineSide_faultEntry (s : State) (cid w t va : Nat) (c : Cause) (faddr : Nat) : engineSide (faultEntry s cid w t va c faddr) = engineSide s := by
  unfold faultEntry
  dsimp only
  split
  · exact engineSide_takeRecord ..
  · exact (engineSide_updThread ..).trans rfl

theorem engineSide_enterThread (s : State) (cid w t va : Nat) : engineSide (enterThread s cid w t va) = engineSide s := by
  unfold enterThread
  split
  · next he =>
    have hf := engineSide_checkEntryAs he
    split
    · next hp => exact (engineSide_placeThread hp).trans hf
    · exact (engineSide_faultEntry ..).trans hf
  · exact engineSide_faultEntry ..
  · exact engineSide_updThread ..

theorem engineSide_wake (s : State) (w t : Nat) : engineSide (wake s w t) = engineSide s := by
  unfold wake
  split
  · next th _ =>
    split
    · split
      · exact engineSide_enterThread ..
      · split
        · next hp => exact engineSide_placeThread hp
        · exact engineSide_updThread ..
    · cases hp : placeThread s w t th.succ with
      | none => rfl
      | some z => exact engineSide_placeThread hp
  · rfl

theorem engineSide_advanceA (s : State) (a : Agent) : engineSide (advanceA s a) = engineSide s := by
  rw [advanceA_shape]
  rfl

theorem engineSide_writeRA (s : State) (a : Agent) (f : Nat) (v : Word64) : engineSide (writeRA s a f v) = engineSide s := by
  rw [writeRA_shape]
  rfl

theorem engineSide_wakeAgent (s : State) (a : Agent) : engineSide (wakeAgent s a) = engineSide s := by
  cases a with
  | vthread w t => exact engineSide_wake ..
  | scribe w => exact (engineSide_advanceA ..).trans (engineSide_updWg ..)
  | control n => exact (engineSide_advanceA ..).trans rfl

theorem engineSide_finishForm (s : State) (f : PForm) (st : Nat) : engineSide (finishForm s f st) = engineSide s := by
  unfold finishForm
  dsimp only
  split
  · exact (engineSide_wakeAgent ..).trans ((engineSide_writeRA ..).trans ((engineSide_releaseA ..).trans rfl))
  · rfl

theorem engineSide_settleCloses (s : State) : engineSide (settleCloses s) = engineSide s := by
  refine foldl_keeps (fun t f => ?_) ..
  unfold settleClose
  split
  · split
    · rfl
    · exact (engineSide_finishForm ..).trans rfl
  · rfl

/-! What is read of the engines' side -/

theorem susp_of_engineSide {s t : State} (h : engineSide t = engineSide s) : t.susp = s.susp := show (engineSide t).susp = _ by rw [h]; rfl

theorem disps_of_engineSide {s t : State} (h : engineSide t = engineSide s) : t.disps = s.disps := show (engineSide t).disps = _ by rw [h]; rfl

end Sys2Proof.Laws
end

section
/-! SUPPORT. Recoveries, replays and lost flits, errors of the arrays, and the resets of a die (R387, R391, R392, R420-R422). -/

namespace Sys2Proof.Laws

open Sys2Proof Sys2Proof.Machine Sys2Proof.Claims

/-! Bits of registers -/

theorem bitAt_setBits_set (x n : Nat) : bitAt (setBits x n n 1) n = true := by
  have h : (x - x / 2 ^ n % 2 * 2 ^ n + 2 ^ n) / 2 ^ n = x / 2 ^ n - x / 2 ^ n % 2 + 1 := by
    rw [Nat.add_div_right _ (Nat.two_pow_pos n), Nat.mul_comm, Nat.sub_mul_div]
  simp only [bitAt, setBits, bits, Nat.shiftRight_eq_div_pow, Nat.add_sub_cancel_left, Nat.pow_one, Nat.mod_eq_of_lt (by decide : 1 < 2), Nat.one_mul, h]
  rw [beq_iff_eq]
  omega

theorem bitAt_mod64 (x : Nat) {n : Nat} (h : n < 64) : bitAt (x % 2 ^ 64) n = bitAt x n := by
  rw [← bitAt_ofNat64 x h, BitVec.toNat_ofNat]

theorem dregGet_lt (s : State) (d o : Nat) : dregGet s d o < 2 ^ 64 := BitVec.isLt _

/-! Recoveries of the fabric (R387) -/

theorem mem_insertAsc (l : List Nat) (x y : Nat) : y ∈ insertAsc l x ↔ y = x ∨ y ∈ l := by
  induction l with
  | nil => simp [insertAsc]
  | cons z l ih =>
    unfold insertAsc
    split
    · simp
    · split
      · next h => simp [h]
      · simp only [List.mem_cons, ih, or_left_comm]

theorem mem_foldl_insertAsc {l m : List Nat} {y : Nat} (h : y ∈ l ∨ y ∈ m) : y ∈ l.foldl insertAsc m := by
  induction l generalizing m with
  | nil => simpa using h
  | cons x l ih =>
    refine ih ?_
    rw [mem_insertAsc]
    rw [List.mem_cons] at h
    tauto

theorem exec_dltoRecovery_stalled {p c : Nat} {s : State} (hp : p < 25) (hc : c < 6) (hs : stalled s p c = true)
    (hf : ∀ k < 6, classRank k < classRank c → stalled s p k = false) :
    ∃ t, exec (.dltoRecovery p c) s = .next t ∧ t = { s with dreg := t.dreg, escaped := t.escaped }
      ∧ dregGet t 0 0x08 = (dregGet s 0 0x08 + 1) % 2 ^ 64 ∧ (∀ x ∈ portQueue s p c, x.1 ∈ t.escaped) := by
  have hany : ((List.range 6).any fun k => classRank k < classRank c && stalled s p k) = false := by
    simpa using hf
  change ∃ t, execDltoRecovery p c s = .next t ∧ _
  unfold execDltoRecovery
  rw [if_pos ⟨hp, hc, hs, by rw [hany]; rfl⟩]
  refine ⟨_, rfl, rfl, (dregGet_dregSet ..).trans (Nat.mod_mod ..), fun x hx => mem_foldl_insertAsc (.inl (List.mem_map_of_mem hx))⟩

theorem exec_dltoRecovery_not_stalled {p c : Nat} {s : State} (hs : stalled s p c = false) : exec (.dltoRecovery p c) s = .next s :=
  show execDltoRecovery p c s = _ from if_neg fun h => by simp [hs] at h

/-! Replays (R391, R392) -/

section
variable {p n k a : Nat} {s : State} (hp : p < 12) (hq : quarantined s (p + 1) = false)
include hp hq

theorem exec_linkReplay_within (h1 : 1 ≤ n) (h4 : n ≤ 4) : exec (.linkReplay p n k a) s =
    .next { dregSet s 0 0x10 (dregGet s 0 0x10 / 2 ^ 32 * 2 ^ 32 + (dregGet s 0 0x10 + 1) % 2 ^ 32) with replays := s.replays.filter (· != p) } := by
  change execLinkReplay p n k a s = _
  unfold execLinkReplay
  dsimp only
  rw [if_neg (by rw [hq]; simp; omega), if_pos h4]

variable (hn : 4 < n)
include hn

theorem exec_linkReplay_first (hk : k < 4) : exec (.linkReplay p n k a) s = .next (loseFlit
    { dregSet s 0 0x10 ((dregGet s 0 0x10 / 2 ^ 32 + 1) % 2 ^ 32 * 2 ^ 32 + dregGet s 0 0x10 % 2 ^ 32) with replays := insertAsc s.replays p }
    (p + 1) k a) := by
  change execLinkReplay p n k a s = _
  unfold execLinkReplay
  dsimp only
  rw [if_neg (by rw [hq]; simp; omega), if_neg (by omega), if_neg (fun h => by omega), if_pos hk, Nat.mod_eq_of_lt hk]

theorem exec_linkReplay_further (hk : 4 ≤ k) (hr : p ∈ s.replays) : exec (.linkReplay p n k a) s = .next (loseFlit s (p + 1) (k % 4) a) := by
  change execLinkReplay p n k a s = _
  unfold execLinkReplay
  dsimp only
  rw [if_neg (by rw [hq]; simp; omega), if_neg (by omega), if_neg (by simp [hr]), if_neg (Nat.not_lt.2 hk)]

theorem exec_linkReplay_no_replay (hk : 4 ≤ k) (hr : p ∉ s.replays) : exec (.linkReplay p n k a) s = .next s := by
  change execLinkReplay p n k a s = _
  unfold execLinkReplay
  dsimp only
  rw [if_neg (by rw [hq]; simp; omega), if_neg (by omega), if_pos ⟨hk, by simpa using hr⟩]
  rfl

end

theorem loseFlit_data {s : State} {d a : Nat} (h : area a ≠ .hole) : loseFlit s d 0 a = poisonHome s (lineOf a) := by
  unfold loseFlit
  split <;> simp_all

theorem loseFlit_message {s : State} {d a : Nat} (h : area a = .hbm ∨ area a = .host) : loseFlit s d 1 a = freezeLine s (lineOf a) := by
  rcases h with h | h <;> simp only [loseFlit, h]

theorem loseFlit_header (s : State) (d a : Nat) : loseFlit s d 2 a = quarantine s d := by
  cases h : area a <;> simp only [loseFlit, h]

/-! Errors of the arrays (R420, R421) -/

theorem exec_correctedError_present {d x : Nat} {s : State} (h : diePresent s d = true) : exec (.correctedError d x) s = .next
    (if lasting (putLoc (rasCount s d 32 32) (trackLoc s d x)) (trackLoc s d x) then retire (putLoc (rasCount s d 32 32) (trackLoc s d x)) (trackLoc s d x)
      else putLoc (rasCount s d 32 32) (trackLoc s d x)) :=
  show execCorrectedError d x s = _ from if_pos h

theorem exec_uncorrectableError_hbm {a : Nat} {s : State} (h : area a = .hbm) : exec (.uncorrectableError 0 a) s = .next (poisonHome s (lineOf a)) := by
  change execUncorrectableError 0 a s = _
  simp only [execUncorrectableError, h]

theorem exec_uncorrectableError_cache {a : Nat} {s : State} (h : area a = .hbm ∨ area a = .host) :
    exec (.uncorrectableError 1 a) s = .next (dropCached (poisonHome s (lineOf a)) (lineOf a)) := by
  change execUncorrectableError 1 a s = _
  rcases h with h | h <;> simp only [execUncorrectableError, h]

theorem exec_uncorrectableError_larder {a d o : Nat} {s : State} (h : area a = .larder d o) : exec (.uncorrectableError 3 a) s = .next
    (((List.range (larderBytes / 128)).filter fun k => Config.rowOf 2 (128 * k) == Config.rowOf 2 (o / 128 * 128)).foldl
      (fun s k => poisonLine s ((larderBase + d * 2 ^ 30) / 128 + k)) s) := by
  change execUncorrectableError 3 a s = _
  simp only [execUncorrectableError, h]

theorem exec_uncorrectableError_spad {w o : Nat} {s : State} {g : Workgroup} (hg : wg? s w = some g) (ho : o < g.spadLen) (ho' : o < 2 ^ 20) :
    exec (.uncorrectableError 2 (2 ^ 20 * w + o)) s = .next (updWg s w fun g => { g with spadBad := insertAsc g.spadBad (o / 4) }) := by
  have hw : (2 ^ 20 * w + o) / 2 ^ 20 = w := by omega
  have hm : (2 ^ 20 * w + o) % 2 ^ 20 = o := by omega
  change execUncorrectableError 2 (2 ^ 20 * w + o) s = _
  simp only [execUncorrectableError, hw, hm, hg]
  exact if_pos ho

theorem exec_uncorrectableError_register {w t k : Nat} {s : State} {th : Thread} (hth : thread? s w t = some th) (ht : t < 2048) (hk : k < th.allot)
    (hk' : k < 512) :
    exec (.uncorrectableError 4 (2 ^ 20 * w + 512 * t + k)) s = .next (updThread s w t fun x => { x with bad := insertAsc x.bad k }) := by
  have hw : (2 ^ 20 * w + 512 * t + k) / 2 ^ 20 = w := by omega
  have hm : (2 ^ 20 * w + 512 * t + k) % 2 ^ 20 / 512 = t := by omega
  have hr : (2 ^ 20 * w + 512 * t + k) % 512 = k := by omega
  change execUncorrectableError 4 (2 ^ 20 * w + 512 * t + k) s = _
  simp only [execUncorrectableError, hw, hm, hr, hth]
  exact if_pos hk

/-! Resets of a die (R422) -/

section
variable {d : Nat} {s : State} (h1 : 1 ≤ d)
include h1

theorem dieWrite_rstctl (v : Nat) : dieWrite s d 0x80 v = (rstctlWrite s d v, 0) := by
  unfold dieWrite
  rw [if_neg (by omega), if_neg (by decide), if_pos rfl]

variable (h12 : d ≤ 12)
include h12

theorem exec_dieOrderlyReset_asked (h : bitAt (dregGet s d 0x80) 0 = true) : exec (.dieOrderlyReset d) s =
    if dieInUse s d then .next (dregSet s d 0x80 (setBits (setBits (dregGet s d 0x80) 0 0 0) 2 2 1)) else .next (resetDie (drainDie s d) d) :=
  show execDieOrderlyReset d s = _ from if_pos ⟨h1, h12, h⟩

theorem exec_dieForcedReset_asked (h : bitAt (dregGet s d 0x80) 1 = true) : exec (.dieForcedReset d) s = .next (resetDie (quarantine s d) d) :=
  show execDieForcedReset d s = _ from if_pos ⟨h1, h12, h⟩

theorem quarantined_resetDie : quarantined (resetDie s d) d = true := by
  have hq : bitAt (dregGet (resetDie s d) 0 0x18) d = true := by
    refine (congrArg (bitAt · d) (dregGet_dregSet ..)).trans ?_
    rw [bitAt_mod64 _ (by omega), bitAt_setBits_set]
  simp only [quarantined, hq, decide_eq_true h1, decide_eq_true h12]
  rfl

end

/-- What a reset leaves of the die's own state. -/
theorem die_resetDie (s : State) (d : Nat) : ∃ t, die (resetDie s d) d = { baseT := t } := ⟨_, get_put_same ..⟩

/-- RSTCTL after a write that asks for an orderly reset: the request is taken, or refused while the die is in use. -/
theorem rstctlWrite_asks {s : State} {d v : Nat} (hv : bitAt v 0 = true) :
    (dieInUse s d = true → bitAt (dregGet (rstctlWrite s d v) d 0x80) 2 = true
      ∧ bitAt (dregGet (rstctlWrite s d v) d 0x80) 0 = bitAt (dregGet s d 0x80) 0)
    ∧ (dieInUse s d = false → bitAt (dregGet (rstctlWrite s d v) d 0x80) 0 = true) := by
  have bit : ∀ a b c : Bool, bitAt (b2n a + 2 * b2n b + 4 * b2n c) 0 = a ∧ bitAt (b2n a + 2 * b2n b + 4 * b2n c) 2 = c := by decide
  have e : dregGet (rstctlWrite s d v) d 0x80 = _ % 2 ^ 64 := dregGet_dregSet ..
  rw [e, bitAt_mod64 _ (by decide), bitAt_mod64 _ (by decide), (bit ..).1, (bit ..).2, hv]
  exact ⟨fun hu => by simp [hu], fun hu => by simp [hu]⟩

theorem errorResults : ErrorResults := by
  refine ⟨fun p c s hp hc => ⟨exec_dltoRecovery_stalled hp hc, exec_dltoRecovery_not_stalled⟩, fun p n k a s hp hq h1 h4 => ?_, ?_,
    fun d a s => ⟨loseFlit_data, loseFlit_message, loseFlit_header s d a⟩, fun d x s h => ⟨fun hl => ?_, fun hl => ?_⟩,
    fun a s => exec_uncorrectableError_hbm, fun a s => exec_uncorrectableError_cache, fun a d o s => exec_uncorrectableError_larder,
    fun w o s g => exec_uncorrectableError_spad, fun w t k s th => exec_uncorrectableError_register,
    fun d x s h => if_pos (by simpa using h), fun d s h1 h12 => ⟨fun v hv => ?_, fun ha hu => ?_, fun ha hu => ?_, exec_dieForcedReset_asked h1 h12⟩,
    fun s d h1 h12 => ?_⟩
  · refine ⟨_, exec_linkReplay_within hp hq h1 h4, rfl, ?_⟩
    have hc := dregGet_lt s 0 0x10
    have e : dregGet { dregSet s 0 0x10 (dregGet s 0 0x10 / 2 ^ 32 * 2 ^ 32 + (dregGet s 0 0x10 + 1) % 2 ^ 32) with
        replays := s.replays.filter (· != p) } 0 0x10 = _ % 2 ^ 64 := dregGet_dregSet ..
    rw [e]
    constructor <;> omega
  · rintro p n k a c s s' hp hq hn rfl rfl
    exact ⟨exec_linkReplay_first hp hq hn, exec_linkReplay_further hp hq hn, exec_linkReplay_no_replay hp hq hn⟩
  · rw [exec_correctedError_present h, if_neg (by simp [hl])]
  · rw [exec_correctedError_present h, if_pos hl]
  · exact ⟨_, dieWrite_rstctl h1 v, rfl, rstctlWrite_asks hv⟩
  · rw [exec_dieOrderlyReset_asked h1 h12 ha, if_neg (by simp [hu])]
  · refine ⟨_, (exec_dieOrderlyReset_asked h1 h12 ha).trans (if_pos hu), rfl, ?_⟩
    rw [dregGet_dregSet, bitAt_mod64 _ (by decide), bitAt_mod64 _ (by decide), bitAt_setBits_set]
    refine ⟨?_, rfl⟩
    simp only [bitAt, setBits, bits, Nat.shiftRight_eq_div_pow, beq_eq_false_iff_ne]
    omega
  · obtain ⟨t, e⟩ := die_resetDie s d
    exact ⟨by rw [e], quarantined_resetDie h1 h12, by rw [e]⟩

end Sys2Proof.Laws
end

section
/-! SUPPORT. The faults of engines: an operation's next act that ends in a suspension (R336). -/

namespace Sys2Proof.Laws

open Sys2Proof Sys2Proof.Machine Sys2Proof.Claims

/-! Suspensions (R336) -/

/-- An act leaves more operations suspended than there were. -/
def suspends (s : State) : Result → Bool
  | .next t => decide (s.susp.length < t.susp.length)
  | _ => false

/-- ENGINE_FAULT is the first act of the engine that suspends an operation. -/
theorem exec_engineFault_suspends {cls op : Nat} {s t : State} {l l' : List Result} (ha : engineActs cls op s = l ++ .next t :: l')
    (hl : ∀ r ∈ l, suspends s r = false) (ht : s.susp.length < t.susp.length) : exec (.engineFault cls op) s = .next t := by
  have hf : (engineActs cls op s).find? (suspends s) = some (.next t) := by
    rw [ha, List.find?_append, List.find?_eq_none.2 fun r hr => by simp [hl r hr], Option.none_or]
    exact List.find?_cons_of_pos (decide_eq_true ht)
  have e : exec (.engineFault cls op) s = match (engineActs cls op s).find? (suspends s) with | some r => r | none => off s := rfl
  rw [e, hf]

theorem accepts_of_susp {s t : State} (h : t.susp = s.susp) (e : Nat) : accepts t e = accepts s e := by
  rw [accepts, freeSlot, h, accepts, freeSlot]

/-- An engine that accepts has a slot for the operation it suspends. -/
theorem raiseEngine_suspends {s t : State} {eid : Nat} (h : accepts s eid = true) (ht : t.susp = s.susp) (part lvl : Nat) (sec : Bool)
    (lid wid cls op : Nat) (c : Cause) (v : Nat) : s.susp.length < (raiseEngine t eid part lvl sec lid wid cls op c v).susp.length := by
  rw [← accepts_of_susp ht, accepts] at h
  obtain ⟨k, hk⟩ := Option.isSome_iff_exists.1 h
  simp [raiseEngine, hk, addPost, addPostAt, ht]

/-! The copy engines -/

section
variable {n k v : Nat} {c : Cause} {s t : State} {o : CopyOp} (ho : runnableCopy s n = some o) (ht : t.susp = s.susp)
include ho ht

theorem runnableCopy_suspends : s.susp.length < (settleCloses (copyFault (updCopy t o.id fun y => { y with at' := k }) o c v)).susp.length := by
  obtain ⟨x, -, hx⟩ := Option.bind_eq_some_iff.1 ho
  have ha : accepts s o.eid = true := by
    split at hx
    · cases hx
    · next h =>
      cases hx
      simp only [Bool.or_eq_true, not_or, Bool.not_eq_true', Bool.not_eq_false] at h
      exact h.1.1.1.2
  rw [susp_of_engineSide (engineSide_settleCloses _)]
  exact raiseEngine_suspends ha (by exact ht) ..

theorem exec_engineFault_copy (hn : o.tensor = none) (h : copySlice (o.issuer s) o.src o.dst ((o.len - o.at') / 4) s o.at' = (t, k, .bad c v)) :
    exec (.engineFault 0 n) s = .next (settleCloses (copyFault (updCopy t o.id fun y => { y with at' := k }) o c v)) := by
  refine exec_engineFault_suspends (l := []) (l' := []) ?_ (by simp) (runnableCopy_suspends ho ht)
  change [execCopySlicePerform n s] = _
  simp only [execCopySlicePerform, ho, hn, h]
  rfl

theorem exec_engineFault_tensorCopy {x y : Desc} (hn : o.tensor = some (x, y))
    (h : copyElems (o.issuer s) x y (tdRows x * tdCols x - o.at') s o.at' = (t, k, .bad c v)) :
    exec (.engineFault 1 n) s = .next (settleCloses (copyFault (updCopy t o.id fun y => { y with at' := k }) o c v)) := by
  refine exec_engineFault_suspends (l := []) (l' := []) ?_ (by simp) (runnableCopy_suspends ho ht)
  change [execCopytPerform n s] = _
  simp only [execCopytPerform, ho, hn, h]
  rfl

end

/-! Ray units, blend units and matrix engines -/

theorem exec_engineFault_ray {n v : Nat} {c : Cause} {s t : State} {x : RayQ} (hx : s.rays.find? (fun x => x.id == n && !x.held) = some x)
    (ha : accepts s x.eid = true) (hc : cgRuns s (cidDie x.eid) (x.eid % 16) = true) (hi : ∀ y ∈ s.items, y.wg ≠ x.wg)
    (hr : rayResult x (x.issuer s) s = .ok (.error (c, v), t)) (ht : t.susp = s.susp) : exec (.engineFault 2 n) s = .next (rayFault t x c v) := by
  refine exec_engineFault_suspends (l := []) (l' := []) ?_ (by simp) (raiseEngine_suspends ha (by exact ht) ..)
  exact congrArg (fun r => [r]) (exec_rayQueryComplete_fault hx ha hc hi hr)

theorem exec_engineFault_blend {n v : Nat} {c : Cause} {s t : State} {f f' : Frag} {r g b a : Word32}
    (hf : s.frags.find? (fun f => f.id == n && cgRuns s f.die f.cg) = some f) (hp : pixelFirst s f = true)
    (hh : (regionGet s f.part f.rx f.ry).held = false) (ha : accepts s (blendEid f) = true) (hr : f.res = .blend r g b a)
    (hb : blendRun [r, g, b, a] 4 s f = (t, f', .bad c v)) (ht : t.susp = s.susp) :
    exec (.engineFault 3 n) s = .next (raiseEngine (updFrag (setRegion t { regionGet t f.part f.rx f.ry with held := true }) f.id fun _ => f')
      (blendEid f) f.part f.lvl f.sec f.lid f.wid 3 f.id c v) := by
  have e := exec_blendFragment_blend hf hp hh ha hr
  rw [hb] at e
  refine exec_engineFault_suspends (l := []) (l' := []) ?_ (by simp) (raiseEngine_suspends ha (by exact ht) ..)
  exact congrArg (fun r => [r]) e

theorem exec_engineFault_matrix {cid v : Nat} {c : Cause} {s : State} {o : MatOp} {l : List MatOp} {g : Workgroup} (hq : (coreAt s cid).mq = o :: l)
    (he : engineFree s cid o.wg = true) (ha : accepts s (matEid cid) = true) (hc : coreRuns s cid = true) (hg : wg? s o.wg = some g)
    (hr : o.run (takeEngine s cid o.wg) cid = .bad c v) : exec (.engineFault 4 cid) s = .next (matFault s cid o c v) := by
  have hw (f : Ctx → Ctx) (q : List MatOp) : ∃ g', wg? (updCtx (setMatQueue s cid q) o.wg f) o.wg = some g' :=
    ⟨_, (wg?_updWg ..).trans (congrArg (Option.map _) hg)⟩
  have hsusp (f : Ctx → Ctx) (q : List MatOp) : (updCtx (setMatQueue s cid q) o.wg f).susp = s.susp := by rw [updCtx_shape]; rfl
  refine exec_engineFault_suspends (l := []) (l' := []) ?_ (by simp) ?_
  · change [execMatrixOpPerform cid s] = _
    have hm : matStep s cid o = .bad c v := by rw [matStep, hr]; rfl
    simp only [execMatrixOpPerform, hq, he, ha, hc, hm]
    rfl
  · unfold matFault
    dsimp only
    obtain ⟨g', hg'⟩ := hw (fun x => { x with held := (coreAt s cid).mq.filter (·.wg == o.wg) ++ x.held }) ((coreAt s cid).mq.filter (·.wg != o.wg))
    rw [hg']
    exact raiseEngine_suspends ha (by exact hsusp ..) ..

/-! A display's capture (R404, R407) -/

section
variable {p v n k : Nat} {r : SMap Word64} {s : State} (hd : FrameDue s p v n k r)
include hd

theorem frameDue_eq : ∃ l, (disp s p v).due = (n, k, r) :: l := by
  cases h : (disp s p v).due with
  | nil => simp [FrameDue, h] at hd
  | cons x l =>
    rw [FrameDue, h, List.head?_cons, Option.some.injEq] at hd
    exact ⟨l, by rw [hd]⟩

theorem exec_frameCapture_stopped (hs : (disp s p v).stream = false) (he : (disp s p v).ending = false) :
    exec (.frameCapture p v) s = .next (dueGone s p v) := by
  obtain ⟨l, hl⟩ := frameDue_eq hd
  change execFrameCapture p v s = _
  simp only [execFrameCapture, hl]
  exact if_pos (by simp [hs, he])

variable (hs : (disp s p v).stream = true ∨ (disp s p v).ending = true)
include hs

theorem exec_frameCapture_skipped (hno : ¬ Streaming s p v) : exec (.frameCapture p v) s = .next (skipFrame (dueGone s p v) p v) := by
  obtain ⟨l, hl⟩ := frameDue_eq hd
  change execFrameCapture p v s = _
  simp only [execFrameCapture, hl]
  refine (if_neg ?_).trans (if_pos ?_)
  · rcases hs with h | h <;> simp [h]
  · simp only [Bool.or_eq_true, Bool.not_eq_true', or_assoc]
    simpa only [not_and_or, Bool.not_eq_false, Bool.not_eq_true] using hno

/-- A stream that runs takes the colours of the frame as its planes give them. -/
theorem exec_frameCapture_composed (hst : Streaming s p v) {w h : Nat} (hw : w = bits (r.get 0 0).toNat 13 0 + 1) (hh : h = bits (r.get 0 0).toNat 29 16 + 1) :
    exec (.frameCapture p v) s = match frameColours s (streamIssuer s p v) (planes r) w (w * h) (w * h) with
      | .ok r => .next (setDisp r.2 p v { disp r.2 p v with
          due := (disp r.2 p v).due.drop 1, cap := (disp r.2 p v).cap ++ [(n, k, frameSamples w h r.1)] })
      | .bad c va => .next (streamFault (skipFrame (dueGone (framePages s (streamIssuer s p v) (planes r) w (w * h)) p v) p v) p v c va)
      | .wait => .next s := by
  subst hw hh
  obtain ⟨l, hl⟩ := frameDue_eq hd
  obtain ⟨hheld, hacc, htrip⟩ := hst
  change execFrameCapture p v s = _
  simp only [execFrameCapture, hl]
  refine (if_neg ?_).trans ((if_neg ?_).trans rfl)
  · rcases hs with h | h <;> simp [h]
  · simp [hheld, hacc, htrip]

end

theorem engineSide_framePages (s : State) (i : Issuer) (qs : List Plane) (w n : Nat) : engineSide (framePages s i qs w n) = engineSide s := by
  refine foldl_keeps (p := fun r : State × Bool => engineSide r.1) (fun r x => ?_) ..
  split
  · rfl
  · split
    · next u h => exact engineSide_readMem h
    · rfl

theorem streamEngine_dueGone (s : State) (p v : Nat) : streamEngine (dueGone s p v) p v = streamEngine s p v := by
  simp [streamEngine, disp, dueGone, setDisp]

theorem exec_engineFault_capture {p v n k w h va : Nat} {r : SMap Word64} {c : Cause} {s : State} (hv : v < 2) (hd : FrameDue s p v n k r)
    (hs : (disp s p v).stream = true ∨ (disp s p v).ending = true) (hst : Streaming s p v) (hw : w = bits (r.get 0 0).toNat 13 0 + 1)
    (hh : h = bits (r.get 0 0).toNat 29 16 + 1) (hc : frameColours s (streamIssuer s p v) (planes r) w (w * h) (w * h) = .bad c va)
    (ht : (framePages s (streamIssuer s p v) (planes r) w (w * h)).susp = s.susp) :
    exec (.engineFault 5 (2 * p + v)) s =
      .next (streamFault (skipFrame (dueGone (framePages s (streamIssuer s p v) (planes r) w (w * h)) p v) p v) p v c va) := by
  have e := exec_frameCapture_composed hd hs hst hw hh
  rw [hc] at e
  have heng := disps_of_engineSide (engineSide_framePages s (streamIssuer s p v) (planes r) w (w * h))
  generalize framePages s (streamIssuer s p v) (planes r) w (w * h) = t at *
  have ha : accepts s (encEid (streamEngine (skipFrame (dueGone t p v) p v) p v)) = true := by
    rw [show streamEngine (skipFrame (dueGone t p v) p v) p v = streamEngine (dueGone t p v) p v from rfl, streamEngine_dueGone,
      show streamEngine t p v = streamEngine s p v by rw [streamEngine, disp, heng]; rfl]
    exact hst.2.1
  refine exec_engineFault_suspends (l := []) (l' := [execFrameEncodeDone p v s]) ?_ (by simp) (raiseEngine_suspends ha (by exact ht) ..)
  change [execFrameCapture ((2 * p + v) / 2) ((2 * p + v) % 2) s, execFrameEncodeDone ((2 * p + v) / 2) ((2 * p + v) % 2) s] = _
  rw [show (2 * p + v) / 2 = p by omega, show (2 * p + v) % 2 = v by omega]
  exact congrArg (fun r => [r, execFrameEncodeDone p v s]) e

/-! The table-update engine (R355, R358) -/

section
variable {p : Nat} {s : State} {m : PtCmd} {x : Word64 × Nat} (h : Posting s p m) (hs : m.shoots = false) (hx : m.done = some x)
include h hs hx

/-- The operations have nothing to do for a command that is done, so that its fault comes from its record or its post. -/
theorem exec_engineFault_posting {c : Cause} {v : Nat} (hf : finishCmd s m = faultCmd s m c v) : exec (.engineFault 6 p) s = .next (faultCmd s m c v) := by
  have hdue (n : Nat) : dueCmd s p n = none := by
    rw [dueCmd, h.1, Option.filter_some, if_neg]
    simp [hx]
  have hoff : suspends s (off s) = false := decide_eq_false (Nat.lt_irrefl _)
  refine exec_engineFault_suspends (l := [off s, off s, off s, off s, off s, off s]) (l' := []) ?_ (by simp [hoff])
    (raiseEngine_suspends h.2.2.2.1 (by rfl) ..)
  have e := exec_shootdownComplete_none h hs
  rw [hf] at e
  change [execPtupdWrite p s, execPtupdFill p s, execPtupdRead p s, execPtupdFlush p s, execPtupdSync p s, execPtupdPool p s,
    execShootdownComplete p s] = _
  simp only [execPtupdWrite, execPtupdFill, execPtupdRead, execPtupdFlush, execPtupdSync, execPtupdPool, hdue]
  exact congrArg (fun r => [off s, off s, off s, off s, off s, off s, r]) e

omit h hs in
theorem finishCmd_record_fails {c : Cause} {v : Nat} (hw : m.wrote = false) (hr : m.im.raddr ≠ 0)
    (he : writeMem s (m.issuer s) m.im.raddr (toBytes 8 x.1.toNat ++ toBytes 8 x.2) = .bad c v) : finishCmd s m = faultCmd s m c v := by
  simp only [finishCmd, hx]
  rw [if_neg (by simp [hw, hr]), he]

omit h hs in
theorem finishCmd_post_fails {c : Cause} {v : Nat} (hw : m.wrote = true ∨ m.im.raddr = 0) (hc : m.im.caddr ≠ 0)
    (he : postAdd s (m.issuer s) m.cid m.im.caddr m.im.inc = .bad c v) : finishCmd s m = faultCmd s m c v := by
  simp only [finishCmd, hx]
  rw [if_pos (by simpa using hw), postCmd, if_neg hc, he]

end

theorem engineFaultResults : EngineFaultResults := by
  refine ⟨fun n k v c s t o ho ht => ⟨exec_engineFault_copy ho ht, fun x y => exec_engineFault_tensorCopy ho ht⟩,
    fun n v c s x hx ha hc hi t hr ht => exec_engineFault_ray hx ha hc hi hr ht,
    fun n v c s t f f' r g b a hf hp hh ha hr hb ht => exec_engineFault_blend hf hp hh ha hr hb ht,
    fun cid v c s o l g hq he ha hc hg hr => exec_engineFault_matrix hq he ha hc hg hr, ?_,
    fun p v c s m x h hs hx => ⟨fun hw hr he => ?_, fun hw hc he => ?_⟩⟩
  · rintro p v n k w h va r c s hv hd hs hst hw hh hc t rfl ht
    exact exec_engineFault_capture hv hd hs hst hw hh hc ht
  · exact exec_engineFault_posting h hs hx (finishCmd_record_fails hx hw hr he)
  · exact exec_engineFault_posting h hs hx (finishCmd_post_fails hx hw hc he)

/-- Settles O60: what an error, a replay and a reset do by their cases, and an engine's fault as the one act of the engine that suspends. -/
theorem reliabilityResults : Obligations.ReliabilityResults := ⟨errorResults, engineFaultResults⟩

end Sys2Proof.Laws
end

section
/-! SUPPORT. The frames of a display: when they become due, and their coding into the ring (R404, R409, R410). -/

namespace Sys2Proof.Laws

open Sys2Proof Sys2Proof.Machine Sys2Proof.Claims

/-! Capture ticks (R404) -/

/-- The last multiple of a period of k/d ticks that is at most x. -/
theorem period_bounds {x d k : Nat} (hd : 0 < d) (hk : 0 < k) :
    ((x + 1) * d - 1) / k * k / d ≤ x ∧ x < (((x + 1) * d - 1) / k + 1) * k / d := by
  have hpos : 0 < (x + 1) * d := Nat.mul_pos x.succ_pos hd
  constructor
  · refine Nat.lt_succ_iff.1 (Nat.div_lt_of_lt_mul ?_)
    calc ((x + 1) * d - 1) / k * k ≤ (x + 1) * d - 1 := Nat.div_mul_le_self ..
      _ < d * (x + 1) := by rw [Nat.mul_comm d]; omega
  · refine (Nat.le_div_iff_mul_le hd).2 ?_
    exact Nat.le_of_pred_lt ((Nat.div_lt_iff_lt_mul hk).1 (Nat.lt_succ_self (((x + 1) * d - 1) / k)))

theorem lastFrame_ticks {s : State} {p v t n : Nat} (h : lastFrame s p v t = some n) : captureTick s p v n ≤ t ∧ t < captureTick s p v (n + 1) := by
  unfold lastFrame at h
  dsimp only at h
  split at h
  · next hc =>
    obtain ⟨-, ht, hd, hk⟩ := hc
    cases h
    obtain ⟨hlo, hhi⟩ := period_bounds (x := t - (disp s p v).t0) (Nat.pos_of_ne_zero hd) (Nat.mul_pos (by decide : 0 < 200000000) (Nat.pos_of_ne_zero hk))
    simp only [captureTick, Nat.mul_assoc] at *
    omega
  · cases h

theorem disp_setDisp (s : State) (p v : Nat) (d : Disp) : disp (setDisp s p v d) p v = d := get_put_same ..

theorem framesDue_disp {s : State} {p v a t n : Nat} (h : lastFrame s p v t = some n) (hn : Max.max a (disp s p v).frame ≤ n) :
    disp (framesDue s p v a t) p v = { disp s p v with
      frame := n + 1
      due := (disp s p v).due ++ if (disp s p v).stream then
        ((List.range (n + 1)).drop (Max.max a (disp s p v).frame)).map fun k => (k, captureTick s p v k, captureRegs s p v) else [] } := by
  have hlen : ((List.range (n + 1)).drop (Max.max a (disp s p v).frame)).isEmpty = false := by
    rw [List.isEmpty_eq_false_iff, ← List.length_pos_iff, List.length_drop, List.length_range]
    omega
  simp only [framesDue, h, List.isEmpty_map, hlen, Bool.false_eq_true, if_false, disp_setDisp]
  cases (disp s p v).stream <;> simp

/-! Coding (R409, R410) -/

section
variable {s : State} {p v : Nat} (ha : EngineActs s p v)
include ha

theorem engineActs_free : ¬ ((disp s p v).held || !encRuns s p v || !accepts s (encEid (streamEngine s p v))) = true := by
  obtain ⟨hh, hr, hs⟩ := ha
  simp [hh, hr, hs]

theorem exec_frameEncodeDone_posting (hp : (disp s p v).posting = true) : exec (.frameEncodeDone p v) s = .next (postFrame s p v) := by
  change execFrameEncodeDone p v s = _
  unfold execFrameEncodeDone
  dsimp only
  rw [if_neg (engineActs_free ha), if_pos hp]

end

section
variable {s : State} {p v n k : Nat} {l : List Nat} {c : List (Nat × Nat × List Nat)} (hc : CodingFrame s p v n k l c)
include hc

theorem codingFrame_head : (if (disp s p v).stream || (disp s p v).ending then (disp s p v).cap.head? else none) = some (n, k, l) := by
  obtain ⟨hs, -, -, hcap⟩ := hc
  rw [if_pos (by simpa using hs), hcap]
  rfl

theorem exec_frameEncodeDone_full (hf : ringSize s p v < ringUsed s p v + frameLimit s p v + 32) :
    exec (.frameEncodeDone p v) s = .next (skipFrame (frameGone s p v) p v) := by
  change execFrameEncodeDone p v s = _
  unfold execFrameEncodeDone
  dsimp only
  rw [if_neg (engineActs_free hc.2.1), if_neg (by simp [hc.2.2.1]), codingFrame_head hc]
  exact if_pos hf

/-- A frame that the ring has room for is written where its record fits. -/
theorem exec_frameEncodeDone_coded (hf : ringUsed s p v + frameLimit s p v + 32 ≤ ringSize s p v) {m : Nat}
    (hm : m = 32 + (codedUnit s p v l).length) :
    exec (.frameEncodeDone p v) s =
      match engineWrite (useFree s) (streamIssuer s p v) m ((dispReg s p v 0x60 + ringStart s p v m) % 2 ^ 64) (ringRecord s p v n k (codedUnit s p v l)) with
      | (_, .wait) => .next s
      | (t, .bad e va) => .next (streamFault t p v e va)
      | (t, .ok _) => .next (postFrame (frameCoded s t p v m) p v) := by
  subst hm
  change execFrameEncodeDone p v s = _
  unfold execFrameEncodeDone
  dsimp only
  rw [if_neg (engineActs_free hc.2.1), if_neg (by simp [hc.2.2.1]), codingFrame_head hc]
  refine (if_neg (Nat.not_lt.2 hf)).trans ?_
  simp only [Nat.add_assoc (_ % _) 32, Nat.add_assoc (ite _ _ _) 32, Nat.add_assoc (_ + _) 32]
  rfl

end

theorem postFrame_cases (s : State) (p v : Nat) :
    (dispReg s p v 0x70 = 0 → postFrame s p v = posted s p v)
    ∧ (dispReg s p v 0x70 ≠ 0 →
      (∀ r, postAdd s (streamIssuer s p v) none (dispReg s p v 0x70) 1 = .ok r → postFrame s p v = posted r p v)
      ∧ (∀ e va, postAdd s (streamIssuer s p v) none (dispReg s p v 0x70) 1 = .bad e va → postFrame s p v = streamFault (posted s p v) p v e va)
      ∧ (postAdd s (streamIssuer s p v) none (dispReg s p v 0x70) 1 = .wait → postFrame s p v = s)) := by
  refine ⟨fun h => if_pos h, fun h => ?_⟩
  have e : postFrame s p v = match postAdd s (streamIssuer s p v) none (dispReg s p v 0x70) 1 with
    | .ok r => posted r p v
    | .bad c va => streamFault (posted s p v) p v c va
    | .wait => s := (if_neg h).trans rfl
  exact ⟨fun r hr => by rw [e, hr], fun c va hr => by rw [e, hr], fun hr => by rw [e, hr]⟩

/-- Settles O56: the last frame due by the period's multiples, a capture and a coding by what the stream, its engine and its ring let them do. -/
theorem displayResults : Obligations.DisplayResults := by
  refine ⟨fun s p v t n => lastFrame_ticks, fun s p v a t n => framesDue_disp,
    fun p v n k r s hd => ⟨exec_frameCapture_stopped hd, fun hs => ⟨exec_frameCapture_skipped hd hs, fun w h hst hw hh => ?_⟩⟩,
    fun p v n k s l c hc => ⟨exec_frameEncodeDone_full hc, ?_⟩, fun p v s => exec_frameEncodeDone_posting, fun p v s => postFrame_cases s p v⟩
  · have e := exec_frameCapture_composed hd hs hst hw hh
    exact ⟨fun l t hr => by rw [e, hr], fun c va hr => by rw [e, hr], fun hr => by rw [e, hr]⟩
  · rintro t u m x hf rfl hm hw
    have e := exec_frameEncodeDone_coded hc hf hm
    rw [hw] at e
    exact ⟨fun c va hx => by rw [e, hx], fun hx => by rw [e, hx]⟩

end Sys2Proof.Laws
end

section
/-! SUPPORT. Accesses from outside: the host within its windows, snoops, and peers through their ports (R394-R401). -/

namespace Sys2Proof.Laws

open Sys2Proof Sys2Proof.Machine Sys2Proof.Claims

/-! The host (R395-R397) -/

section
variable {pa : Nat} {s : State}

section
variable (ha : pa % 64 = 0) (hm : pa < hbmBytes)
include ha hm

theorem exec_hostMemRead_no_window (own : Bool) (hw : inHostWindow s pa 64 = false) :
    exec (.hostMemRead pa own) s = .next (answerOut (hostRej s) false (List.replicate 64 0)) := by
  change execHostMemRead pa own s = _
  unfold execHostMemRead
  rw [if_neg (by omega), if_pos (by simp [hw])]

variable (hw : inHostWindow s pa 64 = true)
include hw

theorem exec_hostMemRead_gone (own : Bool) (hg : areaGone s pa = true) :
    exec (.hostMemRead pa own) s = .next (answerOut s false (List.replicate 64 0)) := by
  change execHostMemRead pa own s = _
  unfold execHostMemRead
  rw [if_neg (by omega), if_neg (by simp [hw]), if_pos hg]

theorem exec_hostMemRead_target {own : Bool} {t : Tgt} (hg : areaGone s pa = false) (ht : HostTarget s pa 64 true own t) :
    exec (.hostMemRead pa own) s = .next (answerOut
      { (if own then lineOwn (readTgt s (outside devicePart) t 64).2 (lineOf pa) (wordMask pa 64) none else (readTgt s (outside devicePart) t 64).2) with
        hostDir := allocDir s.hostDir (pa / 64) own } true (readTgt s (outside devicePart) t 64).1) := by
  change execHostMemRead pa own s = _
  unfold execHostMemRead
  rw [if_neg (by omega), if_neg (by simp [hw]), if_neg (by simp [hg]), ht]

end

section
variable {l : List Byte} (hl : l ≠ []) (hn : pa % 64 + l.length ≤ 64) (hm : pa < hbmBytes)
include hl hn hm

theorem exec_hostMemWrite_no_window (hw : inHostWindow s pa l.length = false) : exec (.hostMemWrite pa l) s = .next (hostRej s) := by
  change execHostMemWrite pa l s = _
  unfold execHostMemWrite
  rw [if_neg (by simp [hl]; omega), if_pos (by simp [hw])]

theorem exec_hostMemWrite_target {t : Tgt} (hw : inHostWindow s pa l.length = true) (hg : areaGone s pa = false) (ht : HostTarget s pa l.length false true t) :
    exec (.hostMemWrite pa l) s = .next { writeTgt s (outside devicePart) t l with hostDir := s.hostDir } := by
  change execHostMemWrite pa l s = _
  unfold execHostMemWrite
  rw [if_neg (by simp [hl]; omega), if_neg (by simp [hw]), if_neg (by simp [hg]), ht]

end

theorem exec_hostSnoop_quiet (h : area pa = .host) (hm : ∀ m ∈ s.cohMsgs, m.line ≠ lineOf pa) :
    exec (.hostSnoop pa) s = .next (hostRecall s (lineOf pa)) := by
  change execHostSnoop pa s = _
  simp only [execHostSnoop, h]
  exact if_neg (by simpa using hm)

end

theorem not_mem_hostRecall (s : State) (line : Nat) : line ∉ (hostRecall s line).hostPerm := by
  simp [hostRecall]

theorem mem_hostPermit {s : State} {line : Nat} (h : area (line * 128) = .host) : line ∈ (hostPermit s line).hostPerm := by
  simp only [hostPermit, h]
  exact (mem_insertAsc ..).2 (.inl rfl)

/-! Peers (R400, R401) -/

theorem exec_peerInboundAccess_port {port o k n : Nat} {l : List Byte} {s : State} (hp : port < 12) : exec (.peerInboundAccess port o k n l) s =
    peerAccess (Config.peerWindow (BitVec.ofNat 64 (dregGet s 0 (0x4108 + 16 * port)))).1
      (Config.peerWindow (BitVec.ofNat 64 (dregGet s 0 (0x4108 + 16 * port)))).2 (dregGet s 0 (0x4100 + 16 * port)) o k n l s := by
  change execPeerInboundAccess port o k n l s = _
  exact if_neg (Nat.not_le.2 hp)

section
variable {base last c o k n m : Nat} {l : List Byte} {s : State} (hf : peerForm o k (if k = 0 then n else l.length) = true)
  (hm : m = (if k = 0 then n else if k = 1 then l.length else peerWidth (k - 2) l.length))
include hf hm

theorem peerAccess_no_window (hc : bitAt c 31 = false ∨ last < (base * 65536 + o + m - 1) / 65536) :
    peerAccess base last c o k n l s = .next (answerOut (hostRej s) false []) := by
  subst hm
  have hno : ¬ (bitAt c 31 && decide ((base * 65536 + o + (if k = 0 then n else if k = 1 then l.length else peerWidth (k - 2) l.length) - 1) / 65536
      ≤ last)) = true := by
    rw [Bool.and_eq_true, decide_eq_true_eq, not_and_or, Bool.not_eq_true, Nat.not_le]
    exact hc
  unfold peerAccess
  dsimp only
  rw [if_neg (by simp [hf]), if_neg hno]

section
variable {e : Nat × Nat} (hc : bitAt c 31 = true) (hl : (base * 65536 + o + m - 1) / 65536 ≤ last) (he : leavesTo s (c % 64) (base * 65536 + o) = [e])
  (hs : pteSlm e.2 = 0) (hg : areaGone s (base * 65536 + o) = false)
include hc hl he hs hg

/-- An access within a window, with one leaf of the partition that maps its page. -/
theorem peerAccess_window : peerAccess base last c o k n l s =
    if k != 0 && (match area (base * 65536 + o) with | .larder _ _ => true | _ => false) then .next (answerOut s false [])
    else match physTarget s (c % 64) (base * 65536 + o) m (k != 1) (k != 0) e.2 with
      | .wait => .next s
      | .bad _ _ => .next (answerOut s false [])
      | .ok t =>
        if k = 1 then .next (answerOut (writeTgt s (outside (c % 64)) t l) true [])
        else .next (answerOut ((if k = 0 then none else peerAtomic (k - 2) m (ofBytes (readTgt s (outside (c % 64)) t m).1) (ofBytes l)).elim
          (readTgt s (outside (c % 64)) t m).2 fun v => writeTgt (readTgt s (outside (c % 64)) t m).2 (outside (c % 64)) t (toBytes m v)) true
          (readTgt s (outside (c % 64)) t m).1) := by
  subst hm
  unfold peerAccess
  dsimp only
  rw [if_neg (by simp [hf]), if_pos (by rw [hc, decide_eq_true hl]; rfl), he]
  refine (if_neg (by simp [hs, hg])).trans rfl

theorem peerAccess_larder {d x : Nat} (hk : k ≠ 0) (ha : area (base * 65536 + o) = .larder d x) :
    peerAccess base last c o k n l s = .next (answerOut s false []) := by
  rw [peerAccess_window hf hm hc hl he hs hg, ha]
  exact if_pos (by simpa using hk)

section
variable {t : Tgt} (ha : k ≠ 0 → ∀ d x, area (base * 65536 + o) ≠ .larder d x)
  (ht : physTarget s (c % 64) (base * 65536 + o) m (k != 1) (k != 0) e.2 = .ok t)
include ha ht

theorem peerAccess_target : peerAccess base last c o k n l s =
    if k = 1 then .next (answerOut (writeTgt s (outside (c % 64)) t l) true [])
    else .next (answerOut ((if k = 0 then none else peerAtomic (k - 2) m (ofBytes (readTgt s (outside (c % 64)) t m).1) (ofBytes l)).elim
      (readTgt s (outside (c % 64)) t m).2 fun v => writeTgt (readTgt s (outside (c % 64)) t m).2 (outside (c % 64)) t (toBytes m v)) true
      (readTgt s (outside (c % 64)) t m).1) := by
  have hno : ¬ (k != 0 && (match area (base * 65536 + o) with | .larder _ _ => true | _ => false)) = true := by
    rw [Bool.and_eq_true, bne_iff_ne]
    rintro ⟨hk, hl⟩
    split at hl
    · next d x h => exact ha hk d x h
    · cases hl
  refine (peerAccess_window hf hm hc hl he hs hg).trans ((if_neg hno).trans ?_)
  rw [ht]

theorem peerAccess_read (hk : k = 0) :
    peerAccess base last c o k n l s = .next (answerOut (readTgt s (outside (c % 64)) t m).2 true (readTgt s (outside (c % 64)) t m).1) := by
  rw [peerAccess_target hf hm hc hl he hs hg ha ht, if_neg (by omega), if_pos hk]
  rfl

theorem peerAccess_write (hk : k = 1) : peerAccess base last c o k n l s = .next (answerOut (writeTgt s (outside (c % 64)) t l) true []) := by
  rw [peerAccess_target hf hm hc hl he hs hg ha ht, if_pos hk]

theorem peerAccess_atomic (hk : 2 ≤ k) : peerAccess base last c o k n l s =
    .next (answerOut ((peerAtomic (k - 2) m (ofBytes (readTgt s (outside (c % 64)) t m).1) (ofBytes l)).elim
      (readTgt s (outside (c % 64)) t m).2 fun v => writeTgt (readTgt s (outside (c % 64)) t m).2 (outside (c % 64)) t (toBytes m v)) true
      (readTgt s (outside (c % 64)) t m).1) := by
  rw [peerAccess_target hf hm hc hl he hs hg ha ht, if_neg (by omega), if_neg (by omega)]

end
end
end

theorem exec_peerCompletion_found {n : Nat} {s : State} {x : PeerOut} (hx : s.peerOut.find? (fun x => x.id == n) = some x) :
    exec (.peerCompletion n) s = if s.peerOut.find? (fun y => y.port == x.port) = some x then
      .next { s with peerOut := s.peerOut.filter fun x => x.id != n } else .next s := by
  change execPeerCompletion n s = _
  simp only [execPeerCompletion, hx]
  rfl

/-- Settles O58: a host access by its window and its target, a peer's by its window, its leaf and its form, a completion by the order of its port. -/
theorem hostResults : Obligations.HostResults := by
  refine ⟨fun pa own s ha hm => ⟨exec_hostMemRead_no_window ha hm own, fun hw hg => exec_hostMemRead_gone ha hm hw own hg⟩,
    fun pa s t ha hm hg hw ht => exec_hostMemRead_target ha hm hw hg ht, fun pa s t ha hm hg hw ht => exec_hostMemRead_target ha hm hw hg ht,
    fun pa l s t hl hn hm => ⟨exec_hostMemWrite_no_window hl hn hm, exec_hostMemWrite_target hl hn hm⟩,
    fun pa s => exec_hostSnoop_quiet, fun s line => ⟨not_mem_hostRecall s line, mem_hostPermit⟩,
    fun port o k n l s => exec_peerInboundAccess_port, fun base last c o k n m l s hf hm => ⟨peerAccess_no_window hf hm, ?_,
      fun e d x hc hl he hs hg => peerAccess_larder hf hm hc hl he hs hg⟩,
    fun n s x hx => ⟨fun h => (exec_peerCompletion_found hx).trans (if_pos h), fun h => (exec_peerCompletion_found hx).trans (if_neg h)⟩⟩
  rintro t e i hc hl he hs hg ha rfl ht
  refine ⟨peerAccess_read hf hm hc hl he hs hg ha ht, peerAccess_write hf hm hc hl he hs hg ha ht, fun hk => ⟨fun v hv => ?_, fun hv => ?_⟩⟩ <;>
  · rw [peerAccess_atomic hf hm hc hl he hs hg ha ht hk, hv]
    rfl

end Sys2Proof.Laws
end

section
/-! SUPPORT. Time slices, saves, restores and forwarding (R368, R370, R374-R377). -/

namespace Sys2Proof.Laws

open Sys2Proof Sys2Proof.Machine Sys2Proof.Claims

/-! Quantum boundaries (R370) -/

section
variable {p : Nat} {s : State}

theorem exec_quantumBoundary_slices (hp : p < 64) (ho : swapOpen s p = false) (ht : timer s % quantumTicks s p = 0) (hb : timer s ≠ (part s p).bnd) :
    exec (.quantumBoundary p) s = .next (sliceNext (s.wgs.length + 1) (boundary s p) p) := by
  change execQuantumBoundary p s = _
  unfold execQuantumBoundary
  rw [if_neg (by simp [ho]), if_pos ⟨hp, ht, hb⟩]
  rfl

theorem exec_quantumBoundary_swaps (hp : p < 64) (ho : swapOpen s p = true) (hw : ∀ c, firstCand (candidates s p) = some c → candWaits s p c = false) :
    exec (.quantumBoundary p) s = .next (sliceSwap s p) := by
  have hno : (firstCand (candidates s p)).any (candWaits s p) = false := by
    cases h : firstCand (candidates s p) with
    | none => rfl
    | some c => exact hw c h
  exact show execQuantumBoundary p s = _ from if_pos ⟨hp, ho, by rw [hno]; rfl⟩

theorem exec_quantumBoundary_rests (h : swapOpen s p = false ∨ ∃ c, firstCand (candidates s p) = some c ∧ candWaits s p c = true)
    (ht : timer s % quantumTicks s p ≠ 0) : exec (.quantumBoundary p) s = .next s := by
  change execQuantumBoundary p s = _
  unfold execQuantumBoundary
  rw [if_neg, if_neg fun hc => ht hc.2.1]
  · rfl
  · rintro ⟨-, ho, hno⟩
    rcases h with h | ⟨c, hc, hw⟩
    · simp [h] at ho
    · simp [hc, hw] at hno

end

/-! Saves (R374, R375) -/

section
variable {w cid : Nat} {s : State} {g : Workgroup} {r : SaveReq} (hg : wg? s w = some g) (hc : g.cid? = some cid) (hr : g.saving = some r)
  (hcore : coreRuns s cid = true)
include hg hc hr hcore

theorem exec_workgroupSave_claims {t : State} (hcl : r.claimed = false) (ht : claimFwd s w = some t) : exec (.workgroupSave w) s = .next t := by
  change execWorkgroupSave w s = _
  simp only [execWorkgroupSave, hg, hc, hr, hcore, hcl, ht]
  rfl

variable (hcl : r.claimed = true)
include hcl

theorem exec_workgroupSave_sends (hs : ∃ c ∈ g.chans, c.2.sends ≠ []) : exec (.workgroupSave w) s = .next (completeSends s w) := by
  have hany : (g.chans.any fun c => !c.2.sends.isEmpty) = true := by simpa using hs
  change execWorkgroupSave w s = _
  simp only [execWorkgroupSave, hg, hc, hr, hcore, hcl, hany]
  rfl

/-- A workgroup with nothing in flight is saved, and what waited for that follows unless a placement has to wait. -/
theorem exec_workgroupSave_saves (hs : ∀ c ∈ g.chans, c.2.sends = []) (hf : inFlight g = false) (hm : matDrained s cid w = true)
    (hready : saveReady s w = true) : exec (.workgroupSave w) s =
      if moveWaits s (writeImage s w g cid r.area) w r.goal then .next s else .next (afterSave (writeImage s w g cid r.area) w g r.goal) := by
  have hany : (g.chans.any fun c => !c.2.sends.isEmpty) = false := by simpa using hs
  change execWorkgroupSave w s = _
  simp only [execWorkgroupSave, hg, hc, hr, hcore, hcl, hany, hf, hm, hready]
  rfl

end

/-! Restores (R368, R376) -/

theorem exec_workgroupRestore_first {w cid : Nat} {s : State} {g : Workgroup} {l : Launch} (hg : wg? s w = some g)
    (hx : (slotWaiters s g.part).find? (fun x => x.1 == w) = some (w, g)) (hl : launch? s g.part g.lid = some l) (hgrow : growing s = false)
    (hc : crossHeld s (cidDie cid) = false) (ht : restoreTarget s l g = some cid)
    (hf : ∀ y ∈ slotWaiters s g.part, waitsLonger (y.2.since, y.2.lid, y.2.wid) (g.since, g.lid, g.wid) = true → slotFits s cid y = false) :
    exec (.workgroupRestore w cid) s = .next (restoreWg s w (some cid)).2 := by
  have hany : ((slotWaiters s g.part).any fun y => waitsLonger (y.2.since, y.2.lid, y.2.wid) (g.since, g.lid, g.wid) && slotFits s cid y) = false := by
    simpa using hf
  change execWorkgroupRestore w cid s = _
  simp only [execWorkgroupRestore, hg, Option.elim_some, hx, hl]
  exact if_pos ⟨hgrow, hc, ht, by rw [hany]; rfl⟩

/-! Forwarding (R377) -/

section
variable {cid : Nat} {s : State} {x : Item} (hx : s.items.find? (fun x => x.cid == cid) = some x)
include hx

theorem exec_forwardedItem_under_way (ha : arrives s (itemMsg s x) = false) : exec (.forwardedItem cid) s = .next s := by
  change execForwardedItem cid s = _
  simp only [execForwardedItem, hx, ha]
  rfl

variable (ha : arrives s (itemMsg s x) = true)
include ha

theorem exec_forwardedItem_push {n : Nat} (hk : x.kind = .push n) :
    exec (.forwardedItem cid) s = .next (applyPush { s with items := s.items.erase x } n) := by
  change execForwardedItem cid s = _
  simp only [execForwardedItem, hx, ha, hk]
  rfl

theorem exec_forwardedItem_release {n : Nat} (hk : x.kind = .release n) :
    exec (.forwardedItem cid) s = .next (pbDeliver { s with items := s.items.erase x } x.wg n) := by
  change execForwardedItem cid s = _
  simp only [execForwardedItem, hx, ha, hk]
  rfl

end

/-- The last die that an entry waits for lets it end. -/
theorem exec_forwardingDrainAck_last {cid : Nat} {s : State} {f : Fwd} (hs : s.fwds = [f]) (hc : f.cid = cid) (ho : f.ops = []) (hh : f.homes = [])
    (hd : f.dies.length ≤ 1) (hi : s.items = []) (hw : ∀ x ∈ s.wgs, x.1 ∈ f.wgs → x.2.saving = none) :
    exec (.forwardingDrainAck cid) s = .next { s with fwds := [] } := by
  have hbusy : (f.wgs.any fun w => s.wgs.any fun x => x.1 == w && x.2.saving.isSome) = false := by
    simp only [List.any_eq_false, List.any_eq_true, Bool.and_eq_true, beq_iff_eq, not_exists, not_and, Bool.not_eq_true, Option.isSome_eq_false_iff,
      Option.isNone_iff_eq_none]
    rintro w hf x hx rfl
    exact hw x hx hf
  have hdies : f.dies.tail = [] := List.drop_one.symm.trans (List.drop_eq_nil_of_le hd)
  change execForwardingDrainAck cid s = _
  unfold execForwardingDrainAck
  simp [execForwardingDrainAck.go, hs, hc, ho, hh, hi, hbusy, hdies]

/-- Settles O52: a quantum boundary by its swap and its tick, a save by how far it has come, a restore by its target and who waited longer,
a forwarded item by its arrival. -/
theorem saveResults : Obligations.SaveResults := by
  refine ⟨fun p s => exec_quantumBoundary_slices, fun p s => exec_quantumBoundary_swaps, fun p s => exec_quantumBoundary_rests,
    fun w cid s g r hg hc hr hcore => ⟨fun t => exec_workgroupSave_claims hg hc hr hcore, exec_workgroupSave_sends hg hc hr hcore,
      fun hcl hs hf hm hready => ?_⟩,
    fun w cid s g l => exec_workgroupRestore_first, fun cid s x hx => ⟨exec_forwardedItem_under_way hx, fun ha n => exec_forwardedItem_push hx ha,
      fun ha n => exec_forwardedItem_release hx ha⟩,
    fun cid s f => exec_forwardingDrainAck_last⟩
  have e := exec_workgroupSave_saves hg hc hr hcore hcl hs hf hm hready
  exact ⟨fun hw => e.trans (if_neg (Bool.eq_false_iff.1 hw)), fun hw => e.trans (if_pos hw)⟩

end Sys2Proof.Laws
end

section
/-! SUPPORT. Where an address leads: the division of the address space (R112), and the self window with the scratchpad behind it (R113). -/

namespace Sys2Proof.Laws

open Sys2Proof Sys2Proof.Machine Sys2Proof.Claims

/-! The ranges of R112 -/

theorem not_canonical_of_sign {va : Nat} (hs : va / 2 ^ 49 ≠ if va / 2 ^ 48 % 2 = 1 then 2 ^ 15 - 1 else 0) : canonical va = false := by
  simp only [canonical, Bool.or_eq_false_iff, Bool.and_eq_false_iff, decide_eq_false_iff_not]
  split at hs <;> omega

theorem rangeOf_peer {va v : Nat} (hv : v = va49 va) (h : 0x1F00000000000 ≤ v) (h' : v < 0x1F10000000000) :
    rangeOf va = .peer ((v - 0x1F00000000000) / 2 ^ 20) (v % 2 ^ 20) := by
  subst hv
  exact (if_neg (Nat.not_lt.2 h)).trans (if_pos h')

theorem rangeOf_self {va v : Nat} (hv : v = va49 va) (h : 0x1FF0000000000 ≤ v) (h' : v < 0x1FF0000100000) : rangeOf va = .self (v - 0x1FF0000000000) := by
  have ho : v % 2 ^ 20 = v - 0x1FF0000000000 := by omega
  rw [← ho]
  subst hv
  simp only [rangeOf]
  rw [if_neg (by omega), if_neg (by omega), if_pos ⟨h, h'⟩]

theorem rangeOf_none {va v : Nat} (hv : v = va49 va) (h : 0x1F10000000000 ≤ v ∧ v < 0x1FF0000000000 ∨ 0x1FF0000100000 ≤ v) : rangeOf va = .none := by
  subst hv
  simp only [rangeOf]
  rw [if_neg (by omega), if_neg (by omega), if_neg (by omega)]

/-! The checks of an access up to its range (R233) -/

theorem resolve_misaligned {s : State} {i : Issuer} {q : Acc} (he : q.elem = false) (ha : q.va % q.size ≠ 0) : resolve s i q = .bad .misalign q.va :=
  if_pos (by simp [he, ha])

section
variable {s : State} {i : Issuer} {q : Acc} (ha : q.elem = true ∨ q.va % q.size = 0)
include ha

theorem alignment_passes : ¬ (!q.elem && q.va % q.size != 0) = true := by
  rcases ha with h | h <;> simp [h]

theorem resolve_not_canonical (hc : canonical q.va = false) : resolve s i q = .bad .xlateNp q.va :=
  (if_neg (alignment_passes ha)).trans (if_pos (by rw [hc]; rfl))

variable (hc : canonical q.va = true)
include hc

theorem resolve_between (hr : rangeOf q.va = .none) : resolve s i q = .bad .xlateNp q.va := by
  rw [resolve, if_neg (alignment_passes ha), hc, hr]
  rfl

variable (hf : q.fetch = false) {w : Nat} (hw : i.wg = some w)
include hf hw

/-- The self window leads to the issuer's own scratchpad. -/
theorem resolve_self {o : Nat} (hr : rangeOf q.va = .self o) : resolve s i q = spadTarget s i q w o := by
  rw [resolve, if_neg (alignment_passes ha), hc, hr, hf, hw]
  rfl

variable {g : Workgroup} (hg : wg? s w = some g) {x o : Nat} (hr : rangeOf q.va = .peer x o)
include hg hr

/-- A peer's window leads to the scratchpad of the workgroup of its launch that has the index, where one is resident. -/
theorem resolve_peer : resolve s i q =
    ((s.wgs.find? fun y => y.2.part == g.part && y.2.lid == g.lid && y.2.wid == g.wid / 2 ^ 20 * 2 ^ 20 + x).elim (.bad .xlateNp q.va)
      fun y => spadTarget s i q y.1 o) := by
  rw [resolve, if_neg (alignment_passes ha), hc, hr, hf, hw, Option.bind_some, hg]
  dsimp only
  cases s.wgs.find? fun y => y.2.part == g.part && y.2.lid == g.lid && y.2.wid == g.wid / 2 ^ 20 * 2 ^ 20 + x <;> rfl

end

/-- Every access of the table is aligned to its size. -/
theorem accesses_not_elem (d a b : Field) (m : BitVec 11) (x z : BitVec 2) : ∀ p ∈ accesses d a b m x z, ∀ s, (p.2.2 s).elem = false := by
  simp [accesses, atomics]

/-- Settles O17: an address by its sign bits and its range. -/
theorem addressSpaceDivides : Obligations.AddressSpaceDivides := by
  refine ⟨fun s i q v hv => ⟨resolve_misaligned, fun ha hs => resolve_not_canonical ha (not_canonical_of_sign hs), fun ha hs => ?_⟩,
    fun d a b m x z p hp s v hpass hv hal hs => ?_⟩
  · have hc := canonical_of_sign hs
    refine ⟨fun h hw hb => ?pages, fun h h' hf w g hw hg => ?peer, fun h h' hf w hw => resolve_self ha hc hf hw (rangeOf_self hv h h'),
      fun h h' => resolve_between ha hc (rangeOf_none hv (h'.imp_left (And.intro h)))⟩
    case pages =>
      rw [resolve_pages ha hc (rangeOf_pages (hv ▸ h)), hw, hb]
      cases findLeaf s (walkDie i.die) i.part q.va <;> rfl
    case peer =>
      have e := resolve_peer ha hc hf hw hg (rangeOf_peer hv h h')
      refine ⟨fun y hy => by rw [e, hy]; rfl, fun hno => ?_⟩
      rw [e, List.find?_eq_none.2 fun y hy => by simpa [and_assoc] using hno y hy]
      rfl
  · have he := accesses_not_elem d a b m x z p hp s
    subst hv
    exact (failedAccessFaults d a b m x z p hp s hpass).1 _ _ (resolve_not_canonical (.inr hal) (not_canonical_of_sign hs))

/-! The self window (R113) -/

/-- Byte o of a workgroup's scratchpad as the target of an access. -/
def spadTgt (w o : Nat) : Tgt := { loc := .spad w o, pte := 0, tlb := none }

section
variable {s : State} {i : Issuer} {q : Acc} {w o : Nat} {g : Workgroup} (hg : wg? s w = some g)
include hg

theorem spadTarget_beyond (h : g.spadLen < o + q.size) : spadTarget s i q w o = .bad .xlateNp q.va := by
  rw [spadTarget, hg]
  exact if_pos h

theorem spadTarget_within (hi : i.wg = some w) (h : o + q.size ≤ g.spadLen) (hp : ∀ k ∈ g.spadBad, o + q.size ≤ 4 * k ∨ 4 * k + 4 ≤ o)
    (hq : i.eng = true → ∀ x ∈ s.items, x.wg ≠ w) : spadTarget s i q w o = .ok (spadTgt w o) := by
  have hpois : spadPoisoned g o q.size = false := by
    simp only [spadPoisoned, List.any_eq_false, Bool.and_eq_true, decide_eq_true_eq]
    intro k hk
    have := hp k hk
    omega
  have hwait : ((i.eng || i.wg != some w) && s.items.any (fun x => x.wg == w)) = false := by
    simpa [hi] using hq
  simp only [spadTarget, hg, hpois, hwait]
  exact if_neg (Nat.not_lt.2 h)

/-- A read of a scratchpad gives its bytes where it meets no undefined-valued slot record (R243). -/
theorem readTgt_spad_defined {n : Nat} (hs : ∀ k ∈ g.slotBad, o + n ≤ k ∨ k + 32 ≤ o) : (readTgt s i (spadTgt w o) n).1 = Memory.read g.spad o n := by
  have hdef : slotSpoiled s w o n = false := by
    simp only [slotSpoiled, hg, Option.any_some, List.any_eq_false, Bool.and_eq_true, decide_eq_true_eq]
    intro k hk
    have := hs k hk
    omega
  refine (congrArg Prod.fst (if_neg (Bool.eq_false_iff.1 hdef))).trans ?_
  simp only [locBytes, spadTgt, useTgt, hg]

end

/-- A write into the record of a subscription leaves it undefined-valued. -/
theorem mem_slotBad_spoilSlots {s : State} {w o n : Nat} {x : Sub} {h : Workgroup} (hx : x ∈ s.subs) (hw : x.wg = w) (h1 : x.off < o + n)
    (h2 : o < x.off + 32) (hh : wg? (spoilSlots s w o n) w = some h) : x.off ∈ h.slotBad := by
  have hit : x.off ∈ (s.subs.filter fun x => x.wg == w && x.off < o + n && o < x.off + 32).map (·.off) :=
    List.mem_map.2 ⟨x, List.mem_filter.2 ⟨hx, by simp [hw, h1, h2]⟩, rfl⟩
  rw [spoilSlots, if_neg (by rw [List.isEmpty_iff]; exact List.ne_nil_of_mem hit), wg?_updWg] at hh
  obtain ⟨g, -, rfl⟩ := Option.map_eq_some_iff.1 hh
  exact mem_foldl_insertAsc (.inl hit)

theorem rangeOf_selfVa {o : Nat} (ho : o < 2 ^ 20) : rangeOf (selfVa o) = .self o := by
  have hv : 0x1FF0000000000 + o = va49 (selfVa o) := by
    simp only [va49, selfVa]
    omega
  rw [rangeOf_self hv (by omega) (by omega), Nat.add_sub_cancel_left]

theorem canonical_selfVa {o : Nat} (ho : o < 2 ^ 20) : canonical (selfVa o) = true := by
  refine canonical_of_sign ?_
  rw [selfVa, if_pos (by omega)]
  omega

/-- An aligned access to offset o of the self window leads to byte o of the issuer's scratchpad. -/
theorem resolve_selfVa {s : State} {i : Issuer} {q : Acc} {w o : Nat} (ho : o < 2 ^ 20) (hva : q.va = selfVa o) (ha : q.va % q.size = 0)
    (hf : q.fetch = false) (hw : i.wg = some w) : resolve s i q = spadTarget s i q w o :=
  resolve_self (.inr ha) (hva ▸ canonical_selfVa ho) hf hw (hva ▸ rangeOf_selfVa ho)

/-- The accesses of the table are of 1, 2, 4, 8 or 16 bytes, and none is a fetch. -/
theorem accesses_size (d a b : Field) (m : BitVec 11) (x z : BitVec 2) :
    ∀ p ∈ accesses d a b m x z, ∀ s, (p.2.2 s).size ∣ 2 ^ 4 ∧ (p.2.2 s).fetch = false := by
  have hz : 2 ^ z.toNat ∣ 2 ^ 4 := Nat.pow_dvd_pow 2 (Nat.le_of_lt (Nat.lt_of_lt_of_le z.isLt (by decide)))
  simp only [accesses, List.forall_mem_append, List.forall_mem_map, List.forall_mem_cons, List.not_mem_nil, false_implies, implies_true, and_true]
  simpa using fun _ : State => hz

theorem selfVa_mod {n o : Nat} (hn : n ∣ 2 ^ 4) (ho : o % n = 0) : selfVa o % n = 0 :=
  Nat.mod_eq_zero_of_dvd (Nat.dvd_add (hn.trans (by decide)) (Nat.dvd_of_mod_eq_zero ho))

theorem me_wg_of_curWg {s : State} {w : Nat} {g : Workgroup} (h : curWg s = some (w, g)) : (me s).wg = some w ∧ wg? s w = some g := by
  obtain ⟨⟨t, hc⟩ | hc, hg⟩ := curWg_cases h <;> simp [me, issuer, hc, hg]

/-- Settles O18: an access to the self window by the reservation of the issuer's workgroup. -/
theorem selfWindowAccess : Obligations.SelfWindowAccess := by
  refine ⟨fun s i w o n g hi hg ho hn ha => ⟨fun hlen hp hq => ⟨spadTgt w o, ?_, ?_, readTgt_spad_defined hg, fun l => rfl,
    fun x hx hw h1 h2 h hh => mem_slotBad_spoilSlots hx hw h1 h2 hh⟩, fun hlen rd wr => ?_⟩, fun d a b m x z p hp s w o g hpass hva ho ha hcur hlen => ?_⟩
  · exact (resolve_selfVa ho rfl ha rfl hi).trans (spadTarget_within hg hi hlen hp hq)
  · exact (resolve_selfVa ho rfl ha rfl hi).trans (spadTarget_within hg hi hlen hp hq)
  · exact (resolve_selfVa ho rfl ha rfl hi).trans (spadTarget_beyond hg hlen)
  · obtain ⟨hi, hg⟩ := me_wg_of_curWg hcur
    obtain ⟨hsize, hf⟩ := accesses_size d a b m x z p hp s
    have hbad := (resolve_selfVa ho hva (hva ▸ selfVa_mod hsize ha) hf hi).trans (spadTarget_beyond hg hlen)
    exact (failedAccessFaults d a b m x z p hp s hpass).1 _ _ (hbad.trans (by rw [hva]))

end Sys2Proof.Laws
end

section
/-! SUPPORT. What an access to memory leaves as it is beside memory, its caches and its translations: the agents with their registers, the units,
and the registers of the part (R116, R119-R127, R353). -/

namespace Sys2Proof.Laws

open Sys2Proof Sys2Proof.Machine

/-- A state but for memory and what is kept of it: its codes, marks and undefined-valued parts, the caches, the translations with their reports, the
directory of host lines, the subscriptions and the accesses to peers. It keeps the agents, which `engineSide` forgets. -/
def besideMemory (s : State) : State :=
  { s with
    mem := [], free := 0, nextId := 0, subs := [], laid := [], spoiled := [], bdi := [], frozen := [], larderPoison := [], lines := [], l2 := [], llc := []
    hostDir := [], hostPerm := [], tlb := [], reports := [], peerOut := [] }

@[simp] theorem besideMemory_recode (s : State) (pa n : Nat) (c : Bool) : besideMemory (recode s pa n c) = besideMemory s := by
  rw [recode_shape]
  rfl

@[simp] theorem besideMemory_putBytes (s : State) (pa : Nat) (l : List Byte) : besideMemory (putBytes s pa l) = besideMemory s := by
  rw [putBytes_shape]
  rfl

@[simp] theorem besideMemory_applyDeltas (s : State) (n : Nat) (l : SMap UDelta) : besideMemory (applyDeltas s n l) = besideMemory s := by
  obtain ⟨_, _, _, _, _, _, _, h⟩ := applyDeltas_shape n l s
  rw [h]
  rfl

@[simp] theorem besideMemory_setLine (s : State) (n : Nat) (m : SMap L1Line) : besideMemory (setLine s n m) = besideMemory s := rfl

@[simp] theorem besideMemory_touchLlc (s : State) (h n : Nat) (d : Bool) : besideMemory (touchLlc s h n d) = besideMemory s := rfl

@[simp] theorem besideMemory_touchL2 (s : State) (k h n : Nat) (w d : Word32) : besideMemory (touchL2 s k h n w d) = besideMemory s := by
  rw [touchL2_shape]
  rfl

@[simp] theorem besideMemory_clearL2 (s : State) (n : Nat) (m : Word32) (k : Option Nat) : besideMemory (clearL2 s n m k) = besideMemory s := rfl

@[simp] theorem besideMemory_recallL2 (s : State) (n : Nat) (m : Word32) (k : Option Nat) : besideMemory (recallL2 s n m k) = besideMemory s := rfl

@[simp] theorem besideMemory_hostOwn (s : State) (n : Nat) : besideMemory (hostOwn s n) = besideMemory s := rfl

@[simp] theorem besideMemory_hostShare (s : State) (n : Nat) : besideMemory (hostShare s n) = besideMemory s := rfl

@[simp] theorem besideMemory_hostPermit (s : State) (n : Nat) : besideMemory (hostPermit s n) = besideMemory s := by
  unfold hostPermit
  split <;> rfl

@[simp] theorem besideMemory_combine (s : State) (n : Nat) : besideMemory (combine s n) = besideMemory s := by
  unfold combine
  dsimp only
  split
  · rfl
  · exact (foldl_keeps (p := besideMemory) (fun t (x : Nat × L1Line) => besideMemory_applyDeltas t n x.2.u) _ (hostOwn s n)).trans rfl

@[simp] theorem besideMemory_writeBackLine (s : State) (c n : Nat) (drop : Bool) : besideMemory (writeBackLine s c n drop) = besideMemory s := by
  simp [writeBackLine, apply_ite besideMemory]

@[simp] theorem besideMemory_makeRoom (s : State) (c n : Nat) : besideMemory (makeRoom s c n) = besideMemory s := by
  unfold makeRoom
  dsimp only
  split
  · rfl
  · split
    · exact besideMemory_writeBackLine ..
    · rfl

/-- The room that a core's L1 makes for a line, if a core is to hold it. -/
@[simp] theorem besideMemory_elim_makeRoom (s : State) (c : Option Nat) (n : Nat) : besideMemory (c.elim s fun c => makeRoom s c n) = besideMemory s := by
  cases c <;> simp

@[simp] theorem besideMemory_lineRead (s : State) (n : Nat) (m : Word32) (c : Option Nat) : besideMemory (lineRead s n m c) = besideMemory s := by
  cases c <;> simp [lineRead]

@[simp] theorem besideMemory_lineOwn (s : State) (n : Nat) (m : Word32) (c : Option Nat) : besideMemory (lineOwn s n m c) = besideMemory s := by
  cases c <;> simp [lineOwn, lineGrant]

@[simp] theorem besideMemory_useLeaf (s : State) (t : TlbEnt) (wr : Bool) : besideMemory (useLeaf s t wr) = besideMemory s := by
  unfold useLeaf
  exact (apply_ite besideMemory ..).trans (ite_self (besideMemory s))

@[simp] theorem besideMemory_useTgt (s : State) (t : Tgt) (wr : Bool) : besideMemory (useTgt s t wr) = besideMemory s := by
  unfold useTgt
  split
  · exact besideMemory_useLeaf ..
  · rfl

@[simp] theorem besideMemory_notePeer (s : State) (i : Issuer) (pa : Nat) : besideMemory (notePeer s i pa) = besideMemory s := by
  unfold notePeer
  split <;> rfl

@[simp] theorem besideMemory_cacheUse (s : State) (i : Issuer) (e pa n : Nat) (wr : Bool) : besideMemory (cacheUse s i e pa n wr) = besideMemory s := by
  grind [cacheUse, besideMemory_touchL2, besideMemory_touchLlc, besideMemory_clearL2, besideMemory_recallL2, besideMemory_setLine]

/-- States alike beside memory have the same workgroups, cores, control contexts and registers. -/
theorem agents_of_besideMemory {s t : State} (h : besideMemory s = besideMemory t) :
    s.wgs = t.wgs ∧ s.cores = t.cores ∧ s.ctl = t.ctl ∧ s.csr = t.csr ∧ s.dreg = t.dreg ∧ s.preg = t.preg := by
  have same {β : Type} (f : State → β) (hf : ∀ u, f (besideMemory u) = f u) : f s = f t := by rw [← hf s, h, hf]
  exact ⟨same State.wgs fun _ => rfl, same State.cores fun _ => rfl, same State.ctl fun _ => rfl, same State.csr fun _ => rfl,
    same State.dreg fun _ => rfl, same State.preg fun _ => rfl⟩

end Sys2Proof.Laws
end

section
/-! SUPPORT. The bytes of memory under the deltas that L1s hold: what goes back to memory changes the words of its own line alone (R119, R122). -/

namespace Sys2Proof.Laws

open Sys2Proof Sys2Proof.Machine

/-! The states of lines -/

theorem mem_of_find {α : Type} {m : SMap α} {k : Nat} {v : α} (h : m.find k = some v) : (k, v) ∈ m := by
  induction m with
  | nil => cases h
  | cons c m ih =>
    obtain ⟨x, y⟩ := c
    simp only [SMap.find] at h
    split at h
    · next hk =>
      cases h
      exact hk ▸ List.mem_cons_self ..
    · exact List.mem_cons_of_mem _ (ih h)

theorem lineState_of_lines {s t : State} (h : t.lines = s.lines) (n : Nat) : lineState t n = lineState s n := congrArg (SMap.get [] · n) h

theorem lineState_setLine_other (s : State) {line n : Nat} (m : SMap L1Line) (h : n ≠ line) : lineState (setLine s line m) n = lineState s n := by
  unfold lineState setLine
  dsimp only
  split
  · simp only [SMap.get, find_erase_other _ _ _ h]
  · exact get_put_other _ _ _ _ _ h

theorem applyDeltas_lines (s : State) (n : Nat) (l : SMap UDelta) : (applyDeltas s n l).lines = s.lines := by
  obtain ⟨_, _, _, _, _, _, _, h⟩ := applyDeltas_shape n l s
  rw [h]

/-- Writing a line back leaves the states of the other lines. -/
theorem lineState_writeBackLine_other (s : State) (c : Nat) {line n : Nat} (drop : Bool) (h : n ≠ line) :
    lineState (writeBackLine s c line drop) n = lineState s n := by
  unfold writeBackLine
  dsimp only
  refine (lineState_setLine_other _ _ h).trans (lineState_of_lines ?_ n)
  rw [← applyDeltas_lines s line ((lineState s line).get {} c).u]
  split <;> rfl

/-- What makes room for a line gives up another one, if any. -/
theorem makeRoom_cases (s : State) (c line : Nat) : makeRoom s c line = s ∨ ∃ n, n ≠ line ∧ makeRoom s c line = writeBackLine s c n true := by
  unfold makeRoom
  dsimp only
  split
  · exact .inl rfl
  · next hno =>
    split
    · next x l hx =>
      refine .inr ⟨x.1, fun he => hno ?_, rfl⟩
      rw [hx, List.any_cons, he, beq_self_eq_true]
      rfl
    · exact .inl rfl

theorem lineState_makeRoom (s : State) (c line : Nat) : lineState (makeRoom s c line) line = lineState s line := by
  obtain h | ⟨n, hn, h⟩ := makeRoom_cases s c line
  · rw [h]
  · rw [h, lineState_writeBackLine_other s c true hn.symm]

theorem useLeaf_lines (s : State) (t : TlbEnt) (wr : Bool) : (useLeaf s t wr).lines = s.lines := by
  unfold useLeaf
  exact (apply_ite State.lines ..).trans (ite_self s.lines)

theorem useTgt_lines (s : State) (t : Tgt) (wr : Bool) : (useTgt s t wr).lines = s.lines := by
  unfold useTgt
  split
  · exact useLeaf_lines ..
  · rfl

/-! Deltas of words of a line -/

/-- Deltas of words of a line n that the byte at an address does not lie in. -/
def Away (n a : Nat) (l : SMap UDelta) : Prop := ∀ u ∈ l, u.1 < 32 ∧ n ≠ lineOf a

/-- What the L1s hold of a line, where deltas are held, does not bear on the byte at an address. -/
def LineAway (s : State) (n a : Nat) : Prop := ∀ y ∈ lineState s n, Away n a y.2.u

theorem applyDeltas_get {n a : Nat} {l : SMap UDelta} {s : State} (hs : MemWf s) (h : Away n a l) :
    Memory.get (applyDeltas s n l).mem a = Memory.get s.mem a := by
  induction l generalizing s with
  | nil => rfl
  | cons x l ih =>
    obtain ⟨hx, hn⟩ := h x (List.mem_cons_self ..)
    have hr : MemWf (physRead s (n * 128 + 4 * x.1) 4).2 := hs.of_mem (physRead_mem ..)
    refine (ih (.of_mem (putBytes_wf _ _ _ hr) (recode_mem ..)) fun u hu => h u (List.mem_cons_of_mem _ hu)).trans ?_
    rw [recode_mem, putBytes_shape, memory_get_write_outside _ _ _ _ hr ?_, physRead_mem]
    simp only [lineOf] at hn
    simp only [toBytes_length]
    omega

theorem LineAway.get {s : State} {n a : Nat} (h : LineAway s n a) (c : Nat) : Away n a ((lineState s n).get {} c).u := by
  unfold SMap.get
  cases hf : (lineState s n).find c with
  | none => exact fun u hu => nomatch hu
  | some l => exact h _ (mem_of_find hf)

theorem writeBackLine_get {s : State} {n a : Nat} (hs : MemWf s) (h : LineAway s n a) (c : Nat) (drop : Bool) :
    Memory.get (writeBackLine s c n drop).mem a = Memory.get s.mem a := by
  rw [← applyDeltas_get hs (h.get c)]
  unfold writeBackLine
  dsimp only
  split <;> rfl

/-- A line that makes room for another one takes its own deltas back. -/
theorem makeRoom_get {s : State} {line a : Nat} (hs : MemWf s) (h : ∀ n, n ≠ line → LineAway s n a) (c : Nat) :
    Memory.get (makeRoom s c line).mem a = Memory.get s.mem a := by
  obtain e | ⟨n, hn, e⟩ := makeRoom_cases s c line
  · rw [e]
  · rw [e, writeBackLine_get hs (h n hn)]

theorem combine_get {s : State} {n a : Nat} (hs : MemWf s) (h : LineAway s n a) : Memory.get (combine s n).mem a = Memory.get s.mem a := by
  unfold combine
  dsimp only
  split
  · rfl
  · rw [setLine_mem]
    refine (List.foldlRecOn (motive := fun t => MemWf t ∧ Memory.get t.mem a = Memory.get s.mem a) (lineState s n)
      (fun t (x : Nat × L1Line) => applyDeltas t n x.2.u) (b := hostOwn s n) ⟨hs, rfl⟩ ?_).2
    exact fun t ⟨ht, he⟩ x hx => ⟨applyDeltas_wf ht, (applyDeltas_get ht (h x hx)).trans he⟩

/-- A grant of ownership of words changes a byte of memory only where a delta of its line goes back. -/
theorem lineOwn_get {s : State} {a : Nat} (hs : MemWf s) (h : ∀ n, LineAway s n a) (line : Nat) (m : Word32) (c : Option Nat) :
    Memory.get (lineOwn s line m c).mem a = Memory.get s.mem a := by
  cases c with
  | none =>
    simp only [lineOwn, lineGrant, setLine_mem, hostPermit_mem, hostOwn_mem]
    exact combine_get hs (h line)
  | some c =>
    simp only [lineOwn, lineGrant, setLine_mem, hostPermit_mem, hostOwn_mem]
    refine (combine_get (makeRoom_wf hs) ?_).trans (makeRoom_get hs (fun n _ => h n) c)
    intro y hy
    rw [lineState_makeRoom] at hy
    exact h line y hy

end Sys2Proof.Laws
end

section
/-! SUPPORT. What a store changes: the bytes stored, in memory or in a scratchpad (R113, R116, R147, R234). -/

namespace Sys2Proof.Laws

open Sys2Proof Sys2Proof.Machine Sys2Proof.Claims

/-! Memory -/

theorem putBytes_mem (s : State) (pa : Nat) (l : List Byte) : (putBytes s pa l).mem = Memory.write s.mem pa l := by rw [putBytes_shape]

section
variable {s : State} {t : Tgt} {pa : Nat} (hp : t.loc = .phys pa) (hr : ∀ o, area pa ≠ .regs o)
include hp hr

/-- A write at an address that is no register's: its line is owned first, then come its bytes and its code. -/
theorem writeTgt_phys (i : Issuer) (l : List Byte) : ∃ u f p,
    writeTgt s i t l = { recode (putBytes u pa l) pa l.length (pteCmp t.pte) with frozen := f, larderPoison := p }
    ∧ u.mem = (lineOwn (useTgt s t true) (lineOf pa) (wordMask pa l.length) (l1Of i t)).mem ∧ besideMemory u = besideMemory s := by
  unfold writeTgt
  rw [hp]
  dsimp only
  split
  · next o ho => exact absurd ho (hr o)
  · exact ⟨_, _, _, rfl, by simp, by simp⟩

theorem writeTgt_phys_mem (i : Issuer) (l : List Byte) :
    (writeTgt s i t l).mem = Memory.write (lineOwn (useTgt s t true) (lineOf pa) (wordMask pa l.length) (l1Of i t)).mem pa l := by
  obtain ⟨u, f, p, e, hu, -⟩ := writeTgt_phys (s := s) hp hr i l
  rw [e, ← hu, ← putBytes_mem]
  exact recode_mem ..

theorem besideMemory_writeTgt (i : Issuer) (l : List Byte) : besideMemory (writeTgt s i t l) = besideMemory s := by
  obtain ⟨u, f, p, e, -, hu⟩ := writeTgt_phys (s := s) hp hr i l
  rw [e, ← hu]
  exact .trans (b := besideMemory (recode (putBytes u pa l) pa l.length (pteCmp t.pte))) rfl (by simp)

end

theorem memoryWriteFrame : MemoryWriteFrame := by
  refine ⟨fun s pa l hs => ⟨fun a ha => ?_, fun k hk => ?_, ?_⟩, fun s i t pa l hp hr hs => ?_⟩
  · rw [putBytes_mem, memory_get_write_outside _ _ _ _ hs ha]
  · rw [putBytes_mem, memory_get_write_inside _ _ _ _ hs hk]
  · obtain ⟨hw, hc, ht, hcsr, -, -⟩ := agents_of_besideMemory (besideMemory_putBytes s pa l)
    exact ⟨hw, hc, ht, hcsr, by rw [putBytes_shape]⟩
  · have hu : MemWf (useTgt s t true) := .of_mem hs (useTgt_mem ..)
    have ho : MemWf (lineOwn (useTgt s t true) (lineOf pa) (wordMask pa l.length) (l1Of i t)) := lineOwn_wf hu
    obtain ⟨hw, hc, ht, hcsr, hd, hpr⟩ := agents_of_besideMemory (besideMemory_writeTgt (s := s) hp hr i l)
    refine ⟨fun a ha h => ?_, fun k hk => ?_, hw, hc, ht, hcsr, hd, hpr⟩
    · have haway : ∀ n, LineAway (useTgt s t true) n a := fun n => by
        intro y hy
        rw [lineState_of_lines (useTgt_lines s t true)] at hy
        exact h n y hy
      rw [writeTgt_phys_mem hp hr, memory_get_write_outside _ _ _ _ ho ha, lineOwn_get hu haway, useTgt_mem]
    · rw [writeTgt_phys_mem hp hr, memory_get_write_inside _ _ _ _ ho hk]

/-! A scratchpad -/

theorem spoilSlots_shape (s : State) (w o n : Nat) : spoilSlots s w o n = { s with wgs := (spoilSlots s w o n).wgs } := by
  unfold spoilSlots
  dsimp only
  split
  · rfl
  · rw [updWg_shape]

theorem spadWrite_shape (s : State) (w o : Nat) (l : List Byte) : spadWrite s w o l = { s with wgs := (spadWrite s w o l).wgs } := updWg_shape ..

/-- Of its workgroup, a write into slot records changes which of them are undefined-valued. -/
theorem wg?_spoilSlots {s : State} {w : Nat} {g : Workgroup} (hg : wg? s w = some g) (o n : Nat) :
    ∃ b, wg? (spoilSlots s w o n) w = some { g with slotBad := b } := by
  unfold spoilSlots
  dsimp only
  split
  · exact ⟨g.slotBad, hg⟩
  · exact ⟨_, by rw [wg?_updWg, hg]; rfl⟩

theorem wg?_spoilSlots_other (s : State) {w v : Nat} (o n : Nat) (h : v ≠ w) : wg? (spoilSlots s w o n) v = wg? s v := by
  unfold spoilSlots
  dsimp only
  split
  · rfl
  · exact wg?_updWg_other _ _ h

section
variable {s : State} {t : Tgt} {w o : Nat} {g : Workgroup} (hp : t.loc = .spad w o) (ht : t.tlb = none) (hg : wg? s w = some g) (hc : g.cid?.isSome = true)
include hp ht hg hc

/-- A write into the scratchpad of a workgroup that is on a core is performed there at once. -/
theorem writeTgt_spad (i : Issuer) (l : List Byte) : writeTgt s i t l = spoilSlots (spadWrite s w o l) w o l.length := by
  obtain ⟨b, hb⟩ := wg?_spoilSlots ((wg?_updWg ..).trans (congrArg (Option.map _) hg)) o l.length
  simp only [writeTgt, useTgt, hp, ht]
  exact countItem_resident hb hc

end

theorem scratchpadStoreFrame : ScratchpadStoreFrame := by
  intro s i t w o l g hp ht hg hc hs
  have e : writeTgt s i t l = { s with wgs := (writeTgt s i t l).wgs } := by
    rw [writeTgt_spad hp ht hg hc, spoilSlots_shape, spadWrite_shape]
  refine ⟨by rw [e], fun g' hg' => ?_, fun v hv => ?_, by rw [e], by rw [e], by rw [e], by rw [e], by rw [e]⟩
  · obtain ⟨b, hb⟩ := wg?_spoilSlots ((wg?_updWg ..).trans (congrArg (Option.map _) hg)) o l.length
    rw [writeTgt_spad hp ht hg hc] at hg'
    cases hb.symm.trans hg'
    exact ⟨fun a ha => memory_get_write_outside _ _ _ _ hs ha, fun k hk => memory_get_write_inside _ _ _ _ hs hk, rfl, rfl⟩
  · rw [writeTgt_spad hp ht hg hc, wg?_spoilSlots_other _ _ _ hv]
    exact wg?_updWg_other _ _ hv

/-- Settles O20: a store writes its bytes where its target leads, and the deltas that go back before it change words of their own lines alone. -/
theorem storeFrame : Obligations.StoreFrame := ⟨scratchpadStoreFrame, memoryWriteFrame⟩

end Sys2Proof.Laws
end

section
/-! SUPPORT. Acquire, release and fences, and the forms that act on the caches (R142, R236, R237, R257). -/

namespace Sys2Proof.Laws

open Sys2Proof Sys2Proof.Machine Sys2Proof.Claims

/-! Acquire and release -/

theorem exec_ldaq_reads {x z : BitVec 2} {d a : Field} {s : State} {t : Tgt} (h : Passes s { ops := [if z = 3 then opWp d else opW d, opRp a] })
    (ht : Reads s (readP s a).toNat (2 ^ z.toNat) t) : exec (.ldaq x z d a) s =
      (if z = 3 then writes2 (after s t (2 ^ z.toNat)) d (BitVec.ofNat 64 (got s t (2 ^ z.toNat)))
       else writes (after s t (2 ^ z.toNat)) d (BitVec.ofNat 64 (got s t (2 ^ z.toNat)))) := by
  change execLdaq x z d a s = _
  rw [execLdaq, guarded_passed h.1 h.2, loadAt_ok ht]
  split <;> rfl

theorem exec_strl_releases {x z : BitVec 2} {d a : Field} {s : State} {t : Tgt} (h : Passes s { ops := [if z = 3 then opRp d else opR d, opRp a] })
    (ht : Stores s (readP s a).toNat (2 ^ z.toNat) t)
    (hr : releaseReady s = true) : exec (.strl x z d a) s = .next (advance (writeTgt (release s x.toNat) (me s) t
      (toBytes (2 ^ z.toNat) (if z = 3 then readP s d else readR s d).toNat))) := by
  change execStrl x z d a s = _
  rw [execStrl, guarded_passed h.1 h.2, run_ok ht]
  exact if_pos hr

section
variable {k x : BitVec 2} {s : State} (h : Passes s {})
include h

theorem exec_fence_checked : exec (.fence k x) s =
    if k = 0 then .next (advance s) else if releaseReady s then .next (advance (release s x.toNat)) else .next s := by
  change execFence k x s = _
  rw [execFence, guarded_passed h.1 h.2]
  rfl

theorem exec_fence_ready (hr : k = 0 ∨ releaseReady s = true) : exec (.fence k x) s = .next (advance (if k = 0 then s else release s x.toNat)) := by
  rw [exec_fence_checked h]
  by_cases hk : k = 0
  · rw [if_pos hk, if_pos hk]
  · rw [if_neg hk, if_neg hk, if_pos (hr.resolve_left hk)]

theorem exec_fence_waits (hk : k ≠ 0) (hr : releaseReady s = false) : exec (.fence k x) s = .next s := by
  rw [exec_fence_checked h, if_neg hk, hr]
  rfl

end

theorem acquireReleaseResults : AcquireReleaseResults :=
  ⟨fun _ _ _ _ _ _ => exec_ldaq_reads, fun _ _ _ _ _ _ => exec_strl_releases, fun _ _ _ => exec_fence_ready, fun _ _ _ => exec_fence_waits⟩

/-! Caches -/

/-- A prefetch moves on, past a line that it has read or past nothing. -/
theorem exec_pref_moves_on {a : Field} {s : State} (h : Passes s { ops := [opRp a] }) :
    ∃ t, exec (.pref a) s = .next (advance t) ∧ besideMemory t = besideMemory s := by
  change ∃ t, execPref a s = .next (advance t) ∧ besideMemory t = besideMemory s
  rw [execPref, guarded_passed h.1 h.2]
  split
  · split
    · exact ⟨_, rfl, by simp⟩
    · exact ⟨s, rfl, rfl⟩
  · exact ⟨s, rfl, rfl⟩

section
variable {s : State} (h : Passes s {})
include h

theorem icinv_passed (f : State → Nat → Bool) : icinv f s = .next (advance { s with icache := s.icache.filter fun x => !f s (x.1 / 2 ^ 52) }) :=
  guarded_passed h.1 h.2

theorem exec_icinvSys_checked : exec .icinvSys s =
    if releaseReady s then
      .next (advance { release s 3 with icache := (release s 3).icache.filter fun x => !coreOurs (release s 3) (x.1 / 2 ^ 52) })
    else .next s := by
  change execIcinvSys s = _
  rw [execIcinvSys, guarded_passed h.1 h.2]
  rfl

end

theorem cacheResults : CacheResults := by
  refine ⟨fun a s h => ?_, fun s h => ?core, fun s h => ?die, fun s h => ?dev,
    fun s h hr => (exec_icinvSys_checked h).trans (if_pos hr), fun s h hr => (exec_icinvSys_checked h).trans (if_neg (Bool.eq_false_iff.1 hr))⟩
  · obtain ⟨t, he, hb⟩ := exec_pref_moves_on h
    obtain ⟨hw, hc, ht, hcsr, hd, -⟩ := agents_of_besideMemory hb
    exact ⟨t, he, hw, hc, ht, hcsr, hd⟩
  case core =>
    change execIcinvCore s = _
    exact icinv_passed h _
  case die =>
    change execIcinvDie s = _
    exact icinv_passed h _
  case dev =>
    change execIcinvDev s = _
    exact icinv_passed h _

/-- Settles O21: each form is its effect once its checks pass, and waits where its release is not ready. -/
theorem orderingResults : Obligations.OrderingResults := ⟨acquireReleaseResults, cacheResults⟩

end Sys2Proof.Laws
end

section
/-! SUPPORT. Atomics, and the reductions that an L1 holds as deltas (R122, R123, R238-R240). -/

namespace Sys2Proof.Laws

open Sys2Proof Sys2Proof.Machine Sys2Proof.Claims

theorem writeR_127 (s : State) (v : Word64) : writeR s 127 v = s := writeRA_discards s s.cur v (by decide)

theorem writes_127 (s : State) (v : Word64) : writes s 127 v = .next (advance s) := by rw [writes, writeR_127]

/-! The point of an atomic -/

theorem pointScope_atomScope (s : State) (x : BitVec 2) (t : Tgt) (red : Bool) :
    pointScope t x.toNat (t.isPhys && (red && lineWatched s (lineOf t.pa))) = atomScope s x t red := by
  rw [← Bool.and_assoc]
  rfl

section
variable {s : State} {x : BitVec 2} {n va k : Nat} {red : Bool} {t : Tgt} (ht : Updates s va n t) (hk : k = atomScope s x t red)
  {f : Nat → Option Nat} {wr : State → Nat → State}
include ht hk

/-- An atomic whose function gives a new value writes it at its point, with the old one for its destination. -/
theorem atomAt_writes {v : Nat} (hf : f (atomOld s k t n) = some v) :
    atomAt x n red f wr va s = .next (advance (wr (atomWrite s k t n v) (atomOld s k t n))) := by
  subst hk
  rw [atomAt, rmwMem, ht, Out.bind, pointScope_atomScope]
  simp only [atomOld] at hf
  simp only [hf, Out.run, done, atomWrite, atomRead, atomOld]

theorem atomAt_keeps (hf : f (atomOld s k t n) = none) :
    atomAt x n red f wr va s = .next (advance (wr (atomKeep s k t n) (atomOld s k t n))) := by
  subst hk
  rw [atomAt, rmwMem, ht, Out.bind, pointScope_atomScope]
  simp only [atomOld] at hf
  simp only [hf, Out.run, done, atomKeep, atomRead, atomOld]

end

/-! The forms of one operand -/

/-- The reductions of R122 with their function codes. -/
def reductions : List ((BitVec 2 → Field → Field → Field → Instr) × Nat) :=
  [(.atomAdd, 0), (.atomMin, 1), (.atomMax, 2), (.atomAnd, 5), (.atomOr, 6), (.atomXor, 7)]

theorem reductions_exec : ∀ p ∈ reductions, ∀ x d a b s, exec (p.1 x d a b) s = reduce32 p.2 x d a b s := by
  simp only [reductions, List.forall_mem_cons, List.not_mem_nil, false_implies, implies_true, and_true]
  exact ⟨fun _ _ _ _ _ => rfl, fun _ _ _ _ _ => rfl, fun _ _ _ _ _ => rfl, fun _ _ _ _ _ => rfl, fun _ _ _ _ _ => rfl, fun _ _ _ _ _ => rfl⟩

/-- An atomic of the table is a reduction, or its function of the old value and the operand behind the checks. -/
theorem atomics_cases : ∀ p ∈ atomics,
    (∃ fn, (p.1, fn) ∈ reductions ∧ p.2 = uApply fn) ∨ ∀ x d a b s, exec (p.1 x d a b) s = atom32 x p.2 d a b s := by
  simp only [atomics, List.forall_mem_cons, List.not_mem_nil, false_implies, implies_true, and_true]
  refine ⟨?add, ?min, ?max, ?minu, ?maxu, ?and, ?or, ?xor, ?swap, ?incw, ?fadd, ?hadd2⟩
  case add => exact .inl ⟨0, by simp [reductions], rfl⟩
  case min => exact .inl ⟨1, by simp [reductions], rfl⟩
  case max => exact .inl ⟨2, by simp [reductions], rfl⟩
  case and => exact .inl ⟨5, by simp [reductions], rfl⟩
  case or => exact .inl ⟨6, by simp [reductions], rfl⟩
  case xor => exact .inl ⟨7, by simp [reductions], rfl⟩
  case minu | maxu | swap | incw | fadd | hadd2 => exact .inr fun _ _ _ _ _ => rfl

section
variable {x : BitVec 2} {d a b : Field} {s : State} {t : Tgt} {k : Nat} (h : Passes s { ops := [opW d, opRp a, opR b] })
  (ht : Updates s (readP s a).toNat 4 t) (hk : k = atomScope s x t (d == 127))
include h ht

section
include hk

theorem atom32_updates (f : Word32 → Word32 → Word32) : atom32 x f d a b s =
    writes (atomWrite s k t 4 (f (BitVec.ofNat 32 (atomOld s k t 4)) ((readR s b).setWidth 32)).toNat) d (BitVec.ofNat 64 (atomOld s k t 4)) := by
  rw [atom32, guarded_passed h.1 h.2]
  exact atomAt_writes ht hk rfl

/-- A reduction that is not held as a delta is performed as every other atomic. -/
theorem reduce32_updates (fn : Nat) (hu : d = 127 → uCase s (me s) t x.toNat = none) : reduce32 fn x d a b s =
    writes (atomWrite s k t 4 (uApply fn (BitVec.ofNat 32 (atomOld s k t 4)) ((readR s b).setWidth 32)).toNat) d (BitVec.ofNat 64 (atomOld s k t 4)) := by
  by_cases hd : d = 127
  · subst hd
    rw [reduce32, if_neg (by simp), guarded_passed h.1 h.2, run_ok ht, hu rfl, writes_127]
    exact atomAt_writes ht hk rfl
  · exact (if_pos hd).trans (atom32_updates h ht hk _)

theorem exec_atomic_updates {p : (BitVec 2 → Field → Field → Field → Instr) × (Word32 → Word32 → Word32)} (hp : p ∈ atomics)
    (hu : d = 127 → uCase s (me s) t x.toNat = none) : exec (p.1 x d a b) s =
      writes (atomWrite s k t 4 (p.2 (BitVec.ofNat 32 (atomOld s k t 4)) ((readR s b).setWidth 32)).toNat) d (BitVec.ofNat 64 (atomOld s k t 4)) := by
  rcases atomics_cases p hp with ⟨fn, hr, hfn⟩ | he
  · rw [hfn]
    exact (reductions_exec _ hr ..).trans (reduce32_updates h ht hk fn hu)
  · exact (he ..).trans (atom32_updates h ht hk p.2)

end

/-- A reduction that an L1 may hold becomes a delta of its word there. -/
theorem reduce32_held {c : Nat} (fn : Nat) (hd : d = 127) (hu : uCase s (me s) t x.toNat = some c) : reduce32 fn x d a b s =
    .next (advance (uReduce (useTgt s t true) c (homeOf t.pte t.pa) t.pa fn ((readR s b).setWidth 32) (pteCmp t.pte))) := by
  rw [reduce32, if_neg (not_not.2 hd), guarded_passed h.1 h.2, run_ok ht, hu]
  rfl

end

/-! The forms that compare, and those of 8 bytes -/

section
variable {x : BitVec 2} {d a b : Field} {s : State} {t : Tgt} {k : Nat}

theorem exec_atomCas_compares (h : Passes s { ops := [opW d, opRp a, opRp b] }) (ht : Updates s (readP s a).toNat 4 t) (hk : k = atomScope s x t false) :
    exec (.atomCas x d a b) s = writes
      (if atomOld s k t 4 = (readP s b).toNat % 2 ^ 32 then atomWrite s k t 4 ((readP s b).toNat / 2 ^ 32) else atomKeep s k t 4)
      d (BitVec.ofNat 64 (atomOld s k t 4)) := by
  change execAtomCas x d a b s = _
  rw [execAtomCas, guarded_passed h.1 h.2]
  split
  · next he => exact atomAt_writes ht hk (if_pos he)
  · next he => exact atomAt_keeps ht hk (if_neg he)

theorem exec_atomLadd_adds (h : Passes s { ops := [opWp d, opRp a, opRp b] }) (ht : Updates s (readP s a).toNat 8 t)
    (hk : k = atomScope s x t (d == 127)) : exec (.atomLadd x d a b) s = writes2
      (atomWrite s k t 8 ((atomOld s k t 8 + (readP s b).toNat) % 2 ^ 64)) d (BitVec.ofNat 64 (atomOld s k t 8)) := by
  change execAtomLadd x d a b s = _
  rw [execAtomLadd, guarded_passed h.1 h.2]
  exact atomAt_writes ht hk rfl

theorem exec_atomLcas_compares (h : Passes s { ops := [opWp d, opRp a, opRq b] }) (ht : Updates s (readP s a).toNat 8 t)
    (hk : k = atomScope s x t false) : exec (.atomLcas x d a b) s = writes2
      (if atomOld s k t 8 = (readQ s b).toNat % 2 ^ 64 then atomWrite s k t 8 ((readQ s b).toNat / 2 ^ 64) else atomKeep s k t 8)
      d (BitVec.ofNat 64 (atomOld s k t 8)) := by
  change execAtomLcas x d a b s = _
  rw [execAtomLcas, guarded_passed h.1 h.2]
  split
  · next he => exact atomAt_writes ht hk (if_pos he)
  · next he => exact atomAt_keeps ht hk (if_neg he)

end

theorem atomicResults : AtomicResults := by
  refine ⟨fun p hp x d a b s t k h ht hu hk => exec_atomic_updates h ht hk hp hu, fun x d a b s t k => exec_atomCas_compares,
    fun x d a b s t k => exec_atomLadd_adds, fun x d a b s t k => exec_atomLcas_compares,
    fun p hp hadd hmin hmax hand hor hxor x a b s t k h ht hk => ?_⟩
  rcases atomics_cases p hp with ⟨fn, hr, -⟩ | he
  · simp [reductions, hadd, hmin, hmax, hand, hor, hxor] at hr
  · rw [he, atom32_updates h ht hk, writes_127]

/-! The word under a delta -/

theorem spadTarget_loc {s : State} {i : Issuer} {q : Acc} {w o : Nat} {t : Tgt} (h : spadTarget s i q w o = .ok t) : t.loc = .spad w o := by
  grind [spadTarget]

theorem pageChecks_loc {s : State} {i : Issuer} {q : Acc} {l : TlbEnt} {t : Tgt} (h : pageChecks s i q l = .ok t) :
    t.loc = .phys (ptePa l.lvl l.pte.toNat (va49 q.va)) := by
  refine pageTarget_phys (s := s) (i := i) (q := q) (l := l) ?_
  grind [pageChecks]

/-- A page keeps the alignment of an address within it. -/
theorem ptePa_mod_four (lvl e va : Nat) : ptePa lvl e (va49 va) % 4 = va % 4 := by
  simp only [ptePa, va49]
  split <;> omega

theorem resolve_word_aligned {s : State} {i : Issuer} {q : Acc} {t : Tgt} (he : q.elem = false) (hq : q.size = 4) (h : resolve s i q = .ok t)
    (hp : t.isPhys = true) : t.pa % 4 = 0 := by
  have hspad {w o : Nat} (hs : spadTarget s i q w o = .ok t) : False := by simp [Tgt.isPhys, spadTarget_loc hs] at hp
  have hal : q.va % 4 = 0 := by
    by_contra hne
    cases (resolve_misaligned (s := s) (i := i) he (by rwa [hq])).symm.trans h
  have hpage {l : TlbEnt} (hc : pageChecks s i q l = .ok t) : t.pa % 4 = 0 := by
    rw [Tgt.pa, pageChecks_loc hc]
    exact (ptePa_mod_four ..).trans hal
  unfold resolve at h
  grind

theorem isPhys_of_uCase {s : State} {i : Issuer} {t : Tgt} {scope c : Nat} (h : uCase s i t scope = some c) : t.isPhys = true := by
  grind [uCase, l1Of, cacheable]

theorem sliceLine_lines (s : State) (c h line : Nat) : (sliceLine s c h line).lines = s.lines := by rw [sliceLine, touchL2_shape]

/-- A delta of a kind that its word holds already, or the first one, changes no byte: what makes room for its line lies elsewhere. -/
theorem uReduce_get {s : State} {c h pa fn a : Nat} {v : Word32} {cmp : Bool} (hs : MemWf s) (ha : ∀ n, n ≠ lineOf pa → LineAway s n a)
    (hk : ∀ u, ((lineState s (lineOf pa)).get {} c).u.find (pa % 128 / 4) = some u → u.kind = fn) :
    Memory.get (uReduce s c h pa fn v cmp).mem a = Memory.get s.mem a := by
  have hl : lineState (sliceLine (makeRoom s c (lineOf pa)) c h (lineOf pa)) (lineOf pa) = lineState s (lineOf pa) :=
    (lineState_of_lines (sliceLine_lines ..) _).trans (lineState_makeRoom ..)
  rw [← makeRoom_get hs ha c, ← sliceLine_mem (makeRoom s c (lineOf pa)) c h (lineOf pa)]
  simp only [uReduce, setLine_mem, hl]
  cases hf : ((lineState s (lineOf pa)).get {} c).u.find (pa % 128 / 4) with
  | none => rfl
  | some u =>
    dsimp only
    rw [if_pos (hk u hf)]

theorem reductionHeld : ReductionHeld := by
  intro p hp x a b s t c h ht hu
  refine ⟨(reductions_exec p hp ..).trans (reduce32_held h ht p.2 rfl hu), fun hs hd hk k hk4 => ?_⟩
  have hpa : t.pa % 4 = 0 := resolve_word_aligned rfl rfl ht (isPhys_of_uCase hu)
  have hline : lineOf (t.pa + k) = lineOf t.pa := by
    simp only [lineOf]
    omega
  have hstate : ∀ n, lineState (useTgt s t true) n = lineState s n := lineState_of_lines (useTgt_lines ..)
  refine (uReduce_get (MemWf.of_mem hs (useTgt_mem ..)) (fun n hn y hy u hu' => ?_) (by rwa [hstate])).trans (by rw [useTgt_mem])
  rw [hstate] at hy
  exact ⟨hd n y hy u hu', hline ▸ hn⟩

/-- Settles O22: an atomic by its point and its function of the old value, a held reduction by the delta that takes its operand. -/
theorem atomicAndReductionResults : Obligations.AtomicAndReductionResults := ⟨atomicResults, reductionHeld⟩

end Sys2Proof.Laws
end

section
/-! SUPPORT. Homes and L1s: requests, messages with their acknowledgements and replies, write-backs and the refresh windows (R119-R122, R139, R388,
R426). -/

namespace Sys2Proof.Laws

open Sys2Proof Sys2Proof.Machine Sys2Proof.Claims

/-! Requests -/

/-- What combines a line leaves the translations, and with them the home that a core gives a line. -/
theorem combine_tlb (s : State) (n : Nat) : (combine s n).tlb = s.tlb := by
  unfold combine
  dsimp only
  split
  · rfl
  · refine (foldl_keeps (p := State.tlb) (fun t (x : Nat × L1Line) => ?_) _ (hostOwn s n)).trans rfl
    obtain ⟨_, _, _, _, _, _, _, h⟩ := applyDeltas_shape n x.2.u t
    rw [h]

theorem cacheHome_of_tlb {s t : State} (h : t.tlb = s.tlb) (cid line : Nat) : cacheHome t cid line = cacheHome s cid line := by
  unfold cacheHome
  rw [h]

theorem readerSlice_of_tlb {s t : State} (h : t.tlb = s.tlb) (cid line : Nat) : readerSlice t cid line = readerSlice s cid line := by
  unfold readerSlice
  rw [cacheHome_of_tlb h]

section
variable {cid line : Nat} {w : Word32} {s u : State} (hr : requestOk s cid line w = true) (hf : homeFree s line = true)
include hr hf

theorem exec_homeReadRequest_starts (hu : u = recallL2 (hostShare (combine s line) line) line w (some (readerSlice s cid line))) :
    exec (.homeReadRequest cid line w) s = .next (startTrans (hostPermit u line) (transaction cid line w false
      (holders u cid line (fun l => l.d &&& w != 0) fun m => m.own && m.dw &&& ~~~m.drop &&& w != 0))) := by
  rw [← readerSlice_of_tlb (t := hostShare (combine s line) line) (combine_tlb s line)] at hu
  subst hu
  change execHomeReadRequest cid line w s = _
  rw [execHomeReadRequest, if_pos ⟨hr, hf⟩]
  rfl

/-- An ownership request starts once no push toward a subscription of its line is in flight (R245). -/
theorem exec_homeOwnershipRequest_starts (hu : u = clearL2 (hostOwn (combine s line) line) line w (some (readerSlice s cid line)))
    (hp : ∀ x ∈ s.subs, lineOf x.pa = line → x.push = none) :
    exec (.homeOwnershipRequest cid line w) s = .next (startTrans (hostPermit u line) (transaction cid line w true
      (holders u cid line (fun l => (l.v ||| l.w ||| l.d) &&& w != 0) fun m => m.words &&& ~~~m.drop &&& w != 0))) := by
  rw [← readerSlice_of_tlb (t := hostOwn (combine s line) line) (combine_tlb s line)] at hu
  subst hu
  have hno : (!(s.subs.any fun x => lineOf x.pa == line && x.push.isSome)) = true := by simpa using hp
  change execHomeOwnershipRequest cid line w s = _
  rw [execHomeOwnershipRequest, if_pos ⟨hr, hf, hno⟩]
  rfl

end

/-! Replies -/

theorem find_filter {α : Type} {m : SMap α} {k : Nat} {v : α} {p : Nat × α → Bool} (h : m.find k = some v) (hp : p (k, v) = true) :
    SMap.find (m.filter p) k = some v := by
  induction m with
  | nil => cases h
  | cons c m ih =>
    obtain ⟨x, y⟩ := c
    simp only [SMap.find] at h
    by_cases hx : x = k
    · subst hx
      rw [if_pos rfl] at h
      cases h
      rw [List.filter_cons_of_pos hp]
      exact if_pos rfl
    · rw [if_neg hx] at h
      rw [List.filter_cons]
      split
      · exact (if_neg hx).trans (ih h)
      · exact ih h

/-- What an L1 is given of a line it holds, unless that is nothing. -/
theorem lineState_setLine_put (s : State) (line cid : Nat) (m : SMap L1Line) {l : L1Line} (h : l.empty = false) :
    (lineState (setLine s line (m.put cid l)) line).get {} cid = l := by
  have hf : SMap.find ((m.put cid l).filter fun x => !x.2.empty) cid = some l := find_filter (find_put_same ..) (by simp [h])
  have hne : ((m.put cid l).filter fun x => !x.2.empty).isEmpty = false := by
    rw [List.isEmpty_eq_false_iff]
    exact List.ne_nil_of_mem (mem_of_find hf)
  simp only [lineState, setLine, hne, Bool.false_eq_true, if_false, get_put_same]
  exact congrArg (·.getD {}) hf

/-- An L1 that holds a valid word of a line holds something of it. -/
theorem empty_of_valid {l : L1Line} (h : l.v ≠ 0) : l.empty = false := by
  rw [L1Line.empty, beq_false_of_ne h]
  rfl

theorem or_ne_zero {x y : Word32} (h : y ≠ 0) : x ||| y ≠ 0 := fun he => h (BitVec.or_eq_zero_iff.1 he).2

/-- An L1 line after the words of a reply: they are V, and W too where the reply grants ownership (R119, R120). -/
def replied (l : L1Line) (m : Trans) : L1Line :=
  let k := m.words &&& ~~~m.drop
  let l := { l with home := keptHome m.home (m.line * 128) }
  if m.own then { l with v := l.v ||| k, w := l.w ||| k, d := l.d ||| (m.dw &&& k) } else { l with v := l.v ||| k }

theorem replied_v (l : L1Line) (m : Trans) : (replied l m).v = l.v ||| (m.words &&& ~~~m.drop) := by
  unfold replied
  dsimp only
  split <;> rfl

theorem replied_w (l : L1Line) (m : Trans) : (replied l m).w = if m.own then l.w ||| (m.words &&& ~~~m.drop) else l.w := by
  unfold replied
  dsimp only
  split <;> rfl

theorem replied_home (l : L1Line) (m : Trans) : (replied l m).home = keptHome m.home (m.line * 128) := by
  unfold replied
  dsimp only
  split <;> rfl

section
variable {cid line : Nat} {s : State} {m : Trans} (hm : s.cohMsgs.find? (fun m => m.cid == cid && m.line == line && m.reply && arrives s m.data) = some m)
include hm

theorem line_of_reply : m.line = line := by
  have h := List.find?_some hm
  simp only [Bool.and_eq_true, beq_iff_eq] at h
  exact h.1.1.2

theorem exec_dataReplyArrival_brings {u : State} (hu : u = sliceLine (makeRoom s cid line) cid m.home line) :
    exec (.dataReplyArrival cid line) s =
      .next { setLine u line ((lineState u line).put cid (replied ((lineState u line).get {} cid) m)) with cohMsgs := u.cohMsgs.erase m } := by
  subst hu
  obtain rfl := line_of_reply hm
  change execDataReplyArrival cid m.line s = _
  simp only [execDataReplyArrival, hm]
  rfl

end

/-! Messages to L1s and their acknowledgements -/

section
variable {cid line : Nat} {s : State} {m : Trans} (ht : toward s cid line = some m)
include ht

theorem exec_l1Invalidation_toward : exec (.l1Invalidation cid line) s = if isRecall s cid m || !arrives s (m.down cid) then .next s
    else .next (gotMessage (loseWords s cid line m.words false) cid m 0 (ownsWords s cid m)) := by
  change execL1Invalidation cid line s = _
  rw [execL1Invalidation, ht]
  rfl

theorem exec_l1Recall_toward : exec (.l1Recall cid line) s = if isRecall s cid m && arrives s (m.down cid) then
      .next (gotMessage (loseWords s cid line m.words (!m.own)) cid m (((lineState s line).get {} cid).d &&& m.words) (ownsWords s cid m))
    else .next s := by
  change execL1Recall cid line s = _
  rw [execL1Recall, ht]
  rfl

end

/-- A transaction without the acknowledgement of a core that the home of a line has received. -/
def acked (s : State) (line cid : Nat) (m : Trans) : Trans :=
  if m.line == line && m.acks.contains cid then
    { m with acks := m.acks.filter (· != cid), reply := m.toL1.isEmpty && (m.acks.filter (· != cid)).isEmpty, rord := s.nextId, tick := timer s }
  else m

theorem not_mem_acked {s : State} {line cid : Nat} {m : Trans} (h : (acked s line cid m).line = line) : cid ∉ (acked s line cid m).acks := by
  unfold acked at h ⊢
  split
  · simp
  · next hno =>
    rw [if_neg hno] at h
    simpa [h] using hno

theorem exec_homeAckReceived_found {cid line : Nat} {s : State} {m : Trans}
    (hm : s.cohMsgs.find? (fun m => m.line == line && m.acks.contains cid) = some m) (ha : arrives s (m.up cid) = true) :
    exec (.homeAckReceived line cid) s = .next { s with cohMsgs := s.cohMsgs.map (acked s line cid), nextId := s.nextId + 1 } := by
  change execHomeAckReceived line cid s = _
  simp only [execHomeAckReceived, hm, ha]
  rfl

/-- A message that arrives was sent before every other one of its class from its source to its destination (R386). -/
theorem not_before_of_arrives {s : State} {m x : Msg} (ha : arrives s m = true) (hx : x ∈ inFlightMsgs s) (hc : x.cls = m.cls) (h4 : m.cls ≠ 4)
    (hs : x.src = m.src) (hd : x.dst = m.dst) : ¬ (x.ord < m.ord ∨ (x.ord = m.ord ∧ x.key < m.key)) := by
  obtain ⟨-, hall⟩ := Bool.and_eq_true_iff.1 ha
  have h := (Bool.and_eq_true_iff.1 (List.all_eq_true.1 hall x hx)).1
  simpa [hc, h4, hs, hd, Msg.before, imp_iff_not_or] using h

/-! Write-backs and evictions -/

section
variable {cid line : Nat} {s : State}

theorem exec_homeWriteback_clears {w : Word32} (hw : w ≠ 0) (hd : ((lineState s line).get {} cid).d &&& w = w) :
    exec (.homeWriteback cid line w) s = .next (setLine (homeUsed s cid line) line ((lineState s line).put cid
      { (lineState s line).get {} cid with d := ((lineState s line).get {} cid).d &&& ~~~w })) := by
  change execHomeWriteback cid line w s = _
  simp only [execHomeWriteback, homeUsed, Bool.and_eq_true, decide_eq_true_eq]
  exact if_pos ⟨hw, hd⟩

theorem exec_homeUReduction_held {word : Nat} {u : UDelta} (hu : ((lineState s line).get {} cid).u.find word = some u) :
    exec (.homeUReduction cid line word u.kind u.val) s = if lineWatched s line then
      .next (setLine (applyDeltas s line [(word, u)]) line ((lineState s line).put cid
        { (lineState s line).get {} cid with u := ((lineState s line).get {} cid).u.erase word }))
      else .next s := by
  change execHomeUReduction cid line word u.kind u.val s = _
  simp only [execHomeUReduction, hu]
  exact if_pos ⟨trivial, trivial⟩

end

/-! Refresh windows -/

theorem exec_larderRefreshStart_due {d g : Nat} {s : State} (hd : Config.isShading d = true) (hg : g < 8) (hr : refreshDue s d g = true)
    (hn : g ∉ (die s d).refresh) :
    exec (.larderRefreshStart d g) s = .next (setDie s d { die s d with refresh := insertAsc (die s d).refresh g }) :=
  if_pos ⟨hd, hg, hr, by simpa using hn⟩

theorem exec_larderRefreshEnd_over {d g : Nat} {s : State} (hg : g ∈ (die s d).refresh) (hr : refreshDue s d g = false) :
    exec (.larderRefreshEnd d g) s = .next (setDie s d { die s d with refresh := (die s d).refresh.filter (· != g) }) :=
  if_pos ⟨by simpa using hg, hr⟩

theorem homeResults : HomeResults := by
  refine ⟨fun cid line w s hr hf => ⟨fun u hu => exec_homeReadRequest_starts hr hf hu, fun u hu hp => exec_homeOwnershipRequest_starts hr hf hu hp⟩,
    fun s m => ⟨_, rfl, rfl, rfl⟩, fun cid line s u m hm hk hu => ?reply, fun cid line s m ht => ⟨fun ha => ⟨fun hr => ?invalidates, fun hr => ?recalls⟩,
      fun ha => ?waits⟩, fun cid line s m hm ha => ?acks, fun s m x => not_before_of_arrives, fun cid line w s => exec_homeWriteback_clears,
    fun cid line word s u hu => ⟨fun hw => ?kept, fun hw => ?reduced⟩, fun cid line s h => if_pos h, fun d g s hd hg hr hn => ?starts,
    fun d g s hg hr => ?ends⟩
  case reply =>
    have hl := lineState_setLine_put u line cid (lineState u line) (l := replied ((lineState u line).get {} cid) m)
      (empty_of_valid (by rw [replied_v]; exact or_ne_zero hk))
    refine ⟨_, exec_dataReplyArrival_brings hm hu, rfl, ?_, ?_, ?_, rfl⟩
    · exact (congrArg L1Line.v hl).trans (replied_v ..)
    · exact (congrArg L1Line.w hl).trans (replied_w ..)
    · exact (congrArg L1Line.home hl).trans ((replied_home ..).trans (by rw [line_of_reply hm]))
  case invalidates => rw [exec_l1Invalidation_toward ht, hr, ha]; rfl
  case recalls => rw [exec_l1Recall_toward ht, hr, ha]; rfl
  case waits =>
    rw [exec_l1Invalidation_toward ht, exec_l1Recall_toward ht, ha, Bool.not_false, Bool.or_true, Bool.and_false]
    exact ⟨rfl, rfl⟩
  case acks =>
    refine ⟨_, exec_homeAckReceived_found hm ha, rfl, fun x hx hl => ?_⟩
    obtain ⟨y, -, rfl⟩ := List.mem_map.1 hx
    exact not_mem_acked hl
  case kept => rw [exec_homeUReduction_held hu, hw]; rfl
  case reduced => rw [exec_homeUReduction_held hu, hw]; rfl
  case starts => exact ⟨_, exec_larderRefreshStart_due hd hg hr hn, by simp [mem_insertAsc]⟩
  case ends => exact ⟨_, exec_larderRefreshEnd_over hg hr, by simp⟩

end Sys2Proof.Laws
end

section
/-! SUPPORT. The stored codes of HBM blocks: a block's elements, its stored bytes under a form and back, and the least code (R133-R135). -/

namespace Sys2Proof.Laws

open Sys2Proof Sys2Proof.Machine Sys2Proof.Claims

/-! Numbers, their bytes and their bits -/

theorem ofBytes_toBytes (n x : Nat) : ofBytes (toBytes n x) = x % 2 ^ (8 * n) := by
  induction n generalizing x with
  | zero => simp [toBytes, ofBytes, Nat.mod_one]
  | succ n ih =>
    rw [toBytes, ofBytes, ih, BitVec.toNat_ofNat, Nat.mul_succ, Nat.add_comm (8 * n), Nat.pow_add, Nat.mod_mul]

theorem ofBits_lt (l : List Bool) : ofBits l < 2 ^ l.length := by
  induction l with
  | nil => exact Nat.one_pos
  | cons b l ih =>
    rw [ofBits, List.length_cons, Nat.pow_succ]
    have hb : b2n b ≤ 1 := by cases b <;> decide
    omega

theorem bitAt_ofBits (l : List Bool) (i : Nat) (h : i < l.length) : bitAt (ofBits l) i = l[i] := by
  rw [bitAt_eq_testBit]
  induction l generalizing i with
  | nil => cases h
  | cons b l ih =>
    have hb : (ofBits (b :: l)).testBit 0 = b ∧ ofBits (b :: l) / 2 = ofBits l := by
      cases b <;> simp [ofBits, b2n, Nat.testBit_zero]
      omega
    obtain ⟨h0, hdiv⟩ := hb
    cases i with
    | zero => exact h0
    | succ i =>
      rw [Nat.testBit_succ, hdiv]
      exact ih i (Nat.lt_of_succ_lt_succ h)

theorem drop_take_flatMap {α β : Type} {f : α → List β} {d : Nat} (hf : ∀ x, (f x).length = d) (l : List α) (i : Nat) (h : i < l.length) :
    ((l.flatMap f).drop (d * i)).take d = f l[i] := by
  induction l generalizing i with
  | nil => cases h
  | cons x l ih =>
    rw [List.flatMap_cons]
    cases i with
    | zero => exact (List.take_append_of_le_length (Nat.le_of_eq (hf x).symm)).trans (List.take_of_length_le (Nat.le_of_eq (hf x)))
    | succ i =>
      rw [Nat.mul_succ, Nat.add_comm, ← hf x, List.drop_length_add_append, hf x]
      exact ih i (Nat.lt_of_succ_lt_succ h)

/-! Elements -/

theorem ofElems_elems (w n blk : Nat) :
    ofElems w ((List.range n).map fun i => blk / 2 ^ (8 * w * i) % 2 ^ (8 * w)) = blk % 2 ^ (8 * w * n) := by
  induction n generalizing blk with
  | zero => simp [ofElems, Nat.mod_one]
  | succ n ih =>
    have hshift (i : Nat) : blk / 2 ^ (8 * w * (i + 1)) = blk / 2 ^ (8 * w) / 2 ^ (8 * w * i) := by
      rw [Nat.div_div_eq_div_mul, ← Nat.pow_add, Nat.mul_succ, Nat.add_comm]
    simp only [List.range_succ_eq_map, List.map_cons, List.map_map, Function.comp_def, Nat.succ_eq_add_one, hshift, ofElems, ih,
      Nat.mul_zero, Nat.pow_zero, Nat.div_one]
    rw [Nat.mul_succ, Nat.add_comm (8 * w * n), Nat.pow_add, Nat.mod_mul]

theorem ofElems_bdiElems {w blk : Nat} (hw : 128 / w * w = 128) (hb : blk < 2 ^ 1024) : ofElems w (bdiElems blk w) = blk := by
  have hbits : 8 * w * (128 / w) = 1024 := by rw [Nat.mul_assoc, Nat.mul_comm w, hw]
  rw [bdiElems, ofElems_elems, hbits, Nat.mod_eq_of_lt hb]

theorem length_bdiElems (blk w : Nat) : (bdiElems blk w).length = 128 / w := by simp [bdiElems]

theorem bdiElems_lt {blk w e : Nat} (h : e ∈ bdiElems blk w) : e < 2 ^ (8 * w) := by
  obtain ⟨i, -, rfl⟩ := List.mem_map.1 h
  exact Nat.mod_lt _ (Nat.two_pow_pos _)

theorem bdiBase_lt (blk w d : Nat) : bdiBase blk w d < 2 ^ (8 * w) := by
  unfold bdiBase
  cases h : (bdiElems blk w).filter fun e => !bdiFits w d 0 e with
  | nil => exact Nat.two_pow_pos _
  | cons e l => exact bdiElems_lt (List.mem_filter.1 (h ▸ List.mem_cons_self ..)).1

/-! A form and back -/

/-- The base that an element is stored against: that of the block where the mask selects it, else 0. -/
def elemBase (blk w d e : Nat) : Nat := if !bdiFits w d 0 e then bdiBase blk w d else 0

theorem elemBase_lt (blk w d e : Nat) : elemBase blk w d e < 2 ^ (8 * w) := by
  unfold elemBase
  split
  · exact bdiBase_lt ..
  · exact Nat.two_pow_pos _

/-- A form that reproduces a block has every element within its delta width of its base. -/
theorem fits_of_reproduces {blk w d e : Nat} (h : bdiReproduces blk w d = true) (he : e ∈ bdiElems blk w) :
    bdiFits w d (elemBase blk w d e) e = true := by
  unfold elemBase
  split
  · next hm => exact List.all_eq_true.1 h e (List.mem_filter.2 ⟨he, hm⟩)
  · next hm => simpa using hm

theorem sextNat_mod (d w x : Nat) : sextNat d w (x % 2 ^ d) = sextNat d w x := by
  simp only [sextNat, toSigned, Nat.mod_mod]

/-- An element that fits is its base and its sign-extended delta. -/
theorem elem_of_delta {w d b e : Nat} (hd : d ≤ w) (hb : b < 2 ^ (8 * w)) (he : e < 2 ^ (8 * w)) (h : bdiFits w d b e = true) :
    (b + sextNat (8 * d) (8 * w) ((e + 2 ^ (8 * w) - b) % 2 ^ (8 * d))) % 2 ^ (8 * w) = e := by
  have hdvd : 2 ^ (8 * d) ∣ 2 ^ (8 * w) := Nat.pow_dvd_pow 2 (by omega)
  have hx := eq_of_beq h
  rw [← Nat.mod_mod_of_dvd _ hdvd, sextNat_mod, hx, Nat.add_mod_mod, show b + (e + 2 ^ (8 * w) - b) = e + 2 ^ (8 * w) by omega,
    Nat.add_mod_right, Nat.mod_eq_of_lt he]

/-- What the forms of R134 have in common. -/
theorem bdiForms_spec : ∀ f ∈ bdiForms, 0 < f.2.1 ∧ f.2.2.1 ≤ f.2.1 ∧ 128 / f.2.1 * f.2.1 = 128 ∧ 8 * (128 / f.2.1 / 8) = 128 / f.2.1
    ∧ f.2.1 + 128 / f.2.1 / 8 + f.2.2.1 * (128 / f.2.1) ≤ f.2.2.2 ∧ 3 ≤ f.1 ∧ f.1 ≤ 10 ∧ 0 < f.2.2.2
    ∧ bdiForms.find? (fun g => g.1 == f.1) = some f := by decide

/-- The delta of an element as a form stores it. -/
def deltaBytes (blk w d e : Nat) : List Byte := toBytes d ((e + 2 ^ (8 * w) - elemBase blk w d e) % 2 ^ (8 * d))

theorem length_deltaBytes (blk w d e : Nat) : (deltaBytes blk w d e).length = d := toBytes_length ..

theorem bdiPack_eq (blk w d : Nat) : bdiPack blk w d =
    toBytes w (bdiBase blk w d) ++ (toBytes (128 / w / 8) (ofBits (bdiMask blk w d)) ++ (bdiElems blk w).flatMap (deltaBytes blk w d)) := by
  have hzip : List.zip (bdiElems blk w) (bdiMask blk w d) = (bdiElems blk w).map fun e => (e, !bdiFits w d 0 e) := List.map_prod_left_eq_zip.symm
  rw [bdiPack, hzip, List.flatMap_map, List.append_assoc]
  rfl

section
variable {blk w d : Nat}

theorem length_bdiPack : (bdiPack blk w d).length = w + 128 / w / 8 + d * (128 / w) := by
  simp [bdiPack_eq, length_deltaBytes, toBytes_length, length_bdiElems, Nat.mul_comm, Nat.add_assoc]

theorem drop_base_bdiPack : (bdiPack blk w d).drop w = toBytes (128 / w / 8) (ofBits (bdiMask blk w d)) ++ (bdiElems blk w).flatMap (deltaBytes blk w d) := by
  rw [bdiPack_eq, List.drop_left' (toBytes_length ..)]

theorem base_of_bdiPack : ofBytes ((bdiPack blk w d).take w) = bdiBase blk w d := by
  rw [bdiPack_eq, List.take_left' (toBytes_length ..), ofBytes_toBytes, Nat.mod_eq_of_lt (bdiBase_lt ..)]

theorem mask_of_bdiPack (hm : 8 * (128 / w / 8) = 128 / w) : ofBytes (((bdiPack blk w d).drop w).take (128 / w / 8)) = ofBits (bdiMask blk w d) := by
  have hlt := ofBits_lt (bdiMask blk w d)
  rw [bdiMask, List.length_map, length_bdiElems] at hlt
  rw [drop_base_bdiPack, List.take_left' (toBytes_length ..), ofBytes_toBytes, hm]
  exact Nat.mod_eq_of_lt hlt

theorem deltas_of_bdiPack : (bdiPack blk w d).drop (w + 128 / w / 8) = (bdiElems blk w).flatMap (deltaBytes blk w d) := by
  rw [← List.drop_drop, drop_base_bdiPack, List.drop_left' (toBytes_length ..)]

/-- A form that reproduces a block gives its elements back. -/
theorem bdiUnpack_bdiPack (hd : d ≤ w) (hm : 8 * (128 / w / 8) = 128 / w) (h : bdiReproduces blk w d = true) :
    bdiUnpack (bdiPack blk w d) w d = bdiElems blk w := by
  simp only [bdiUnpack, base_of_bdiPack, mask_of_bdiPack hm, deltas_of_bdiPack]
  refine List.ext_getElem (by simp [length_bdiElems]) fun i _ hi => ?_
  have he : (bdiElems blk w)[i] ∈ bdiElems blk w := List.getElem_mem hi
  have hbit : bitAt (ofBits (bdiMask blk w d)) i = !bdiFits w d 0 (bdiElems blk w)[i] := by
    rw [bitAt_ofBits _ _ (by simpa [bdiMask] using hi)]
    simp [bdiMask]
  rw [List.getElem_map, List.getElem_range, hbit, drop_take_flatMap (length_deltaBytes blk w d) _ _ hi, deltaBytes, ofBytes_toBytes, Nat.mod_mod]
  exact elem_of_delta hd (elemBase_lt ..) (bdiElems_lt he) (fits_of_reproduces h he)

end

/-! The choice of a code -/

/-- The better of two codes: the one that transfers fewer bytes, else the first. -/
def cheaper (best x : Nat × Nat) : Nat × Nat := if x.2 < best.2 then x else best

/-- Among codes in ascending order the one chosen transfers fewest bytes, and of those that do has the lowest code. -/
theorem foldl_cheaper (l : List (Nat × Nat)) (b : Nat × Nat) (h : (b :: l).Pairwise fun x y => x.1 ≤ y.1) :
    l.foldl cheaper b ∈ b :: l ∧ ∀ x ∈ b :: l, (l.foldl cheaper b).2 < x.2 ∨ ((l.foldl cheaper b).2 = x.2 ∧ (l.foldl cheaper b).1 ≤ x.1) := by
  induction l generalizing b with
  | nil => simp
  | cons y l ih =>
    obtain ⟨hb, hyl⟩ := List.pairwise_cons.1 h
    obtain ⟨hy, hl⟩ := List.pairwise_cons.1 hyl
    rw [List.foldl_cons]
    by_cases hc : y.2 < b.2
    · rw [show cheaper b y = y from if_pos hc]
      obtain ⟨hmem, hmin⟩ := ih y hyl
      refine ⟨List.mem_cons_of_mem _ hmem, fun x hx => ?_⟩
      rcases List.mem_cons.1 hx with rfl | hx
      · have := hmin y (List.mem_cons_self ..)
        omega
      · exact hmin x hx
    · rw [show cheaper b y = b from if_neg hc]
      obtain ⟨hmem, hmin⟩ := ih b (List.pairwise_cons.2 ⟨fun x hx => hb x (List.mem_cons_of_mem _ hx), hl⟩)
      refine ⟨?_, fun x hx => ?_⟩
      · rcases List.mem_cons.1 hmem with h | h
        · rw [h]
          exact List.mem_cons_self ..
        · exact List.mem_cons_of_mem _ (List.mem_cons_of_mem _ h)
      · rcases List.mem_cons.1 hx with rfl | hx
        · exact hmin _ (List.mem_cons_self ..)
        · rcases List.mem_cons.1 hx with rfl | hx
          · have := hmin b (List.mem_cons_self ..)
            have := hb x (List.mem_cons_self ..)
            omega
          · exact hmin x (List.mem_cons_of_mem _ hx)

/-- The codes that reproduce a block, in ascending order, with the bytes that they transfer: that of an uncompressed block first. -/
def codesOf (blk : Nat) : List (Nat × Nat) :=
  (if blk = 0 then [(1, 0)] else []) ++ (if (bdiElems blk 8).all (· == blk % 2 ^ 64) then [(2, 32)] else [])
  ++ (bdiForms.filter fun f => bdiReproduces blk f.2.1 f.2.2.1).map fun f => (f.1, f.2.2.2)

theorem bdiCode_eq (blk : Nat) : bdiCode blk = ((codesOf blk).foldl cheaper (0, 128)).1 := rfl

theorem mem_codesOf {blk : Nat} {x : Nat × Nat} : x ∈ codesOf blk ↔ (blk = 0 ∧ x = (1, 0))
    ∨ ((bdiElems blk 8).all (· == blk % 2 ^ 64) = true ∧ x = (2, 32))
    ∨ ∃ f ∈ bdiForms, bdiReproduces blk f.2.1 f.2.2.1 = true ∧ x = (f.1, f.2.2.2) := by
  simp only [codesOf, List.append_assoc, List.mem_append, List.mem_ite_nil_right, List.mem_singleton, List.mem_map, List.mem_filter, and_assoc, eq_comm (a := x)]

theorem codesOf_ascending (blk : Nat) : ((0, 128) :: codesOf blk).Pairwise fun x y => x.1 ≤ y.1 := by
  have hforms : (bdiForms.map fun f => (f.1, f.2.2.2)).Pairwise fun x y => x.1 ≤ y.1 := by decide
  have hall : ((0, 128) :: ([(1, 0)] ++ [(2, 32)] ++ bdiForms.map fun f => (f.1, f.2.2.2)) : List (Nat × Nat)).Pairwise fun x y => x.1 ≤ y.1 := by decide
  refine hall.sublist (.cons_cons _ (.append (.append ?_ ?_) (List.filter_sublist.map _)))
  · split <;> simp
  · split <;> simp

/-- The code that a block gets, with the bytes it transfers, is one that reproduces it. -/
theorem bdiCode_spec (blk : Nat) : ∃ c, (bdiCode blk, c) ∈ (0, 128) :: codesOf blk
    ∧ ∀ x ∈ (0, 128) :: codesOf blk, c < x.2 ∨ (c = x.2 ∧ bdiCode blk ≤ x.1) :=
  ⟨_, foldl_cheaper _ _ (codesOf_ascending blk)⟩

theorem blockCost_form : ∀ f ∈ bdiForms, blockCost f.1 = f.2.2.2 := by decide

theorem blockCost_of_mem {blk : Nat} {x : Nat × Nat} (h : x ∈ (0, 128) :: codesOf blk) : blockCost x.1 = x.2 := by
  rcases List.mem_cons.1 h with rfl | h
  · rfl
  · rcases mem_codesOf.1 h with ⟨-, rfl⟩ | ⟨-, rfl⟩ | ⟨f, hf, -, rfl⟩
    · rfl
    · rfl
    · exact blockCost_form f hf

/-- A block whose code repeats one doubleword is that doubleword, 16 times. -/
theorem ofElems_repeated {blk : Nat} (hb : blk < 2 ^ 1024) (h : (bdiElems blk 8).all (· == blk % 2 ^ 64) = true) :
    ofElems 8 (List.replicate 16 (blk % 2 ^ 64)) = blk := by
  have he : bdiElems blk 8 = List.replicate 16 (blk % 2 ^ 64) :=
    List.eq_replicate_iff.2 ⟨length_bdiElems .., fun x hx => eq_of_beq (List.all_eq_true.1 h x hx)⟩
  rw [← he, ofElems_bdiElems (by decide) hb]

theorem bdiStored_form {f : Nat × Nat × Nat × Nat} (hf : f ∈ bdiForms) (blk : Nat) : bdiStored f.1 blk = bdiPack blk f.2.1 f.2.2.1 := by
  obtain ⟨-, -, -, -, -, h3, -, -, hfind⟩ := bdiForms_spec f hf
  unfold bdiStored
  split
  · omega
  · omega
  · rw [hfind]

theorem bdiDecoded_form {f : Nat × Nat × Nat × Nat} (hf : f ∈ bdiForms) (l : List Byte) : bdiDecoded f.1 l = ofElems f.2.1 (bdiUnpack l f.2.1 f.2.2.1) := by
  obtain ⟨-, -, -, -, -, h3, -, -, hfind⟩ := bdiForms_spec f hf
  unfold bdiDecoded
  split
  · omega
  · omega
  · rw [hfind]

/-- The bytes stored under a code that reproduces a block give it back, and are no more than a read of it transfers. -/
theorem bdiStored_of_mem {blk : Nat} (hb : blk < 2 ^ 1024) {x : Nat × Nat} (h : x ∈ (0, 128) :: codesOf blk) :
    bdiDecoded x.1 (bdiStored x.1 blk) = blk ∧ (bdiStored x.1 blk).length ≤ x.2 ∧ x.1 ≤ 10 := by
  rcases List.mem_cons.1 h with rfl | h
  · refine ⟨?_, Nat.le_of_eq (toBytes_length ..), by decide⟩
    change ofBytes ((toBytes 128 blk).take 128) = blk
    rw [List.take_of_length_le (Nat.le_of_eq (toBytes_length ..)), ofBytes_toBytes, Nat.mod_eq_of_lt hb]
  · rcases mem_codesOf.1 h with ⟨rfl, rfl⟩ | ⟨hall, rfl⟩ | ⟨f, hf, hr, rfl⟩
    · exact ⟨rfl, Nat.le_refl _, by decide⟩
    · refine ⟨?_, (toBytes_length ..).trans_le (by decide), by decide⟩
      change ofElems 8 (List.replicate 16 (ofBytes ((toBytes 8 blk).take 8))) = blk
      rw [List.take_of_length_le (Nat.le_of_eq (toBytes_length ..)), ofBytes_toBytes]
      exact ofElems_repeated hb hall
    · obtain ⟨-, hd, hw, hm, hlen, -, h10, -, -⟩ := bdiForms_spec f hf
      refine ⟨?_, ?_, h10⟩
      · rw [bdiStored_form hf, bdiDecoded_form hf, bdiUnpack_bdiPack hd hm hr, ofElems_bdiElems hw hb]
      · rw [bdiStored_form hf, length_bdiPack]
        exact hlen

/-- Code 1 is that of a block of zeros, which transfers nothing. -/
theorem code_one_iff {blk : Nat} {x : Nat × Nat} (h : x ∈ (0, 128) :: codesOf blk) (hmin : ∀ y ∈ (0, 128) :: codesOf blk, x.2 ≤ y.2) :
    x.1 = 1 ↔ blk = 0 := by
  have hpos (f) (hf : f ∈ bdiForms) : 3 ≤ f.1 ∧ 0 < f.2.2.2 := by
    obtain ⟨-, -, -, -, -, h3, -, hpos, -⟩ := bdiForms_spec f hf
    exact ⟨h3, hpos⟩
  constructor
  · intro h1
    rcases List.mem_cons.1 h with rfl | h
    · cases h1
    · rcases mem_codesOf.1 h with ⟨h0, -⟩ | ⟨-, rfl⟩ | ⟨f, hf, -, rfl⟩
      · exact h0
      · cases h1
      · have := (hpos f hf).1
        omega
  · intro h0
    have hz : x.2 ≤ 0 := hmin (1, 0) (List.mem_cons_of_mem _ (mem_codesOf.2 (.inl ⟨h0, rfl⟩)))
    rcases List.mem_cons.1 h with rfl | h
    · cases hz
    · rcases mem_codesOf.1 h with ⟨-, rfl⟩ | ⟨-, rfl⟩ | ⟨f, hf, -, rfl⟩
      · rfl
      · cases hz
      · have := (hpos f hf).2
        omega

theorem blockCodeResults : BlockCodeResults := by
  intro blk hb
  obtain ⟨c, hmem, hmin⟩ := bdiCode_spec blk
  obtain ⟨hdec, hlen, h10⟩ := bdiStored_of_mem hb hmem
  have hcost : blockCost (bdiCode blk) = c := blockCost_of_mem hmem
  rw [hcost]
  refine ⟨hdec, hlen, h10, fun f hf hr => hmin (f.1, f.2.2.2) (List.mem_cons_of_mem _ (mem_codesOf.2 (.inr (.inr ⟨f, hf, hr, rfl⟩)))),
    code_one_iff (x := (bdiCode blk, c)) hmem fun y hy => ?_⟩
  rcases hmin y hy with h | h
  · exact Nat.le_of_lt h
  · exact Nat.le_of_eq h.1

/-- Settles O57: a request, a message and a reply by what they take and bring, and a block's code by the least of those that reproduce it. -/
theorem coherenceResults : Obligations.CoherenceResults := ⟨homeResults, blockCodeResults⟩

end Sys2Proof.Laws
end
